-- ==== Sys2Proof/Word.lean ====
section
/-!
DEFINITION. The word types of the Caroden: bytes, 32-bit and 64-bit words. All multi-byte fields are little-endian
(R5).
-/
namespace Sys2Proof

/-- A byte of memory, of a descriptor or of a ring. -/
abbrev Byte := BitVec 8

/-- A 32-bit register or FP32 bit pattern. -/
abbrev Word := BitVec 32

/-- A 64-bit register, microinstruction or FP64 bit pattern. -/
abbrev DWord := BitVec 64

end Sys2Proof
end

