-- ==== Sys2Proof/Syntax.lean ====
section
/-!
DEFINITION. The commands of the Caroden: one constructor of `Instr` for each row of spec/opcode_table.json, with the
row's operands. An operand is what comes from outside the device (a level, a written value, a transaction, an outcome
that the environment decides); everything else a command needs is state.
-/
namespace Sys2Proof

/-- Who accesses a register (R35, R36): the host's PF, a control processor, or VF `v` (1 to 15). -/
inductive Requester where
  | host
  | cp (c : Fin 4)
  | vf (v : Fin 16)
  deriving DecidableEq, Repr

/-- The size of a register access in bytes (R34). -/
inductive AccessSize where
  | b1 | b2 | b4 | b8
  deriving DecidableEq, Repr

/-- A read of a 64-bit window register: whole, its low half or its high half (R35). -/
inductive WinRead where
  | whole
  | half (hi : Bool)
  deriving DecidableEq, Repr

/-- A write of a 64-bit window register: whole, its low half or its high half (R35). -/
inductive WinWrite where
  | whole (v : DWord)
  | half (hi : Bool) (v : Word)
  deriving DecidableEq, Repr

/-- An access to a window that is read and written (R147, R168). -/
inductive WinAccess where
  | read (a : WinRead)
  | write (a : WinWrite)
  deriving DecidableEq, Repr

/-- The sources of a thermal trip (R406). -/
inductive TripSource where
  | massifDie | westDie | eastDie | coolantOutlet
  deriving DecidableEq, Repr

/-- How a thermal trip latch is cleared (R20). -/
inductive TripClear where
  | pwrenHeld (dieStillHot : Bool)
  | inputBelow40
  deriving DecidableEq, Repr

/-- What a scrub read finds in a block (R218). -/
inductive ScrubOutcome where
  | clean | corrected | uncorrectable
  deriving DecidableEq, Repr

/-- The scope of a reset (R394, R396): a logical cell, a cluster, a partition, the block of one page, or the device. -/
inductive ResetScope where
  | cell (row col : Fin 64)
  | cluster (k : Fin 64)
  | partition (p : Fin 4)
  | page (slot : Nat)
  | device
  deriving DecidableEq, Repr

/-- What the ring fetch of one function brings back (R368): a PCIe error, or the control block's SQTAIL and CQHEAD and
the 64-byte descriptors from SQHEAD on. -/
inductive RingReply where
  | error
  | fetched (sqTail cqHead : Word) (descs : List (List Byte))
  deriving DecidableEq, Repr

/-- A Carodlink transaction: the header fields of R312 and the payload bytes. -/
structure Txn where
  kind : Byte
  flags : Byte
  dst : BitVec 16
  src : BitVec 16
  beatTag : Byte
  lenTen : Byte
  tid : Word
  arg0 : Word
  addr : DWord
  arg1 : DWord
  payload : List Byte
  deriving DecidableEq, Repr

/-- The header of a flit (R308), without FTYPE. -/
structure FlitHdr where
  fseq : BitVec 12
  ackseq : BitVec 12
  cvc : Bool
  credit : BitVec 5
  deriving DecidableEq, Repr

/-- The SPDM transports (R377). -/
inductive Transport where
  | doe | mctp
  deriving DecidableEq, Repr

/-- One telemetry sample (R330): input voltage in mV, input current in mA, input power in mW, voltage (mV) and current
(0.1 A) of the eight rails, and the hottest sensor of the three dies in 1/8 degrees C. -/
structure Telemetry where
  inputMv : Nat
  inputMa : Nat
  inputMw : Nat
  rails : List (Nat × Nat)
  dies : List Int
  deriving DecidableEq, Repr

/-- An atomic request (R212, R213): address of the first element's target, the mask of the elements performed, the
operand elements (64-bit; CAS64 takes expected and new in turn), whether the requester's job runs in BEDROCK. -/
structure AtomicReq where
  addr : Nat
  mask : BitVec 64
  operands : List DWord
  bedrock : Bool
  deriving DecidableEq, Repr

/-- The commands. One constructor for each row of the opcode table. -/
inductive Instr where
  -- module power and pins (01, 20)
  | pwrenRise
  | pwrenFall
  | inputLimitCross (mv : Nat)
  | inputMonitorStart (mv : Nat)
  | bulkChargeDone
  | pwrgdRise
  | thermalTrip (src : TripSource)
  | tripLatchClear (how : TripClear)
  | perstAssert
  | perstDeassert (bootsel i3c : BitVec 2)
  | pcieHotReset
  | pcieLinkDown
  | pfFlr
  | vfFlr (v : Fin 16)
  -- Apex (16)
  | clkinOk
  | vcoCalibrationDone
  | apexLock (clkinCycles : Nat)
  | apexLockRetry
  | dividerRelease
  | blockResetRelease
  | apexLockLoss
  -- Ascent and firmware (18, 19)
  | fuseRead
  | fuseReadDone
  | firmwareVerifyDone
  | recoveryGo (r : Requester) (v : Word)
  | pushVerifyDone
  | flashProgramDone (readBackOk : Bool)
  | svncommit (r : Requester) (v : Word)
  | fuseBlown
  | swarmctrlGo (r : Requester) (v : Word)
  | swarmPassEnd (arrived : List (Nat × DWord))
  | swarmGatherEnd
  | unicastRepairEnd (arrived : List (Nat × DWord))
  | stage7Start
  | stackTrainingStepEnd (s : Fin 12) (pass : Bool) (failch : Word)
  | stage8Start
  | surveyStart
  | surveyEnd
  | surveyctrlGo (r : Requester) (v : Word)
  | svcstateWrite (r : Requester) (v : Word)
  | cellresetGo (r : Requester) (v : Word)
  | clresetGo (r : Requester) (v : Word)
  | ctrlReset (r : Requester) (slot : Nat) (enable abort : Bool)
  | resetDrainEnd (sc : ResetScope)
  | drainlimitExpiry (sc : ResetScope)
  | resetRelease (sc : ResetScope)
  | ctrlEnable (r : Requester) (slot : Nat) (on : Bool)
  | ctrlAbort (r : Requester) (slot : Nat) (enable : Bool)
  -- register and memory access (02)
  | registerWrite (r : Requester) (addr : Nat) (sz : AccessSize) (data : DWord)
  | readClear (r : Requester) (addr : Nat) (sz : AccessSize)
  | lowHalfRead (r : Requester) (addr : Nat)
  | unalignedRead (r : Requester) (addr : Nat) (sz : AccessSize)
  | bar2Read (fn : Fin 16) (off len : Nat)
  | bar2Write (fn : Fin 16) (off : Nat) (bytes : List Byte)
  | msixTableWrite (fn : Fin 16) (entry : Nat) (dw : Fin 4) (v : Word)
  | cpctrlRun (r : Requester) (c : Fin 4) (run : Bool)
  | cpreset (r : Requester) (c : Fin 4) (run : Bool)
  | cpResetEnd (c : Fin 4)
  | mboxinWrite (r : Requester) (c : Fin 4) (v : Word)
  | mboxoutWrite (r : Requester) (c : Fin 4) (v : Word)
  -- the beat (03)
  | beatStart
  | issueClose
  | beatMarker
  | ringFetchReturn (fn : Fin 16) (rsp : RingReply)
  | admission
  | foragerVote
  | completionPost
  | descriptorDispatch
  -- job descriptors (18)
  | run (fn : Fin 16)
  | cancel (fn : Fin 16)
  | imgreg (fn : Fin 16)
  | imageRegistrationDone
  | imgdereg (fn : Fin 16)
  -- the Massif (04, 08, 09)
  | windowFetchEnd
  | attn
  | kvappend
  | waveBegin (flank : Fin 2)
  | waveFoldEnd (flank : Fin 2)
  | exitAccept (cell : Fin 4096)
  | exitWriteEnd (cell : Fin 4096)
  | ringTileDeliver (cell : Fin 4096)
  | massifOpComplete
  | sigportWrite (r : Requester) (g : Fin 256) (v : Word)
  | syncObjectWrite (r : Requester) (obj : Fin 131072) (v : Word)
  | csdataRead (r : Requester) (p : Fin 4) (a : WinRead)
  | csdataWrite (r : Requester) (p : Fin 4) (a : WinWrite)
  -- Weevil (06)
  | weevilRun
  | pwlload
  | weevilDescComplete
  | wvlNop (k : Fin 64)
  | wvlAdd (k : Fin 64)
  | wvlSub (k : Fin 64)
  | wvlMul (k : Fin 64)
  | wvlFma (k : Fin 64)
  | wvlMin (k : Fin 64)
  | wvlMax (k : Fin 64)
  | wvlAbs (k : Fin 64)
  | wvlNeg (k : Fin 64)
  | wvlRcp (k : Fin 64)
  | wvlRsqrt (k : Fin 64)
  | wvlSqrt (k : Fin 64)
  | wvlExp (k : Fin 64)
  | wvlLog (k : Fin 64)
  | wvlAct (k : Fin 64)
  | wvlCmp (k : Fin 64)
  | wvlSel (k : Fin 64)
  | wvlMov (k : Fin 64)
  | wvlTrn (k : Fin 64)
  | wvlRred (k : Fin 64)
  | wvlCred (k : Fin 64)
  | wvlRint (k : Fin 64)
  | wvlCvtw (k : Fin 64)
  | wvlCvtn (k : Fin 64)
  | wvlLd (k : Fin 64)
  | wvlSt (k : Fin 64)
  | wvlStn (k : Fin 64)
  | wvlTwait (k : Fin 64)
  | wvlTrel (k : Fin 64)
  | wvlSeta (k : Fin 64)
  | wvlAdda (k : Fin 64)
  | wvlLoop (k : Fin 64)
  | wvlEndl (k : Fin 64)
  | wvlEnd (k : Fin 64)
  | pwldataAccess (r : Requester) (k : Fin 64) (a : WinAccess)
  | trdataAccess (r : Requester) (k : Fin 64) (a : WinAccess)
  -- Col, Scarab, Talus (07)
  | place
  | dual
  | colDescComplete
  | lnfwd (k : Fin 64)
  | rmsfwd (k : Fin 64)
  | smfwd (k : Fin 64)
  | lnbwd (k : Fin 64)
  | rmsbwd (k : Fin 64)
  | smbwd (k : Fin 64)
  | bandsum (k : Fin 64)
  | statsave (k : Fin 64)
  | statload (k : Fin 64)
  | scarabDescComplete
  | statdataAccess (r : Requester) (k : Fin 64) (a : WinAccess)
  | talusOpen (k : Fin 64)
  | talusClose (k : Fin 64)
  | talusRelease (k : Fin 64)
  | spillEnd (k : Fin 64)
  | talusDescComplete
  -- stacks and MSC (10)
  | copy
  | copyComplete
  | iadd32 (q : AtomicReq)
  | iadd64 (q : AtomicReq)
  | iadd64s32 (q : AtomicReq)
  | imax32 (q : AtomicReq)
  | umax32 (q : AtomicReq)
  | swap64 (q : AtomicReq)
  | cas64 (q : AtomicReq)
  | fadd32 (q : AtomicReq)
  | pinCommit (r : Requester) (v : Word)
  | pinFetchDone (s : Fin 12)
  | stackTempReading (s : Fin 12) (eighths : Int)
  | patrolScrubRead (s : Fin 12) (blk : BitVec 28) (o : ScrubOutcome)
  | scrubGo (r : Requester) (s : Fin 12) (v : Word)
  | scrubDone (s : Fin 12) (corrected : List Nat)
  | marginGo (r : Requester) (s : Fin 12) (v : Word)
  | marginDone (s : Fin 12) (data : List Word)
  | tgGo (r : Requester) (s : Fin 12) (v : Word)
  | tgDone (s : Fin 12) (errs firsts : List Nat)
  -- Stag (11)
  | arm
  | reduce
  | update
  | agreedWordsSend (slot : Fin 16)
  | valueLinesSend (slot : Fin 16)
  | shardConvert (slot : Fin 16)
  | shardUpdate (slot : Fin 16)
  | floatTreeAdd (slot : Fin 16)
  | stagDescComplete
  -- Hive (12)
  | hiveAdd (fn : Fin 16)
  | hiveRetire (fn : Fin 16)
  | hivePause (fn : Fin 16)
  | hiveResume (fn : Fin 16)
  | hiveFork (fn : Fin 16)
  | preemptGo (r : Requester) (v : Word)
  | tencfgEnabled (r : Requester) (t : Fin 16) (v : Word)
  | contextSaveDone (ok : Bool)
  | contextLoadDone (ok : Bool)
  -- Forager (13)
  | forcmdOpen (fn : Fin 16)
  | forcmdList (fn : Fin 16)
  | forcmdClose (fn : Fin 16)
  | forcmdEncode (fn : Fin 16)
  | feedCloseApply (f : Fin 16)
  | warmupDone (f : Fin 16)
  | sampleDecodeStart (f : Fin 16) (pos : Nat)
  | sampleDecodeDone (f : Fin 16) (pos : Nat)
  | assemble
  | assembleComplete
  | streamEntryRead (s : Fin 4)
  | streamLost (s : Fin 4)
  | strmctrlReopen (r : Requester) (s : Fin 4) (v : Word)
  | encodeDone
  -- Carodlink (14)
  | linkSignalDetect (p : Fin 24) (reversed : Bool)
  | trainStepPass (p : Fin 24) (lanes polinv : Byte)
  | trainStepLimit (p : Fin 24)
  | linkEnergyLoss (p : Fin 24)
  | identExchange (p : Fin 24) (rank : BitVec 14) (port : BitVec 5) (dist : BitVec 6) (valid : Bool)
  | codewordLockLoss (p : Fin 24)
  | recoveryLockRegained (p : Fin 24) (expected : BitVec 12)
  | recoveryTimeout (p : Fin 24)
  | replayBufferUe (p : Fin 24)
  | flitData (p : Fin 24) (h : FlitHdr) (intact : Bool) (body : List Byte)
  | flitIdle (p : Fin 24) (h : FlitHdr) (intact : Bool)
  | flitNak (p : Fin 24) (h : FlitHdr) (intact : Bool)
  | ackTimeout (p : Fin 24)
  | rwrite (p : Option (Fin 24)) (t : Txn)
  | rread (p : Option (Fin 24)) (t : Txn)
  | racc (p : Option (Fin 24)) (t : Txn)
  | linkSync (p : Option (Fin 24)) (t : Txn)
  | cpl (p : Option (Fin 24)) (t : Txn)
  | beatmark (p : Fin 24) (t : Txn)
  | requestTimeout (p : Option (Fin 24)) (tag : BitVec 16)
  | timeSyncSend (p : Fin 24) (t1 : DWord)
  | timeSync (p : Fin 24) (t : Txn) (t2 t3 : DWord)
  | timeDelayreq (p : Fin 24) (t : Txn) (t4 : DWord)
  | timeDelayresp (p : Fin 24) (t : Txn)
  | routedataWrite (r : Requester) (v : Word)
  -- power, clocks (15, 16)
  | powerSample (t : Telemetry)
  | clkoutctrlWrite (r : Requester) (v : Word)
  | fcGo (r : Requester) (v : Word)
  | fcGateEnd (counts : List Nat)
  -- Firefly (17)
  | irqSourceAssert (n : BitVec 10)
  | irqSourceDeassert (n : BitVec 10)
  | swset (r : Requester) (v : Word)
  | swclr (r : Requester) (v : Word)
  | srccfgWrite (r : Requester) (n : BitVec 10) (v : Word)
  | claim (r : Requester) (c : Fin 4)
  | eoi (r : Requester) (c : Fin 4) (v : Word)
  | hosteoi (r : Requester) (v : Word)
  | vfeoi (vf : Fin 16) (v : Word)
  -- SPDM (18)
  | getVersion (t : Transport) (payload : List Byte)
  | getCapabilities (t : Transport) (payload : List Byte)
  | negotiateAlgorithms (t : Transport) (payload : List Byte)
  | getDigests (t : Transport) (payload : List Byte)
  | getCertificate (t : Transport) (payload : List Byte)
  | challenge (t : Transport) (payload : List Byte)
  | getMeasurements (t : Transport) (payload : List Byte)
  -- two rows the table lists late
  | replayEnd (p : Fin 24)
  | msixFunctionMask (fn : Fin 16) (masked : Bool)
  -- rows without operands, of the Massif and of the update microprogram, last in the type: the runtime's object tags end at 244
  | microAdd
  | microSub
  | microMul
  | microFma
  | microDiv
  | microSqrt
  | microRsqrt
  | microMin
  | microMax
  | microSign
  | microAbs
  | microNeg
  | microSel
  | microExp
  | microLog
  | microEnd
  | matmul
  | flankmm
  | sync
  | conv
  | pool
  | cropresize
  deriving DecidableEq, Repr

end Sys2Proof
end

