-- ==== Sys2Proof/Machine/Bits.lean ====
section
/-!
DEFINITION. Bit fields, little-endian byte order and small arithmetic shared by every chapter (R5).
-/
namespace Sys2Proof.Machine

/-- Field [hi:lo] of a number. -/
def field (n hi lo : Nat) : Nat := (n / 2 ^ lo) % 2 ^ (hi - lo + 1)

/-- The number with field [hi:lo] replaced by `v`. -/
def withField (n hi lo v : Nat) : Nat :=
  n - field n hi lo * 2 ^ lo + (v % 2 ^ (hi - lo + 1)) * 2 ^ lo

/-- Bit `i` of a number. -/
def bit (n i : Nat) : Bool := n.testBit i

/-- A little-endian number from bytes (R5). -/
def leNat : List Byte → Nat
  | [] => 0
  | b :: bs => b.toNat + 256 * leNat bs

/-- The `n` low bytes of a number, little-endian (R5). -/
def leBytes : Nat → Nat → List Byte
  | 0, _ => []
  | n + 1, v => BitVec.ofNat 8 v :: leBytes n (v / 256)

/-- `n` bytes of a block from offset `o`, as a number. -/
def fieldAt (bs : List Byte) (o n : Nat) : Nat := leNat ((bs.drop o).take n)

/-- Byte `o` of a block. -/
def byteAt (bs : List Byte) (o : Nat) : Nat := fieldAt bs o 1

/-- The signed number that `n` bits hold. -/
def toSigned (bits n : Nat) : Int :=
  if n % 2 ^ bits < 2 ^ (bits - 1) then (n % 2 ^ bits : Nat) else (n % 2 ^ bits : Nat) - (2 ^ bits : Nat)

/-- A signed number in `bits` bits, modulo 2 to the `bits`. -/
def ofSigned (bits : Nat) (z : Int) : Nat := (z % (2 ^ bits : Nat)).toNat

/-- Division rounding up. -/
def ceilDiv (a b : Nat) : Nat := (a + b - 1) / b

/-- Whether `[a, a + la)` and `[b, b + lb)` share an address. -/
def rangesMeet (a la b lb : Nat) : Bool := decide (0 < la ∧ 0 < lb ∧ a < b + lb ∧ b < a + la)

/-- Whether `[a, a + la)` lies inside `[b, b + lb)`. -/
def rangeInside (a la b lb : Nat) : Bool := decide (b ≤ a ∧ a + la ≤ b + lb)

/-- Whether a number is a power of two. -/
def isPow2 (n : Nat) : Bool := decide (0 < n) && decide (2 ^ n.log2 = n)

/-- Replace element `i` of a list. -/
def setAt {α : Type} (l : List α) (i : Nat) (v : α) : List α := l.set i v

/-- `f 0`, `f 1`, … for `n` values. -/
def tabulate {α : Type} (n : Nat) (f : Nat → α) : List α := (List.range n).map f

/-- The list padded with `v` or cut to `n` elements. -/
def padTo {α : Type} (n : Nat) (v : α) (l : List α) : List α := (l ++ List.replicate (n - l.length) v).take n

end Sys2Proof.Machine
end

