-- ==== Sys2Proof/Machine/RegNames.lean ====
section
/-!
DEFINITION. The names of the registers: for each page prefix of R32 a namespace with the BAR0 offset of every
register of its map (R37 for the header; R47, R71, R98, R100, R146, R167-R169, R223-R225, R250, R268-R269, R301,
R325-R326, R339, R349, R361, R379-R380, R398 for the pages). FFY2 is the global page, FFYT the four target
pages (the instance counts the target), FFY7 the host target (R361); TEN is the tenancy block of HIV (R269).
-/
namespace Sys2Proof.Machine

namespace HST
/-- base of the HST page (R32) -/
def page : Nat := 0
def ID : Nat := 0
def VERSION : Nat := 4
def CAP : Nat := 8
def STATUS : Nat := 0xC
def CTRL : Nat := 0x10
def ERRSUM : Nat := 0x14
def IRQSUM : Nat := 0x18
def PROGRESS : Nat := 0x1C
def POSITION : Nat := 0x20
def TOTAL : Nat := 0x28
def IRQEN : Nat := 0x30
def FFYSRC : Nat := 0x34
def SQBASE : Nat := 0x40
def SQSIZE : Nat := 0x48
def CQSIZE : Nat := 0x4C
def CQBASE : Nat := 0x50
def RINGCTRL : Nat := 0x58
def RINGSTAT : Nat := 0x5C
def BAR2BASE : Nat := 0x60
def RECOVERY : Nat := 0x64
def IMGLEN : Nat := 0x68
def VFEOI : Nat := 0x6C
def FETCHCNT : Nat := 0x70
def CPLCNT : Nat := 0x74
def REGION (k : Nat) : Nat := 0x400 + 16 * k
def SYNGRANT (k : Nat) : Nat := 0x404 + 16 * k
end HST

namespace TRU
/-- base of the TRU page (R32) -/
def page : Nat := 0x1000
def ID : Nat := 0x1000
def VERSION : Nat := 0x1004
def CAP : Nat := 0x1008
def STATUS : Nat := 0x100C
def CTRL : Nat := 0x1010
def ERRSUM : Nat := 0x1014
def IRQSUM : Nat := 0x1018
def PROGRESS : Nat := 0x101C
def POSITION : Nat := 0x1020
def TOTAL : Nat := 0x1028
def IRQEN : Nat := 0x1030
def FFYSRC : Nat := 0x1034
def BOOTSTAT : Nat := 0x1040
def SVN : Nat := 0x1044
def SVNCOMMIT : Nat := 0x1048
def KEYSLOT : Nat := 0x104C
def SPDMCNT : Nat := 0x1050
def FWDIGEST (k : Nat) : Nat := 0x1060 + 4 * k
def ROMDIGEST (k : Nat) : Nat := 0x1090 + 4 * k
end TRU

namespace ASC
/-- base of the ASC page (R32) -/
def page : Nat := 0x2000
def ID : Nat := 0x2000
def VERSION : Nat := 0x2004
def CAP : Nat := 0x2008
def STATUS : Nat := 0x200C
def CTRL : Nat := 0x2010
def ERRSUM : Nat := 0x2014
def IRQSUM : Nat := 0x2018
def PROGRESS : Nat := 0x201C
def POSITION : Nat := 0x2020
def TOTAL : Nat := 0x2028
def IRQEN : Nat := 0x2030
def FFYSRC : Nat := 0x2034
def STAGE : Nat := 0x2040
def STRAPS : Nat := 0x2044
def SVCSTATE : Nat := 0x2048
def POLICY : Nat := 0x204C
def SURVEYCTRL : Nat := 0x2050
def SURVEYSTAT : Nat := 0x2054
def PORTCLASS (k : Nat) : Nat := 0x2058 + 4 * k
def SWARMCTRL : Nat := 0x2064
def SWARMSTAT : Nat := 0x2068
def UCADDR : Nat := 0x2070
def CELLRESET : Nat := 0x2078
def CLRESET : Nat := 0x207C
def RESETSTAT : Nat := 0x2080
def DRAINLIMIT : Nat := 0x2084
def ABSORBCNT : Nat := 0x2088
def DRAINLATE : Nat := 0x208C
def SCREEIDX : Nat := 0x2090
def SCREEDATA : Nat := 0x2094
def EXPECT (k : Nat) : Nat := 0x2100 + 4 * k
end ASC

namespace APX
/-- base of the APX page (R32) -/
def page : Nat := 0x3000
def ID : Nat := 0x3000
def VERSION : Nat := 0x3004
def CAP : Nat := 0x3008
def STATUS : Nat := 0x300C
def CTRL : Nat := 0x3010
def ERRSUM : Nat := 0x3014
def IRQSUM : Nat := 0x3018
def PROGRESS : Nat := 0x301C
def POSITION : Nat := 0x3020
def TOTAL : Nat := 0x3028
def IRQEN : Nat := 0x3030
def FFYSRC : Nat := 0x3034
def LOCKSTAT : Nat := 0x3040
def LOCKTIME : Nat := 0x3044
def CLKOUTCTRL : Nat := 0x3048
def FCCTRL : Nat := 0x304C
def FCSTAT : Nat := 0x3050
def FCSEL : Nat := 0x3054
def FCCOUNT : Nat := 0x3058
def FCEXPECT : Nat := 0x305C
def DOMSEL : Nat := 0x3060
def DOMINFO : Nat := 0x3064
end APX

namespace PWR
/-- base of the PWR page (R32) -/
def page : Nat := 0x4000
def ID : Nat := 0x4000
def VERSION : Nat := 0x4004
def CAP : Nat := 0x4008
def STATUS : Nat := 0x400C
def CTRL : Nat := 0x4010
def ERRSUM : Nat := 0x4014
def IRQSUM : Nat := 0x4018
def PROGRESS : Nat := 0x401C
def POSITION : Nat := 0x4020
def TOTAL : Nat := 0x4028
def IRQEN : Nat := 0x4030
def FFYSRC : Nat := 0x4034
def LIMIT : Nat := 0x4040
def IDLEPWR : Nat := 0x4044
def DIETHR : Nat := 0x4048
def THROTTLE : Nat := 0x404C
def INPUT : Nat := 0x4050
def INPUTPWR : Nat := 0x4054
def ENERGY : Nat := 0x4058
def WITHHELD : Nat := 0x4060
def ENVEXCNT : Nat := 0x4068
def LASTBUDGET : Nat := 0x406C
def LASTEFF : Nat := 0x4070
def SRVSHED : Nat := 0x4074
def RAILSEL : Nat := 0x4078
def RAILDATA : Nat := 0x407C
def DIETEMP (k : Nat) : Nat := 0x4080 + 4 * k
def SRVTOKEN (k : Nat) : Nat := 0x40C0 + 4 * k
end PWR

namespace CKT
/-- base of the CKT page (R32) -/
def page : Nat := 0x5000
def ID : Nat := 0x5000
def VERSION : Nat := 0x5004
def CAP : Nat := 0x5008
def STATUS : Nat := 0x500C
def CTRL : Nat := 0x5010
def ERRSUM : Nat := 0x5014
def IRQSUM : Nat := 0x5018
def PROGRESS : Nat := 0x501C
def POSITION : Nat := 0x5020
def TOTAL : Nat := 0x5028
def IRQEN : Nat := 0x5030
def FFYSRC : Nat := 0x5034
def PERIOD : Nat := 0x5040
def EPOCH : Nat := 0x5048
def SYSTIME : Nat := 0x5050
def BEATNUM : Nat := 0x5058
def TIMESTAT : Nat := 0x5060
def TIMECTRL : Nat := 0x5064
def CLOSETICKS : Nat := 0x5068
def LASTSTAT : Nat := 0x506C
def RUNTICKS : Nat := 0x5070
def MINSLACK : Nat := 0x5074
def STATRING : Nat := 0x5078
def STATSIZE : Nat := 0x5080
def STATHEAD : Nat := 0x5084
def OVERRUNCNT : Nat := 0x5088
def DRAINCNT : Nat := 0x508C
def EMPTYCNT : Nat := 0x5090
def FAILCNT : Nat := 0x5094
def DRAINSTAT : Nat := 0x5098
def IMGCOUNT : Nat := 0x509C
end CKT

namespace HIV
/-- base of the HIV page (R32) -/
def page : Nat := 0x6000
def ID : Nat := 0x6000
def VERSION : Nat := 0x6004
def CAP : Nat := 0x6008
def STATUS : Nat := 0x600C
def CTRL : Nat := 0x6010
def ERRSUM : Nat := 0x6014
def IRQSUM : Nat := 0x6018
def PROGRESS : Nat := 0x601C
def POSITION : Nat := 0x6020
def TOTAL : Nat := 0x6028
def IRQEN : Nat := 0x6030
def FFYSRC : Nat := 0x6034
def SCHEDCTRL : Nat := 0x6040
def RESIDENT : Nat := 0x6044
def PREEMPT : Nat := 0x6048
def ACTIVE : Nat := 0x604C
def SWITCHCNT : Nat := 0x6050
def LASTSWITCH : Nat := 0x6054
def MAXSWITCH : Nat := 0x6058
def LISTSTAT : Nat := 0x605C
def ENTSEL : Nat := 0x6060
def ENTDATA (k : Nat) : Nat := 0x6068 + 8 * k
def TSCHED (k : Nat) : Nat := 0x6200 + 4 * k
end HIV

namespace CPU
/-- base of the CPU page of instance i (R32) -/
def page (i : Nat) : Nat := 0x8000 + 0x1000 * i
def ID (i : Nat) : Nat := 0x8000 + 0x1000 * i
def VERSION (i : Nat) : Nat := 0x8004 + 0x1000 * i
def CAP (i : Nat) : Nat := 0x8008 + 0x1000 * i
def STATUS (i : Nat) : Nat := 0x800C + 0x1000 * i
def CTRL (i : Nat) : Nat := 0x8010 + 0x1000 * i
def ERRSUM (i : Nat) : Nat := 0x8014 + 0x1000 * i
def IRQSUM (i : Nat) : Nat := 0x8018 + 0x1000 * i
def PROGRESS (i : Nat) : Nat := 0x801C + 0x1000 * i
def POSITION (i : Nat) : Nat := 0x8020 + 0x1000 * i
def TOTAL (i : Nat) : Nat := 0x8028 + 0x1000 * i
def IRQEN (i : Nat) : Nat := 0x8030 + 0x1000 * i
def FFYSRC (i : Nat) : Nat := 0x8034 + 0x1000 * i
def CPCTRL (i : Nat) : Nat := 0x8040 + 0x1000 * i
def CPSTATE (i : Nat) : Nat := 0x8044 + 0x1000 * i
def BOOTADDR (i : Nat) : Nat := 0x8048 + 0x1000 * i
def MBOXIN (i : Nat) : Nat := 0x8050 + 0x1000 * i
def MBOXOUT (i : Nat) : Nat := 0x8058 + 0x1000 * i
def CYCLES (i : Nat) : Nat := 0x8060 + 0x1000 * i
def HALTPC (i : Nat) : Nat := 0x8068 + 0x1000 * i
def TRAPCAUSE (i : Nat) : Nat := 0x8070 + 0x1000 * i
def TRAPPC (i : Nat) : Nat := 0x8078 + 0x1000 * i
end CPU

namespace FFY2
/-- base of the FFY2 page (R32) -/
def page : Nat := 0x12000
def ID : Nat := 0x12000
def VERSION : Nat := 0x12004
def CAP : Nat := 0x12008
def STATUS : Nat := 0x1200C
def CTRL : Nat := 0x12010
def ERRSUM : Nat := 0x12014
def IRQSUM : Nat := 0x12018
def PROGRESS : Nat := 0x1201C
def POSITION : Nat := 0x12020
def TOTAL : Nat := 0x12028
def IRQEN : Nat := 0x12030
def FFYSRC : Nat := 0x12034
def SWSET : Nat := 0x12040
def SWCLR : Nat := 0x12044
def SPURCNT : Nat := 0x12048
def PENDING (k : Nat) : Nat := 0x12100 + 4 * k
def ACTIVE (k : Nat) : Nat := 0x12200 + 4 * k
end FFY2

namespace FFYT
/-- base of the FFYT page of instance i (R32) -/
def page (i : Nat) : Nat := 0x13000 + 0x1000 * i
def ID (i : Nat) : Nat := 0x13000 + 0x1000 * i
def VERSION (i : Nat) : Nat := 0x13004 + 0x1000 * i
def CAP (i : Nat) : Nat := 0x13008 + 0x1000 * i
def STATUS (i : Nat) : Nat := 0x1300C + 0x1000 * i
def CTRL (i : Nat) : Nat := 0x13010 + 0x1000 * i
def ERRSUM (i : Nat) : Nat := 0x13014 + 0x1000 * i
def IRQSUM (i : Nat) : Nat := 0x13018 + 0x1000 * i
def PROGRESS (i : Nat) : Nat := 0x1301C + 0x1000 * i
def POSITION (i : Nat) : Nat := 0x13020 + 0x1000 * i
def TOTAL (i : Nat) : Nat := 0x13028 + 0x1000 * i
def IRQEN (i : Nat) : Nat := 0x13030 + 0x1000 * i
def FFYSRC (i : Nat) : Nat := 0x13034 + 0x1000 * i
def THRESHOLD (i : Nat) : Nat := 0x13040 + 0x1000 * i
def CLAIM (i : Nat) : Nat := 0x13044 + 0x1000 * i
def EOI (i : Nat) : Nat := 0x13048 + 0x1000 * i
def RUNPRIO (i : Nat) : Nat := 0x1304C + 0x1000 * i
def DEPTH (i : Nat) : Nat := 0x13050 + 0x1000 * i
def STACKIDX (i : Nat) : Nat := 0x13054 + 0x1000 * i
def STACKDATA (i : Nat) : Nat := 0x13058 + 0x1000 * i
end FFYT

namespace FFY7
/-- base of the FFY7 page (R32) -/
def page : Nat := 0x17000
def ID : Nat := 0x17000
def VERSION : Nat := 0x17004
def CAP : Nat := 0x17008
def STATUS : Nat := 0x1700C
def CTRL : Nat := 0x17010
def ERRSUM : Nat := 0x17014
def IRQSUM : Nat := 0x17018
def PROGRESS : Nat := 0x1701C
def POSITION : Nat := 0x17020
def TOTAL : Nat := 0x17028
def IRQEN : Nat := 0x17030
def FFYSRC : Nat := 0x17034
def HOSTEOI : Nat := 0x17040
def MSGCOUNT : Nat := 0x17044
end FFY7

namespace FOR
/-- base of the FOR page of instance i (R32) -/
def page (i : Nat) : Nat := 0x20000 + 0x1000 * i
def ID (i : Nat) : Nat := 0x20000 + 0x1000 * i
def VERSION (i : Nat) : Nat := 0x20004 + 0x1000 * i
def CAP (i : Nat) : Nat := 0x20008 + 0x1000 * i
def STATUS (i : Nat) : Nat := 0x2000C + 0x1000 * i
def CTRL (i : Nat) : Nat := 0x20010 + 0x1000 * i
def ERRSUM (i : Nat) : Nat := 0x20014 + 0x1000 * i
def IRQSUM (i : Nat) : Nat := 0x20018 + 0x1000 * i
def PROGRESS (i : Nat) : Nat := 0x2001C + 0x1000 * i
def POSITION (i : Nat) : Nat := 0x20020 + 0x1000 * i
def TOTAL (i : Nat) : Nat := 0x20028 + 0x1000 * i
def IRQEN (i : Nat) : Nat := 0x20030 + 0x1000 * i
def FFYSRC (i : Nat) : Nat := 0x20034 + 0x1000 * i
def DECODED (i : Nat) : Nat := 0x20040 + 0x1000 * i
def ENCODED (i : Nat) : Nat := 0x20044 + 0x1000 * i
def DECCYC (i : Nat) : Nat := 0x20048 + 0x1000 * i
def ENCCYC (i : Nat) : Nat := 0x20050 + 0x1000 * i
def ASMCYC (i : Nat) : Nat := 0x20058 + 0x1000 * i
def ECCCOUNT (i : Nat) : Nat := 0x20060 + 0x1000 * i
def FEEDSEL (i : Nat) : Nat := 0x20080 + 0x1000 * i
def FEEDSTAT (i : Nat) : Nat := 0x20084 + 0x1000 * i
def FEEDNEXT (i : Nat) : Nat := 0x20088 + 0x1000 * i
def FEEDREADY (i : Nat) : Nat := 0x20090 + 0x1000 * i
def FEEDMEAN (i : Nat) : Nat := 0x20094 + 0x1000 * i
def FEEDREPHEAD (i : Nat) : Nat := 0x20098 + 0x1000 * i
def CACHEUSED (i : Nat) : Nat := 0x2009C + 0x1000 * i
def CORRUPTCNT (i : Nat) : Nat := 0x200A0 + 0x1000 * i
def STALECNT (i : Nat) : Nat := 0x200A4 + 0x1000 * i
def PARKCNT (i : Nat) : Nat := 0x200A8 + 0x1000 * i
def REFILLCNT (i : Nat) : Nat := 0x200AC + 0x1000 * i
def HOLDCNT (i : Nat) : Nat := 0x200B0 + 0x1000 * i
def CACHEHITS (i : Nat) : Nat := 0x200B4 + 0x1000 * i
def STRMBASE (i : Nat) (k : Nat) : Nat := 0x20100 + 32 * k + 0x1000 * i
def STRMSIZE (i : Nat) (k : Nat) : Nat := 0x20108 + 32 * k + 0x1000 * i
def STRMHEAD (i : Nat) (k : Nat) : Nat := 0x2010C + 32 * k + 0x1000 * i
def STRMTAIL (i : Nat) (k : Nat) : Nat := 0x20110 + 32 * k + 0x1000 * i
def MAXAGE (i : Nat) (k : Nat) : Nat := 0x20114 + 32 * k + 0x1000 * i
def LOSTTICKS (i : Nat) (k : Nat) : Nat := 0x20118 + 32 * k + 0x1000 * i
def STRMCTRL (i : Nat) (k : Nat) : Nat := 0x2011C + 32 * k + 0x1000 * i
end FOR

namespace LNK
/-- base of the LNK page of instance i (R32) -/
def page (i : Nat) : Nat := 0x40000 + 0x1000 * i
def ID (i : Nat) : Nat := 0x40000 + 0x1000 * i
def VERSION (i : Nat) : Nat := 0x40004 + 0x1000 * i
def CAP (i : Nat) : Nat := 0x40008 + 0x1000 * i
def STATUS (i : Nat) : Nat := 0x4000C + 0x1000 * i
def CTRL (i : Nat) : Nat := 0x40010 + 0x1000 * i
def ERRSUM (i : Nat) : Nat := 0x40014 + 0x1000 * i
def IRQSUM (i : Nat) : Nat := 0x40018 + 0x1000 * i
def PROGRESS (i : Nat) : Nat := 0x4001C + 0x1000 * i
def POSITION (i : Nat) : Nat := 0x40020 + 0x1000 * i
def TOTAL (i : Nat) : Nat := 0x40028 + 0x1000 * i
def IRQEN (i : Nat) : Nat := 0x40030 + 0x1000 * i
def FFYSRC (i : Nat) : Nat := 0x40034 + 0x1000 * i
def PORTCFG (i : Nat) : Nat := 0x40040 + 0x1000 * i
def PORTSTAT (i : Nat) : Nat := 0x40044 + 0x1000 * i
def NBRID (i : Nat) : Nat := 0x40048 + 0x1000 * i
def ASYM (i : Nat) : Nat := 0x40050 + 0x1000 * i
def TXLIMIT (i : Nat) : Nat := 0x40054 + 0x1000 * i
def CRCERR (i : Nat) : Nat := 0x40058 + 0x1000 * i
def REPLAYS (i : Nat) : Nat := 0x4005C + 0x1000 * i
def RECOVERCNT (i : Nat) : Nat := 0x40060 + 0x1000 * i
def TRAINCNT (i : Nat) : Nat := 0x40064 + 0x1000 * i
def RESENTCNT (i : Nat) : Nat := 0x40068 + 0x1000 * i
def LATECPL (i : Nat) : Nat := 0x4006C + 0x1000 * i
def TIMEOUTS (i : Nat) : Nat := 0x40070 + 0x1000 * i
def OUTSTANDING (i : Nat) : Nat := 0x40074 + 0x1000 * i
def FECCORR (i : Nat) : Nat := 0x40078 + 0x1000 * i
def FECUNCORR (i : Nat) : Nat := 0x40080 + 0x1000 * i
def TXBYTES (i : Nat) : Nat := 0x40088 + 0x1000 * i
def RXBYTES (i : Nat) : Nat := 0x40090 + 0x1000 * i
def HELDNEXT (i : Nat) : Nat := 0x40098 + 0x1000 * i
def RANKCFG (i : Nat) : Nat := 0x40100 + 0x1000 * i
def ROUTEIDX (i : Nat) : Nat := 0x40104 + 0x1000 * i
def ROUTEDATA (i : Nat) : Nat := 0x40108 + 0x1000 * i
def TIMEDIST (i : Nat) : Nat := 0x4010C + 0x1000 * i
end LNK

namespace STK
/-- base of the STK page of instance i (R32) -/
def page (i : Nat) : Nat := 0x60000 + 0x1000 * i
def ID (i : Nat) : Nat := 0x60000 + 0x1000 * i
def VERSION (i : Nat) : Nat := 0x60004 + 0x1000 * i
def CAP (i : Nat) : Nat := 0x60008 + 0x1000 * i
def STATUS (i : Nat) : Nat := 0x6000C + 0x1000 * i
def CTRL (i : Nat) : Nat := 0x60010 + 0x1000 * i
def ERRSUM (i : Nat) : Nat := 0x60014 + 0x1000 * i
def IRQSUM (i : Nat) : Nat := 0x60018 + 0x1000 * i
def PROGRESS (i : Nat) : Nat := 0x6001C + 0x1000 * i
def POSITION (i : Nat) : Nat := 0x60020 + 0x1000 * i
def TOTAL (i : Nat) : Nat := 0x60028 + 0x1000 * i
def IRQEN (i : Nat) : Nat := 0x60030 + 0x1000 * i
def FFYSRC (i : Nat) : Nat := 0x60034 + 0x1000 * i
def TEMP (i : Nat) : Nat := 0x60040 + 0x1000 * i
def THR (i : Nat) : Nat := 0x60044 + 0x1000 * i
def REFCTRL (i : Nat) : Nat := 0x60048 + 0x1000 * i
def TRAINSTAT (i : Nat) : Nat := 0x6004C + 0x1000 * i
def FAILCH (i : Nat) : Nat := 0x60050 + 0x1000 * i
def SHARE (i : Nat) : Nat := 0x60054 + 0x1000 * i
def CECOUNT (i : Nat) : Nat := 0x60058 + 0x1000 * i
def UECOUNT (i : Nat) : Nat := 0x6005C + 0x1000 * i
def LASTUE (i : Nat) : Nat := 0x60060 + 0x1000 * i
def SCRUBCTRL (i : Nat) : Nat := 0x60068 + 0x1000 * i
def SCRUBBASE (i : Nat) : Nat := 0x60070 + 0x1000 * i
def SCRUBLEN (i : Nat) : Nat := 0x60078 + 0x1000 * i
def MGCTRL (i : Nat) : Nat := 0x60080 + 0x1000 * i
def MGINDEX (i : Nat) : Nat := 0x60084 + 0x1000 * i
def MGDATA (i : Nat) : Nat := 0x60088 + 0x1000 * i
def TGCTRL (i : Nat) : Nat := 0x60090 + 0x1000 * i
def TGCHMASK (i : Nat) : Nat := 0x60094 + 0x1000 * i
def TGSEED (i : Nat) : Nat := 0x60098 + 0x1000 * i
def TGBLOCKS (i : Nat) : Nat := 0x600A0 + 0x1000 * i
def TGFIRSTSEL (i : Nat) : Nat := 0x600A8 + 0x1000 * i
def TGFIRST (i : Nat) : Nat := 0x600B0 + 0x1000 * i
def READBYTES (i : Nat) : Nat := 0x600B8 + 0x1000 * i
def WRITEBYTES (i : Nat) : Nat := 0x600C0 + 0x1000 * i
def TGERR (i : Nat) (k : Nat) : Nat := 0x60100 + 4 * k + 0x1000 * i
end STK

namespace MSC
/-- base of the MSC page of instance i (R32) -/
def page (i : Nat) : Nat := 0x70000 + 0x1000 * i
def ID (i : Nat) : Nat := 0x70000 + 0x1000 * i
def VERSION (i : Nat) : Nat := 0x70004 + 0x1000 * i
def CAP (i : Nat) : Nat := 0x70008 + 0x1000 * i
def STATUS (i : Nat) : Nat := 0x7000C + 0x1000 * i
def CTRL (i : Nat) : Nat := 0x70010 + 0x1000 * i
def ERRSUM (i : Nat) : Nat := 0x70014 + 0x1000 * i
def IRQSUM (i : Nat) : Nat := 0x70018 + 0x1000 * i
def PROGRESS (i : Nat) : Nat := 0x7001C + 0x1000 * i
def POSITION (i : Nat) : Nat := 0x70020 + 0x1000 * i
def TOTAL (i : Nat) : Nat := 0x70028 + 0x1000 * i
def IRQEN (i : Nat) : Nat := 0x70030 + 0x1000 * i
def FFYSRC (i : Nat) : Nat := 0x70034 + 0x1000 * i
def PINBASE (i : Nat) (k : Nat) : Nat := 0x70040 + 16 * k + 0x1000 * i
def PINSIZE (i : Nat) (k : Nat) : Nat := 0x70048 + 16 * k + 0x1000 * i
def PINCTRL (i : Nat) : Nat := 0x700C0 + 0x1000 * i
def PINSTAT (i : Nat) : Nat := 0x700C4 + 0x1000 * i
def HITS (i : Nat) : Nat := 0x700C8 + 0x1000 * i
def MISSES (i : Nat) : Nat := 0x700D0 + 0x1000 * i
def ATOMICS (i : Nat) : Nat := 0x700D8 + 0x1000 * i
def PINNEDLINES (i : Nat) : Nat := 0x700E0 + 0x1000 * i
def CECOUNT (i : Nat) : Nat := 0x700E4 + 0x1000 * i
def LASTUE (i : Nat) : Nat := 0x700E8 + 0x1000 * i
end MSC

namespace STG
/-- base of the STG page of instance i (R32) -/
def page (i : Nat) : Nat := 0x80000 + 0x1000 * i
def ID (i : Nat) : Nat := 0x80000 + 0x1000 * i
def VERSION (i : Nat) : Nat := 0x80004 + 0x1000 * i
def CAP (i : Nat) : Nat := 0x80008 + 0x1000 * i
def STATUS (i : Nat) : Nat := 0x8000C + 0x1000 * i
def CTRL (i : Nat) : Nat := 0x80010 + 0x1000 * i
def ERRSUM (i : Nat) : Nat := 0x80014 + 0x1000 * i
def IRQSUM (i : Nat) : Nat := 0x80018 + 0x1000 * i
def PROGRESS (i : Nat) : Nat := 0x8001C + 0x1000 * i
def POSITION (i : Nat) : Nat := 0x80020 + 0x1000 * i
def TOTAL (i : Nat) : Nat := 0x80028 + 0x1000 * i
def IRQEN (i : Nat) : Nat := 0x80030 + 0x1000 * i
def FFYSRC (i : Nat) : Nat := 0x80034 + 0x1000 * i
def SLOTSTATE (i : Nat) : Nat := 0x80040 + 0x1000 * i
def DUPCNT (i : Nat) : Nat := 0x80044 + 0x1000 * i
def LINESIN (i : Nat) : Nat := 0x80048 + 0x1000 * i
def LINESOUT (i : Nat) : Nat := 0x80050 + 0x1000 * i
def RFLAGS (i : Nat) : Nat := 0x80058 + 0x1000 * i
def BITMAPFREE (i : Nat) : Nat := 0x8005C + 0x1000 * i
def LASTDONE (i : Nat) : Nat := 0x80060 + 0x1000 * i
def BUCKETCNT (i : Nat) : Nat := 0x80064 + 0x1000 * i
def UPDCNT (i : Nat) : Nat := 0x80068 + 0x1000 * i
def LANECYC (i : Nat) : Nat := 0x80070 + 0x1000 * i
def MISSSEL (i : Nat) : Nat := 0x80078 + 0x1000 * i
def MISSCOUNT (i : Nat) : Nat := 0x8007C + 0x1000 * i
def MISSFIRST (i : Nat) : Nat := 0x80080 + 0x1000 * i
end STG

namespace MSF
/-- base of the MSF page of instance i (R32) -/
def page (i : Nat) : Nat := 0x90000 + 0x1000 * i
def ID (i : Nat) : Nat := 0x90000 + 0x1000 * i
def VERSION (i : Nat) : Nat := 0x90004 + 0x1000 * i
def CAP (i : Nat) : Nat := 0x90008 + 0x1000 * i
def STATUS (i : Nat) : Nat := 0x9000C + 0x1000 * i
def CTRL (i : Nat) : Nat := 0x90010 + 0x1000 * i
def ERRSUM (i : Nat) : Nat := 0x90014 + 0x1000 * i
def IRQSUM (i : Nat) : Nat := 0x90018 + 0x1000 * i
def PROGRESS (i : Nat) : Nat := 0x9001C + 0x1000 * i
def POSITION (i : Nat) : Nat := 0x90020 + 0x1000 * i
def TOTAL (i : Nat) : Nat := 0x90028 + 0x1000 * i
def IRQEN (i : Nat) : Nat := 0x90030 + 0x1000 * i
def FFYSRC (i : Nat) : Nat := 0x90034 + 0x1000 * i
def MAPSTAT (i : Nat) : Nat := 0x90040 + 0x1000 * i
def OPCOUNT (i : Nat) : Nat := 0x90044 + 0x1000 * i
def COMPCYC (i : Nat) : Nat := 0x90048 + 0x1000 * i
def STALLCYC (i : Nat) : Nat := 0x90050 + 0x1000 * i
def PACECYC (i : Nat) : Nat := 0x90058 + 0x1000 * i
def OVFCOUNT (i : Nat) : Nat := 0x90060 + 0x1000 * i
def LASTOP (i : Nat) : Nat := 0x90064 + 0x1000 * i
def CSADDR (i : Nat) : Nat := 0x90068 + 0x1000 * i
def ECCCOUNT (i : Nat) : Nat := 0x9006C + 0x1000 * i
def CSDATA (i : Nat) : Nat := 0x90070 + 0x1000 * i
end MSF

namespace COL
/-- base of the COL page of instance i (R32) -/
def page (i : Nat) : Nat := 0xA0000 + 0x1000 * i
def ID (i : Nat) : Nat := 0xA0000 + 0x1000 * i
def VERSION (i : Nat) : Nat := 0xA0004 + 0x1000 * i
def CAP (i : Nat) : Nat := 0xA0008 + 0x1000 * i
def STATUS (i : Nat) : Nat := 0xA000C + 0x1000 * i
def CTRL (i : Nat) : Nat := 0xA0010 + 0x1000 * i
def ERRSUM (i : Nat) : Nat := 0xA0014 + 0x1000 * i
def IRQSUM (i : Nat) : Nat := 0xA0018 + 0x1000 * i
def PROGRESS (i : Nat) : Nat := 0xA001C + 0x1000 * i
def POSITION (i : Nat) : Nat := 0xA0020 + 0x1000 * i
def TOTAL (i : Nat) : Nat := 0xA0028 + 0x1000 * i
def IRQEN (i : Nat) : Nat := 0xA0030 + 0x1000 * i
def FFYSRC (i : Nat) : Nat := 0xA0034 + 0x1000 * i
def BYTESREAD (i : Nat) : Nat := 0xA0040 + 0x1000 * i
def BYTESPLACED (i : Nat) : Nat := 0xA0048 + 0x1000 * i
def BUSYCYC (i : Nat) : Nat := 0xA0050 + 0x1000 * i
def DESCCOUNT (i : Nat) : Nat := 0xA0058 + 0x1000 * i
def SCALEMIXCNT (i : Nat) : Nat := 0xA005C + 0x1000 * i
def ECCCOUNT (i : Nat) : Nat := 0xA0060 + 0x1000 * i
def LASTDESC (i : Nat) : Nat := 0xA0064 + 0x1000 * i
end COL

namespace WVL
/-- base of the WVL page of instance i (R32) -/
def page (i : Nat) : Nat := 0x100000 + 0x1000 * i
def ID (i : Nat) : Nat := 0x100000 + 0x1000 * i
def VERSION (i : Nat) : Nat := 0x100004 + 0x1000 * i
def CAP (i : Nat) : Nat := 0x100008 + 0x1000 * i
def STATUS (i : Nat) : Nat := 0x10000C + 0x1000 * i
def CTRL (i : Nat) : Nat := 0x100010 + 0x1000 * i
def ERRSUM (i : Nat) : Nat := 0x100014 + 0x1000 * i
def IRQSUM (i : Nat) : Nat := 0x100018 + 0x1000 * i
def PROGRESS (i : Nat) : Nat := 0x10001C + 0x1000 * i
def POSITION (i : Nat) : Nat := 0x100020 + 0x1000 * i
def TOTAL (i : Nat) : Nat := 0x100028 + 0x1000 * i
def IRQEN (i : Nat) : Nat := 0x100030 + 0x1000 * i
def FFYSRC (i : Nat) : Nat := 0x100034 + 0x1000 * i
def WFLAGS (i : Nat) : Nat := 0x100040 + 0x1000 * i
def EXITFLAGS (i : Nat) : Nat := 0x100044 + 0x1000 * i
def WSTATE (i : Nat) : Nat := 0x100048 + 0x1000 * i
def RINGSTAT (i : Nat) : Nat := 0x10004C + 0x1000 * i
def INSTRCNT (i : Nat) : Nat := 0x100050 + 0x1000 * i
def LANECYC (i : Nat) : Nat := 0x100058 + 0x1000 * i
def PORTCYC (i : Nat) : Nat := 0x100060 + 0x1000 * i
def WAITCYC (i : Nat) : Nat := 0x100068 + 0x1000 * i
def RUNCOUNT (i : Nat) : Nat := 0x100070 + 0x1000 * i
def PWLINDEX (i : Nat) : Nat := 0x100074 + 0x1000 * i
def PWLDATA (i : Nat) : Nat := 0x100078 + 0x1000 * i
def TRADDR (i : Nat) : Nat := 0x100080 + 0x1000 * i
def TRDATA (i : Nat) : Nat := 0x100088 + 0x1000 * i
end WVL

namespace SCB
/-- base of the SCB page of instance i (R32) -/
def page (i : Nat) : Nat := 0x140000 + 0x1000 * i
def ID (i : Nat) : Nat := 0x140000 + 0x1000 * i
def VERSION (i : Nat) : Nat := 0x140004 + 0x1000 * i
def CAP (i : Nat) : Nat := 0x140008 + 0x1000 * i
def STATUS (i : Nat) : Nat := 0x14000C + 0x1000 * i
def CTRL (i : Nat) : Nat := 0x140010 + 0x1000 * i
def ERRSUM (i : Nat) : Nat := 0x140014 + 0x1000 * i
def IRQSUM (i : Nat) : Nat := 0x140018 + 0x1000 * i
def PROGRESS (i : Nat) : Nat := 0x14001C + 0x1000 * i
def POSITION (i : Nat) : Nat := 0x140020 + 0x1000 * i
def TOTAL (i : Nat) : Nat := 0x140028 + 0x1000 * i
def IRQEN (i : Nat) : Nat := 0x140030 + 0x1000 * i
def FFYSRC (i : Nat) : Nat := 0x140034 + 0x1000 * i
def SFLAGS (i : Nat) : Nat := 0x140040 + 0x1000 * i
def ROWCOUNT (i : Nat) : Nat := 0x140044 + 0x1000 * i
def BUSYCYC (i : Nat) : Nat := 0x140048 + 0x1000 * i
def STATINDEX (i : Nat) : Nat := 0x140050 + 0x1000 * i
def STATDATA (i : Nat) : Nat := 0x140058 + 0x1000 * i
def ECCCOUNT (i : Nat) : Nat := 0x140060 + 0x1000 * i
def LASTOP (i : Nat) : Nat := 0x140064 + 0x1000 * i
end SCB

namespace TLS
/-- base of the TLS page of instance i (R32) -/
def page (i : Nat) : Nat := 0x180000 + 0x1000 * i
def ID (i : Nat) : Nat := 0x180000 + 0x1000 * i
def VERSION (i : Nat) : Nat := 0x180004 + 0x1000 * i
def CAP (i : Nat) : Nat := 0x180008 + 0x1000 * i
def STATUS (i : Nat) : Nat := 0x18000C + 0x1000 * i
def CTRL (i : Nat) : Nat := 0x180010 + 0x1000 * i
def ERRSUM (i : Nat) : Nat := 0x180014 + 0x1000 * i
def IRQSUM (i : Nat) : Nat := 0x180018 + 0x1000 * i
def PROGRESS (i : Nat) : Nat := 0x18001C + 0x1000 * i
def POSITION (i : Nat) : Nat := 0x180020 + 0x1000 * i
def TOTAL (i : Nat) : Nat := 0x180028 + 0x1000 * i
def IRQEN (i : Nat) : Nat := 0x180030 + 0x1000 * i
def FFYSRC (i : Nat) : Nat := 0x180034 + 0x1000 * i
def STASHBASE (i : Nat) : Nat := 0x180040 + 0x1000 * i
def STASHSIZE (i : Nat) : Nat := 0x180048 + 0x1000 * i
def STASHTOP (i : Nat) : Nat := 0x180050 + 0x1000 * i
def FREEPAGES (i : Nat) : Nat := 0x180058 + 0x1000 * i
def OPENCNT (i : Nat) : Nat := 0x18005C + 0x1000 * i
def RESIDENTCNT (i : Nat) : Nat := 0x180060 + 0x1000 * i
def SPILLEDCNT (i : Nat) : Nat := 0x180064 + 0x1000 * i
def SPILLCNT (i : Nat) : Nat := 0x180068 + 0x1000 * i
def SPILLBYTES (i : Nat) : Nat := 0x180070 + 0x1000 * i
def ENTRYSEL (i : Nat) : Nat := 0x180078 + 0x1000 * i
def ENTRYSTAT (i : Nat) : Nat := 0x18007C + 0x1000 * i
def ECCCOUNT (i : Nat) : Nat := 0x180080 + 0x1000 * i
end TLS

namespace SYN
/-- base of the SYN page of instance i (R32) -/
def page (i : Nat) : Nat := 0x200000 + 0x1000 * i
def ID (i : Nat) : Nat := 0x200000 + 0x1000 * i
def VERSION (i : Nat) : Nat := 0x200004 + 0x1000 * i
def CAP (i : Nat) : Nat := 0x200008 + 0x1000 * i
def STATUS (i : Nat) : Nat := 0x20000C + 0x1000 * i
def CTRL (i : Nat) : Nat := 0x200010 + 0x1000 * i
def ERRSUM (i : Nat) : Nat := 0x200014 + 0x1000 * i
def IRQSUM (i : Nat) : Nat := 0x200018 + 0x1000 * i
def PROGRESS (i : Nat) : Nat := 0x20001C + 0x1000 * i
def POSITION (i : Nat) : Nat := 0x200020 + 0x1000 * i
def TOTAL (i : Nat) : Nat := 0x200028 + 0x1000 * i
def IRQEN (i : Nat) : Nat := 0x200030 + 0x1000 * i
def FFYSRC (i : Nat) : Nat := 0x200034 + 0x1000 * i
def SIGPORT (i : Nat) : Nat := 0x200040 + 0x1000 * i
def SIGCOUNT (i : Nat) : Nat := 0x200044 + 0x1000 * i
def WAITCOUNT (i : Nat) : Nat := 0x200048 + 0x1000 * i
def WAITPEND (i : Nat) (k : Nat) : Nat := 0x200080 + 4 * k + 0x1000 * i
def OBJ (n : Nat) : Nat := 0x200800 + 0x1000 * (n / 512) + 4 * (n % 512)
end SYN

namespace FFY
/-- base of FFY page i -/
def page (i : Nat) : Nat := 0x10000 + 0x1000 * i
/-- SRCCFG of source n (R352) -/
def SRCCFG (n : Nat) : Nat := 0x10800 + 0x1000 * (n / 512) + 4 * (n % 512)
end FFY

namespace TEN
def TENCFG (t : Nat) : Nat := 0x6400 + 64 * t + 0
def ENTRY (t : Nat) : Nat := 0x6400 + 64 * t + 4
def SAVEADDR (t : Nat) : Nat := 0x6400 + 64 * t + 8
def LISTADDR (t : Nat) : Nat := 0x6400 + 64 * t + 0x10
def POOLCFG (t : Nat) : Nat := 0x6400 + 64 * t + 0x18
def TOKBUDGET (t : Nat) : Nat := 0x6400 + 64 * t + 0x20
def SEQBUDGET (t : Nat) : Nat := 0x6400 + 64 * t + 0x24
def MAXCTX (t : Nat) : Nat := 0x6400 + 64 * t + 0x28
def CHUNK (t : Nat) : Nat := 0x6400 + 64 * t + 0x2C
def FREEFRAMES (t : Nat) : Nat := 0x6400 + 64 * t + 0x30
def TENSTAT (t : Nat) : Nat := 0x6400 + 64 * t + 0x34
def BEATS (t : Nat) : Nat := 0x6400 + 64 * t + 0x38
end TEN

end Sys2Proof.Machine
end

