-- ==== Sys2Proof/Config.lean ====
section
/-!
DEFINITION. What the spec leaves open and an implementation fixes: free values (opaque constants with no body, so that
no proof can see what they are), the physical events, and what outside standards define (codecs, signatures, device keys).
Log entries 2, 8, 20, 21, 34.
-/
namespace Sys2Proof

/-- A free byte: the contents of an indeterminate byte of memory, by the number of the range and the address
(R67, R211, R220, R222, R237). -/
opaque Config.freeByte : Nat → Nat → BitVec 8

/-- A free 32-bit word, by the number the step reads and advances. -/
opaque Config.freeWord : Nat → BitVec 32

/-- A free natural number (a stall count, a transfer time), by the number the step reads and advances. -/
opaque Config.freeNat : Nat → Nat

/-- A physical event that the spec names without a command: an error that an access corrects, an error that comes to stand in
a memory or a line, a parity error, a codeword's, a trap of the firmware on a control processor. Numbers name what it
befalls (`Sys2Proof.Machine.Dev.befall`). -/
inductive PhysEvent where
  | quiet
  | storeCorrected (part : Nat)
  | storeError (cell word : Nat)
  | bankError (cell bank : Nat)
  | meshParity (part : Nat)
  | controlParity (slot : Nat)
  | niParity (cell : Nat)
  | tregCorrected (cluster : Nat)
  | tregError (cluster word : Nat)
  | imemError (cluster : Nat)
  | stageCorrected (col : Nat)
  | stageError (col : Nat)
  | statCorrected (cluster : Nat)
  | statError (cluster entry : Nat)
  | bufError (cluster : Nat)
  | talusCorrected (cluster : Nat)
  | talusError (cluster entry : Nat)
  | stackCorrected (stack : Nat)
  | stackError (block : Nat)
  | stackParity (block : Nat) (again inBeat : Bool)
  | lineCorrected (slice : Nat)
  | lineError (block : Nat)
  | engineCorrected (engine : Nat)
  | engineError (engine : Nat)
  | codeword (port : Nat) (bad : Bool)
  | cpTrap (cp cause pc : Nat)
  | cpWait (cp : Nat)
  | cpWake (cp : Nat)
  deriving Inhabited, DecidableEq, Repr

/-- The physical event of one tick, by the number the step reads and advances (log entry 34). -/
opaque Config.physical : Nat → PhysEvent

/-- What the standard of a codec decodes a field value to (R276-R278): 0 and the frames in decoding order, or 1 where the
standard finds an error. An image frame is a list that holds 1 for RGB or 0, the number of components, the chroma siting
that the bitstream signals (0 where it signals none, which is the centre), its place in display order, then for each
component its width, height, depth, its subsampling hp and vp, and its codes row by row; audio is one list that holds the
rate, the channels, the bits of an integer sample (0 for float) and the samples as codes of those bits (two's complement,
or FP32), channels interleaved. -/
opaque Config.decode : Nat → List Byte → Nat × List (List Nat)

/-- What the headers of a field value signal by the syntax of the codec's standard, in the order that
`Sys2Proof.Machine.codecOutside` reads (R276). -/
opaque Config.signal : Nat → List Byte → List Nat

/-- KIND, less 1, of a masked slot whose sample has no field type that could be read (R290 states 1 to 4 and not which): a
function of the sample record and the feed block alone (R272). -/
opaque Config.maskedKind : List Byte → Nat

/-- The bytes one decoded sample takes in the cache (R280). -/
opaque Config.cacheSize : List Nat → Nat

/-- The bytes that the standard of a codec writes for a codestream form and the sample codes (R299, R300); the form is
`Sys2Proof.Machine.encForm` of the encode block. -/
opaque Config.encode : Nat → List Nat → List Nat → List Byte

/-- What the control records of a context image hold where the image's bytes are not those that a save wrote (R257 names
their contents and no layout): their bytes, and the number of a word of the contents. -/
opaque Config.contextWord : List Byte → Nat → BitVec 32

/-- ML-DSA-87 verification: public key, message digest, signature (R374). -/
opaque Config.mldsaVerify : List Byte → List Byte → List Byte → Bool

/-- ML-DSA-87 signing with the key pair of a 32-byte seed (R376, R377). -/
opaque Config.mldsaSign : List Byte → List Byte → List Byte

/-- The public key of the key pair of a 32-byte seed. -/
opaque Config.mldsaPublic : List Byte → List Byte

/-- The 256-bit unique device secret held in fuses (R376). -/
opaque Config.deviceSecret : List Byte

/-- The boot ROM's contents digest, measurement 1 (R377, R380). -/
opaque Config.romDigest : List Byte

/-- The responder's nonce of one SPDM response, by the number the step reads and advances (SPDM 1.3). -/
opaque Config.nonce : Nat → List Byte

/-- The SHA3-384 digest of measurement block `i` (R377) over the values the spec lists for it; how the values are laid
out in bytes is not stated. -/
opaque Config.measurement : Nat → List Nat → List Byte

/-- The certificate chain of slot 0 (R376) for an alias public key: Denuerik root, DevID, alias. -/
opaque Config.certChain : List Byte → List Byte

/-- Fields of SPDM responses that the spec does not fix (CTExponent, transfer sizes, the vendor's algorithm entry), by
field number. -/
opaque Config.spdmField : Nat → List Byte

end Sys2Proof
end

