-- ==== Sys2Proof/Machine/RegTable.lean ====
section
/-!
DEFINITION. The register map as data: for each page its registers with width, reset value and the bits each access
code of R8 governs (RW, W1C, W1S, RC), read off the page maps of the spec's chapters. A register that has rules of
its own (when it may be written, what a write starts) has them in RegAccess; here is what R8 alone says.
-/
namespace Sys2Proof.Machine

/-- The page prefixes of R32. -/
inductive Blk where
  | hst | tru | asc | apx | pwr | ckt | hiv | cpu | ffy | forager | lnk | stk | msc | stg | msf | col | wvl | scb | tls | syn
  deriving DecidableEq, Repr

/-- A page: its prefix and its instance (R32). -/
structure Page where
  blk : Blk
  inst : Nat
  deriving DecidableEq, Repr

/-- One register of a page map: offset in the page, 64-bit or not, reset value, and the masks of the bits that are
RW, W1C, W1S and RC (R8). A bit in no mask is RO, WO or reserved. -/
structure RegInfo where
  off : Nat
  wide : Bool
  reset : Nat
  rw : Nat
  w1c : Nat
  w1s : Nat
  rc : Nat
  deriving DecidableEq, Repr

/-- HST (registers at one fixed offset). -/
def hstRegs : List RegInfo :=
  [⟨0x40, true, 0, 0xFFFFFFFFFFFFFFFF, 0, 0, 0⟩,
   ⟨0x48, false, 0x40, 0xFFFFFFFF, 0, 0, 0⟩,
   ⟨0x4C, false, 0x40, 0xFFFFFFFF, 0, 0, 0⟩,
   ⟨0x50, true, 0, 0xFFFFFFFFFFFFFFFF, 0, 0, 0⟩,
   ⟨0x58, false, 0, 1, 0, 0, 0⟩,
   ⟨0x5C, false, 0, 0, 0, 0, 0⟩,
   ⟨0x60, false, 0, 0x3FF, 0, 0, 0⟩,
   ⟨0x64, false, 0, 4, 0, 2, 0⟩,
   ⟨0x68, false, 0, 0xFFFFFFFF, 0, 0, 0⟩,
   ⟨0x6C, false, 0, 0, 0, 0, 0⟩,
   ⟨0x70, false, 0, 0, 0, 0, 0xFFFFFFFF⟩,
   ⟨0x74, false, 0, 0, 0, 0, 0xFFFFFFFF⟩]

/-- TRU (registers at one fixed offset). -/
def truRegs : List RegInfo :=
  [⟨0x40, false, 0, 0, 0, 0, 0⟩,
   ⟨0x44, false, 0, 0, 0, 0, 0⟩,
   ⟨0x48, false, 0, 0, 0, 0, 0⟩,
   ⟨0x4C, false, 0, 0, 0, 0, 0⟩,
   ⟨0x50, false, 0, 0, 0, 0, 0xFFFFFFFF⟩]

/-- ASC (registers at one fixed offset). -/
def ascRegs1 : List RegInfo :=
  [⟨0x40, false, 0, 0, 0, 0, 0⟩,
   ⟨0x44, false, 0, 0, 0, 0, 0⟩,
   ⟨0x48, false, 0, 3, 0, 0, 0⟩,
   ⟨0x4C, false, 0, 3, 0, 0, 0⟩,
   ⟨0x50, false, 0xC80000, 0xFFFF0000, 0, 1, 0⟩,
   ⟨0x54, false, 0, 0, 0, 0, 0⟩,
   ⟨0x64, false, 0x4300, 0x7FF300, 0, 1, 0⟩,
   ⟨0x68, false, 0, 0, 0, 0, 0⟩,
   ⟨0x70, true, 0, 0xFFFFFFFFFFFFFFFF, 0, 0, 0⟩,
   ⟨0x78, false, 0, 0x1FFF, 0, 0x2000, 0⟩,
   ⟨0x7C, false, 0, 0x3F, 0, 0x40, 0⟩,
   ⟨0x80, false, 0, 0, 0, 0, 0⟩,
   ⟨0x84, false, 0x2710, 0xFFFFFFFF, 0, 0, 0⟩,
   ⟨0x88, false, 0, 0, 0, 0, 0xFFFFFFFF⟩,
   ⟨0x8C, false, 0, 0, 0, 0, 0xFFFFFFFF⟩,
   ⟨0x90, false, 0, 0x1FF, 0, 0, 0⟩]

def ascRegs2 : List RegInfo :=
  [⟨0x94, false, 0, 0, 0, 0, 0⟩]

def ascRegs : List RegInfo := ascRegs1 ++ ascRegs2

/-- APX (registers at one fixed offset). -/
def apxRegs : List RegInfo :=
  [⟨0x40, false, 0, 0, 4, 0, 0⟩,
   ⟨0x44, false, 0, 0, 0, 0, 0⟩,
   ⟨0x48, false, 0, 0xFFFF007F, 0, 0, 0⟩,
   ⟨0x4C, false, 0x2710, 0xFFFF, 0, 0x10000, 0⟩,
   ⟨0x50, false, 0x7F00, 0, 0, 0, 0⟩,
   ⟨0x54, false, 0, 0x3F, 0, 0, 0⟩,
   ⟨0x58, false, 0, 0, 0, 0, 0⟩,
   ⟨0x5C, false, 0, 0, 0, 0, 0⟩,
   ⟨0x60, false, 0, 0x3F, 0, 0, 0⟩,
   ⟨0x64, false, 0, 0, 0, 0, 0⟩]

/-- PWR (registers at one fixed offset). -/
def pwrRegs : List RegInfo :=
  [⟨0x40, false, 0xBB8, 0xFFF, 0, 0, 0⟩,
   ⟨0x44, false, 0x1C2, 0x3FF, 0, 0, 0⟩,
   ⟨0x48, false, 0x64, 0xFF, 0, 0, 0⟩,
   ⟨0x4C, false, 0, 0, 0, 0, 0⟩,
   ⟨0x50, false, 0, 0, 0, 0, 0⟩,
   ⟨0x54, false, 0, 0, 0, 0, 0⟩,
   ⟨0x58, true, 0, 0, 0, 0, 0⟩,
   ⟨0x60, true, 0, 0, 0, 0, 0⟩,
   ⟨0x68, false, 0, 0, 0, 0, 0xFFFFFFFF⟩,
   ⟨0x6C, false, 0, 0, 0, 0, 0⟩,
   ⟨0x70, false, 0, 0, 0, 0, 0⟩,
   ⟨0x74, false, 0, 0, 0, 0, 0⟩,
   ⟨0x78, false, 0, 7, 0, 0, 0⟩,
   ⟨0x7C, false, 0, 0, 0, 0, 0⟩]

/-- CKT (registers at one fixed offset). -/
def cktRegs1 : List RegInfo :=
  [⟨0x40, false, 0x186A0, 0xFFFFFFFF, 0, 0, 0⟩,
   ⟨0x48, true, 0, 0xFFFFFFFFFFFFFFFF, 0, 0, 0⟩,
   ⟨0x50, true, 0, 0, 0, 0, 0⟩,
   ⟨0x58, true, 0, 0, 0, 0, 0⟩,
   ⟨0x60, false, 0x1F00, 0, 0, 0, 0⟩,
   ⟨0x64, false, 0, 1, 0, 0, 0⟩,
   ⟨0x68, false, 0x12C, 0, 0, 0, 0⟩,
   ⟨0x6C, false, 0, 0, 0, 0, 0⟩,
   ⟨0x70, false, 0, 0, 0, 0, 0⟩,
   ⟨0x74, false, 0xFFFFFFFF, 0, 0, 0, 0xFFFFFFFF⟩,
   ⟨0x78, true, 0, 0xFFFFFFFFFFFFFFFF, 0, 0, 0⟩,
   ⟨0x80, false, 0x400, 0xFFFFFFFF, 0, 0, 0⟩,
   ⟨0x84, false, 0, 0, 0, 0, 0⟩,
   ⟨0x88, false, 0, 0, 0, 0, 0xFFFFFFFF⟩,
   ⟨0x8C, false, 0, 0, 0, 0, 0xFFFFFFFF⟩,
   ⟨0x90, false, 0, 0, 0, 0, 0xFFFFFFFF⟩]

def cktRegs2 : List RegInfo :=
  [⟨0x94, false, 0, 0, 0, 0, 0xFFFFFFFF⟩,
   ⟨0x98, false, 0, 0, 0, 0, 0⟩,
   ⟨0x9C, false, 0, 0, 0, 0, 0⟩]

def cktRegs : List RegInfo := cktRegs1 ++ cktRegs2

/-- HIV (registers at one fixed offset). -/
def hivRegs : List RegInfo :=
  [⟨0x40, false, 0, 0x7F, 0, 0, 0⟩,
   ⟨0x44, false, 0, 0, 0, 0, 0⟩,
   ⟨0x48, false, 0, 0xF, 0, 0x10, 0⟩,
   ⟨0x4C, false, 0, 0, 0, 0, 0⟩,
   ⟨0x50, false, 0, 0, 0, 0, 0xFFFFFFFF⟩,
   ⟨0x54, false, 0, 0, 0, 0, 0⟩,
   ⟨0x58, false, 0, 0, 0, 0, 0xFFFFFFFF⟩,
   ⟨0x5C, false, 0, 0, 0, 0, 0⟩,
   ⟨0x60, false, 0, 0xFFF, 0, 0, 0⟩]

/-- CPU (registers at one fixed offset). -/
def cpuRegs : List RegInfo :=
  [⟨0x40, false, 0, 1, 0, 2, 0⟩,
   ⟨0x44, false, 0, 0, 0, 0, 0⟩,
   ⟨0x48, true, 0x8000000, 0xFFFFFFFFFFFFFFFF, 0, 0, 0⟩,
   ⟨0x50, true, 0, 0xFFFFFFFFFFFFFFFF, 0, 0, 0⟩,
   ⟨0x58, true, 0, 0xFFFFFFFFFFFFFFFF, 0, 0, 0⟩,
   ⟨0x60, true, 0, 0, 0, 0, 0⟩,
   ⟨0x68, true, 0, 0, 0, 0, 0⟩,
   ⟨0x70, true, 0, 0, 0, 0, 0⟩,
   ⟨0x78, true, 0, 0, 0, 0, 0⟩]

/-- FFY2 (registers at one fixed offset). -/
def ffy2Regs : List RegInfo :=
  [⟨0x40, false, 0, 0, 0, 0, 0⟩,
   ⟨0x44, false, 0, 0, 0, 0, 0⟩,
   ⟨0x48, false, 0, 0, 0, 0, 0xFFFFFFFF⟩]

/-- FFYT (registers at one fixed offset). -/
def ffyTRegs : List RegInfo :=
  [⟨0x40, false, 0, 0x3F, 0, 0, 0⟩,
   ⟨0x44, false, 0x3FF, 0, 0, 0, 0⟩,
   ⟨0x48, false, 0, 0, 0, 0, 0⟩,
   ⟨0x4C, false, 0, 0, 0, 0, 0⟩,
   ⟨0x50, false, 0, 0, 0, 0, 0⟩,
   ⟨0x54, false, 0, 0xF, 0, 0, 0⟩,
   ⟨0x58, false, 0, 0, 0, 0, 0⟩]

/-- FFY7 (registers at one fixed offset). -/
def ffy7Regs : List RegInfo :=
  [⟨0x40, false, 0, 0, 0, 0, 0⟩,
   ⟨0x44, false, 0, 0, 0, 0, 0xFFFFFFFF⟩]

/-- FOR (registers at one fixed offset). -/
def forRegs1 : List RegInfo :=
  [⟨0x40, false, 0, 0, 0, 0, 0xFFFFFFFF⟩,
   ⟨0x44, false, 0, 0, 0, 0, 0xFFFFFFFF⟩,
   ⟨0x48, true, 0, 0, 0, 0, 0⟩,
   ⟨0x50, true, 0, 0, 0, 0, 0⟩,
   ⟨0x58, true, 0, 0, 0, 0, 0⟩,
   ⟨0x60, false, 0, 0, 0, 0, 0xFFFFFFFF⟩,
   ⟨0x80, false, 0, 0xF, 0, 0, 0⟩,
   ⟨0x84, false, 0, 0, 0, 0, 0⟩,
   ⟨0x88, true, 0, 0, 0, 0, 0⟩,
   ⟨0x90, false, 0, 0, 0, 0, 0⟩,
   ⟨0x94, false, 0, 0, 0, 0, 0⟩,
   ⟨0x98, false, 0, 0, 0, 0, 0⟩,
   ⟨0x9C, false, 0, 0, 0, 0, 0⟩,
   ⟨0xA0, false, 0, 0, 0, 0, 0xFFFFFFFF⟩,
   ⟨0xA4, false, 0, 0, 0, 0, 0xFFFFFFFF⟩,
   ⟨0xA8, false, 0, 0, 0, 0, 0xFFFFFFFF⟩]

def forRegs2 : List RegInfo :=
  [⟨0xAC, false, 0, 0, 0, 0, 0xFFFFFFFF⟩,
   ⟨0xB0, false, 0, 0, 0, 0, 0xFFFFFFFF⟩,
   ⟨0xB4, false, 0, 0, 0, 0, 0xFFFFFFFF⟩]

def forRegs : List RegInfo := forRegs1 ++ forRegs2

/-- LNK (registers at one fixed offset). -/
def lnkRegs1 : List RegInfo :=
  [⟨0x40, false, 0x90, 0x1FF, 0, 0, 0⟩,
   ⟨0x44, false, 0x1F8000, 0, 0, 0, 0⟩,
   ⟨0x48, true, 0, 0, 0, 0, 0⟩,
   ⟨0x50, false, 0, 0xFFFFFFFF, 0, 0, 0⟩,
   ⟨0x54, false, 0x1388, 0xFFFFFFFF, 0, 0, 0⟩,
   ⟨0x58, false, 0, 0, 0, 0, 0xFFFFFFFF⟩,
   ⟨0x5C, false, 0, 0, 0, 0, 0xFFFFFFFF⟩,
   ⟨0x60, false, 0, 0, 0, 0, 0xFFFFFFFF⟩,
   ⟨0x64, false, 0, 0, 0, 0, 0xFFFFFFFF⟩,
   ⟨0x68, false, 0, 0, 0, 0, 0xFFFFFFFF⟩,
   ⟨0x6C, false, 0, 0, 0, 0, 0xFFFFFFFF⟩,
   ⟨0x70, false, 0, 0, 0, 0, 0xFFFFFFFF⟩,
   ⟨0x74, false, 0, 0, 0, 0, 0⟩,
   ⟨0x78, true, 0, 0, 0, 0, 0⟩,
   ⟨0x80, true, 0, 0, 0, 0, 0⟩,
   ⟨0x88, true, 0, 0, 0, 0, 0⟩]

def lnkRegs2 : List RegInfo :=
  [⟨0x90, true, 0, 0, 0, 0, 0⟩,
   ⟨0x98, false, 0, 0, 0, 0, 0⟩,
   ⟨0x100, false, 0, 0xBFFF, 0, 0, 0⟩,
   ⟨0x104, false, 0, 0x3FFF, 0, 0, 0⟩,
   ⟨0x108, false, 0x3FF, 0x3FF, 0, 0, 0⟩,
   ⟨0x10C, false, 0x3F, 0, 0, 0, 0⟩]

def lnkRegs : List RegInfo := lnkRegs1 ++ lnkRegs2

/-- STK (registers at one fixed offset). -/
def stkRegs1 : List RegInfo :=
  [⟨0x40, false, 0, 0, 0, 0, 0⟩,
   ⟨0x44, false, 0x695F55, 0xFFFFFF, 0, 0, 0⟩,
   ⟨0x48, false, 0, 1, 0, 0, 0⟩,
   ⟨0x4C, false, 0, 0, 0, 0, 0⟩,
   ⟨0x50, false, 0, 0, 0, 0, 0⟩,
   ⟨0x54, false, 0x64, 0, 0, 0, 0⟩,
   ⟨0x58, false, 0, 0, 0, 0, 0xFFFFFFFF⟩,
   ⟨0x5C, false, 0, 0, 0, 0, 0xFFFFFFFF⟩,
   ⟨0x60, true, 0, 0, 0, 0, 0⟩,
   ⟨0x68, false, 1, 1, 0, 2, 0⟩,
   ⟨0x70, true, 0, 0xFFFFFFFFFFFFFFFF, 0, 0, 0⟩,
   ⟨0x78, true, 0, 0xFFFFFFFFFFFFFFFF, 0, 0, 0⟩,
   ⟨0x80, false, 0, 0xFF, 0, 0x100, 0⟩,
   ⟨0x84, false, 0, 0x7FF, 0, 0, 0⟩,
   ⟨0x88, false, 0, 0, 0, 0, 0⟩,
   ⟨0x90, false, 0, 0xFE, 0, 1, 0⟩]

def stkRegs2 : List RegInfo :=
  [⟨0x94, false, 0xFFFFFFFF, 0xFFFFFFFF, 0, 0, 0⟩,
   ⟨0x98, false, 1, 0xFFFFFFFF, 0, 0, 0⟩,
   ⟨0xA0, true, 0, 0xFFFFFFFFFFFFFFFF, 0, 0, 0⟩,
   ⟨0xA8, false, 0, 0x1F, 0, 0, 0⟩,
   ⟨0xB0, true, 0, 0, 0, 0, 0⟩,
   ⟨0xB8, true, 0, 0, 0, 0, 0⟩,
   ⟨0xC0, true, 0, 0, 0, 0, 0⟩]

def stkRegs : List RegInfo := stkRegs1 ++ stkRegs2

/-- MSC (registers at one fixed offset). -/
def mscRegs : List RegInfo :=
  [⟨0xC0, false, 0, 0, 0, 1, 0⟩,
   ⟨0xC4, false, 0, 0, 0, 0, 0⟩,
   ⟨0xC8, true, 0, 0, 0, 0, 0⟩,
   ⟨0xD0, true, 0, 0, 0, 0, 0⟩,
   ⟨0xD8, true, 0, 0, 0, 0, 0⟩,
   ⟨0xE0, false, 0, 0, 0, 0, 0⟩,
   ⟨0xE4, false, 0, 0, 0, 0, 0xFFFFFFFF⟩,
   ⟨0xE8, true, 0, 0, 0, 0, 0⟩]

/-- STG (registers at one fixed offset). -/
def stgRegs : List RegInfo :=
  [⟨0x40, false, 0, 0, 0, 0, 0⟩,
   ⟨0x44, false, 0, 0, 0, 0, 0xFFFFFFFF⟩,
   ⟨0x48, true, 0, 0, 0, 0, 0⟩,
   ⟨0x50, true, 0, 0, 0, 0, 0⟩,
   ⟨0x58, false, 0, 0, 0xF, 0, 0⟩,
   ⟨0x5C, false, 0x200000, 0, 0, 0, 0⟩,
   ⟨0x60, false, 0, 0, 0, 0, 0⟩,
   ⟨0x64, false, 0, 0, 0, 0, 0xFFFFFFFF⟩,
   ⟨0x68, true, 0, 0, 0, 0, 0⟩,
   ⟨0x70, true, 0, 0, 0, 0, 0⟩,
   ⟨0x78, false, 0, 0xF, 0, 0, 0⟩,
   ⟨0x7C, false, 0, 0, 0, 0, 0⟩,
   ⟨0x80, true, 0, 0, 0, 0, 0⟩]

/-- MSF (registers at one fixed offset). -/
def msfRegs : List RegInfo :=
  [⟨0x40, false, 0, 0, 0, 0, 0⟩,
   ⟨0x44, false, 0, 0, 0, 0, 0xFFFFFFFF⟩,
   ⟨0x48, true, 0, 0, 0, 0, 0⟩,
   ⟨0x50, true, 0, 0, 0, 0, 0⟩,
   ⟨0x58, true, 0, 0, 0, 0, 0⟩,
   ⟨0x60, false, 0, 0, 0, 0, 0xFFFFFFFF⟩,
   ⟨0x64, false, 0, 0, 0, 0, 0⟩,
   ⟨0x68, false, 0, 0xFFFFFFF, 0, 0, 0⟩,
   ⟨0x6C, false, 0, 0, 0, 0, 0xFFFFFFFF⟩,
   ⟨0x70, true, 0, 0xFFFFFFFFFFFFFFFF, 0, 0, 0⟩]

/-- COL (registers at one fixed offset). -/
def colRegs : List RegInfo :=
  [⟨0x40, true, 0, 0, 0, 0, 0⟩,
   ⟨0x48, true, 0, 0, 0, 0, 0⟩,
   ⟨0x50, true, 0, 0, 0, 0, 0⟩,
   ⟨0x58, false, 0, 0, 0, 0, 0xFFFFFFFF⟩,
   ⟨0x5C, false, 0, 0, 0, 0, 0xFFFFFFFF⟩,
   ⟨0x60, false, 0, 0, 0, 0, 0xFFFFFFFF⟩,
   ⟨0x64, false, 0, 0, 0, 0, 0⟩]

/-- WVL (registers at one fixed offset). -/
def wvlRegs : List RegInfo :=
  [⟨0x40, false, 0, 0, 0xF, 0, 0⟩,
   ⟨0x44, false, 0, 0, 0x1F, 0, 0⟩,
   ⟨0x48, false, 0, 0, 0, 0, 0⟩,
   ⟨0x4C, false, 0, 0, 0, 0, 0⟩,
   ⟨0x50, true, 0, 0, 0, 0, 0⟩,
   ⟨0x58, true, 0, 0, 0, 0, 0⟩,
   ⟨0x60, true, 0, 0, 0, 0, 0⟩,
   ⟨0x68, true, 0, 0, 0, 0, 0⟩,
   ⟨0x70, false, 0, 0, 0, 0, 0xFFFFFFFF⟩,
   ⟨0x74, false, 0, 0xFF, 0, 0, 0⟩,
   ⟨0x78, true, 0, 0xFFFFFFFFFFFFFFFF, 0, 0, 0⟩,
   ⟨0x80, false, 0, 0x1FFF8, 0, 0, 0⟩,
   ⟨0x88, true, 0, 0xFFFFFFFFFFFFFFFF, 0, 0, 0⟩]

/-- SCB (registers at one fixed offset). -/
def scbRegs : List RegInfo :=
  [⟨0x40, false, 0, 0, 7, 0, 0⟩,
   ⟨0x44, false, 0, 0, 0, 0, 0xFFFFFFFF⟩,
   ⟨0x48, true, 0, 0, 0, 0, 0⟩,
   ⟨0x50, false, 0, 0x7FFF, 0, 0, 0⟩,
   ⟨0x58, true, 0, 0xFFFFFFFFFFFFFFFF, 0, 0, 0⟩,
   ⟨0x60, false, 0, 0, 0, 0, 0xFFFFFFFF⟩,
   ⟨0x64, false, 0, 0, 0, 0, 0⟩]

/-- TLS (registers at one fixed offset). -/
def tlsRegs : List RegInfo :=
  [⟨0x40, true, 0, 0xFFFFFFFFFFFFFFFF, 0, 0, 0⟩,
   ⟨0x48, true, 0, 0xFFFFFFFFFFFFFFFF, 0, 0, 0⟩,
   ⟨0x50, true, 0, 0, 0, 0, 0⟩,
   ⟨0x58, false, 0x400, 0, 0, 0, 0⟩,
   ⟨0x5C, false, 0, 0, 0, 0, 0⟩,
   ⟨0x60, false, 0, 0, 0, 0, 0⟩,
   ⟨0x64, false, 0, 0, 0, 0, 0⟩,
   ⟨0x68, false, 0, 0, 0, 0, 0xFFFFFFFF⟩,
   ⟨0x70, true, 0, 0, 0, 0, 0⟩,
   ⟨0x78, false, 0, 0xFFF, 0, 0, 0⟩,
   ⟨0x7C, false, 0, 0, 0, 0, 0⟩,
   ⟨0x80, false, 0, 0, 0, 0, 0xFFFFFFFF⟩]

/-- SYN (registers at one fixed offset). -/
def synRegs : List RegInfo :=
  [⟨0x40, false, 0, 0, 0, 0, 0⟩,
   ⟨0x44, false, 0, 0, 0, 0, 0xFFFFFFFF⟩,
   ⟨0x48, false, 0, 0, 0, 0, 0⟩]

/-- The block of one tenancy in HIV, 64 bytes (R269); offsets within the block. -/
def tenRegs : List RegInfo :=
  [⟨0, false, 0x2800, 0x3F03, 0, 0, 0⟩,
   ⟨4, false, 0, 0x1FFF0FFF, 0, 0, 0⟩,
   ⟨8, true, 0, 0xFFFFFFFFFFFFFFFF, 0, 0, 0⟩,
   ⟨0x10, true, 0, 0xFFFFFFFFFFFFFFFF, 0, 0, 0⟩,
   ⟨0x18, true, 0, 0xFFFFFFFFFFFFFFFF, 0, 0, 0⟩,
   ⟨0x20, false, 0, 0xFFFFFFFF, 0, 0, 0⟩,
   ⟨0x24, false, 0, 0xFFFFFFFF, 0, 0, 0⟩,
   ⟨0x28, false, 0, 0xFFFFFFFF, 0, 0, 0⟩,
   ⟨0x2C, false, 0, 0xFFFFFFFF, 0, 0, 0⟩,
   ⟨0x30, false, 0, 0, 0, 0, 0⟩,
   ⟨0x34, false, 0, 0, 0, 0, 0⟩,
   ⟨0x38, true, 0, 0, 0, 0, 0⟩]

/-- The registers of one stream, 32 bytes from 0x100 (R301). -/
def strmRegs : List RegInfo :=
  [⟨0x0, true, 0x0, 0xFFFFFFFFFFFFFFFF, 0, 0, 0⟩,
   ⟨0x8, false, 0x0, 0xFFFFFFFF, 0, 0, 0⟩,
   ⟨0xc, false, 0x0, 0xFFFFFFFF, 0, 0, 0⟩,
   ⟨0x10, false, 0x0, 0x0, 0, 0, 0⟩,
   ⟨0x14, false, 0x2710, 0xFFFFFFFF, 0, 0, 0⟩,
   ⟨0x18, false, 0x5F5E100, 0xFFFFFFFF, 0, 0, 0⟩,
   ⟨0x1c, false, 0x0, 0xF01, 0, 4, 0⟩]

/-- ERRSUM bits 8 and up that a page defines (R43 and the block maps). -/
def errBits : Blk → Nat → Nat
  | .hst, _ => 3
  | .tru, _ => 3
  | .asc, _ => 5
  | .apx, _ => 2
  | .pwr, _ => 4
  | .ckt, _ => 4
  | .hiv, _ => 6
  | .cpu, _ => 0
  | .ffy, i => if i = 2 then 4 else 0
  | .forager, _ => 8
  | .lnk, _ => 9
  | .stk, _ => 5
  | .msc, _ => 4
  | .stg, _ => 5
  | .msf, _ => 4
  | .col, _ => 4
  | .wvl, _ => 4
  | .scb, _ => 3
  | .tls, _ => 4
  | .syn, _ => 0

/-- IRQSUM bits a page defines (the block maps; R351: none on FFY and SYN). -/
def irqBits : Blk → Nat
  | .hst => 3
  | .tru => 1
  | .asc => 4
  | .apx => 3
  | .pwr => 3
  | .ckt => 3
  | .hiv => 3
  | .cpu => 2
  | .ffy => 0
  | .forager => 4
  | .lnk => 3
  | .stk => 3
  | .msc => 2
  | .stg => 3
  | .msf => 3
  | .col => 1
  | .wvl => 2
  | .scb => 2
  | .tls => 2
  | .syn => 0
/-- The registers of the header that every page begins with (R37); ID, CAP and FFYSRC have per-page values. -/
def hdrRegs : List RegInfo :=
  [⟨0, false, 0, 0, 0, 0, 0⟩, ⟨4, false, 0x100, 0, 0, 0, 0⟩, ⟨8, false, 0, 0, 0, 0, 0⟩, ⟨0xC, false, 0, 0, 0, 0, 0⟩,
   ⟨0x10, false, 0, 1, 0, 6, 0⟩, ⟨0x14, false, 0, 0, 0x3F, 0, 0⟩, ⟨0x18, false, 0, 0, 0, 0, 0⟩,
   ⟨0x1C, false, 0, 0, 0, 0, 0⟩, ⟨0x20, true, 0, 0, 0, 0, 0⟩, ⟨0x28, true, 0, 0, 0, 0, 0⟩,
   ⟨0x30, false, 0, 0, 0, 0, 0⟩, ⟨0x34, false, 0, 0, 0, 0, 0⟩]

/-- The page of slot `n` of BAR0, or none for an unassigned slot (R32). -/
def pageAt (n : Nat) : Option Page :=
  if n = 0 then some ⟨.hst, 0⟩ else if n = 1 then some ⟨.tru, 0⟩ else if n = 2 then some ⟨.asc, 0⟩
  else if n = 3 then some ⟨.apx, 0⟩ else if n = 4 then some ⟨.pwr, 0⟩ else if n = 5 then some ⟨.ckt, 0⟩
  else if n = 6 then some ⟨.hiv, 0⟩
  else if 0x8 ≤ n ∧ n < 0xC then some ⟨.cpu, n - 0x8⟩
  else if 0x10 ≤ n ∧ n < 0x18 then some ⟨.ffy, n - 0x10⟩
  else if 0x20 ≤ n ∧ n < 0x22 then some ⟨.forager, n - 0x20⟩
  else if 0x40 ≤ n ∧ n < 0x58 then some ⟨.lnk, n - 0x40⟩
  else if 0x60 ≤ n ∧ n < 0x6C then some ⟨.stk, n - 0x60⟩
  else if 0x70 ≤ n ∧ n < 0x7C then some ⟨.msc, n - 0x70⟩
  else if 0x80 ≤ n ∧ n < 0x8C then some ⟨.stg, n - 0x80⟩
  else if 0x90 ≤ n ∧ n < 0x94 then some ⟨.msf, n - 0x90⟩
  else if 0xA0 ≤ n ∧ n < 0xB0 then some ⟨.col, n - 0xA0⟩
  else if 0x100 ≤ n ∧ n < 0x140 then some ⟨.wvl, n - 0x100⟩
  else if 0x140 ≤ n ∧ n < 0x180 then some ⟨.scb, n - 0x140⟩
  else if 0x180 ≤ n ∧ n < 0x1C0 then some ⟨.tls, n - 0x180⟩
  else if 0x200 ≤ n ∧ n < 0x300 then some ⟨.syn, n - 0x200⟩
  else none

/-- The number of instances of a block (R32). -/
def Blk.count : Blk → Nat
  | .hst | .tru | .asc | .apx | .pwr | .ckt | .hiv => 1
  | .cpu => 4 | .ffy => 8 | .forager => 2 | .lnk => 24 | .stk => 12 | .msc => 12 | .stg => 12
  | .msf => 4 | .col => 16 | .wvl => 64 | .scb => 64 | .tls => 64 | .syn => 256

/-- The base offset of instance 0 (R32). -/
def Blk.base : Blk → Nat
  | .hst => 0 | .tru => 0x1000 | .asc => 0x2000 | .apx => 0x3000 | .pwr => 0x4000 | .ckt => 0x5000
  | .hiv => 0x6000 | .cpu => 0x8000 | .ffy => 0x10000 | .forager => 0x20000 | .lnk => 0x40000
  | .stk => 0x60000 | .msc => 0x70000 | .stg => 0x80000 | .msf => 0x90000 | .col => 0xA0000
  | .wvl => 0x100000 | .scb => 0x140000 | .tls => 0x180000 | .syn => 0x200000

/-- ID.BLOCK (R32). -/
def Blk.code : Blk → Nat
  | .hst => 1 | .tru => 2 | .asc => 3 | .apx => 4 | .pwr => 5 | .ckt => 6 | .hiv => 7 | .cpu => 8
  | .ffy => 9 | .forager => 0xA | .lnk => 0xB | .stk => 0xC | .msc => 0xD | .stg => 0xE | .msf => 0xF
  | .col => 0x10 | .wvl => 0x11 | .scb => 0x12 | .tls => 0x13 | .syn => 0x14

/-- The BAR0 offset of a page (R32). -/
def Page.base (p : Page) : Nat := p.blk.base + 0x1000 * p.inst

/-- CAP (R38): BLOCKCAP as each block's chapter gives it (R71, R98, R100, R146, R167-R169, R223, R224, R250, R268,
R301, R325, R339, R349, R361, R379, R380, R398), LONGOPS in bit 31. The CPU page's BLOCKCAP is stated nowhere: 0. -/
def Page.cap (p : Page) : Nat :=
  match p.blk with
  | .hst => 15
  | .tru => 0
  | .asc => 4608 + 2 ^ 31
  | .apx => 60
  | .pwr => 8 + 3 * 2 ^ 4
  | .ckt => 256
  | .hiv => 4096 + 16 * 2 ^ 13 + 2 ^ 31
  | .cpu => 0
  | .ffy => 1022 + 63 * 2 ^ 10 + 16 * 2 ^ 16
  | .forager => 16 + 4 * 2 ^ 5 + (if p.inst = 0 then 2 ^ 31 else 0)
  | .lnk => 8 + 2 ^ 31
  | .stk => 32 + 64 * 2 ^ 6 + 64 * 2 ^ 13 + 2 ^ 31
  | .msc => 24576 + 16 * 2 ^ 16 + 2 ^ 31
  | .stg => 16 + 256 * 2 ^ 5
  | .msf => 1024 + 16 * 2 ^ 11
  | .col => 1024
  | .wvl => 32 + 128 * 2 ^ 6 + 2048 * 2 ^ 14
  | .scb => 32768 + 32 * 2 ^ 16
  | .tls => 1024 + 4096 * 2 ^ 11
  | .syn => 512

/-- FFYSRC: the Firefly source number of the page, 0 for FFY and SYN (R351). -/
def Page.ffysrc (p : Page) : Nat :=
  match p.blk with
  | .hst => 1 | .tru => 2 | .asc => 3 | .apx => 4 | .pwr => 5 | .ckt => 6 | .hiv => 7
  | .cpu => 8 + p.inst | .forager => 12 + p.inst | .lnk => 14 + p.inst | .stk => 38 + p.inst
  | .msc => 50 + p.inst | .stg => 62 + p.inst | .msf => 74 + p.inst | .col => 78 + p.inst
  | .wvl => 94 + p.inst | .scb => 158 + p.inst | .tls => 222 + p.inst
  | .ffy | .syn => 0

/-- The page whose Firefly source number is `n` (R351). -/
def pageOfSource (n : Nat) : Option Page :=
  if n = 1 then some ⟨.hst, 0⟩ else if n = 2 then some ⟨.tru, 0⟩ else if n = 3 then some ⟨.asc, 0⟩
  else if n = 4 then some ⟨.apx, 0⟩ else if n = 5 then some ⟨.pwr, 0⟩ else if n = 6 then some ⟨.ckt, 0⟩
  else if n = 7 then some ⟨.hiv, 0⟩
  else if 8 ≤ n ∧ n < 12 then some ⟨.cpu, n - 8⟩
  else if 12 ≤ n ∧ n < 14 then some ⟨.forager, n - 12⟩
  else if 14 ≤ n ∧ n < 38 then some ⟨.lnk, n - 14⟩
  else if 38 ≤ n ∧ n < 50 then some ⟨.stk, n - 38⟩
  else if 50 ≤ n ∧ n < 62 then some ⟨.msc, n - 50⟩
  else if 62 ≤ n ∧ n < 74 then some ⟨.stg, n - 62⟩
  else if 74 ≤ n ∧ n < 78 then some ⟨.msf, n - 74⟩
  else if 78 ≤ n ∧ n < 94 then some ⟨.col, n - 78⟩
  else if 94 ≤ n ∧ n < 158 then some ⟨.wvl, n - 94⟩
  else if 158 ≤ n ∧ n < 222 then some ⟨.scb, n - 158⟩
  else if 222 ≤ n ∧ n < 286 then some ⟨.tls, n - 222⟩
  else none

/-- The register of a list that word offset `o` lies in. -/
def findReg (l : List RegInfo) (o : Nat) : Option RegInfo :=
  l.find? (fun r => r.off == o || (r.wide && r.off + 4 == o))

/-- A read-only word of a register array. -/
def roWord (o : Nat) : RegInfo := ⟨o, false, 0, 0, 0, 0, 0⟩

/-- A read-clear word of a register array. -/
def rcWord (o : Nat) : RegInfo := ⟨o, false, 0, 0, 0, 0, 0xFFFFFFFF⟩

/-- A register of the header with the values that are the page's own (R37, R38, R43, R44). -/
def hdrReg (p : Page) (o : Nat) : Option RegInfo :=
  if o = 0 then some ⟨0, false, p.blk.code + p.inst * 2 ^ 16, 0, 0, 0, 0⟩
  else if o = 8 then some ⟨8, false, p.cap, 0, 0, 0, 0⟩
  else if o = 0x14 then some ⟨0x14, false, 0, 0, 0x3F + 2 ^ 8 * (2 ^ errBits p.blk p.inst - 1), 0, 0⟩
  else if o = 0x18 then some ⟨0x18, false, 0, 0, 2 ^ irqBits p.blk - 1, 0, 0⟩
  else if o = 0x30 then some ⟨0x30, false, 0, 2 ^ irqBits p.blk - 1, 0, 0, 0⟩
  else if o = 0x34 then some ⟨0x34, false, p.ffysrc, 0, 0, 0, 0⟩
  else findReg hdrRegs o

/-- The register that word offset `o` (a multiple of 4) of page `p` lies in, by the page maps; none for an undefined
offset (R33). -/
def regInPage (p : Page) (o : Nat) : Option RegInfo :=
  if o < 0x40 then hdrReg p o
  else match p.blk with
  | .hst =>
    if 0x410 ≤ o ∧ o < 0x500 then
      if o % 16 = 0 then some ⟨o, false, 0, 0x03FF03FF, 0, 0, 0⟩
      else if o % 16 = 4 then some ⟨o, false, 0, 0xFFFF, 0, 0, 0⟩ else none
    else if o = 0x6C then none
    else findReg hstRegs o
  | .tru => if 0x60 ≤ o ∧ o < 0xC0 then some (roWord o) else findReg truRegs o
  | .asc =>
    if 0x58 ≤ o ∧ o < 0x64 then some (roWord o)
    else if 0x100 ≤ o ∧ o < 0x160 then some ⟨o, false, 0, 0x8007FFFF, 0, 0, 0⟩
    else findReg ascRegs o
  | .apx => findReg apxRegs o
  | .pwr =>
    if 0x80 ≤ o ∧ o < 0x8C then some (roWord o)
    else if 0xC0 ≤ o ∧ o < 0x100 then some ⟨o, false, 0, 0xFFFFF, 0, 0, 0⟩
    else findReg pwrRegs o
  | .ckt => findReg cktRegs o
  | .hiv =>
    if 0x68 ≤ o ∧ o < 0x88 then some ⟨o - o % 8, true, 0, 0, 0, 0, 0⟩
    else if 0x200 ≤ o ∧ o < 0x300 then some ⟨o, false, 0, 0xFFFFF, 0, 0, 0⟩
    else if 0x400 ≤ o ∧ o < 0x800 then
      (findReg tenRegs (o % 64)).map (fun r => ⟨o - o % 64 + r.off, r.wide, r.reset, r.rw, r.w1c, r.w1s, r.rc⟩)
    else findReg hivRegs o
  | .cpu =>
    if o = 0x40 then some ⟨0x40, false, if p.inst = 0 then 1 else 0, 1, 0, 2, 0⟩
    else if p.inst = 0 ∧ (o = 0x48 ∨ o = 0x4C) then some ⟨0x48, true, 0x10000, 0xFFFFFFFFFFFFFFFF, 0, 0, 0⟩
    else findReg cpuRegs o
  | .ffy =>
    if p.inst < 2 then
      if 0x800 ≤ o then some ⟨o, false, 0, 0x7FFF073F, 0, 0, 0⟩ else none
    else if p.inst = 2 then
      if (0x100 ≤ o ∧ o < 0x180) ∨ (0x200 ≤ o ∧ o < 0x280) then some (roWord o) else findReg ffy2Regs o
    else if p.inst = 7 then findReg ffy7Regs o
    else findReg ffyTRegs o
  | .forager =>
    if p.inst = 1 then (if o < 0x80 then findReg forRegs o else none)
    else if 0x100 ≤ o ∧ o < 0x180 then
      (findReg strmRegs (o % 32)).map (fun r => ⟨o - o % 32 + r.off, r.wide, r.reset, r.rw, r.w1c, r.w1s, r.rc⟩)
    else findReg forRegs o
  | .lnk => if 0x100 ≤ o ∧ p.inst ≠ 0 then none else findReg lnkRegs o
  | .stk => if 0x100 ≤ o ∧ o < 0x180 then some (rcWord o) else findReg stkRegs o
  | .msc =>
    if 0x40 ≤ o ∧ o < 0xC0 then
      if o % 16 < 8 then some ⟨o - o % 8, true, 0, 0xFFFFFFFFFFFFFFFF, 0, 0, 0⟩
      else if o % 16 = 8 then some ⟨o, false, 0, 0x7F, 0, 0, 0⟩ else none
    else findReg mscRegs o
  | .stg => findReg stgRegs o
  | .msf => findReg msfRegs o
  | .col => findReg colRegs o
  | .wvl => findReg wvlRegs o
  | .scb => findReg scbRegs o
  | .tls => findReg tlsRegs o
  | .syn =>
    if 0x800 ≤ o then some ⟨o, false, 0, 0xFFFFFFFF, 0, 0, 0⟩
    else if 0x80 ≤ o ∧ o < 0xC0 then some (roWord o) else findReg synRegs o

/-- Where the view of VF `v` (1 to 15) keeps its registers: the views of R379 are no BAR0 offsets of the PF, so the
model numbers them from 0x400_0000, one page a VF. -/
def viewBase (v : Nat) : Nat := 0x4000000 + 0x1000 * v

/-- The registers of a VF's view (R379): the ring registers and VFEOI; RECOVERY and IMGLEN read 0 there. -/
def viewReg (o : Nat) : Option RegInfo :=
  if o = 0x64 ∨ o = 0x68 then none else if 0x40 ≤ o ∧ o < 0x70 then findReg hstRegs o else none

/-- The register at BAR0 word offset `off`, with its offset counted from BAR0's start. -/
def regAt (off : Nat) : Option RegInfo :=
  if 0x4000000 ≤ off then
    (viewReg (off % 0x1000)).map (fun r => ⟨off - off % 0x1000 + r.off, r.wide, r.reset, r.rw, r.w1c, r.w1s, r.rc⟩)
  else match pageAt (off / 0x1000) with
  | none => none
  | some p =>
    (regInPage p (off % 0x1000)).map (fun r => ⟨off - off % 0x1000 + r.off, r.wide, r.reset, r.rw, r.w1c, r.w1s, r.rc⟩)

/-- What the register word at `off` holds after reset: the value of its page map, 0 where nothing is defined. -/
def resetWord (off : Nat) : Word :=
  match regAt off with
  | none => 0#32
  | some r => if r.off = off then BitVec.ofNat 32 r.reset else BitVec.ofNat 32 (r.reset / 2 ^ 32)

end Sys2Proof.Machine
end

