-- ==== Sys2Proof/Machine/Sparse.lean ====
section
/-!
DEFINITION. Sparse data by key: a list of key and value pairs in one canonical form (keys strictly rising, no entry
equal to what an unlisted key reads as), so that equal contents are equal lists. What an unlisted key reads as is the
argument `f`, one definition per store.
-/
namespace Sys2Proof.Machine

/-- Sparse contents. -/
abbrev SMap (α : Type) := List (Nat × α)

/-- The value at key `k`. -/
def SMap.get {α : Type} (f : Nat → α) : SMap α → Nat → α
  | [], k => f k
  | (j, v) :: m, k => if j = k then v else SMap.get f m k

/-- The entry at key `k`, if listed. -/
def SMap.find? {α : Type} : SMap α → Nat → Option α
  | [], _ => none
  | (j, v) :: m, k => if j = k then some v else SMap.find? m k

/-- The part below key `k`. -/
def SMap.below {α : Type} (m : SMap α) (k : Nat) : SMap α := m.filter (fun p => decide (p.1 < k))

/-- The part from key `k` up. -/
def SMap.above {α : Type} (m : SMap α) (k : Nat) : SMap α := m.filter (fun p => decide (k ≤ p.1))

/-- The entries for the values `vs` at the keys from `k` up, those that differ from what an unlisted key reads as. -/
def SMap.seg {α : Type} [DecidableEq α] (f : Nat → α) : Nat → List α → SMap α
  | _, [] => []
  | k, v :: vs => if v = f k then SMap.seg f (k + 1) vs else (k, v) :: SMap.seg f (k + 1) vs

/-- Write the values `vs` at the keys from `k` up. -/
def SMap.setRange {α : Type} [DecidableEq α] (f : Nat → α) (m : SMap α) (k : Nat) (vs : List α) : SMap α :=
  m.below k ++ (SMap.seg f k vs ++ m.above (k + vs.length))

/-- Write one value. -/
def SMap.set {α : Type} [DecidableEq α] (f : Nat → α) (m : SMap α) (k : Nat) (v : α) : SMap α :=
  SMap.setRange f m k [v]

/-- Return the keys `lo ≤ k < hi` to what an unlisted key reads as. -/
def SMap.clear {α : Type} (m : SMap α) (lo hi : Nat) : SMap α := m.below lo ++ m.above (max lo hi)

/-- The keys rise strictly from `lo` on, and no entry is what an unlisted key reads as. -/
def SMap.wfFrom {α : Type} [DecidableEq α] (f : Nat → α) : Nat → SMap α → Bool
  | _, [] => true
  | lo, (k, v) :: m => decide (lo ≤ k) && decide (v ≠ f k) && SMap.wfFrom f (k + 1) m

/-- The canonical form. -/
def SMap.wf {α : Type} [DecidableEq α] (f : Nat → α) (m : SMap α) : Bool := SMap.wfFrom f 0 m

/-- Consecutive values read from key `k`. -/
def SMap.getRange {α : Type} (f : Nat → α) (m : SMap α) (k n : Nat) : List α :=
  (List.range n).map (fun i => m.get f (k + i))

end Sys2Proof.Machine
end

