-- ==== Sys2Proof/Machine/State.lean ====
section
/-!
DEFINITION. The state of the Caroden: every register, memory, queue, table, mode and pin the spec names, as plain
data, and the queue of the commands that wait. Registers are kept by BAR0 word offset and read their page map's reset
value until written; large memories are sparse maps in one canonical form.
-/
namespace Sys2Proof.Machine

/-! ### Register access buffers (R35) and what the last read returned -/

/-- Completion status of a read (R33, R49, R365). -/
inductive Resp where
  | ok | unsupported
  deriving DecidableEq, Repr

/-- Per-requester shadow registers and low-half write buffers of R35, and the model's own record of the data and the
status the last read command returned (log entry 4). -/
structure BusSt where
  shadows : List (Requester × Nat × Word)
  wbufs : List (Requester × Nat × Word)
  readData : List Byte
  resp : Resp
  deriving DecidableEq, Repr

/-! ### Module pins and power (01, 20) -/

/-- The bulk-capacitance switch of R402. -/
inductive Bulk where
  | opened | charging | charged
  deriving DecidableEq, Repr

/-- Input, pins and latches of the module (R12, R15, R18-R20, R402); `uvOk` and `ovOk` are the two comparisons of R19,
each with its hysteresis. -/
structure ModuleSt where
  inputMv : Nat
  monitorOn : Bool
  uvOk : Bool
  ovOk : Bool
  pwren : Bool
  perst : Bool
  pwrgd : Bool
  trip : Bool
  bulk : Bulk
  conv : Bool
  bootsel : BitVec 2
  i3caddr : BitVec 2
  pcieUp : Bool
  deriving DecidableEq, Repr

/-! ### Apex (16) -/

/-- Where the lock sequence of R342 stands. -/
inductive LockPhase where
  | stopped | measuring | calibrating | locking | locked | released | running
  deriving DecidableEq, Repr

/-- Lock sequence; counts of the last gate, the GATE of the measurement that runs and of the last that ended (R348); the
setting the CLKOUT pin runs at (R347). -/
structure ApexSt where
  phase : LockPhase
  counts : List Nat
  gate : Nat
  lastGate : Nat
  clkSrc : Nat
  clkDiv : Nat
  clkEnable : Bool
  deriving DecidableEq, Repr

/-! ### Ascent (19) -/

/-- Where the microcode broadcast stands (R387). -/
inductive SwarmPhase where
  | idle
  | pass (n : Nat)
  | gather (n : Nat)
  | repair
  | done
  deriving DecidableEq, Repr

/-- The phases a reset waits in (R393); CLEAR is the time after DRAIN. -/
inductive ResetPhase where
  | quiesce | drain | clear
  deriving DecidableEq, Repr

/-- A running reset: its scope, its phase, REMAP of a cell reset, whether QUIESCE waits for the running beat's C(n). -/
structure ResetRun where
  scope : ResetScope
  phase : ResetPhase
  remap : Bool
  waitsBeat : Bool
  deriving DecidableEq, Repr

/-- Fuse mask, live scree map, broadcast and resets (R384-R395); `warm` where stage 7 follows a whole-device reset and
keeps the stacks' contents (R394); requests whose completions come after a DRAINLIMIT (R393). -/
structure AscentSt where
  fuseFaults : SMap (BitVec 9)
  bypass : SMap Nat
  swarmFaults : SMap (BitVec 9)
  uncovered : SMap Nat
  held : SMap DWord
  union : DWord
  swarm : SwarmPhase
  goUsed : Bool
  stage7 : Bool
  stage8 : Bool
  surveying : Bool
  resets : List ResetRun
  niParity : List Nat
  warm : Bool
  lateOut : List (Nat × Nat × Nat)
  deriving DecidableEq, Repr

/-! ### Firmware, fuses and attestation (18) -/

/-- What the boot ROM is doing (R374, R375). -/
inductive BootPhase where
  | idle | verifyFlash | verifyPush | programming | running | recovery
  deriving DecidableEq, Repr

/-- One transport's SPDM connection (R378): how far it has come, and the bytes its transcript holds. -/
structure SpdmConn where
  level : Nat
  transcript : List Byte
  measTranscript : List Byte
  deriving DecidableEq, Repr

/-- Flash, firmware memory, fuses and SPDM (R373-R378). -/
structure TrustSt where
  flash : SMap Byte
  fwMem : SMap Byte
  hdrBuf : SMap Byte
  fuseCtr : Nat
  keySlots : List (List Byte)
  revoked : BitVec 4
  svnTarget : Nat
  boot : BootPhase
  entry : Nat
  fromPush : Bool
  debugEnable : Bool
  spdmDoe : SpdmConn
  spdmMctp : SpdmConn
  spdmOut : List Byte
  deriving DecidableEq, Repr

/-! ### Host rings (18) -/

/-- A completion entry (R372), before it is laid out in bytes. -/
structure Completion where
  job : Word
  code : Nat
  type : Nat
  aux : Nat
  beat : Nat
  info : Nat
  deriving DecidableEq, Repr

/-- One step of a RUN script (R369). -/
structure ScriptStep where
  image : Nat
  count : Nat
  deriving DecidableEq, Repr

/-- A RUN job (R369-R371): its number in fetch order, function, mode, identifier, script, current step, beats still to run
in it, the last beat it ran, whether it has had a beat admitted. -/
structure Job where
  seq : Nat
  fn : Nat
  scramble : Bool
  job : Word
  script : List ScriptStep
  step : Nat
  left : Nat
  lastBeat : Nat
  admitted : Bool
  deriving DecidableEq, Repr

/-- An IMGREG whose checks run (R370). -/
structure ImgReg where
  fn : Nat
  index : Nat
  shared : Bool
  job : Word
  addr : Nat
  deriving DecidableEq, Repr

/-- An MSI-X table entry (R50; PCI Express 6.0): message address, message data, vector control. -/
structure MsixEntry where
  addrLo : Word
  addrHi : Word
  data : Word
  ctrl : Word
  deriving DecidableEq, Repr

/-- Bytes the device wrote into host memory (R367, R368, R372), the model's own record (log entry 9). -/
structure HostWrite where
  fn : Nat
  addr : Nat
  bytes : List Byte
  deriving DecidableEq, Repr

/-- A message sent: function, entry, address, data (R359, R368). -/
structure MsixMsg where
  fn : Nat
  entry : Nat
  addr : Nat
  data : Word
  deriving DecidableEq, Repr

/-- Rings, jobs and MSI-X. Indices are by function, 0 the PF: the device's indices, functions whose ring is being read
at this boundary, descriptors fetched, completions formed, completions that found the ring full (R368); the jobs that
ended in this close window (R370), the number of the next RUN. -/
structure HostSt where
  sqHead : SMap Word
  cqTail : SMap Word
  cqHead : SMap Word
  fetching : List Nat
  fetched : List (Nat × List Byte)
  done : List (Nat × Completion)
  held : List (Nat × Completion)
  waiting : List Job
  jobs : List Job
  ended : List (Nat × Word)
  seq : Nat
  regs : List ImgReg
  out : List HostWrite
  msixTab : SMap MsixEntry
  msixPend : List (Nat × Nat)
  fnMask : BitVec 16
  msix : List MsixMsg
  deriving DecidableEq, Repr

/-! ### Memory (10) -/

/-- Blocks of one stack: those of the channels of a mask, the first `blocks` of each pseudo-channel, outside the ranges
`pins` (a base and a count of 3 MiB granules). -/
structure StackPart where
  stack : Nat
  chans : Nat
  blocks : Nat
  pins : List (Nat × Nat)
  deriving DecidableEq, Repr

/-- A range of indeterminate bytes: [lo, hi), the number of its free bytes, the part of a stack it is confined to, if any,
and how far the bytes have moved from where they became indeterminate. -/
structure OpenRange where
  lo : Nat
  hi : Nat
  seed : Nat
  part : Option StackPart
  shift : Int
  deriving DecidableEq, Repr

/-- Byte contents: the listed bytes, and the ranges whose unlisted bytes are indeterminate (newest first). -/
structure ByteMem where
  cells : List Host.Cell
  opens : List OpenRange
  deriving DecidableEq, Repr

/-- A descriptor in an engine's queue: its bytes and its number in the stream. -/
structure QDesc where
  bytes : List Byte
  idx : Nat
  deriving DecidableEq, Repr

/-- The long operations of an STK page (R218, R220-R222). -/
inductive StkOp where
  | train | retrain | scrub | margin | traffic
  deriving DecidableEq, Repr

/-- Device memory, its errors, the MSC and the copy engine (R209-R222). `pinWork` counts the lines that a slice fetches or
writes back in the background; `pinFetch` lists the granules it fetches, as (slice, granule), and `pinWarm` those whose
lines it holds all. -/
structure MemSt where
  dram : ByteMem
  stackUE : List Nat
  badList : List (Nat × Nat)
  rowFix : SMap Nat
  repairLog : List Nat
  pins : List (Nat × Nat)
  captured : Option (List (Nat × Nat))
  lru : SMap (List Nat)
  pinUE : List Nat
  margins : SMap Word
  tgFirst : SMap Nat
  longOp : SMap (Option StkOp)
  pinWork : SMap Nat
  pinFetch : List (Nat × Nat)
  pinWarm : List (Nat × Nat)
  copyQ : List QDesc
  copyRun : Option QDesc
  deriving DecidableEq, Repr

/-! ### The beat (03) -/

/-- The beat's progress (R65). -/
inductive BeatPhase where
  | off | run | closed | marked | admitted | voted | posted
  deriving DecidableEq, Repr

/-- A registered image (R59, R60): index, header bytes, owner, SHARED, the engine codes of its descriptors, whether a
REDUCE asks for FLOAT, the image that replaces it after a STASH_EXHAUSTED (R165), the feeds its ASSEMBLEs name
(R290), the number of the next RUN when it was registered (R238). -/
structure Image where
  index : Nat
  addr : Nat
  header : List Byte
  owner : Nat
  shared : Bool
  engines : List Nat
  float : Bool
  subst : Option Nat
  feeds : List Nat
  born : Nat
  deriving DecidableEq, Repr

/-- The running beat (R53, R65-R70). -/
structure Beat where
  n : Nat
  image : Option Image
  job : Word
  fn : Nat
  scramble : Bool
  switchBeat : Bool
  pos : Nat
  issued : Nat
  dispatched : Nat
  code : Option Nat
  faultBlock : Nat
  faultAddr : Nat
  origin : Nat
  successes : List Nat
  complete : Option Nat
  drain : Nat
  tokens : Nat
  deriving DecidableEq, Repr

/-- What admission chose for the next beat (R61): its image, job, function and mode, the effective envelope it was
admitted with, the tokens shed (R335), whether a HOLD for it came late (R294). -/
structure NextBeat where
  image : Image
  job : Word
  fn : Nat
  scramble : Bool
  eff : Nat
  shed : Nat
  late : Bool
  deriving DecidableEq, Repr

/-- The device state sampled at C(n) (R62, R65, R331): TIMEGOOD, the pages that are not READY, the partitions that are
READY and not DEGRADED, the width code of each trained port, LIMIT and IDLEPWR. -/
structure Sample where
  timeGood : Bool
  down : List Nat
  partitions : List Bool
  ports : List (Option Nat)
  limit : Nat
  idle : Nat
  deriving DecidableEq, Repr

/-- A failure marker to act on at the next C (R69): job, code, origin rank, the beat that failed. -/
structure StopMark where
  job : Word
  code : Nat
  origin : Nat
  beat : Nat
  deriving DecidableEq, Repr

/-- A beat that a job ran here (R69): its function, job and number, and the write windows of its image. -/
structure RanBeat where
  fn : Nat
  job : Word
  n : Nat
  windows : List (Nat × Nat)
  deriving DecidableEq, Repr

/-- The Cricket; `lastJob` holds, for each function, the number of the job that ran its last beat, plus 1 (R371); `full` is
whether the last record filled the status ring (R72); `ran` holds the beats recorded of the jobs that still run (R69). -/
structure CricketSt where
  phase : BeatPhase
  images : List Image
  cur : Option Beat
  next : Option NextBeat
  sample : Sample
  stops : List StopMark
  holds : List (Word × Nat)
  seen : List (Word × Nat × Bool)
  firstBeat : Nat
  lastJob : SMap Nat
  full : Bool
  ran : List RanBeat
  deriving DecidableEq, Repr

/-! ### The Massif (04, 05, 08, 09) -/

/-- A bank's state (R81). -/
inductive BankState where
  | free | active | held | full | exiting
  deriving DecidableEq, Repr

/-- An accumulator bank: state, 1,024 accumulators by 32 x row + column as bit patterns (FP32, or FP64 where the
format says), overflow, tile coordinates and the operation and flank it belongs to. -/
structure Bank where
  state : BankState
  acc : List DWord
  flags : Nat
  tileR : Nat
  tileC : Nat
  op : Nat
  flank : Nat
  deriving DecidableEq, Repr

/-- The operation in progress in the Massif: its descriptor, its number in the beat, waves begun in each flank, the wave
that folds in each flank, tiles not yet written out, groups whose window fetch has ended, the current group, and whether
a tile it wrote out overflowed. -/
structure MassifOp where
  desc : QDesc
  number : Nat
  waves : List Nat
  folding : List (Option Nat)
  exits : Nat
  fetched : Nat
  group : Nat
  ovf : Bool
  deriving DecidableEq, Repr

/-- The Massif array and its cell stores; a bank is entry 2 x cell + bank, a store byte is key 163,840 x cell + offset;
words with a latent uncorrectable error by the key of their first byte; banks with a latent parity error; whether a tile
has overflowed since the last ATTN began. -/
structure MassifSt where
  queue : List QDesc
  op : Option MassifOp
  unwritten : List MassifOp
  chain : Option MassifOp
  banks : SMap Bank
  nextBank : SMap Nat
  store : ByteMem
  storeUE : List Nat
  bankErr : List Nat
  seq : Nat
  tileOvf : Bool
  deriving DecidableEq, Repr

/-! ### Weevil (06) -/

/-- A ring slot (R140). -/
inductive SlotState where
  | free | filled | held
  deriving DecidableEq, Repr

/-- One slot of a cluster's Weevil ring: its state and the tag of its tile. -/
structure RingSlot where
  state : SlotState
  tag : DWord
  deriving DecidableEq, Repr

/-- A loop level (R136): the address of its first instruction, iterations left. -/
structure LoopLvl where
  start : Nat
  left : Nat
  deriving DecidableEq, Repr

/-- Execution state of one cluster's Weevil (R145, R146). -/
inductive WvlRun where
  | idle | running | blocked
  deriving DecidableEq, Repr

/-- One Weevil (R132, R133, R140, R143): tile register r holds word 1024 r + 32 i + j; mask m bit 1024 m + 32 i + j; the
ring's slots, the operation that fills it, tiles of it delivered, FILLED slots in delivery order, HELD slots oldest
first; 8-byte words with a latent tile-register error, by their even word's key; a latent instruction-memory parity error; what
an unlisted mask bit reads as: 0, or a free value after a beat boundary (R133); whether the running program has set OVF. -/
structure Wvl where
  treg : SMap Word
  areg : SMap DWord
  masks : SMap Bool
  tag : DWord
  loops : List LoopLvl
  pc : Nat
  run : WvlRun
  imem : SMap DWord
  pwl : SMap DWord
  ringBase : Nat
  ring : List RingSlot
  ringOp : Nat
  ringNext : Nat
  ringFill : List Nat
  ringHeld : List Nat
  tregUE : List Nat
  imemErr : Bool
  maskSeed : Nat
  ovf : Bool
  deriving DecidableEq, Repr

/-- The Weevils: the shared queue, the descriptors in progress with a mask of the clusters that have not ended them, and
the clusters. -/
structure WeevilSt where
  queue : List QDesc
  run : List (QDesc × Nat)
  cl : SMap Wvl
  deriving DecidableEq, Repr

/-! ### Col, Scarab, Talus (07) -/

/-- Col: its queue and the descriptor whose placements run. -/
structure ColSt where
  queue : List QDesc
  run : Option QDesc
  stageUE : List Nat
  deriving DecidableEq, Repr

/-- One Scarab: its queue, its statistics memory, entries with an uncorrectable error, whether its head has saturated a value,
a latent uncorrectable error in its row buffer. -/
structure Scb where
  queue : List QDesc
  stat : SMap DWord
  statUE : List Nat
  ovf : Bool
  bufUE : Bool
  deriving DecidableEq, Repr

/-- The Scarabs; `fin` holds the descriptors in progress with the number of clusters that have not finished them, `begun` the
numbers of those that some cluster has begun. -/
structure ScarabSt where
  cl : SMap Scb
  fin : List (QDesc × Nat)
  begun : List Nat
  deriving DecidableEq, Repr

/-- States of a Talus entry (R162); a SPILLED entry may be released (R164). -/
inductive EntState where
  | free | opened | resident | spilling | spilled | released
  deriving DecidableEq, Repr

/-- A Talus entry (R161-R164). -/
structure TlsEnt where
  state : EntState
  spillable : Bool
  narrowed : Bool
  fmt : Nat
  size : Nat
  pages : Nat
  order : Nat
  stash : Nat
  deriving DecidableEq, Repr

/-- One Talus: queue, entries, page data (byte `o` of entry `e` is key 2^22 x e + o), stash stack (entry numbers, top
first), close counter, stopped queue, entries with an uncorrectable error, spills in progress. -/
structure Tls where
  queue : List QDesc
  ents : SMap TlsEnt
  data : ByteMem
  stack : List Nat
  seq : Nat
  stuck : Bool
  ue : List Nat
  spilling : List Nat
  deriving DecidableEq, Repr

/-- The Taluses; `fin` as the Scarabs'. -/
structure TalusSt where
  cl : SMap Tls
  fin : List (QDesc × Nat)
  deriving DecidableEq, Repr

/-! ### Stag (11) -/

/-- State of a slot in one unit (R231). -/
inductive StagState where
  | idle | armed | complete
  deriving DecidableEq, Repr

/-- A Stag slot: the ARM that armed it with the group table it read, its state in each of the twelve units, the lines that have arrived (source,
sequence), the agreed words once every exponent line has arrived (R234), whether a REDUCE has named it, the last tag it
completed in the beat. -/
structure StagSlot where
  arm : Option QDesc
  group : List Byte
  units : List StagState
  arrived : List (Nat × Nat)
  words : Option (List Nat)
  named : Bool
  lastTag : Option Nat
  deriving DecidableEq, Repr

/-- An active REDUCE or UPDATE (R241): its descriptor, the group table it read, its slot (16 for an UPDATE), the requests it sent (step, IPORT,
TAG, GEN), the tree level each shard has reached (FLOAT), the words of its own shard that step 3 read, and which steps are done. -/
structure StagAct where
  desc : QDesc
  group : List Byte
  slot : Nat
  sent : List (Nat × Nat × Nat × Nat)
  levels : List Nat
  wordsRead : List Nat
  agreed : Bool
  sentVal : Bool
  converted : Bool
  updated : Bool
  deriving DecidableEq, Repr

/-- The update microprogram engine (R246): registers X0-X15 as FP32 bits, the next instruction, the value index and the
number of values, whether it runs, and the number of the descriptor it runs for. -/
structure Micro where
  x : SMap Word
  pc : Nat
  idx : Nat
  count : Nat
  running : Bool
  owner : Nat
  deriving DecidableEq, Repr

/-- Stag; `tree` holds the partial sums of FLOAT lines, by slot and line; misses by 16 x unit + slot. -/
structure StagSt where
  queue : List QDesc
  slots : SMap StagSlot
  act : List StagAct
  tree : SMap (List Word)
  micro : Micro
  missCount : SMap Nat
  missFirst : SMap Nat
  deriving DecidableEq, Repr

/-! ### Hive (12) -/

/-- A tenancy switch (R258): 0 while the save runs, 1 while the load runs, 2 when both are done; the tenancies, Tsw in
cycles, the last switch beat. -/
structure Switch where
  stage : Nat
  outgoing : Nat
  incoming : Nat
  cycles : Nat
  lastBeat : Nat
  deriving DecidableEq, Repr

/-- What the header and the control records of a context image hold (R257), whose layout the spec does not give: Weevils,
Scarabs and Taluses without their memories, configuration registers, BEATNUM of the save; and the number of the
indeterminate bytes that stand for them in the image. -/
structure Context where
  weevil : SMap Wvl
  scarab : SMap Scb
  talus : SMap Tls
  regs : SMap Word
  beat : Nat
  seed : Nat
  deriving DecidableEq, Repr

/-- The Hive: 4,096 entries of 32 bytes (R260), the pool block of each tenancy as it was read (R262), contexts, the
switch, the work list of the running beat as rows (entry, NQ) and the list admission has placed for the next (R263,
R264), the PREEMPT request captured at C(n) (R255), the tenancy to switch to at B(n + 1), pending ENABLED writes, and
the tenancies whose load failed (R259). -/
structure HiveSt where
  ents : SMap Byte
  pools : SMap (List Byte)
  saved : SMap (Option Context)
  switching : Option Switch
  rows : List (Nat × Nat)
  nextRows : List (Nat × Nat)
  request : Option Nat
  switchTo : Option Nat
  enPend : List (Nat × Bool)
  badLoad : List Nat
  deriving DecidableEq, Repr

/-! ### Forager (13) -/

/-- A decoded sample in a feed's cache (R278-R280): its key without the frame, SAMPLEID of its record, the frame, the number of
frames the field has, its kind (R289), the chroma siting (0 the centre), its decoded numbers, its size in bytes. -/
structure Cached where
  key : List Byte
  id : List Byte
  frame : Nat
  frames : Nat
  kind : Nat
  siting : Nat
  data : List Nat
  size : Nat
  deriving DecidableEq, Repr

/-- A feed (R280-R296): state as FEEDSTAT, function, block, records as listed (the slot and batch of a parked sample
changed), outcomes by position, cache keys by position, cache oldest first, decodes in progress (position, tick of their start),
next batch, batches decided (R295), decode times newest first, success notes by batch (R295), reports written,
the code of a fault or the last command (R301), the code of its FAULT (R280), positions whose sample a standby sample has
replaced (R295), the field type of failed samples that have one (R290), whether a CLOSE waits (R281). -/
structure Feed where
  state : Nat
  fn : Nat
  block : List Byte
  records : List (List Byte)
  outcomes : List (Nat × Nat)
  keys : List (Nat × List Byte)
  cache : List Cached
  decoding : List (Nat × Nat)
  next : Nat
  voted : Nat
  times : List Nat
  notes : List (Nat × Nat)
  reports : Nat
  code : Nat
  fault : Nat
  gone : List Nat
  kinds : List (Nat × Nat)
  closing : Bool
  deriving DecidableEq, Repr

/-- A live stream (R297, R298): admitted, decoded frames (capture time, what the record's field decoded to), system time of the
last arrival, a REOPEN that waits for the boundary. -/
structure Stream where
  frames : List (Nat × List Cached)
  last : Nat
  reopen : Bool
  deriving DecidableEq, Repr

/-- An encode in progress (R299). -/
structure Enc where
  fn : Nat
  job : Word
  block : List Byte
  deriving DecidableEq, Repr

/-- The Forager; the ASSEMBLE in progress with its batch, the feed whose OPEN counts as the long operation (R281), engines
with a latent uncorrectable SRAM error (R301). -/
structure ForagerSt where
  feeds : SMap Feed
  enc : List Enc
  queue : List QDesc
  run : Option (QDesc × Nat)
  streams : SMap Stream
  warm : Option Nat
  engUE : List Nat
  deriving DecidableEq, Repr

/-! ### Carodlink (14) -/

/-- An outstanding request in a completion table (R317): its transaction, its generation, its age in ticks, and the STG unit
that issued it (R248). -/
structure Outst where
  tag : Nat
  gen : Nat
  txn : Txn
  age : Nat
  unit : Nat
  deriving DecidableEq, Repr

/-- What a port has sent (the model's own record, log entry 16): flits, a DATA flit with the transactions that have slots in
it, `cont` where its first one began in the flit before; in IDENT this end's identity (R307). -/
inductive Sent where
  | data (h : FlitHdr) (txns : List Txn) (cont : Bool)
  | idle (h : FlitHdr)
  | nak (h : FlitHdr)
  | ident (rank port dist : Nat) (valid : Bool)
  deriving DecidableEq, Repr

/-- A DATA flit in the replay buffer (R310): FSEQ, the transactions that have slots in it, whether its first one began in the
flit before. -/
structure Flit where
  fseq : Nat
  txns : List Txn
  cont : Bool
  deriving DecidableEq, Repr

/-- A port's own state beside its page (R304-R319): slots freed whose credits have not gone back, the ACKSEQ of the last header
sent, MAXWIDTH of the running TRAIN; what has been accepted and not yet performed. -/
structure Port where
  step : Nat
  maxWidth : Nat
  fromRecovery : Bool
  fseq : Nat
  ackseq : Nat
  expected : Nat
  discarding : Bool
  nakSeq : Nat
  naks : Nat
  replaying : Nat
  replayBuf : List Flit
  sendQ : List Txn
  creditReq : Nat
  creditCpl : Nat
  owedReq : Nat
  owedCpl : Nat
  ackSent : Nat
  partialRx : List Byte
  dropFirst : Bool
  received : List Txn
  held : List Txn
  table : List Outst
  gens : SMap Nat
  tx : List Sent
  deriving DecidableEq, Repr

/-- A route entry (R314, R326). -/
structure Route where
  primary : Nat
  alternate : Nat
  inuse : Bool
  deriving DecidableEq, Repr

/-- The last SYNC applied from a rank in the beat (R319). -/
structure SyncRec where
  src : Nat
  tag : Nat
  gen : Nat
  deriving DecidableEq, Repr

/-- Time transfer (R323, R324): the three timestamps of the running exchange; for each port, how many SYNCs in a row have
offered a smaller DIST than SRCPORT's; how far the rate of SYSTIME is steered, in parts per 10^9, and the part of a tick that
steering has gathered. -/
structure TimeSt where
  t1 : Nat
  t2 : Nat
  t3 : Nat
  cand : SMap Nat
  rate : Int
  frac : Int
  deriving DecidableEq, Repr

/-- Carodlink; SYNCs that wait for an earlier one to the same destination (R315), with their IPORT. -/
structure LinkSt where
  ports : SMap Port
  staged : SMap Route
  routes : SMap Route
  syncRec : List SyncRec
  localQ : List Txn
  localTable : List Outst
  localGens : SMap Nat
  syncWait : List (Nat × Txn)
  time : TimeSt
  deriving DecidableEq, Repr

/-! ### Power (15), Firefly (17) -/

/-- Power telemetry kept between samples (R330, R336): the input power (mW) of the last ten samples, newest first; the
last telemetry; whether the running beat was throttled; ENERGY at B(n); the nanojoules below ENERGY's last unit; the
cycle of the 256-cycle throttle window. -/
structure PowerSt where
  samples : List Nat
  last : Telemetry
  thrown : Bool
  energyB : Nat
  energyFrac : Nat
  winPos : Nat
  deriving DecidableEq, Repr

/-- State of an interrupt source (R353). -/
inductive IrqState where
  | idle | pending | active
  deriving DecidableEq, Repr

/-- Firefly: the sources that are not IDLE, the stacks (top first: pushed priority, source), running priorities, and
which target claimed an ACTIVE source. -/
structure FireflySt where
  src : SMap IrqState
  nest : SMap (List (Nat × Nat))
  run : SMap (Option Nat)
  owner : SMap Nat
  deriving DecidableEq, Repr

/-! ### The device -/

/-- All of the device but the command queue. -/
structure Dev where
  regs : SMap Word
  bus : BusSt
  module : ModuleSt
  apex : ApexSt
  ascent : AscentSt
  trust : TrustSt
  host : HostSt
  mem : MemSt
  cricket : CricketSt
  massif : MassifSt
  weevil : WeevilSt
  col : ColSt
  scarab : ScarabSt
  talus : TalusSt
  stag : StagSt
  hive : HiveSt
  forager : ForagerSt
  link : LinkSt
  power : PowerSt
  firefly : FireflySt
  enPend : List (Nat × Bool)
  freeCtr : Nat
  deriving DecidableEq, Repr

/-- The machine: the device and the commands that wait, first in, first out. -/
structure State where
  pending : List Instr
  dev : Dev
  deriving DecidableEq, Repr

/-- Faults: none. No command of the spec stops the block; failures are status codes held in the state. Raised by
nothing. -/
inductive Fault where
  /-- Kept for the shape of the interface; no meaning answers it (safe). -/
  | none
  deriving DecidableEq, Repr

/-- Refusals. -/
inductive Refusal where
  /-- An instruction without its meaning in this model yet; raised by `exec` (safe). -/
  | notModelled (mnemonic : String)
  deriving DecidableEq, Repr

/-! ### Reset values (the log entries that INVENTORY.md names, where the spec gives none) -/

def BusSt.reset : BusSt := ⟨[], [], [], .ok⟩

def ModuleSt.reset : ModuleSt := ⟨0, false, false, true, false, false, false, false, .opened, false, 0#2, 0#2, false⟩

def ApexSt.reset : ApexSt := ⟨.stopped, [], 0, 0, 0, 0, false⟩

def AscentSt.reset : AscentSt := ⟨[], [], [], [], [], 0#64, .idle, false, false, false, false, [], [], false, []⟩

def SpdmConn.reset : SpdmConn := ⟨0, [], []⟩

def TrustSt.reset : TrustSt :=
  ⟨[], [], [], 0, [], 0#4, 0, .idle, 0, false, false, SpdmConn.reset, SpdmConn.reset, []⟩

def HostSt.reset : HostSt := ⟨[], [], [], [], [], [], [], [], [], [], 0, [], [], [], [], 0#16, []⟩

def MemSt.reset : MemSt := ⟨⟨[], []⟩, [], [], [], [], [], none, [], [], [], [], [], [], [], [], [], none⟩

def CricketSt.reset : CricketSt :=
  ⟨.off, [], none, none, ⟨false, [], [], [], 0, 0⟩, [], [], [], 0, [], false, []⟩

def MassifSt.reset : MassifSt := ⟨[], none, [], none, [], [], ⟨[], []⟩, [], [], 0, false⟩

def WeevilSt.reset : WeevilSt := ⟨[], [], []⟩

def ColSt.reset : ColSt := ⟨[], none, []⟩

def ScarabSt.reset : ScarabSt := ⟨[], [], []⟩

def TalusSt.reset : TalusSt := ⟨[], []⟩

def StagSt.reset : StagSt := ⟨[], [], [], [], ⟨[], 0, 0, 0, false, 0⟩, [], []⟩

def HiveSt.reset : HiveSt := ⟨[], [], [], none, [], [], none, none, [], []⟩

def ForagerSt.reset : ForagerSt := ⟨[], [], [], none, [], none, []⟩

def LinkSt.reset : LinkSt := ⟨[], [], [], [], [], [], [], [], ⟨0, 0, 0, [], 0, 0⟩⟩

def PowerSt.reset : PowerSt := ⟨[], ⟨0, 0, 0, [], []⟩, false, 0, 0, 0⟩

def FireflySt.reset : FireflySt := ⟨[], [], [], []⟩

def Dev.reset : Dev where
  regs := []
  bus := BusSt.reset
  module := ModuleSt.reset
  apex := ApexSt.reset
  ascent := AscentSt.reset
  trust := TrustSt.reset
  host := HostSt.reset
  mem := MemSt.reset
  cricket := CricketSt.reset
  massif := MassifSt.reset
  weevil := WeevilSt.reset
  col := ColSt.reset
  scarab := ScarabSt.reset
  talus := TalusSt.reset
  stag := StagSt.reset
  hive := HiveSt.reset
  forager := ForagerSt.reset
  link := LinkSt.reset
  power := PowerSt.reset
  firefly := FireflySt.reset
  enPend := []
  freeCtr := 0

/-- The machine right after reset: every register at its page map's value, nothing listed, nothing waiting. -/
def State.reset : State := ⟨[], Dev.reset⟩

end Sys2Proof.Machine
end

