-- ==== Sys2Proof/Machine/Ops.lean ====
section
/-!
DEFINITION. The named operations over the device: register words and their fields, the page header (R37-R45), long
operations (R45), saturating counters, time, indeterminate values and byte memories. Everything a command does to a
register goes through these.
-/
namespace Sys2Proof.Machine

/-- A meaning that changes the device and nothing else: it answers the next state and leaves the queue alone. -/
def onDev (f : Dev → Dev) (s : State) : Host.Outcome State Fault Refusal := .next { s with dev := f s.dev }

/-! ### Register words -/

/-- The register word at BAR0 word offset `a`. -/
def Dev.rd (d : Dev) (a : Nat) : Word := d.regs.get resetWord a

/-- Write the register word at `a`. -/
def Dev.wr (d : Dev) (a : Nat) (v : Word) : Dev := { d with regs := d.regs.set resetWord a v }

/-- A register word as a number. -/
def Dev.num (d : Dev) (a : Nat) : Nat := (d.rd a).toNat

/-- Write a register word from a number. -/
def Dev.setNum (d : Dev) (a n : Nat) : Dev := d.wr a (BitVec.ofNat 32 n)

/-- A 64-bit register as a number: low word at `a`, high word at `a + 4`. -/
def Dev.num64 (d : Dev) (a : Nat) : Nat := d.num a + 2 ^ 32 * d.num (a + 4)

/-- Write a 64-bit register. -/
def Dev.setNum64 (d : Dev) (a n : Nat) : Dev := (d.setNum a n).setNum (a + 4) (n / 2 ^ 32)

/-- Field [hi:lo] of the word at `a`. -/
def Dev.fld (d : Dev) (a hi lo : Nat) : Nat := field (d.num a) hi lo

/-- Write field [hi:lo] of the word at `a`. -/
def Dev.setFld (d : Dev) (a hi lo v : Nat) : Dev := d.setNum a (withField (d.num a) hi lo v)

/-- Bit `i` of the word at `a`. -/
def Dev.flag (d : Dev) (a i : Nat) : Bool := bit (d.num a) i

/-- Set bit `i` of the word at `a` to `b`. -/
def Dev.setFlag (d : Dev) (a i : Nat) (b : Bool) : Dev := d.setFld a i i b.toNat

/-- Set bit `i` of the word at `a`. -/
def Dev.raise (d : Dev) (a i : Nat) : Dev := d.setFlag a i true

/-- Clear bit `i` of the word at `a`. -/
def Dev.drop (d : Dev) (a i : Nat) : Dev := d.setFlag a i false

/-- Add to a 32-bit counter that saturates at 0xFFFF_FFFF. -/
def Dev.countSat (d : Dev) (a n : Nat) : Dev := d.setNum a (min (d.num a + n) 0xFFFFFFFF)

/-- Add to a 64-bit counter, modulo 2 to the 64. -/
def Dev.count64 (d : Dev) (a n : Nat) : Dev := d.setNum64 a ((d.num64 a + n) % 2 ^ 64)

/-! ### The page header (R37-R45) -/

/-- STATUS, CTRL, ERRSUM, IRQSUM and the long-operation registers of the page at base `b`. -/
def oStatus (b : Nat) : Nat := b + 0xC
def oCtrl (b : Nat) : Nat := b + 0x10
def oErrsum (b : Nat) : Nat := b + 0x14
def oIrqsum (b : Nat) : Nat := b + 0x18
def oProgress (b : Nat) : Nat := b + 0x1C
def oPosition (b : Nat) : Nat := b + 0x20
def oTotal (b : Nat) : Nat := b + 0x28
def oIrqen (b : Nat) : Nat := b + 0x30

/-- Set bit `i` of ERRSUM. -/
def Dev.err (d : Dev) (b i : Nat) : Dev := d.raise (oErrsum b) i

/-- A block's uncorrectable data error: its own bit `i`, and UNCORRECTABLE (R43). -/
def Dev.errData (d : Dev) (b i : Nat) : Dev := (d.err b i).err b 1

/-- Set bit `i` of IRQSUM (R44). -/
def Dev.irq (d : Dev) (b i : Nat) : Dev := d.raise (oIrqsum b) i

/-- STATUS.READY (R39). FAULT forces READY to 0 (R40). -/
def Dev.ready (d : Dev) (b : Nat) : Bool := d.flag (oStatus b) 0
def Dev.setReady (d : Dev) (b : Nat) (v : Bool) : Dev :=
  d.setFlag (oStatus b) 0 (v && !d.flag (oStatus b) 2)

/-- STATUS.BUSY. -/
def Dev.busy (d : Dev) (b : Nat) : Bool := d.flag (oStatus b) 1
def Dev.setBusy (d : Dev) (b : Nat) (v : Bool) : Dev := d.setFlag (oStatus b) 1 v

/-- STATUS.FAULT; setting it clears READY (R40) and latches IRQSUM.FAULT, bit 0 of every page that has it. -/
def Dev.isFault (d : Dev) (b : Nat) : Bool := d.flag (oStatus b) 2
def Dev.setFault (d : Dev) (b : Nat) : Dev := ((d.raise (oStatus b) 2).drop (oStatus b) 0).irq b 0
def Dev.clearFault (d : Dev) (b : Nat) : Dev := d.drop (oStatus b) 2

/-- STATUS.DEGRADED. -/
def Dev.degraded (d : Dev) (b : Nat) : Bool := d.flag (oStatus b) 3
def Dev.setDegraded (d : Dev) (b : Nat) (v : Bool) : Dev := d.setFlag (oStatus b) 3 v

/-- DEGRADED of a page whose IRQSUM bit 1 latches each rise of it (R98). -/
def Dev.noteDegraded (d : Dev) (b : Nat) (v : Bool) : Dev :=
  (if v && !d.degraded b then d.irq b 1 else d).setDegraded b v

/-- STATUS.LASTCODE. -/
def Dev.lastCode (d : Dev) (b code : Nat) : Dev := d.setFld (oStatus b) 15 8 code

/-- CTRL.ENABLE as written. -/
def Dev.enable (d : Dev) (b : Nat) : Bool := d.flag (oCtrl b) 0

/-- CTRL.ENABLE in effect: a write of 0 takes effect at the next beat boundary (R41), a write under reset when the reset
ends (R42); until then the value before it is in effect. -/
def Dev.enableInEffect (d : Dev) (b : Nat) : Bool :=
  match d.enPend.find? (fun p => p.1 == b) with
  | some p => !p.2
  | none => d.enable b

/-- PROGRESS, by R45: floor(10,000 x POSITION / TOTAL), 0 with TOTAL = 0. -/
def progressOf (pos total : Nat) : Nat := if total = 0 then 0 else 10000 * pos / total

/-- A long operation starts (R45): TOTAL, then POSITION and PROGRESS 0, then BUSY. -/
def Dev.startLong (d : Dev) (b total : Nat) : Dev :=
  (((d.setNum64 (oTotal b) total).setNum64 (oPosition b) 0).setNum (oProgress b) 0).setBusy b true

/-- POSITION moves, and PROGRESS with it. -/
def Dev.position (d : Dev) (b pos : Nat) : Dev :=
  (d.setNum64 (oPosition b) pos).setNum (oProgress b) (progressOf pos (d.num64 (oTotal b)))

/-- A long operation ends with a code: BUSY clears, the three values hold (R45). -/
def Dev.endLong (d : Dev) (b code : Nat) : Dev := (d.setBusy b false).lastCode b code

/-! ### Time -/

/-- System time in ticks (R54). -/
def Dev.now (d : Dev) : Nat := d.num64 CKT.SYSTIME

/-- System time moves to `t`, modulo 2 to the 64. -/
def Dev.setNow (d : Dev) (t : Nat) : Dev := d.setNum64 CKT.SYSTIME (t % 2 ^ 64)

/-- System time moves on to `t` if it lies ahead. -/
def Dev.advanceTo (d : Dev) (t : Nat) : Dev := if d.now < t then d.setNow t else d

/-- CKT.PERIOD and CKT.EPOCH. -/
def Dev.period (d : Dev) : Nat := d.num CKT.PERIOD
def Dev.epoch (d : Dev) : Nat := d.num64 CKT.EPOCH

/-- B(n) = EPOCH + n x PERIOD (R54). -/
def Dev.beatStartAt (d : Dev) (n : Nat) : Nat := d.epoch + n * d.period

/-- C(n) = B(n) + P - 300 (Shape of a beat). -/
def Dev.closeAt (d : Dev) (n : Nat) : Nat := d.beatStartAt n + d.period - 300

/-! ### Free values -/

/-- A free word: it depends on the counter, which the step advances. -/
def Dev.freshWord (d : Dev) : Word × Dev := (Config.freeWord d.freeCtr, { d with freeCtr := d.freeCtr + 1 })

/-- A free natural number. -/
def Dev.freshNat (d : Dev) : Nat × Dev := (Config.freeNat d.freeCtr, { d with freeCtr := d.freeCtr + 1 })

/-- Add a free number of cycles to a 64-bit counter whose stalls the spec does not fix. -/
def Dev.countFree64 (d : Dev) (a : Nat) : Dev := (d.freshNat.2).count64 a d.freshNat.1

/-! ### Where a byte of device memory lies (R209) -/

/-- The stack of a device address (R209). -/
def stackOf (a : Nat) : Nat := (a / 256) % 12

/-- The local block in its stack (R209). -/
def localBlock (a : Nat) : Nat := (a / 256) / 12

/-- The pseudo-channel (R209). -/
def pseudoChannel (a : Nat) : Nat :=
  let lb := localBlock a
  (Nat.xor (Nat.xor lb (lb / 2 ^ 6)) (lb / 2 ^ 12)) % 64

/-- Whether address `a` lies in a pinned range (R211); a range is a base and a count of 3 MiB granules. -/
def pinnedIn (pins : List (Nat × Nat)) (a : Nat) : Bool :=
  pins.any (fun p => decide (p.1 ≤ a ∧ a < p.1 + p.2 * 0x300000))

/-- Blocks of every pseudo-channel. -/
def chanBlocks : Nat := 2 ^ 22

/-- The whole of stack `s`. -/
def StackPart.whole (s : Nat) : StackPart := ⟨s, 2 ^ 32 - 1, chanBlocks, []⟩

/-- Whether a part of a stack holds address `a`. -/
def StackPart.has (p : StackPart) (a : Nat) : Bool :=
  stackOf a == p.stack && bit p.chans (pseudoChannel a / 2) && decide (localBlock a / 64 < p.blocks) && !pinnedIn p.pins a

/-! ### Byte memories -/

/-- What an unlisted byte of a byte memory reads as (log entry 11). -/
def zeroByte (_ : Nat) : Byte := 0#8

/-- Where the byte at address `a` of an open range became indeterminate. -/
def OpenRange.key (o : OpenRange) (a : Nat) : Nat := ((a : Int) + o.shift).toNat

/-- Whether address `a` lies in an open range. -/
def OpenRange.holds (o : OpenRange) (a : Nat) : Bool :=
  decide (o.lo ≤ a ∧ a < o.hi) && (match o.part with | none => true | some p => p.has (o.key a))

/-- The open range that holds address `a`. -/
def openAt (opens : List OpenRange) (a : Nat) : Option OpenRange := opens.find? (fun o => o.holds a)

/-- One byte: indeterminate inside an open range, otherwise the listed byte, otherwise 0. -/
def ByteMem.read (m : ByteMem) (a : Nat) : Byte :=
  match openAt m.opens a with
  | some o => Config.freeByte o.seed (o.key a)
  | none => SMap.get zeroByte m.cells a

/-- `n` bytes from address `a`. -/
def ByteMem.readN (m : ByteMem) (a n : Nat) : List Byte := (List.range n).map (fun i => m.read (a + i))

/-- A range less `[lo, hi)`. -/
def OpenRange.carve (o : OpenRange) (lo hi : Nat) : List OpenRange :=
  (if o.lo < min o.hi lo then [{ o with hi := min o.hi lo }] else []) ++
  (if max o.lo hi < o.hi then [{ o with lo := max o.lo hi }] else [])

/-- The open ranges less `[lo, hi)`. -/
def carveAll (opens : List OpenRange) (lo hi : Nat) : List OpenRange := opens.flatMap (fun o => o.carve lo hi)

/-- Write bytes from address `a` up. -/
def ByteMem.write (m : ByteMem) (a : Nat) (bs : List Byte) : ByteMem :=
  if bs = [] then m
  else ⟨SMap.setRange zeroByte m.cells a bs, carveAll m.opens a (a + bs.length)⟩

/-- The bytes of `[lo, hi)` become indeterminate. -/
def ByteMem.openUp (m : ByteMem) (lo hi seed : Nat) : ByteMem :=
  if lo < hi then ⟨SMap.clear m.cells lo hi, ⟨lo, hi, seed, none, 0⟩ :: carveAll m.opens lo hi⟩ else m

/-- Every byte below `top` of a part of a stack becomes indeterminate. -/
def ByteMem.openStack (m : ByteMem) (p : StackPart) (top seed : Nat) : ByteMem :=
  ⟨m.cells.filter (fun c => !p.has c.1), ⟨0, max 1 top, seed, some p, 0⟩ :: m.opens⟩

/-- The bytes of `[lo, hi)` become 0. -/
def ByteMem.zero (m : ByteMem) (lo hi : Nat) : ByteMem :=
  if lo < hi then ⟨SMap.clear m.cells lo hi, carveAll m.opens lo hi⟩ else m

/-- The part of an open range inside `[lo, hi)`, moved so that `lo` comes to stand at `dst`. -/
def OpenRange.moved (o : OpenRange) (lo hi dst : Nat) : List OpenRange :=
  if max o.lo lo < min o.hi hi then
    [{ o with lo := max o.lo lo - lo + dst, hi := min o.hi hi - lo + dst, shift := o.shift + (lo : Int) - (dst : Int) }]
  else []

/-- The `n` bytes of `src` from `lo` on are copied to the bytes of `m` from `dst` on. -/
def ByteMem.blit (m src : ByteMem) (lo n dst : Nat) : ByteMem :=
  if n = 0 then m
  else ⟨SMap.below m.cells dst ++ (((SMap.below (SMap.above src.cells lo) (lo + n)).map (fun c => (c.1 - lo + dst, c.2))) ++
      SMap.above m.cells (dst + n)),
    src.opens.flatMap (fun o => o.moved lo (lo + n) dst) ++ carveAll m.opens dst (dst + n)⟩

/-- The same bytes in canonical form. -/
def ByteMem.tidy (m : ByteMem) : ByteMem :=
  let opens := m.opens.filter (fun o => decide (o.lo < o.hi))
  ⟨(m.cells.foldr (fun (c : Host.Cell) acc => SMap.set zeroByte acc c.1 c.2) []).filter (fun c => (openAt opens c.1).isNone),
    opens⟩

/-- A map of words of `w` bytes as bytes. -/
def packWords (w : Nat) (m : List (Nat × Nat)) : ByteMem :=
  ⟨m.flatMap (fun p => SMap.seg zeroByte (w * p.1) (leBytes w p.2)), []⟩

/-- The words of `w` bytes that some listed or indeterminate byte belongs to. -/
def ByteMem.wordsAt (m : ByteMem) (w : Nat) : List Nat :=
  m.cells.map (fun c => c.1 / w) ++
  m.opens.flatMap (fun o => (List.range ((o.hi - 1) / w + 1 - o.lo / w)).map (fun i => o.lo / w + i))

/-- Words of `w` bytes read back from bytes. -/
def unpackWords {α : Type} [DecidableEq α] (f : Nat → α) (of : Nat → α) (w : Nat) (m : ByteMem) : SMap α :=
  (m.wordsAt w).foldl (fun acc i => acc.set f i (of (leNat (m.readN (w * i) w)))) []

/-- The canonical form of a byte memory: the listed bytes in canonical form and none inside an open range, no open range
empty. -/
def ByteMem.wf (m : ByteMem) : Bool :=
  SMap.wf zeroByte m.cells && m.cells.all (fun c => (openAt m.opens c.1).isNone) &&
  m.opens.all (fun o => decide (o.lo < o.hi))

/-- The canonical form of device memory. -/
abbrev Memory.wf (m : ByteMem) : Bool := m.wf

end Sys2Proof.Machine
end

