-- ==== Sys2Proof/Machine/BeatOps.lean ====
section
/-!
DEFINITION. What every engine shares about the running beat: the image header's fields (R59), the tenancy's region and
grants (R366), the write windows (R64), failing a beat (R67, R53) and its success conditions (R70).
-/
namespace Sys2Proof.Machine

/-- Device memory is 768 GiB (R209). -/
def memTop : Nat := 0xC000000000

/-! ### Image header fields (R59) -/
def Image.passKind (i : Image) : Nat := byteAt i.header 0x08
def Image.flags (i : Image) : Nat := byteAt i.header 0x09
def Image.bedrockOk (i : Image) : Bool := bit i.flags 0
def Image.scrambleOk (i : Image) : Bool := bit i.flags 1
def Image.stashFb (i : Image) : Nat := field i.flags 3 2
def Image.variant (i : Image) : Nat := byteAt i.header 0x0A
def Image.partMask (i : Image) : Nat := field (byteAt i.header 0x0B) 3 0
def Image.family (i : Image) : Nat := fieldAt i.header 0x0C 4
def Image.wcet (i : Image) : Nat := fieldAt i.header 0x10 4
def Image.envelope (i : Image) : Nat := fieldAt i.header 0x14 4
def Image.recompImg (i : Image) : Nat := fieldAt i.header 0x18 2
def Image.winCount (i : Image) : Nat := fieldAt i.header 0x1A 2
def Image.linkWidth (i : Image) (p : Nat) : Nat := field (fieldAt i.header 0x1C 12) (4 * p + 3) (4 * p)
def Image.descAddr (i : Image) : Nat := fieldAt i.header 0x28 8
def Image.descBytes (i : Image) : Nat := fieldAt i.header 0x30 4
def Image.descCount (i : Image) : Nat := fieldAt i.header 0x34 4
def Image.winBase (i : Image) (w : Nat) : Nat := fieldAt i.header (0x40 + 16 * w) 8
def Image.winLen (i : Image) (w : Nat) : Nat := fieldAt i.header (0x48 + 16 * w) 8

/-- The write windows of an image: base and length. -/
def Image.windows (i : Image) : List (Nat × Nat) :=
  (List.range i.winCount).map (fun w => (i.winBase w, i.winLen w))

/-- Whether an image's link requirement names any port. -/
def Image.usesLinks (i : Image) : Bool := (List.range 24).any (fun p => i.linkWidth p ≠ 0)

/-! ### The running beat -/

/-- A beat is running its program or its close has begun: a failure still belongs to it (R68). -/
def Dev.beatOpen (d : Dev) : Bool := d.cricket.phase == .run || d.cricket.phase == .closed

/-- The image of the running beat. -/
def Dev.curImage (d : Dev) : Option Image := d.cricket.cur.bind (fun b => b.image)

/-- Descriptors of the running beat may be dispatched and issued: its run window is open, it has an image and it has
not failed (R65, R67). -/
def Dev.issuing (d : Dev) : Bool :=
  d.cricket.phase == .run &&
  (match d.cricket.cur with
   | some b => b.image.isSome && b.code.isNone && !b.switchBeat
   | none => false)

/-- Operations of the beat already issued may run on: its run window is open and it has an image (R67). -/
def Dev.running (d : Dev) : Bool :=
  d.cricket.phase == .run &&
  (match d.cricket.cur with
   | some b => b.image.isSome && !b.switchBeat
   | none => false)

/-- The running beat's tenancy; the resident tenancy where none runs. -/
def Dev.tenancy (d : Dev) : Nat :=
  match d.cricket.cur with
  | some b => b.fn
  | none => d.num HIV.RESIDENT % 16

/-- The mode of the running beat is BEDROCK (R1). -/
def Dev.bedrock (d : Dev) : Bool :=
  match d.cricket.cur with
  | some b => !b.scramble
  | none => true

/-- The current beat's number. -/
def Dev.beatNum (d : Dev) : Nat := d.num64 CKT.BEATNUM

/-- The region of function `fn` as base and length (R366): all device memory for the PF, REGBASE and REGSIZE GiB for
a VF. -/
def Dev.region (d : Dev) (fn : Nat) : Nat × Nat :=
  if fn = 0 then (0, memTop)
  else (d.fld (HST.REGION fn) 9 0 * 2 ^ 30, d.fld (HST.REGION fn) 25 16 * 2 ^ 30)

/-- `n` bytes at `a` lie in device memory and in the region of `fn`. -/
def Dev.inRegion (d : Dev) (fn a n : Nat) : Bool :=
  rangeInside a n 0 memTop && rangeInside a n (d.region fn).1 (d.region fn).2

/-- Whether sync object `o` is granted to function `fn` (R366). -/
def Dev.granted (d : Dev) (fn o : Nat) : Bool :=
  decide (o < 131072) &&
  (fn == 0 ||
    rangeInside o 1 (512 * d.fld (HST.SYNGRANT fn) 7 0) (512 * d.fld (HST.SYNGRANT fn) 15 8))

/-- `n` bytes at `a` lie inside one write window of the running image (R64). No window is open in an empty beat. -/
def Dev.inWindow (d : Dev) (a n : Nat) : Bool :=
  match d.curImage with
  | none => false
  | some i => i.windows.any (fun w => rangeInside a n w.1 w.2)

/-- Every byte of `[a, a + n)` lies inside some write window of the running image: windows that touch may share it. -/
def coveredBy (ws : List (Nat × Nat)) (a n : Nat) : Nat → Bool
  | 0 => n == 0
  | fuel + 1 =>
    if n = 0 then true
    else match ws.find? (fun w => decide (w.1 ≤ a ∧ a < w.1 + w.2)) with
      | none => false
      | some w => coveredBy ws (a + min n (w.1 + w.2 - a)) (n - min n (w.1 + w.2 - a)) fuel

/-- R64 for a range of any length. -/
def Dev.windowed (d : Dev) (a n : Nat) : Bool :=
  match d.curImage with
  | none => false
  | some i => coveredBy i.windows a n (i.windows.length + 1)

/-- The contents of write windows become indeterminate (R67). -/
def Dev.openRanges (d : Dev) (ws : List (Nat × Nat)) : Dev :=
  let m := ws.foldl (fun m w => m.openUp w.1 (min memTop (w.1 + w.2)) d.freeCtr) d.mem.dram
  { d with mem := { d.mem with dram := m }, freeCtr := d.freeCtr + 1 }

/-- The contents of an image's write windows become indeterminate (R67). -/
def Dev.openWindows (d : Dev) (i : Image) : Dev := d.openRanges i.windows

/-- A block as FAULTBLOCK names it (R70): ID.BLOCK and ID.INSTANCE. -/
def blockName (b : Blk) (inst : Nat) : Nat := b.code + 256 * (inst % 256)

/-- A beat fails with a code (R67): the first failure stands (R53), no later descriptor issues, and its write windows
become indeterminate. A device that runs no program in the beat has nothing to fail. -/
def Dev.beatFail (d : Dev) (code fblk faddr : Nat) : Dev :=
  match d.cricket.cur with
  | none => d
  | some b =>
    match b.image with
    | none => d
    | some i =>
      if d.beatOpen && b.code.isNone then
        let d1 := d.openWindows i
        { d1 with cricket := { d1.cricket with
            cur := some { b with code := some code, faultBlock := fblk, faultAddr := faddr } } }
      else d

/-- A success condition applied in the running beat (R53, R70). -/
def Dev.success (d : Dev) (code : Nat) : Dev :=
  match d.cricket.cur with
  | none => d
  | some b =>
    if b.image.isSome && !b.successes.contains code then
      { d with cricket := { d.cricket with cur := some { b with successes := code :: b.successes } } }
    else d

/-- One more descriptor of the running beat has been issued. -/
def Dev.countIssue (d : Dev) : Dev :=
  match d.cricket.cur with
  | none => d
  | some b => { d with cricket := { d.cricket with cur := some { b with issued := b.issued + 1 } } }

/-! ### Descriptor fields shared by every engine (R84) -/

/-- ENGINE and OPCODE of a descriptor (R59). -/
def engineOf (bs : List Byte) : Nat := byteAt bs 0
def opcodeOf (bs : List Byte) : Nat := byteAt bs 1

end Sys2Proof.Machine
end

