-- ==== Sys2Proof/Machine/Mem.lean ====
section
/-!
DEFINITION. Device memory as the engines, the links and the host reach it: the interleave (R209), the memory-side cache
(R210, R211), uncorrectable errors and the bad-block lists (R218), and the reads and writes built on them.
-/
namespace Sys2Proof.Machine

/-- Row, bank and byte in the row (R209). -/
def rowOf (a : Nat) : Nat := localBlock a / 2 ^ 14
def bankOf (a : Nat) : Nat := (Nat.xor (localBlock a / 2 ^ 8) (rowOf a)) % 64
def colOf (a : Nat) : Nat := 256 * (localBlock a / 64 % 4) + a % 256

/-- The address of local block `lb` of stack `s`. -/
def blockAddr (s lb : Nat) : Nat := 256 * (12 * lb + s)

def Dev.pinned (d : Dev) (a : Nat) : Bool := pinnedIn d.mem.pins a

/-- The 256-byte blocks that `[a, a + n)` touches, as block numbers. -/
def blocksOf (a n : Nat) : List Nat :=
  if n = 0 then [] else (List.range ((a + n - 1) / 256 - a / 256 + 1)).map (fun i => a / 256 + i)

/-- The MSC set of a block, numbered over all slices (R210). -/
def mscSet (blk : Nat) : Nat := (blk % 12) * 6144 + (blk / 12) % 6144

/-- Tags of an MSC set. -/
def noTags (_ : Nat) : List Nat := []

/-- The 3 MiB granule of a block (R211). -/
def granuleOf (blk : Nat) : Nat := 256 * blk / 0x300000

/-- One access to block `blk` in its MSC slice (R210): hits and misses count, the line becomes the most recent of its
set, and the least recent line that is not pinned leaves a full set. -/
def Dev.mscTouch (d : Dev) (blk : Nat) (isWrite : Bool) (bytes : Nat) : Dev :=
  let s := blk % 12
  let set := d.mem.lru.get noTags (mscSet blk)
  let pin := d.pinned (256 * blk)
  let hit := set.contains blk || (pin && d.mem.pinWarm.contains (s, granuleOf blk))
  let rest := set.filter (fun t => t != blk)
  let kept := if rest.length < 16 then rest
    else match (rest.reverse.find? (fun t => !d.pinned (256 * t))) with
      | some v => rest.filter (fun t => t != v)
      | none => rest.take 15
  let d1 := { d with mem := { d.mem with lru := d.mem.lru.set noTags (mscSet blk) (blk :: kept) } }
  let d2 := if hit then d1.count64 (MSC.HITS s) 1 else d1.count64 (MSC.MISSES s) 1
  let d3 := if hit then d2 else d2.count64 (STK.READBYTES s) 256
  if isWrite && !pin then d3.count64 (STK.WRITEBYTES s) bytes else d3

/-- The bad-block list of stack `s` (R218), oldest first. -/
def Dev.badList (d : Dev) (s : Nat) : List Nat := (d.mem.badList.filter (fun p => p.1 == s)).map (fun p => p.2)

/-- A block enters its stack's bad-block list; a full list of 64 drops its oldest entry, sets BADLISTFULL and DEGRADED
(R218). -/
def Dev.listBad (d : Dev) (blk : Nat) : Dev :=
  let s := blk % 12
  let l := d.badList s
  if l.contains blk then d
  else if l.length < 64 then { d with mem := { d.mem with badList := d.mem.badList ++ [(s, blk)] } }
  else
    let drop := l.head?
    let d1 := { d with mem := { d.mem with
      badList := d.mem.badList.filter (fun (p : Nat × Nat) => !(p.1 == s && some p.2 == drop)) ++ [(s, blk)] } }
    (d1.err (STK.page s) 8).setDegraded (STK.page s) true

/-- A block has an uncorrectable error: one stored in the stack, or a listed one (R218). -/
def Dev.blockBad (d : Dev) (blk : Nat) : Bool :=
  d.mem.stackUE.contains blk || d.mem.badList.any (fun p => p.2 == blk)

/-- A detected uncorrectable error counts: UECOUNT, LASTUE, ERRSUM.UNCORRECTABLE, and the list (R218, R223). -/
def Dev.noteUE (d : Dev) (blk : Nat) : Dev :=
  let s := blk % 12
  (((d.countSat (STK.UECOUNT s) 1).setNum64 (STK.LASTUE s) (256 * blk)).err (STK.page s) 1).listBad blk

/-- An uncorrectable error in a pinned line is detected: PINNEDUE and LASTUE, and the line's 256 bytes become indeterminate
(R211). -/
def Dev.pinnedBad (d : Dev) (blk : Nat) : Dev :=
  let s := blk % 12
  let d1 := (d.errData (MSC.page s) 8).setNum64 (MSC.LASTUE s) (256 * blk)
  { d1 with
    mem := { d1.mem with
      dram := d1.mem.dram.openUp (256 * blk) (256 * blk + 256) d1.freeCtr
      pinUE := d1.mem.pinUE.filter (fun x => x != blk) }
    freeCtr := d1.freeCtr + 1 }

/-- A pinned line with an uncorrectable error is read by the beat, or written back: the beat fails (R211). -/
def Dev.pinnedFail (d : Dev) (blk : Nat) : Dev :=
  (d.pinnedBad blk).beatFail 0x30 (blockName .msc (blk % 12)) (256 * blk)

/-- What a read by an engine or by an inbound transaction meets in one block: an uncorrectable pinned line fails the
beat with DATA_UNCORRECTABLE and its 256 bytes become indeterminate (R211); an uncorrectable error in the stack fails
it with STACK_UNCORRECTABLE (R218). -/
def Dev.readBlock (d : Dev) (blk : Nat) : Dev :=
  let s := blk % 12
  let d0 := d.mscTouch blk false 0
  if d0.pinned (256 * blk) && d0.mem.pinUE.contains blk then d0.pinnedFail blk
  else if d0.blockBad blk then (d0.noteUE blk).beatFail 0x31 (blockName .stk s) (256 * blk)
  else d0

/-- A read of `n` bytes by an engine: the bytes and the device after it. -/
def Dev.engRead (d : Dev) (a n : Nat) : List Byte × Dev :=
  let d1 := (blocksOf a n).foldl Dev.readBlock d
  (d1.mem.dram.readN a n, d1)

/-- Bytes written to block `blk` by a write of `[a, a + n)`. -/
def bytesInBlock (a n blk : Nat) : Nat := min (a + n) (256 * blk + 256) - max a (256 * blk)

/-- One block of a write: the cache, and a full write clears a stored error and the list entry (R218). -/
def Dev.writeBlock (a n : Nat) (d : Dev) (blk : Nat) : Dev :=
  let k := bytesInBlock a n blk
  let d1 := d.mscTouch blk true k
  if k = 256 then
    { d1 with mem := { d1.mem with
        stackUE := d1.mem.stackUE.filter (fun x => x != blk)
        badList := d1.mem.badList.filter (fun p => p.2 != blk)
        pinUE := d1.mem.pinUE.filter (fun x => x != blk) } }
  else d1

/-- The bytes of `[a, a + bs.length)` become `bs`, through the MSC. -/
def Dev.memWrite (d : Dev) (a : Nat) (bs : List Byte) : Dev :=
  let d1 := (blocksOf a bs.length).foldl (Dev.writeBlock a bs.length) d
  { d1 with mem := { d1.mem with dram := d1.mem.dram.write a bs } }

/-- The `n` bytes from `a` on become those of `src` from `lo` on, through the MSC. -/
def Dev.memBlit (d : Dev) (src : ByteMem) (lo n a : Nat) : Dev :=
  let d1 := (blocksOf a n).foldl (Dev.writeBlock a n) d
  { d1 with mem := { d1.mem with dram := d1.mem.dram.blit src.tidy lo n a } }

/-- A write by an engine of the running image (R64): outside the write windows it fails the beat with BAD_ADDRESS and
is not performed. -/
def Dev.engWrite (d : Dev) (a : Nat) (bs : List Byte) (fblk : Nat) : Dev :=
  if d.windowed a bs.length then d.memWrite a bs else d.beatFail 0x12 fblk a

/-- What a read that fails no beat meets (R218): `true` where it met an uncorrectable error, in a pinned line or in the
stack. -/
def Dev.quietTouch (d : Dev) (a n : Nat) : Bool × Dev :=
  let blks := blocksOf a n
  let d1 := blks.foldl (fun d b => d.mscTouch b false 0) d
  let line := fun (b : Nat) => d.pinned (256 * b) && d.mem.pinUE.contains b
  let bad := blks.filter (fun b => line b || d.blockBad b)
  (!bad.isEmpty, bad.foldl (fun d1 b => if line b then d1.pinnedBad b else d1.noteUE b) d1)

/-- A read by the host, a control processor or registration (R218). -/
def Dev.quietRead (d : Dev) (a n : Nat) : Bool × List Byte × Dev :=
  let r := d.quietTouch a n
  (r.1, d.mem.dram.readN a n, r.2)

end Sys2Proof.Machine
end

