-- ==== Sys2Proof/Machine/Access.lean ====
section
/-!
DEFINITION. What the sparse tables of the state hold where nothing is listed (the reset value of each entry), and the
accessors of the entries: clusters, banks, entries, slots, feeds, ports, routes, sources.
-/
namespace Sys2Proof.Machine

def zeroWord (_ : Nat) : Word := 0#32
def zeroDWord (_ : Nat) : DWord := 0#64
def zeroNat (_ : Nat) : Nat := 0
def noFlag (_ : Nat) : Bool := false
def ffByte (_ : Nat) : Byte := 0xFF#8
def noMask9 (_ : Nat) : BitVec 9 := 0#9

/-! ### Clusters (06, 07) -/

def wvl0 (_ : Nat) : Wvl := ⟨[], [], [], 0#64, [], 0, .idle, [], [], 0, [], 0, 0, [], [], [], false, 0, false⟩
def Dev.wvl (d : Dev) (k : Nat) : Wvl := d.weevil.cl.get wvl0 k
def Dev.setWvl (d : Dev) (k : Nat) (w : Wvl) : Dev :=
  { d with weevil := { d.weevil with cl := d.weevil.cl.set wvl0 k w } }

def scb0 (_ : Nat) : Scb := ⟨[], [], [], false, false⟩
def Dev.scb (d : Dev) (k : Nat) : Scb := d.scarab.cl.get scb0 k
def Dev.setScb (d : Dev) (k : Nat) (w : Scb) : Dev :=
  { d with scarab := { d.scarab with cl := d.scarab.cl.set scb0 k w } }

def tls0 (_ : Nat) : Tls := ⟨[], [], ⟨[], []⟩, [], 0, false, [], []⟩
/-- A Talus entry that is FREE (R162). -/
def ent0 (_ : Nat) : TlsEnt := ⟨.free, false, false, 0, 0, 0, 0, 0⟩
/-- Byte `o` of entry `e` as a key of the page data. -/
def entKey (e o : Nat) : Nat := 2 ^ 22 * e + o
def Dev.tls (d : Dev) (k : Nat) : Tls := d.talus.cl.get tls0 k
def Dev.setTls (d : Dev) (k : Nat) (w : Tls) : Dev :=
  { d with talus := { d.talus with cl := d.talus.cl.set tls0 k w } }

/-! ### The array (04) -/

/-- A FREE bank. -/
def bank0 (_ : Nat) : Bank := ⟨.free, [], 0, 0, 0, 0, 0⟩
/-- Bank `b` (0 or 1) of logical cell `c` = 64 x row + column. -/
def Dev.bank (d : Dev) (c b : Nat) : Bank := d.massif.banks.get bank0 (2 * c + b)
def Dev.setBank (d : Dev) (c b : Nat) (v : Bank) : Dev :=
  { d with massif := { d.massif with banks := d.massif.banks.set bank0 (2 * c + b) v } }

/-- Bytes of a cell store (R80). -/
def storeSize : Nat := 163840
/-- Byte `o` of the store of cell `c` as a key of the store map. -/
def storeKey (c o : Nat) : Nat := c * storeSize + o

/-- Cluster, partition and flank of the logical cell at (r, c) (R73). -/
def clusterOf (r c : Nat) : Nat := 8 * (r / 8) + c / 8
def partitionOf (r c : Nat) : Nat := 2 * (c / 32) + r / 32
/-- The partition of cluster `k`. -/
def partOfCluster (k : Nat) : Nat := partitionOf (8 * (k / 8)) (8 * (k % 8))
/-- The logical cells of cluster `k`, as 64 x row + column. -/
def cellsOfCluster (k : Nat) : List Nat :=
  (List.range 64).map (fun i => 64 * (8 * (k / 8) + i / 8) + 8 * (k % 8) + i % 8)
/-- The clusters of partition `p`. -/
def clustersOf (p : Nat) : List Nat := (List.range 64).filter (fun k => partOfCluster k == p)

/-! ### Stag, Hive, Forager, links, interrupts -/

def slot0 (_ : Nat) : StagSlot := ⟨none, [], List.replicate 12 .idle, [], none, false, none⟩
def Dev.slot (d : Dev) (i : Nat) : StagSlot := d.stag.slots.get slot0 i
def Dev.setSlot (d : Dev) (i : Nat) (v : StagSlot) : Dev :=
  { d with stag := { d.stag with slots := d.stag.slots.set slot0 i v } }

def feed0 (_ : Nat) : Feed := ⟨0, 0, [], [], [], [], [], [], 0, 0, [], [], 0, 0, 0, [], [], false⟩
def Dev.feed (d : Dev) (f : Nat) : Feed := d.forager.feeds.get feed0 f
def Dev.setFeed (d : Dev) (f : Nat) (v : Feed) : Dev :=
  { d with forager := { d.forager with feeds := d.forager.feeds.set feed0 f v } }

def stream0 (_ : Nat) : Stream := ⟨[], 0, false⟩
def Dev.stream (d : Dev) (s : Nat) : Stream := d.forager.streams.get stream0 s
def Dev.setStream (d : Dev) (s : Nat) (v : Stream) : Dev :=
  { d with forager := { d.forager with streams := d.forager.streams.set stream0 s v } }

/-- A port after no training (R304, R309): credits full, nothing held. -/
def port0 (_ : Nat) : Port :=
  ⟨0, 0, false, 0, 4095, 0, false, 0, 0, 0, [], [], 2048, 1024, 0, 0, 4095, [], false, [], [], [], [], []⟩
def Dev.port (d : Dev) (p : Nat) : Port := d.link.ports.get port0 p
def Dev.setPort (d : Dev) (p : Nat) (v : Port) : Dev :=
  { d with link := { d.link with ports := d.link.ports.set port0 p v } }

def route0 (_ : Nat) : Route := ⟨31, 31, false⟩
def Dev.route (d : Dev) (r : Nat) : Route := d.link.routes.get route0 r

def irq0 (_ : Nat) : IrqState := .idle
def Dev.irqState (d : Dev) (n : Nat) : IrqState := d.firefly.src.get irq0 n
def Dev.setIrqState (d : Dev) (n : Nat) (v : IrqState) : Dev :=
  { d with firefly := { d.firefly with src := d.firefly.src.set irq0 n v } }
def noStack (_ : Nat) : List (Nat × Nat) := []
def Dev.irqStack (d : Dev) (c : Nat) : List (Nat × Nat) := d.firefly.nest.get noStack c

/-- An MSI-X entry after reset: masked (log entry 10). -/
def msix0 (_ : Nat) : MsixEntry := ⟨0#32, 0#32, 0#32, 1#32⟩

/-! ### Register pages as wholes -/

/-- Return the words of page `b` for which `keep` does not hold to their reset values. -/
def Dev.clearPage (d : Dev) (b : Nat) (keep : Nat → Bool) : Dev :=
  { d with regs := d.regs.filter (fun p => !(decide (b ≤ p.1 ∧ p.1 < b + 0x1000)) || keep (p.1 - b)) }

/-- Return the words at the given offsets to their reset values. -/
def Dev.clearWords (d : Dev) (os : List Nat) : Dev :=
  { d with regs := d.regs.filter (fun p => !os.contains p.1) }

/-- Bases of every page of a block. -/
def pagesOf (b : Blk) : List Nat := (List.range b.count).map (fun i => b.base + 0x1000 * i)

/-- The blocks in the order of the page directory (R32). -/
def allBlks : List Blk :=
  [.hst, .tru, .asc, .apx, .pwr, .ckt, .hiv, .cpu, .ffy, .forager, .lnk, .stk, .msc, .stg, .msf, .col, .wvl, .scb,
   .tls, .syn]

/-- READY on every page of a list. -/
def Dev.readyAll (d : Dev) (bs : List Nat) (v : Bool) : Dev := bs.foldl (fun d b => d.setReady b v) d

end Sys2Proof.Machine
end

