-- ==== Sys2Proof/Machine/Resets.lean ====
section
/-!
DEFINITION. Resets (R41, R42, R393-R397): their scopes, what each clears and keeps, how they start, meet, drain and
release, and the dark state of R30.
-/
namespace Sys2Proof.Machine

/-! ### What each scope clears (R394, R396) -/

/-- A logical cell: banks FREE, cell store 0 (R394). -/
def Dev.clearCell (d : Dev) (c : Nat) : Dev :=
  { d with massif := { d.massif with
      banks := d.massif.banks.clear (2 * c) (2 * c + 2)
      store := d.massif.store.zero (storeKey c 0) (storeKey c storeSize)
      storeUE := d.massif.storeUE.filter (fun w => !decide (storeKey c 0 ≤ w ∧ w < storeKey c storeSize))
      bankErr := d.massif.bankErr.filter (fun b => b / 2 != c)
      nextBank := d.massif.nextBank.clear c (c + 1) } }

/-- WVL[k]: tile registers, masks, instruction memory and PWL table 0, ring inactive. -/
def Dev.clearWvl (d : Dev) (k : Nat) : Dev := d.setWvl k (wvl0 k)

/-- SCB[k]: statistics memory 0. -/
def Dev.clearScb (d : Dev) (k : Nat) : Dev := d.setScb k (scb0 k)

/-- TLS[k]: every entry FREE, STASHTOP 0, FREEPAGES 1,024; STASHBASE and STASHSIZE kept (R170). -/
def Dev.clearTls (d : Dev) (k : Nat) : Dev :=
  (d.setTls k (tls0 k)).clearWords
    [TLS.STASHTOP k, TLS.STASHTOP k + 4, TLS.FREEPAGES k, TLS.OPENCNT k, TLS.RESIDENTCNT k, TLS.SPILLEDCNT k]

/-- A cluster: its 64 cells and its three engines (R394). -/
def Dev.clearCluster (d : Dev) (k : Nat) : Dev :=
  ((((cellsOfCluster k).foldl Dev.clearCell d).clearWvl k).clearScb k).clearTls k

/-- The registers of an MSF page that count (R394: MSF[p] counters). -/
def msfCounters (p : Nat) : List Nat :=
  [MSF.OPCOUNT p, MSF.COMPCYC p, MSF.COMPCYC p + 4, MSF.STALLCYC p, MSF.STALLCYC p + 4, MSF.PACECYC p,
   MSF.PACECYC p + 4, MSF.OVFCOUNT p, MSF.LASTOP p, MSF.ECCCOUNT p]

/-- A partition: its 16 clusters and its counters (R394). -/
def Dev.clearPartition (d : Dev) (p : Nat) : Dev :=
  ((clustersOf p).foldl Dev.clearCluster d).clearWords (msfCounters p)

/-- The sync objects of SYN[g] become 0 (R96). -/
def Dev.clearSyn (d : Dev) (g : Nat) : Dev := d.clearPage (SYN.page g) (fun o => decide (o < 0x800))

/-- All Stag units (R251): every slot IDLE, BITMAPFREE 2,097,152, counters at reset. -/
def Dev.clearStag (d : Dev) : Dev :=
  (List.range 12).foldl
    (fun d u => d.clearPage (STG.page u) (fun o => decide (o < 0x40) || decide (o = 0x78)))
    { d with stag := StagSt.reset }

/-- The registers that belong to a tenancy's on-die state (R257): TLS stash registers and counts, Weevil and Scarab
configuration. -/
def contextWords : List Nat :=
  (List.range 64).flatMap (fun k =>
    (List.range 10).map (fun i => TLS.STASHBASE k + 4 * i) ++ [WVL.PWLINDEX k, WVL.TRADDR k, SCB.STATINDEX k])

/-- The on-die state of a tenancy (R257, step 3 of R258): cell stores, Weevil, statistics, Talus and their
configuration cleared. -/
def Dev.clearOnDie (d : Dev) : Dev :=
  Dev.clearWords
    { d with
      massif := { d.massif with store := ⟨[], []⟩, storeUE := [] }
      weevil := { d.weevil with cl := [] }
      scarab := { d.scarab with cl := [] }
      talus := { d.talus with cl := [] } } contextWords

/-- One request is absorbed by a reset (R393). -/
def Dev.absorb (d : Dev) : Dev := d.countSat ASC.ABSORBCNT 1

/-- ENABLED of tenancy `t` in effect: a write waits for the next boundary (R268). -/
def Dev.tenEnabled (d : Dev) (t : Nat) : Bool :=
  match d.hive.enPend.find? (fun (p : Nat × Bool) => p.1 == t) with
  | some p => !p.2
  | none => d.flag (TEN.TENCFG t) 0

/-- The pool block of tenancy `t` as it was read (R262); zeros before any read. -/
def noBlock (_ : Nat) : List Byte := []
def Dev.pool (d : Dev) (t : Nat) : List Byte := d.hive.pools.get noBlock t

/-- The Hive reads the pool block of tenancy `t` (R262): FREEFRAMES starts at FREEINIT. A block outside the tenancy's
region is not read (log entry 15). -/
def Dev.readPool (d : Dev) (t : Nat) : Dev :=
  let a := d.num64 (TEN.POOLCFG t)
  if d.inRegion t a 64 then
    let r := d.quietRead a 64
    ({ r.2.2 with hive := { r.2.2.hive with pools := r.2.2.hive.pools.set noBlock t r.2.1 } }).setNum (TEN.FREEFRAMES t)
      (fieldAt r.2.1 0x1C 4)
  else ({ d with hive := { d.hive with pools := d.hive.pools.clear t (t + 1) } }).setNum (TEN.FREEFRAMES t) 0

/-- HIV (R269): entries IDLE, SAVED and EVERRESIDENT cleared, tenancy 0 resident with its on-die state cleared. -/
def Dev.clearHive (d : Dev) : Dev :=
  let d1 := (List.range 16).foldl (fun d t => d.setFld (TEN.TENSTAT t) 1 0 0)
    (Dev.clearOnDie { d with hive := { HiveSt.reset with
      ents := d.hive.ents.filter (fun (p : Nat × Byte) => p.1 % 32 != 4)
      pools := d.hive.pools
      enPend := d.hive.enPend } })
  (d1.setNum HIV.RESIDENT 0).drop HIV.PREEMPT 4

/-- The end of an HIV reset (R262, R269): the pool blocks of the enabled tenancies are read again. -/
def Dev.hiveReleased (d : Dev) : Dev :=
  (List.range 16).foldl (fun d t => if d.tenEnabled t then d.readPool t else d) d

/-- A port's flit state is discarded (R304, R310): transactions accepted before stay. -/
def Dev.dropFlitState (d : Dev) (p : Nat) : Dev :=
  let q := d.port p
  d.setPort p { port0 p with
    maxWidth := q.maxWidth, table := q.table, gens := q.gens, tx := q.tx, held := q.held, received := q.received }

/-- LNK[p] (R327): flit state discarded, FAULT cleared, DARK if ENABLE = 1, otherwise DISABLED. -/
def Dev.clearLnk (d : Dev) (p : Nat) : Dev :=
  ((((d.dropFlitState p).clearFault (LNK.page p)).setDegraded (LNK.page p) false).setFld (LNK.PORTSTAT p) 2 0
    (if d.enable (LNK.page p) then 1 else 0)).irq (LNK.page p) 1

/-- STK[s] (R220): the bad-block list empties, DEGRADED clears, training runs steps 3 to 7 and 9, as its first attempt. -/
def Dev.clearStk (d : Dev) (s : Nat) : Dev :=
  let d1 := { d with mem := { d.mem with
    badList := d.mem.badList.filter (fun p => p.1 != s)
    longOp := d.mem.longOp.set (fun _ => none) s (some .retrain) } }
  (((d1.setDegraded (STK.page s) false).clearFault (STK.page s)).setNum (STK.TRAINSTAT s) 0x13).setNum64 (STK.TOTAL s) 9

/-- Pinned lines that slice `s` holds: of the granules it holds whole, and those fetched on demand. -/
def Dev.pinnedHeld (d : Dev) (s : Nat) : Nat :=
  1024 * (d.mem.pinWarm.filter (fun e => e.1 == s)).length +
  ((d.mem.lru.filter (fun e => e.1 / 6144 == s)).flatMap (fun e =>
    e.2.filter (fun b => d.pinned (256 * b) && !d.mem.pinWarm.contains (s, granuleOf b)))).length

/-- MSC[s] (R225): the slice's pinned lines are written back, then every line is invalid, and pinned lines come back on
demand; the pin table is kept. -/
def Dev.clearMsc (d : Dev) (s : Nat) : Dev :=
  let d1 := (d.mem.pinUE.filter (fun b => b % 12 == s)).foldl Dev.pinnedFail d
  let d2 := d1.count64 (STK.WRITEBYTES s) (256 * d.pinnedHeld s)
  { d2 with mem := { d2.mem with
      lru := d2.mem.lru.clear (s * 6144) (s * 6144 + 6144)
      pinWork := d2.mem.pinWork.set zeroNat s 0
      pinFetch := d2.mem.pinFetch.filter (fun e => e.1 != s)
      pinWarm := d2.mem.pinWarm.filter (fun e => e.1 != s) } }

/-- FOR[0] (R302): every feed closes, running encodes are dropped, every stream is disabled. -/
def Dev.clearForager (d : Dev) : Dev :=
  let d1 := { d with
    host := { d.host with done := d.host.done ++ d.forager.enc.map (fun e => ((e.fn, ⟨e.job, 0xB0, 6, 0, d.beatNum, 0⟩) : Nat × Completion)) }
    forager := { ForagerSt.reset with streams := (d.forager.streams.map (fun (p : Nat × Stream) =>
      ((p.1, { p.2 with frames := [] }) : Nat × Stream))).filter (fun (p : Nat × Stream) => p.2 != stream0 p.1) } }
  (List.range 4).foldl (fun d s => d.setFlag (FOR.STRMCTRL 0 s) 0 false)
    (d.forager.enc.foldl (fun (d : Dev) _ => d.absorb) d1)

/-- The registers that CTRL.RESET of APX returns to their reset values (R350). -/
def apxResetWords : List Nat := [APX.CLKOUTCTRL, APX.FCCTRL, APX.FCSEL, APX.DOMSEL, APX.ERRSUM, APX.IRQSUM]

/-- APX (R350). -/
def Dev.clearApx (d : Dev) : Dev :=
  ({ d with apex := { d.apex with clkSrc := 0, clkDiv := 0, clkEnable := false } }.clearWords apxResetWords).drop
    APX.FCSTAT 0

/-- PWR (R340): ENVEXCNT, WITHHELD, QMAX, ERRSUM and IRQSUM. -/
def Dev.clearPwr (d : Dev) : Dev :=
  (d.clearWords [PWR.ENVEXCNT, PWR.WITHHELD, PWR.WITHHELD + 4, PWR.ERRSUM, PWR.IRQSUM]).setFld PWR.THROTTLE 15 8 0

/-- Whether the page of source `n` has (IRQSUM and IRQEN) not 0 (R353). A software source is raised by an edge and is
never asserted. -/
def Dev.asserted (d : Dev) (n : Nat) : Bool :=
  match pageOfSource n with
  | some p => decide ((d.rd (oIrqsum p.base)) &&& (d.rd (oIrqen p.base)) ≠ 0#32)
  | none => false

/-- PRIO of source `n` (R352). -/
def Dev.prio (d : Dev) (n : Nat) : Nat := d.fld (FFY.SRCCFG n) 5 0
/-- TARGET of source `n` (R352). -/
def Dev.target (d : Dev) (n : Nat) : Nat := d.fld (FFY.SRCCFG n) 10 8

/-- FFY (R362): every source IDLE, every stack empty; sources still asserted become PENDING again at once. -/
def Dev.clearFfy (d : Dev) : Dev :=
  let d1 := { d with firefly := FireflySt.reset }
  (List.range 286).foldl
    (fun d n => if d.asserted n && d.prio n != 0 then d.setIrqState n .pending else d) d1

/-- CP[c] reset (R48): STATE 0; BOOTADDR keeps its value. -/
def Dev.cpReset (d : Dev) (c : Nat) : Dev :=
  ((((d.setFld (CPU.CPSTATE c) 1 0 0).setNum64 (CPU.CYCLES c) 0).setNum64 (CPU.HALTPC c) 0).setNum64
    (CPU.TRAPCAUSE c) 0).setNum64 (CPU.TRAPPC c) 0

/-- CP[c] starts at BOOTADDR where RUN is set (R48). -/
def Dev.cpStart (d : Dev) (c : Nat) : Dev :=
  if d.flag (CPU.CPCTRL c) 0 then d.setFld (CPU.CPSTATE c) 1 0 1 else d

/-- CPU[c] (R396): as CPRESET, with MBOXIN and MBOXOUT 0. -/
def Dev.clearCpu (d : Dev) (c : Nat) : Dev :=
  ((d.cpReset c).setNum64 (CPU.MBOXIN c) 0).setNum64 (CPU.MBOXOUT c) 0

/-- HST (R396): ERRSUM, IRQSUM, FETCHCNT and CPLCNT only. -/
def Dev.clearHst (d : Dev) : Dev := d.clearWords [HST.ERRSUM, HST.IRQSUM, HST.FETCHCNT, HST.CPLCNT]

/-- CKT (R72, R396): the image table empties; ring jobs fetched in the window complete ABSORBED. -/
def Dev.clearCkt (d : Dev) : Dev :=
  let d1 := { d with
    cricket := { d.cricket with images := [], next := none }
    host := { d.host with
      fetched := []
      fetching := []
      regs := []
      done := d.host.done ++ d.host.fetched.map
        (fun (f : Nat × List Byte) =>
          ((f.1, ⟨BitVec.ofNat 32 (fieldAt f.2 4 4), 0xB0, byteAt f.2 0, 0, d.beatNum, 0⟩) : Nat × Completion)) ++
        d.host.regs.map (fun (r : ImgReg) => ((r.fn, ⟨r.job, 0xB0, 3, r.index, d.beatNum, 0⟩) : Nat × Completion)) } }
  (d.host.fetched.foldl (fun (d : Dev) _ => d.absorb) d1).setNum CKT.IMGCOUNT 0

/-! ### The whole-device reset (R394) -/

/-- The words of the register file a whole-device reset keeps (R394): PWR as R340, APX as R350, the ASC
configuration and latched straps, the staged MSC pins, what the fuses hold. -/
def keptByDevice (a : Nat) : Bool :=
  decide (PWR.page ≤ a ∧ a < PWR.page + 0x1000 ∧ ¬ a ∈ [PWR.ENVEXCNT, PWR.WITHHELD, PWR.WITHHELD + 4, PWR.ERRSUM, PWR.IRQSUM]) ||
  decide (APX.page ≤ a ∧ a < APX.page + 0x1000 ∧ ¬ a ∈ apxResetWords) ||
  decide (a = ASC.STRAPS ∨ a = ASC.POLICY ∨ a = ASC.SURVEYCTRL ∨ a = ASC.SWARMCTRL ∨ a = ASC.UCADDR ∨ a = ASC.UCADDR + 4 ∨
    a = ASC.DRAINLIMIT ∨ a = ASC.RESETSTAT ∨ a = ASC.STAGE ∨ (ASC.EXPECT 0 ≤ a ∧ a < ASC.EXPECT 24)) ||
  decide (MSC.PINBASE 0 0 ≤ a ∧ a < MSC.PINCTRL 0) || decide (a = MSC.PINSTAT 0) ||
  (List.range 12).any (fun s => a == MSC.PINNEDLINES s) ||
  decide (a = TRU.SVN ∨ a = TRU.KEYSLOT)

/-- What the pages read until RELEASE (R41, R393): READY 0, BUSY 1, and RESET, CELLRESET.GO and CLRESET.GO as they stood. -/
def Dev.heldByReset (d k : Dev) : Dev :=
  let d1 := (allBlks.flatMap pagesOf).foldl (fun (e : Dev) b =>
    ((e.setReady b false).setBusy b true).setFlag (oCtrl b) 1 (d.flag (oCtrl b) 1)) k
  (d1.setFlag ASC.CELLRESET 13 (d.flag ASC.CELLRESET 13)).setFlag ASC.CLRESET 6 (d.flag ASC.CLRESET 6)

/-- The state of every block but the kept ones returns to reset (R394). CTRL.ENABLE keeps its value on the ASC page, whose
RESET it is (R41); on the other pages it is one of the reset values of R394 (log entry 29). -/
def Dev.deviceClear (d : Dev) : Dev :=
  let k : Dev := { Dev.reset with
    regs := d.regs.filter (fun p => keptByDevice p.1)
    bus := d.bus
    module := d.module
    apex := { d.apex with clkSrc := 0, clkDiv := 0, clkEnable := false }
    ascent := { AscentSt.reset with
      fuseFaults := d.ascent.fuseFaults
      resets := d.ascent.resets
      lateOut := d.ascent.lateOut
      warm := true }
    trust := { TrustSt.reset with
      flash := d.trust.flash
      fuseCtr := d.trust.fuseCtr
      keySlots := d.trust.keySlots
      revoked := d.trust.revoked
      debugEnable := d.trust.debugEnable
      spdmDoe := d.trust.spdmDoe
      spdmMctp := d.trust.spdmMctp
      spdmOut := d.trust.spdmOut }
    host := { HostSt.reset with
      fnMask := d.host.fnMask
      out := d.host.out
      msix := d.host.msix }
    mem := { MemSt.reset with
      dram := d.mem.pinUE.foldl (fun m b => m.openUp (256 * b) (256 * b + 256) d.freeCtr) d.mem.dram
      stackUE := d.mem.stackUE
      rowFix := d.mem.rowFix
      repairLog := d.mem.repairLog
      pins := d.mem.pins }
    power := d.power
    freeCtr := d.freeCtr + 1 }
  (d.heldByReset (((k.drop APX.FCSTAT 0).setFld PWR.THROTTLE 15 8 0).setFld ASC.SURVEYCTRL 0 0 0)).setFlag (oCtrl ASC.page) 0
    (d.enable ASC.page)

/-! ### Scopes and how resets meet (R393, R397) -/

/-- The page a slot number stands for. -/
def slotPage (slot : Nat) : Option Page := pageAt slot

/-- The pages of a scope: for STG and FFY every page of the block, since either resets the whole (R251, R362). -/
def scopePages : ResetScope → List Nat
  | .cell _ _ => []
  | .cluster k => [WVL.page k, SCB.page k, TLS.page k]
  | .partition p =>
    MSF.page p :: (clustersOf p).flatMap (fun k => [WVL.page k, SCB.page k, TLS.page k])
  | .page slot =>
    match slotPage slot with
    | none => []
    | some p => if p.blk = .stg ∨ p.blk = .ffy then pagesOf p.blk else [p.base]
  | .device => allBlks.flatMap pagesOf

/-- Whether scope `b` lies inside scope `a` (R397). -/
def scopeInside (b a : ResetScope) : Bool :=
  match a, b with
  | .device, _ => true
  | .partition p, .partition q => p == q
  | .partition p, .cluster k => p.val == partOfCluster k
  | .partition p, .cell r c => p.val == partitionOf r c
  | .partition p, .page s => (scopePages (.partition p)).contains (0x1000 * s)
  | .cluster k, .cluster j => k == j
  | .cluster k, .cell r c => k.val == clusterOf r c
  | .cluster k, .page s => (scopePages (.cluster k)).contains (0x1000 * s)
  | .cell r c, .cell r' c' => r == r' && c == c'
  | .page s, .page t => s == t || (!(scopePages (.page s)).isEmpty && (scopePages (.page s)) == (scopePages (.page t)))
  | _, _ => false

/-- Whether the running image uses a block (R42): its partitions, the engines its descriptors name, the ports its link
requirement names; every image uses the Cricket, the stacks and the slices, and R302 lets FOR[0] fail any beat (log entry
22). -/
def Image.usesPage (i : Image) (p : Page) : Bool :=
  match p.blk with
  | .msf => bit i.partMask p.inst
  | .wvl | .scb | .tls => bit i.partMask (partOfCluster p.inst) && i.engines.contains p.blk.code
  | .col | .stg => i.engines.contains p.blk.code
  | .forager => p.inst == 0
  | .lnk => i.linkWidth p.inst ≠ 0
  | .ckt | .stk | .msc | .syn | .hiv | .asc => true
  | .hst | .tru | .apx | .pwr | .cpu | .ffy => false

/-- Whether the running beat uses a scope (R42, R393). -/
def Dev.beatUses (d : Dev) (sc : ResetScope) : Bool :=
  d.beatOpen &&
  match d.curImage with
  | none => false
  | some i =>
    match sc with
    | .cell r c => bit i.partMask (partitionOf r c)
    | .cluster k => bit i.partMask (partOfCluster k)
    | .partition p => bit i.partMask p
    | .page slot => match slotPage slot with | some p => i.usesPage p | none => false
    | .device => true

/-- RESETSTAT.LEVEL of a scope (R398); page resets have no level. -/
def scopeLevel : ResetScope → Option Nat
  | .cell _ _ => some 1
  | .cluster _ => some 2
  | .partition _ => some 3
  | .page _ => none
  | .device => some 4

/-- QUIESCE begins on a scope's pages (R41, R393): READY 0, BUSY 1, the latches and counters of R41 at reset. -/
def Dev.quiescePage (d : Dev) (b : Nat) : Dev :=
  ((d.setReady b false).setBusy b true).clearWords
    [oErrsum b, oIrqsum b, oProgress b, oPosition b, oPosition b + 4, oTotal b, oTotal b + 4]

def Dev.quiesce (d : Dev) (sc : ResetScope) : Dev :=
  let d1 := (scopePages sc).foldl Dev.quiescePage d
  (d1.setFlag ASC.RESETSTAT 3 true).setFld ASC.RESETSTAT 6 4 1

/-- A reset is entered (R393, R397): the smaller running ones end in it; with `waits` it waits for C(n). The whole-device
reset sets STAGE to 3 and the service state to STARTUP as it begins (R399, R383). -/
def Dev.enterReset (d : Dev) (sc : ResetScope) (remap waits : Bool) : Dev :=
  let rest := d.ascent.resets.filter (fun r => !scopeInside r.scope sc)
  let d1 := { d with ascent := { d.ascent with
    resets := rest ++ [(⟨sc, if waits then .quiesce else .drain, remap, waits⟩ : ResetRun)] } }
  let code := if waits then 0xB0 else 0
  let d2 := match scopeLevel sc with
    | some l => ((d1.setFld ASC.RESETSTAT 2 0 l).setFld ASC.RESETSTAT 15 8 code).setFlag ASC.RESETSTAT 3 true
    | none => (d1.setFld ASC.RESETSTAT 15 8 code).setFlag ASC.RESETSTAT 3 true
  let d3 := if sc = .device then ((d2.setNum ASC.STAGE 3).setNum ASC.SVCSTATE 0) else d2
  if waits then d3.setFld ASC.RESETSTAT 6 4 0 else d3.quiesce sc

/-- A reset starts (R393, R397): merged into a running reset that contains it. A beat that uses the scope fails with
ABSORBED and QUIESCE waits for its C(n). -/
def Dev.startReset (d : Dev) (sc : ResetScope) (remap : Bool) : Dev :=
  if d.ascent.resets.any (fun r => scopeInside sc r.scope) then d
  else if d.beatUses sc then (d.beatFail 0xB0 (blockName .asc 0) 0).enterReset sc remap true
  else d.enterReset sc remap false

/-- The reset of a block that holds residue at C(n) (R66): as a write of its CTRL.RESET, with QUIESCE at once. -/
def Dev.residueReset (d : Dev) (sc : ResetScope) (page : Nat) : Dev :=
  if d.ascent.resets.any (fun r => scopeInside sc r.scope) then d
  else (d.raise (oCtrl page) 1).enterReset sc false false

/-- At C(n) the resets that waited for the beat begin QUIESCE (R42, R393). -/
def Dev.quiesceWaiting (d : Dev) : Dev :=
  let w := d.ascent.resets.filter (fun r => r.waitsBeat)
  let d1 := { d with ascent := { d.ascent with
    resets := d.ascent.resets.map (fun r => if r.waitsBeat then { r with waitsBeat := false, phase := .drain } else r) } }
  w.foldl (fun d r => d.quiesce r.scope) d1

/-- Page `b` is under a reset that has begun QUIESCE: requests that enter it are absorbed (R393). -/
def Dev.inReset (d : Dev) (b : Nat) : Bool :=
  d.ascent.resets.any (fun r => r.phase != .quiesce && (scopePages r.scope).contains b)

/-- The whole device is under reset. -/
def Dev.deviceInReset (d : Dev) : Bool :=
  d.ascent.resets.any (fun r => r.phase != .quiesce && r.scope == .device)

/-- CKT.CTRL.ENABLE was written 0 and the beats end at the next boundary (R41); under reset the write waits (R42). -/
def Dev.gridStops (d : Dev) : Bool := d.enPend.contains (CKT.page, false) && !d.inReset CKT.page

/-- CKT.CTRL.ENABLE is 1 (R56): beats begin; the first is the smallest n with B(n) at least 300 ticks away. DESIGN CHOICE (log
entry 7): the spec does not say what BEATNUM reads between enabling and the first beat n; here it reads n - 1 modulo 2 to the
64. -/
def Dev.startGrid (d : Dev) : Dev :=
  if d.cricket.phase != .off then d
  else
    let n := ceilDiv (d.now + 300 - d.epoch) (max 1 d.period) % 2 ^ 64
    let d1 := d.setNum64 CKT.BEATNUM ((n + 2 ^ 64 - 1) % 2 ^ 64)
    { d1 with cricket := { d1.cricket with phase := .run, cur := none, next := none, firstBeat := n } }

/-- What CLEAR does to a page's block (R394, R396). -/
def Dev.clearBlock (d : Dev) (p : Page) : Dev :=
  match p.blk with
  | .hst => d.clearHst
  | .tru => d.clearWords [TRU.ERRSUM, TRU.IRQSUM]
  | .asc => d
  | .apx => d.clearApx
  | .pwr => d.clearPwr
  | .ckt => d.clearCkt
  | .hiv => d.clearHive
  | .cpu => d.clearCpu p.inst
  | .ffy => d.clearFfy
  | .forager =>
    if p.inst = 0 then d.clearForager
    else { d with forager := { d.forager with engUE := d.forager.engUE.filter (fun e => e != p.inst) } }
  | .lnk => d.clearLnk p.inst
  | .stk => d.clearStk p.inst
  | .msc => d.clearMsc p.inst
  | .stg => d.clearStag
  | .msf => d.clearPartition p.inst
  | .col => { d with col := { d.col with stageUE := d.col.stageUE.filter (fun b => b != p.inst) } }
  | .wvl => d.clearWvl p.inst
  | .scb => d.clearScb p.inst
  | .tls => d.clearTls p.inst
  | .syn => d.clearSyn p.inst

/-! ### The scree map (R384, R388) -/

def bypass0 (_ : Nat) : Nat := 4
/-- The bypassed position of cluster row `x` = 8 x r + q. -/
def Dev.bypass (d : Dev) (x : Nat) : Nat := d.ascent.bypass.get bypass0 x
def Dev.setBypass (d : Dev) (x b : Nat) : Dev :=
  { d with ascent := { d.ascent with bypass := d.ascent.bypass.set bypass0 x b } }
/-- The fuse mask and the positions failed since (R384, R388). -/
def Dev.fuseMask (d : Dev) (x : Nat) : BitVec 9 := d.ascent.fuseFaults.get noMask9 x
def Dev.swarmMask (d : Dev) (x : Nat) : BitVec 9 := d.ascent.swarmFaults.get noMask9 x
def Dev.uncovered (d : Dev) (x : Nat) : Nat := d.ascent.uncovered.get zeroNat x

/-- Position `j` of cluster row `x` is healthy (R384). -/
def Dev.healthy (d : Dev) (x j : Nat) : Bool := !(d.fuseMask x).getLsbD j && !(d.swarmMask x).getLsbD j

/-- Marked positions of a 9-bit mask, ascending. -/
def positions (m : BitVec 9) : List Nat := (List.range 9).filter (fun j => m.getLsbD j)

/-- The bypassed position and the uncovered count of one cluster row, given the row to its west (R384). -/
def screeRow (mask : BitVec 9) (x westBypass : Nat) : Nat × Nat :=
  let cand := (positions mask).filter (fun j => !(decide (0 < x % 8) && westBypass == 8 && j == 0))
  match cand with
  | [] => (4, (positions mask).length)
  | j :: _ => (j, (positions mask).length - 1)

/-- R384 over the cluster rows from `x` on: bypass and uncovered of every row, in ascending x. -/
def loadScree (mask : Nat → BitVec 9) : Nat → Nat → Nat → List (Nat × Nat)
  | 0, _, _ => []
  | n + 1, x, west => screeRow (mask x) x west :: loadScree mask n (x + 1) (screeRow (mask x) x west).1

/-- The partition of cluster row `x` (R384). -/
def rowPartition (x : Nat) : Nat := 2 * ((x % 8) / 4) + (x / 8) / 32

/-- MAPSTAT.REPAIRED and UNREPAIRED of partition `p` from the live map (R384, R98). -/
def Dev.mapCounts (d : Dev) (p : Nat) : Nat × Nat :=
  let rows := (List.range 512).filter (fun x => rowPartition x == p)
  ((rows.filter (fun x => d.bypass x != 4)).length, (rows.filter (fun x => decide (0 < d.uncovered x))).length)

/-- The physical column of position `j` of cluster row `x`, and the physical index 72 x r + column (R387). -/
def physIndex (x j : Nat) : Nat := 72 * (x / 8) + 9 * (x % 8) + j
/-- The cluster row and the position of a physical index. -/
def rowOfPhys (i : Nat) : Nat := 8 * (i / 72) + (i % 72) / 9
def posOfPhys (i : Nat) : Nat := (i % 72) % 9

/-- An incomplete cell is handled (R388): a cell at the bypassed position stays bypassed; otherwise a free spare that
keeps R75 takes over; otherwise the row keeps one more uncovered fault and the partition is degraded. -/
def Dev.handleCell (d : Dev) (x f : Nat) : Dev :=
  let b := d.bypass x
  let free := d.healthy x b
  let keeps := !(f == 8 && decide (x % 8 < 7) && d.bypass (x + 1) == 0) && !(f == 0 && decide (0 < x % 8) && d.bypass (x - 1) == 8)
  let d0 := { d with ascent := { d.ascent with
    swarmFaults := d.ascent.swarmFaults.set noMask9 x (d.swarmMask x ||| (1#9 <<< f)) } }
  if f = b then d0
  else if free && keeps then d0.setBypass x f
  else
    let p := rowPartition x
    let d1 := { d0 with ascent := { d0.ascent with uncovered := d0.ascent.uncovered.set zeroNat x (d0.uncovered x + 1) } }
    ((d1.noteDegraded (MSF.page p) true).lastCode (MSF.page p) 0xA3).err ASC.page 8

/-- MAPSTAT of every partition follows the live map. -/
def Dev.refreshMapstat (d : Dev) : Dev :=
  (List.range 4).foldl (fun d p =>
    ((d.setFld (MSF.MAPSTAT p) 7 0 (d.mapCounts p).1).setFld (MSF.MAPSTAT p) 15 8 (d.mapCounts p).2).noteDegraded
      (MSF.page p) (decide (0 < (d.mapCounts p).2))) d

/-- The position that logical column `c` takes in its cluster row (R74). -/
def Dev.positionOf (d : Dev) (r c : Nat) : Nat :=
  let x := 8 * r + c / 8
  if d.bypass x ≤ c % 8 then c % 8 + 1 else c % 8

/-- CLEAR of a scope (R394-R396). -/
def Dev.clearScope (d : Dev) (r : ResetRun) : Dev :=
  match r.scope with
  | .cell row col =>
    let d1 := d.clearCell (64 * row + col)
    if r.remap then (d1.handleCell (8 * row + col.val / 8) (d.positionOf row col)).refreshMapstat else d1
  | .cluster k => d.clearCluster k
  | .partition p => d.clearPartition p
  | .page slot => match slotPage slot with | some p => d.clearBlock p | none => d
  | .device => d.deviceClear

/-! ### The dark state (R30, R346) -/

/-- Words of the register file that survive the in-reset dark state: the Apex lock state, the latched straps and the
energy counter (R346, R15, R330; log entry 5). -/
def keptInDark (a : Nat) : Bool :=
  decide (a = APX.LOCKSTAT ∨ a = APX.LOCKTIME ∨ a = APX.STATUS ∨ a = ASC.STRAPS ∨ a = PWR.ENERGY ∨ a = PWR.ENERGY + 4 ∨
    a = TRU.SVN ∨ a = TRU.KEYSLOT)

/-- The module goes dark (R30): work in flight is lost, the pages return to reset, what the stacks, the flash and the
fuses hold stays. Pinned lines are held in the MSC alone (R211): what the stacks hold in their place is indeterminate
(DEDUCED, log 13). -/
def Dev.goDark (d : Dev) : Dev :=
  { Dev.reset with
    regs := d.regs.filter (fun p => keptInDark p.1)
    module := { d.module with pcieUp := false }
    apex := { d.apex with clkSrc := 0, clkDiv := 0, clkEnable := false }
    ascent := { AscentSt.reset with fuseFaults := d.ascent.fuseFaults }
    trust := { TrustSt.reset with
      flash := d.trust.flash
      fuseCtr := d.trust.fuseCtr
      keySlots := d.trust.keySlots
      revoked := d.trust.revoked
      debugEnable := d.trust.debugEnable }
    host := { HostSt.reset with out := d.host.out, msix := d.host.msix }
    mem := { MemSt.reset with
      dram := d.mem.pins.foldl (fun m p => m.openUp p.1 (p.1 + p.2 * 0x300000) d.freeCtr) d.mem.dram
      stackUE := d.mem.stackUE
      rowFix := d.mem.rowFix
      repairLog := d.mem.repairLog }
    freeCtr := d.freeCtr + 1 }

/-- The converters stop (R19, R20, R30): PWRGD falls, the module is unpowered, the lock is gone. -/
def Dev.powerOff (d : Dev) : Dev :=
  let d1 := d.goDark
  { d1 with
    regs := d1.regs.filter (fun p => decide (p.1 = TRU.SVN ∨ p.1 = TRU.KEYSLOT))
    module := { d1.module with conv := false, pwrgd := false, bulk := .opened, bootsel := 0#2, i3caddr := 0#2 }
    apex := ApexSt.reset
    power := PowerSt.reset }

end Sys2Proof.Machine
end

