-- ==== Sys2Proof/Machine/Module.lean ====
section
/-!
DEFINITION. Module power and pins (01 R12-R31, 20 R402-R406): one meaning per command.
-/
namespace Sys2Proof.Machine

/-- ASC.STAGE moves to `n` and IRQSUM.STAGE is latched (R398). -/
def Dev.setStage (d : Dev) (n : Nat) : Dev := (d.setFld ASC.STAGE 3 0 n).irq ASC.page 1

/-- The stage that has begun last. -/
def Dev.stage (d : Dev) : Nat := d.fld ASC.STAGE 3 0

/-- The input lies between the undervoltage and the overvoltage limit (R19). -/
def ModuleSt.inRange (m : ModuleSt) : Bool := m.uvOk && m.ovOk

/-- The bulk charge begins when PWREN is high, the input lies within its limits and no trip is latched (R19, R20,
R402); Ascent's stage 1 begins. -/
def Dev.tryCharge (d : Dev) : Dev :=
  let m := d.module
  if m.monitorOn && m.pwren && m.inRange && !m.trip && !m.conv && m.bulk == .opened then
    { d with module := { m with bulk := .charging } }.setStage 1
  else d

/-- Stop what runs from the converters: a running module goes dark; a charge that is under way is broken off (R402). -/
def Dev.stopPower (d : Dev) : Dev :=
  if d.module.conv then d.powerOff
  else { d with module := { d.module with bulk := .opened } }

def Dev.pwrenRise (d : Dev) : Dev := { d with module := { d.module with pwren := true } }.tryCharge

/-- PWREN_RISE (R19). -/
def execPwrenRise (s : State) : Host.Outcome State Fault Refusal := onDev Dev.pwrenRise s

def Dev.pwrenFall (d : Dev) : Dev := { d.stopPower with module := { d.stopPower.module with pwren := false } }

/-- PWREN_FALL (R19, R30). -/
def execPwrenFall (s : State) : Host.Outcome State Fault Refusal := onDev Dev.pwrenFall s

/-- The undervoltage comparison (R19): 58 V on a rising input, 56 V on a falling one. -/
def uvJudge (was : Bool) (mv : Nat) : Bool := decide ((if was then 56000 else 58000) ≤ mv)

/-- The overvoltage comparison (R19): 84 V on a rising input, 82 V on a falling one. -/
def ovJudge (was : Bool) (mv : Nat) : Bool := decide (mv ≤ (if was then 84000 else 82000))

def Dev.inputLimitCross (d : Dev) (mv : Nat) : Dev :=
  let uv := uvJudge d.module.uvOk mv
  let ov := ovJudge d.module.ovOk mv
  let d1 := if uv && ov then d else d.stopPower
  { d1 with module := { d1.module with inputMv := mv, uvOk := uv, ovOk := ov } }.tryCharge

/-- INPUT_LIMIT_CROSS (R19, R402). -/
def execInputLimitCross (mv : Nat) (s : State) : Host.Outcome State Fault Refusal := onDev (·.inputLimitCross mv) s

def Dev.inputMonitorStart (d : Dev) (mv : Nat) : Dev :=
  if 40000 ≤ mv then { d with module := { d.module with monitorOn := true } }.inputLimitCross mv
  else { d.stopPower with module := { d.stopPower.module with inputMv := mv, monitorOn := false, uvOk := false, ovOk := true } }

/-- INPUT_MONITOR_START (R18, R27): the monitor runs from 40 V, and judges the input it finds against the limits of R19. -/
def execInputMonitorStart (mv : Nat) (s : State) : Host.Outcome State Fault Refusal := onDev (·.inputMonitorStart mv) s

def Dev.bulkChargeDone (d : Dev) : Dev :=
  if d.module.bulk == .charging then { d with module := { d.module with bulk := .charged, conv := true } } else d

/-- BULK_CHARGE_DONE (R402). -/
def execBulkChargeDone (s : State) : Host.Outcome State Fault Refusal := onDev Dev.bulkChargeDone s

def Dev.pwrgdRise (d : Dev) : Dev :=
  if d.module.conv && !d.module.pwrgd then
    { d with module := { d.module with pwrgd := true }, apex := { d.apex with phase := .measuring } }.setStage 2
  else d

/-- PWRGD_RISE (R19, R342): Apex locking begins; stage 2. -/
def execPwrgdRise (s : State) : Host.Outcome State Fault Refusal := onDev Dev.pwrgdRise s

def Dev.thermalTrip (d : Dev) : Dev :=
  if d.module.monitorOn then { d.stopPower with module := { d.stopPower.module with trip := true } } else d

/-- THERMAL_TRIP (R20, R406): every source acts alike. -/
def execThermalTrip (_src : TripSource) (s : State) : Host.Outcome State Fault Refusal := onDev Dev.thermalTrip s

def Dev.tripLatchClear (d : Dev) : TripClear → Dev
  | .pwrenHeld hot =>
    if d.module.pwren then d
    else { d with module := { d.module with trip := d.module.trip && hot } }
  | .inputBelow40 =>
    if d.module.inputMv < 40000 then { d with module := { d.module with trip := false } } else d

/-- TRIP_LATCH_CLEAR (R20): a latch cleared with the die still above its trip temperature sets again at once. -/
def execTripLatchClear (how : TripClear) (s : State) : Host.Outcome State Fault Refusal := onDev (·.tripLatchClear how) s

def Dev.perstAssert (d : Dev) : Dev :=
  if d.module.pwrgd then
    ({ d.goDark with module := { d.goDark.module with perst := false, bootsel := 0#2, i3caddr := 0#2 } }.setNum ASC.STRAPS 0).setNum ASC.STAGE 2
  else { d with module := { d.module with perst := false } }

/-- PERST_ASSERT (R15, R30, R405). -/
def execPerstAssert (s : State) : Host.Outcome State Fault Refusal := onDev Dev.perstAssert s

/-- Stage 3: CP[0] enters the boot ROM, PCIe training starts, the early pages raise READY, the service state is STARTUP
(R381, R383). -/
def Dev.bootRomStart (d : Dev) : Dev :=
  let d1 := { d with module := { d.module with pcieUp := true }, trust := { d.trust with boot := .idle } }.setStage 3
  let d2 := (d1.setNum ASC.SVCSTATE 0).setFld (CPU.CPSTATE 0) 1 0 1
  d2.readyAll (HST.page :: ASC.page :: PWR.page :: (pagesOf .ffy ++ pagesOf .cpu)) true

/-- The straps are latched (R15, R16). -/
def Dev.latchStraps (d : Dev) (bootsel i3c : BitVec 2) : Dev :=
  let rsv : Bool := decide (2 ≤ bootsel.toNat)
  let d1 := { d with module := { d.module with bootsel := bootsel, i3caddr := i3c } }
  let d2 := d1.setNum ASC.STRAPS (bootsel.toNat + 4 * i3c.toNat + 16 * rsv.toNat)
  if rsv then d2.err ASC.page 10 else d2

def Dev.perstDeassert (d : Dev) (bootsel i3c : BitVec 2) : Dev :=
  let d0 := { d with module := { d.module with perst := true } }
  if d.module.pwrgd && (!d.module.perst || decide (d.stage ≤ 2)) then
    let d1 := d0.latchStraps bootsel i3c
    if d1.apex.phase == .running then d1.bootRomStart else d1
  else d0

/-- PERST_DEASSERT (R15, R31): with PWRGD low nothing is latched. -/
def execPerstDeassert (bootsel i3c : BitVec 2) (s : State) : Host.Outcome State Fault Refusal :=
  onDev (·.perstDeassert bootsel i3c) s

/-! ### What the pins show (R12, R17, R27) -/

/-- The signals of R27's table. -/
inductive Pin where
  | lnkTx (p : Fin 24) | lnkRx (p : Fin 24) | pcieTx | pcieRx | i3c | clkin | clkout | pwrgd | thermtrip | strapref | inputs
  deriving DecidableEq, Repr

/-- What a pin shows. `target a` is an I3C target at static address `a`; `clock s n` is domain `s` divided by `n`;
`sensing` is high-Z but for the monitor's sensing of PWREN. -/
inductive PinState where
  | highZ | off | perState | terminated | input | sensing | low | high | target (a : Nat) | clock (s n : Nat)
  deriving DecidableEq, Repr

/-- The columns of R27. -/
inductive PinColumn where
  | below40 | unpowered | inReset | running
  deriving DecidableEq, Repr

/-- The condition the module is in: without the converters it is unpowered; with them it is in reset until PERST# is high
and the Apex has released the blocks (R27, R342). -/
def Dev.pinColumn (d : Dev) : PinColumn :=
  if !d.module.conv then (if d.module.monitorOn then .unpowered else .below40)
  else if d.module.perst && d.apex.phase == .running then .running
  else .inReset

/-- The module's I3C static address (R17). -/
def Dev.i3cAddress (d : Dev) : Nat := 0x58 + d.module.i3caddr.toNat

/-- PORTSTAT.STATE of port `p` (R304): 0 DISABLED, 1 DARK, whose transmitter has no output. -/
def Dev.lnkState (d : Dev) (p : Nat) : Nat := d.fld (LNK.PORTSTAT p) 2 0

/-- The state of a pin (R27). A whole-device reset shows the in-reset column on the LNK pins alone (R29). -/
def Dev.pin (d : Dev) (p : Pin) : PinState :=
  let c := d.pinColumn
  let dark := c != .running || d.deviceInReset
  match p with
  | .lnkTx q => if dark || decide (d.lnkState q ≤ 1) then .off else .perState
  | .lnkRx q => if dark || d.lnkState q == 0 then .highZ else .terminated
  | .pcieTx => if c == .running then .perState else .off
  | .pcieRx => if c == .running then .terminated else .highZ
  | .i3c => if c == .running then .target d.i3cAddress else .highZ
  | .clkin => if c == .inReset || c == .running then .input else .highZ
  | .clkout => if c == .running && d.apex.clkEnable then .clock d.apex.clkSrc (d.apex.clkDiv + 1) else .highZ
  | .pwrgd => match c with
    | .below40 => .highZ
    | _ => if d.module.pwrgd then .high else .low
  | .thermtrip => if d.module.monitorOn && d.module.trip then .low else .highZ
  | .strapref => if c == .inReset || c == .running then .high else .highZ
  | .inputs => match c with
    | .below40 => .highZ
    | .unpowered => .sensing
    | _ => .input

end Sys2Proof.Machine
end

