-- ==== Sys2Proof/Machine/Apex.lean ====
section
/-!
DEFINITION. Apex (16 R341-R350): the lock sequence, loss of lock, CLKOUT and the frequency counters.
-/
namespace Sys2Proof.Machine

/-- The divisor of clock domain `i` (R343); 0 where no domain has the index. -/
def divisor (i : Nat) : Nat :=
  if i ≤ 4 then 8 else if i ≤ 8 then 6 else if i ≤ 20 then 12 else if i ≤ 32 then 3 else if i ≤ 36 then 10
  else if i ≤ 38 then 144 else if i ≤ 40 then 16 else if i ≤ 42 then 6 else if i ≤ 44 then 12
  else if i ≤ 46 then 9 else if i ≤ 48 then 12 else if i ≤ 50 then 8 else if i ≤ 52 then 24
  else if i ≤ 54 then 72 else if i ≤ 56 then 1440 else if i = 57 then 48 else if i = 58 then 1440
  else if i = 59 then 14400 else 0

def Dev.clkinOk (d : Dev) : Dev :=
  if d.apex.phase == .measuring then { d with apex := { d.apex with phase := .calibrating } }.raise APX.LOCKSTAT 1 else d

/-- CLKIN_OK (R342). -/
def execClkinOk (s : State) : Host.Outcome State Fault Refusal := onDev Dev.clkinOk s

def Dev.vcoCalibrationDone (d : Dev) : Dev :=
  if d.apex.phase == .calibrating then { d with apex := { d.apex with phase := .locking } } else d

/-- VCO_CALIBRATION_DONE (R342). -/
def execVcoCalibrationDone (s : State) : Host.Outcome State Fault Refusal := onDev Dev.vcoCalibrationDone s

def Dev.apexLock (d : Dev) (cycles : Nat) : Dev :=
  if d.apex.phase == .locking then
    let d1 := ({ d with apex := { d.apex with phase := .locked } }.raise APX.LOCKSTAT 0).setNum APX.LOCKTIME cycles
    let d2 := d1.setReady APX.page true
    if d2.flag APX.LOCKSTAT 2 then d2.irq APX.page 2 else d2
  else d

/-- APEX_LOCK (R342, R349): READY follows LOCKED; after a loss IRQSUM.LOSTLOCK is set. -/
def execApexLock (cycles : Nat) (s : State) : Host.Outcome State Fault Refusal := onDev (·.apexLock cycles) s

def Dev.apexLockRetry (d : Dev) : Dev :=
  if (d.apex.phase == .measuring || d.apex.phase == .calibrating || d.apex.phase == .locking) && d.module.pwrgd then
    { d with apex := { d.apex with phase := if d.flag APX.LOCKSTAT 1 then .calibrating else .measuring } }
  else d

/-- APEX_LOCK_RETRY (R342): the Apex recalibrates and tries again. -/
def execApexLockRetry (s : State) : Host.Outcome State Fault Refusal := onDev Dev.apexLockRetry s

def Dev.dividerRelease (d : Dev) : Dev :=
  if d.apex.phase == .locked then { d with apex := { d.apex with phase := .released } } else d

/-- DIVIDER_RELEASE (R342). -/
def execDividerRelease (s : State) : Host.Outcome State Fault Refusal := onDev Dev.dividerRelease s

def Dev.blockResetRelease (d : Dev) : Dev :=
  if d.apex.phase == .released then
    let d1 := { d with apex := { d.apex with phase := .running } }
    if d1.module.perst then d1.bootRomStart else d1
  else d

/-- BLOCK_RESET_RELEASE (R342, R381). -/
def execBlockResetRelease (s : State) : Host.Outcome State Fault Refusal := onDev Dev.blockResetRelease s

def Dev.apexLockLoss (d : Dev) : Dev :=
  if d.apex.phase == .locked || d.apex.phase == .released || d.apex.phase == .running then
    let d1 := { d.goDark with apex := { ApexSt.reset with phase := .measuring } }
    let d2 := ((d1.setFld APX.LOCKSTAT 1 0 0).raise APX.LOCKSTAT 2).setReady APX.page false
    (d2.err APX.page 8).setNum ASC.STAGE 2
  else d

/-- APEX_LOCK_LOSS (R346): dark as a falling PERST# would make it; PWRGD stays high. -/
def execApexLockLoss (s : State) : Host.Outcome State Fault Refusal := onDev Dev.apexLockLoss s

/-- A write of CLKOUTCTRL (R347): discarded as a whole where SRC names no domain or CLKOUT would pass 200 MHz. -/
def Dev.writeClkout (d : Dev) (v : Word) : Dev :=
  let src := field v.toNat 5 0
  let dv := field v.toNat 31 16
  if src ≤ 59 ∧ 72 ≤ divisor src * (dv + 1) then
    { d with apex := { d.apex with clkSrc := src, clkDiv := dv, clkEnable := bit v.toNat 6 } }.wr APX.CLKOUTCTRL
      (v &&& 0xFFFF007F#32)
  else d

/-- A write of FCCTRL (R348, R349): a GATE of 0 is discarded, GATE keeping its value (log entry 7); a GO written while GO
reads 1 is discarded. A measurement runs over the GATE that its GO finds. -/
def Dev.writeFcctrl (d : Dev) (v : Word) : Dev :=
  let gate := field v.toNat 15 0
  let d1 := if gate = 0 then d else d.setFld APX.FCCTRL 15 0 gate
  if bit v.toNat 16 && !d.flag APX.FCCTRL 16 then
    ({ d1 with apex := { d1.apex with gate := d1.fld APX.FCCTRL 15 0 } }.raise APX.FCCTRL 16).drop APX.FCSTAT 0
  else d1

/-- What source `i` should count over GATE TIMEBASE cycles (R348). -/
def fcExpect (gate i : Nat) : Nat := if i = 60 then gate else gate * 144 / divisor i

/-- Sources whose count misses its expectation by more than 1 (R348). -/
def fcBad (gate : Nat) (counts : List Nat) : List Nat :=
  (List.range 61).filter (fun i => decide (1 < counts.getD i 0 - fcExpect gate i ∨ 1 < fcExpect gate i - counts.getD i 0))

def Dev.fcGateEnd (d : Dev) (counts : List Nat) : Dev :=
  if d.flag APX.FCCTRL 16 then
    let bad := fcBad d.apex.gate counts
    let d1 := { d with apex := { d.apex with counts := padTo 61 0 counts, lastGate := d.apex.gate } }.drop APX.FCCTRL 16
    let d2 := (d1.irq APX.page 1).raise APX.FCSTAT 0
    match bad with
    | [] => (d2.setFld APX.FCSTAT 14 8 127).drop APX.FCSTAT 1
    | b :: _ => (((d2.setFld APX.FCSTAT 14 8 b).raise APX.FCSTAT 1).err APX.page 9)
  else d

/-- FC_GATE_END (R348). -/
def execFcGateEnd (counts : List Nat) (s : State) : Host.Outcome State Fault Refusal := onDev (·.fcGateEnd counts) s

end Sys2Proof.Machine
end

