-- ==== Sys2Proof/Machine/Firefly.lean ====
section
/-!
DEFINITION. Firefly (17 R351-R362): sources, stacks, claims and ends of interrupt, and the MSI-X messages of R359.
-/
namespace Sys2Proof.Machine

/-- The bytes a read command returned (log entry 4). -/
def Dev.returns (d : Dev) (bs : List Byte) : Dev := { d with bus := { d.bus with readData := bs, resp := .ok } }

/-- A command of a requester that reaches the PF's pages; a VF reaches none of them (R365), and its access has no
effect (R33). -/
def requesterIsPf : Requester → Bool
  | .host => true
  | .cp _ => true
  | .vf _ => false

def onPf (r : Requester) (f : Dev → Dev) (d : Dev) : Dev := if requesterIsPf r then f d else d

/-- Entries of a function's MSI-X table (R50, R365). -/
def tableSize (fn : Nat) : Nat := if fn = 0 then 2048 else 64

/-- Entry `e` of function `fn`'s table. -/
def Dev.msixEntry (d : Dev) (fn e : Nat) : MsixEntry := d.host.msixTab.get msix0 (2048 * fn + e)

/-- The entry or its function is masked (R359). -/
def Dev.msixMasked (d : Dev) (fn e : Nat) : Bool :=
  (d.msixEntry fn e).ctrl.getLsbD 0 || d.host.fnMask.getLsbD fn

/-- A message goes out through an entry. -/
def Dev.sendMsix (d : Dev) (fn e : Nat) : Dev :=
  let t := d.msixEntry fn e
  { d with host := { d.host with
      msix := d.host.msix ++ [⟨fn, e, t.addrLo.toNat + 2 ^ 32 * t.addrHi.toNat, t.data⟩]
      msixPend := d.host.msixPend.filter (fun p => !(p.1 == fn && p.2 == e)) } }

/-- VECTOR and FUNC of source `n` (R352). -/
def Dev.vector (d : Dev) (n : Nat) : Nat := d.fld (FFY.SRCCFG n) 26 16
def Dev.func (d : Dev) (n : Nat) : Nat := d.fld (FFY.SRCCFG n) 30 27

/-- The VECTOR of a source names an entry of its function's table other than entry 0 (R359). -/
def Dev.vectorOk (d : Dev) (n : Nat) : Bool := decide (0 < d.vector n ∧ d.vector n < tableSize (d.func n))

/-- A PENDING host source is sent, or waits masked, or names a bad vector (R359). -/
def Dev.tryHost (d : Dev) (n : Nat) : Dev :=
  if d.irqState n == .pending && d.target n == 4 then
    if !d.vectorOk n then d.err (FFY.page 2) 11
    else if d.msixMasked (d.func n) (d.vector n) then
      if d.host.msixPend.contains (d.func n, d.vector n) then d
      else { d with host := { d.host with msixPend := d.host.msixPend ++ [(d.func n, d.vector n)] } }
    else
      let d1 := (d.sendMsix (d.func n) (d.vector n)).setIrqState n .active
      { d1 with firefly := { d1.firefly with owner := d1.firefly.owner.set zeroNat n 4 } }.countSat FFY7.MSGCOUNT 1
  else d

/-- Insert a source into a list in sending order: descending PRIO, then ascending number (R359). -/
def insertByPrio (d : Dev) (n : Nat) : List Nat → List Nat
  | [] => [n]
  | m :: l =>
    if d.prio m < d.prio n ∨ (d.prio m = d.prio n ∧ n < m) then n :: m :: l else m :: insertByPrio d n l

/-- The PENDING sources of the host target in sending order (R359). -/
def Dev.hostPending (d : Dev) : List Nat :=
  ((d.firefly.src.filter (fun p => p.2 == .pending)).map (fun p => p.1)).foldl (fun l n =>
    if d.target n == 4 then insertByPrio d n l else l) []

/-- Every PENDING host source that can be sent is sent, in order (R359). -/
def Dev.sendHost (d : Dev) : Dev := (d.hostPending.filter d.vectorOk).foldl Dev.tryHost d

/-- Pending bits whose sources have all been withdrawn clear (R359). -/
def Dev.sweepPend (d : Dev) : Dev :=
  { d with host := { d.host with msixPend := d.host.msixPend.filter (fun p =>
      p.2 == 0 || (d.firefly.src.any (fun q => q.2 == .pending && d.target q.1 == 4 && d.func q.1 == p.1 && d.vector q.1 == p.2))) } }

def Dev.irqAssert (d : Dev) (n : Nat) : Dev :=
  if d.irqState n == .idle && d.asserted n && d.prio n != 0 then (d.setIrqState n .pending).tryHost n else d

/-- IRQ_SOURCE_ASSERT (R353, R359): the source of a page whose (IRQSUM and IRQEN) is not 0 becomes PENDING. -/
def execIrqSourceAssert (n : BitVec 10) (s : State) : Host.Outcome State Fault Refusal := onDev (·.irqAssert n.toNat) s

def Dev.irqDeassert (d : Dev) (n : Nat) : Dev :=
  if d.irqState n == .pending && (pageOfSource n).isSome && !d.asserted n then (d.setIrqState n .idle).sweepPend else d

/-- IRQ_SOURCE_DEASSERT (R353): the request is withdrawn. -/
def execIrqSourceDeassert (n : BitVec 10) (s : State) : Host.Outcome State Fault Refusal := onDev (·.irqDeassert n.toNat) s

/-- A software source's number (R351). -/
def isSoftSource (n : Nat) : Bool := decide (512 ≤ n ∧ n ≤ 1022)

/-- A write of SWSET (R353, R361). -/
def Dev.writeSwset (d : Dev) (v : Word) : Dev :=
  let n := field v.toNat 9 0
  if isSoftSource n && d.irqState n == .idle && d.prio n != 0 then (d.setIrqState n .pending).tryHost n else d

def execSwset (r : Requester) (v : Word) (s : State) : Host.Outcome State Fault Refusal := onDev (onPf r (·.writeSwset v)) s

/-- A write of SWCLR (R353, R361). -/
def Dev.writeSwclr (d : Dev) (v : Word) : Dev :=
  let n := field v.toNat 9 0
  if isSoftSource n && d.irqState n == .pending then (d.setIrqState n .idle).sweepPend else d

def execSwclr (r : Requester) (v : Word) (s : State) : Host.Outcome State Fault Refusal := onDev (onPf r (·.writeSwclr v)) s

/-- Source numbers that have a configuration (R351, R352). -/
def isSource (n : Nat) : Bool := decide ((1 ≤ n ∧ n ≤ 285) ∨ (512 ≤ n ∧ n ≤ 1022))

/-- A write of SRCCFG (R352-R354): unassigned sources and TARGET 5 to 7 discard it; PRIO 0 withdraws a PENDING
source. -/
def Dev.writeSrccfg (d : Dev) (n : Nat) (v : Word) : Dev :=
  if isSource n && decide (field v.toNat 10 8 ≤ 4) then
    let d1 := d.wr (FFY.SRCCFG n) (v &&& 0x7FFF073F#32)
    let d2 := if field v.toNat 5 0 = 0 && d1.irqState n == .pending then d1.setIrqState n .idle else d1
    (d2.tryHost n).sweepPend
  else d

/-- SRCCFG_WRITE (R352-R354). -/
def execSrccfgWrite (r : Requester) (n : BitVec 10) (v : Word) (s : State) : Host.Outcome State Fault Refusal :=
  onDev (onPf r (·.writeSrccfg n.toNat v)) s

/-- The running priority of target `c`: THRESHOLD with an empty stack (R355). -/
def Dev.runPrio (d : Dev) (c : Nat) : Nat :=
  match d.irqStack c with
  | [] => d.fld (FFYT.THRESHOLD c) 5 0
  | _ :: _ => (d.firefly.run.get (fun _ => none) c).getD 0

/-- Source `n` is eligible for target `c` (R355). -/
def Dev.eligible (d : Dev) (c n : Nat) : Bool :=
  d.irqState n == .pending && d.target n == c && decide (d.runPrio c < d.prio n) &&
  decide ((d.irqStack c).length < 16)

/-- The eligible source of highest PRIO, the lowest number among equals (R356). -/
def Dev.choose (d : Dev) (c : Nat) : Option Nat :=
  ((d.firefly.src.map (fun p => p.1)).filter (d.eligible c)).foldl (fun best n =>
    match best with
    | none => some n
    | some b => if d.prio b < d.prio n ∨ (d.prio b = d.prio n ∧ n < b) then some n else some b) none

/-- The machine external interrupt of CP[c] (R355). -/
def Dev.cpIrq (d : Dev) (c : Nat) : Bool := (d.choose c).isSome

def Dev.claim (d : Dev) (c : Nat) : Dev :=
  match d.choose c with
  | some n =>
    let d1 := d.setIrqState n .active
    let d2 := { d1 with firefly := { d1.firefly with
      nest := d1.firefly.nest.set noStack c ((d.runPrio c, n) :: d.irqStack c)
      run := d1.firefly.run.set (fun _ => none) c (some (d.prio n))
      owner := d1.firefly.owner.set zeroNat n c } }
    d2.returns (leBytes 4 n)
  | none =>
    let d1 := (d.countSat FFY2.SPURCNT 1).returns (leBytes 4 1023)
    if (d.irqStack c).length = 16 then d1.err (FFY.page 2) 8 else d1

/-- CLAIM (R356): a read with the side effects of a claim, whoever reads. -/
def execClaim (r : Requester) (c : Fin 4) (s : State) : Host.Outcome State Fault Refusal :=
  onDev (fun d => if requesterIsPf r then d.claim c else d.returns (leBytes 4 0)) s

/-- The activity of source `n` ends (R353): PENDING again if it is still asserted and enabled. -/
def Dev.endActivity (d : Dev) (n : Nat) : Dev :=
  if d.asserted n && d.prio n != 0 then (d.setIrqState n .pending).tryHost n else d.setIrqState n .idle

/-- A write of EOI on target `c`'s page (R357). -/
def Dev.writeEoi (d : Dev) (c : Nat) (v : Word) : Dev :=
  let n := field v.toNat 9 0
  if n = 1023 then d
  else match d.irqStack c with
  | [] => d.err (FFY.page 2) 9
  | (p, m) :: rest =>
    if n = m then
      let d1 := { d with firefly := { d.firefly with
        nest := d.firefly.nest.set noStack c rest
        run := d.firefly.run.set (fun _ => none) c (if rest = [] then none else some p) } }
      d1.endActivity n
    else d.err (FFY.page 2) 10

/-- EOI (R357). -/
def execEoi (r : Requester) (c : Fin 4) (v : Word) (s : State) : Host.Outcome State Fault Refusal :=
  onDev (onPf r (·.writeEoi c v)) s

/-- An end of interrupt from the host (R359): only a source that is ACTIVE for the host target. -/
def Dev.writeHosteoi (d : Dev) (v : Word) : Dev :=
  let n := field v.toNat 9 0
  if d.irqState n == .active && d.firefly.owner.get zeroNat n == 4 then d.endActivity n else d.err (FFY.page 2) 10

/-- HOSTEOI (R359). -/
def execHosteoi (r : Requester) (v : Word) (s : State) : Host.Outcome State Fault Refusal :=
  onDev (onPf r (·.writeHosteoi v)) s

/-- VFEOI (R359, R379): the register of a VF's view. View 0 does not exist: VFs are 1 to 15. -/
def execVfeoi (vf : Fin 16) (v : Word) (s : State) : Host.Outcome State Fault Refusal :=
  onDev (fun d => if vf.val = 0 then d else d.writeHosteoi v) s

/-- A write to the BAR4 table of function `fn` (R50, R359). -/
def Dev.msixWrite (d : Dev) (fn e dw : Nat) (v : Word) : Dev :=
  if e < tableSize fn then
    let t := d.msixEntry fn e
    let t' := if dw = 0 then { t with addrLo := v &&& 0xFFFFFFFC#32 } else if dw = 1 then { t with addrHi := v }
      else if dw = 2 then { t with data := v } else { t with ctrl := v &&& 1#32 }
    let d1 := { d with host := { d.host with msixTab := d.host.msixTab.set msix0 (2048 * fn + e) t' } }
    let d2 := if e = 0 && d1.host.msixPend.contains (fn, 0) && !d1.msixMasked fn 0 then d1.sendMsix fn 0 else d1
    d2.sendHost
  else d

/-- MSIX_TABLE_WRITE (R359): unmasking an entry sends what waits on it. -/
def execMsixTableWrite (fn : Fin 16) (e : Nat) (dw : Fin 4) (v : Word) (s : State) : Host.Outcome State Fault Refusal :=
  onDev (·.msixWrite fn e dw v) s

def Dev.functionMask (d : Dev) (fn : Fin 16) (masked : Bool) : Dev :=
  let bitOf : BitVec 16 := 1#16 <<< fn.val
  let d1 := { d with host := { d.host with
    fnMask := if masked then d.host.fnMask ||| bitOf else d.host.fnMask &&& ~~~bitOf } }
  let d2 := if d1.host.msixPend.contains (fn.val, 0) && !d1.msixMasked fn 0 then d1.sendMsix fn 0 else d1
  d2.sendHost

/-- MSIX_FUNCTION_MASK (R359). -/
def execMsixFunctionMask (fn : Fin 16) (masked : Bool) (s : State) : Host.Outcome State Fault Refusal :=
  onDev (·.functionMask fn masked) s

end Sys2Proof.Machine
end

