-- ==== Sys2Proof/Machine/Sha3.lean ====
section
/-!
DEFINITION. SHA3-384 (FIPS 202) and CRC32C (Castagnoli), which the spec names and does not define (log entry 19).
-/
namespace Sys2Proof.Machine

/-- A Keccak-f[1600] state: 25 lanes, lane (x, y) at x + 5 y. -/
abbrev Lanes := List DWord

def lane (a : Lanes) (x y : Nat) : DWord := a.getD (x % 5 + 5 * (y % 5)) 0#64

/-- Rotation offsets by x + 5 y. -/
def rotOff : List Nat :=
  [0, 1, 62, 28, 27, 36, 44, 6, 55, 20, 3, 10, 43, 25, 39, 41, 45, 15, 21, 8, 18, 2, 61, 56, 14]

/-- Round constants. -/
def roundConst : List DWord :=
  [0x0000000000000001#64, 0x0000000000008082#64, 0x800000000000808A#64, 0x8000000080008000#64,
   0x000000000000808B#64, 0x0000000080000001#64, 0x8000000080008081#64, 0x8000000000008009#64,
   0x000000000000008A#64, 0x0000000000000088#64, 0x0000000080008009#64, 0x000000008000000A#64,
   0x000000008000808B#64, 0x800000000000008B#64, 0x8000000000008089#64, 0x8000000000008003#64,
   0x8000000000008002#64, 0x8000000000000080#64, 0x000000000000800A#64, 0x800000008000000A#64,
   0x8000000080008081#64, 0x8000000000008080#64, 0x0000000080000001#64, 0x8000000080008008#64]

/-- Theta. -/
def keccakTheta (a : Lanes) : Lanes :=
  let c := tabulate 5 (fun x => lane a x 0 ^^^ lane a x 1 ^^^ lane a x 2 ^^^ lane a x 3 ^^^ lane a x 4)
  let d := tabulate 5 (fun x => c.getD ((x + 4) % 5) 0#64 ^^^ (c.getD ((x + 1) % 5) 0#64).rotateLeft 1)
  tabulate 25 (fun i => a.getD i 0#64 ^^^ d.getD (i % 5) 0#64)

/-- Rho and pi: lane (x, y) of the result comes from (x + 3 y, x). -/
def keccakRhoPi (a : Lanes) : Lanes :=
  tabulate 25 (fun i =>
    let x := i % 5
    let y := i / 5
    (lane a (x + 3 * y) x).rotateLeft (rotOff.getD ((x + 3 * y) % 5 + 5 * x) 0))

/-- Chi. -/
def keccakChi (a : Lanes) : Lanes :=
  tabulate 25 (fun i =>
    let x := i % 5
    let y := i / 5
    lane a x y ^^^ (~~~(lane a (x + 1) y) &&& lane a (x + 2) y))

/-- One round. -/
def keccakRound (a : Lanes) (rc : DWord) : Lanes :=
  match keccakChi (keccakRhoPi (keccakTheta a)) with
  | [] => []
  | h :: t => (h ^^^ rc) :: t

def keccakF (a : Lanes) : Lanes := roundConst.foldl keccakRound a

/-- Absorb one block of 104 bytes. -/
def absorbBlock (a : Lanes) (blk : List Byte) : Lanes :=
  keccakF (tabulate 25 (fun i =>
    if i < 13 then a.getD i 0#64 ^^^ BitVec.ofNat 64 (fieldAt blk (8 * i) 8) else a.getD i 0#64))

/-- Absorb a padded message. -/
def absorb : Nat → Lanes → List Byte → Lanes
  | 0, a, _ => a
  | n + 1, a, m => absorb n (absorbBlock a (m.take 104)) (m.drop 104)

/-- The padding of SHA3: 0x06, zeros, 0x80 in the last byte. -/
def sha3Pad (n : Nat) : List Byte :=
  let k := 104 - n % 104
  if k = 1 then [0x86#8] else 0x06#8 :: (List.replicate (k - 2) 0#8 ++ [0x80#8])

/-- SHA3-384. -/
def sha3_384 (m : List Byte) : List Byte :=
  let p := m ++ sha3Pad m.length
  let a := absorb (p.length / 104) (List.replicate 25 0#64) p
  ((a.take 6).flatMap (fun l => leBytes 8 l.toNat)).take 48

/-- CRC32C by bits: reflected polynomial 0x82F63B78. -/
def crcBits : Nat → Nat → Nat
  | 0, c => c
  | n + 1, c => crcBits n (if c % 2 = 1 then Nat.xor (c / 2) 0x82F63B78 else c / 2)

/-- CRC32C of a byte string. -/
def crc32c (m : List Byte) : Nat :=
  Nat.xor (m.foldl (fun c b => crcBits 8 (Nat.xor c b.toNat)) 0xFFFFFFFF) 0xFFFFFFFF

end Sys2Proof.Machine
end

