-- ==== Sys2Proof/Machine/Txns.lean ====
section
/-!
DEFINITION. Carodlink transactions (14 R312-R320): their fields, routing, completion tables, completions, and what a
port holds and sends.
-/
namespace Sys2Proof
open Machine

/-! ### Header fields (R312, R313) -/
def Txn.kindN (t : Txn) : Nat := t.kind.toNat
def Txn.resent (t : Txn) : Bool := t.flags.getLsbD 0
def Txn.proto (t : Txn) : Bool := t.flags.getLsbD 1
def Txn.hops (t : Txn) : Nat := field t.flags.toNat 7 2
def Txn.dstRank (t : Txn) : Nat := field t.dst.toNat 13 0
def Txn.srcRank (t : Txn) : Nat := field t.src.toNat 13 0
def Txn.len (t : Txn) : Nat := field t.lenTen.toNat 3 0
def Txn.ten (t : Txn) : Nat := field t.lenTen.toNat 7 4
def Txn.tag (t : Txn) : Nat := field t.tid.toNat 15 0
def Txn.gen (t : Txn) : Nat := field t.tid.toNat 19 16
def Txn.iport (t : Txn) : Nat := field t.tid.toNat 24 20
def Txn.bytesN (t : Txn) : Nat := field t.arg0.toNat 8 0
def Txn.addrN (t : Txn) : Nat := t.addr.toNat
def Txn.setResent (t : Txn) : Txn := { t with flags := t.flags ||| 1#8 }
def Txn.setHops (t : Txn) (h : Nat) : Txn := { t with flags := BitVec.ofNat 8 (withField t.flags.toNat 7 2 h) }
/-- RACC fields of ARG1 (R313). -/
def Txn.op (t : Txn) : Nat := field t.arg1.toNat 7 0
def Txn.raccSrc (t : Txn) : Nat := field t.arg1.toNat 21 8
def Txn.raccSlot (t : Txn) : Nat := field t.arg1.toNat 25 22
def Txn.btag (t : Txn) : Nat := field t.arg1.toNat 47 32
def Txn.elems (t : Txn) : Nat := field t.arg1.toNat 53 48 + 1

/-- Slots a transaction occupies (R309). -/
def Txn.slots (t : Txn) : Nat := 1 + t.len


/-- Whether a transaction travels on CTL, or on CPL (R309). -/
def Txn.isCtl (t : Txn) : Bool := t.kindN == 6 || t.kindN == 7
def Txn.isCpl (t : Txn) : Bool := t.kindN == 5

/-- Flits a transaction takes: it starts a flit of its own (log entry 16). -/
def Txn.flits (t : Txn) : Nat := ceilDiv t.slots 8

/-- The element size of a RACC operation's operand in the payload (R212, R313): 4 for 32-bit operands, 8 or 16
otherwise; an FTREE line carries FP32 values. -/
def raccOperandSize (op : Nat) : Nat :=
  if op = 0x02 ∨ op = 0x08 then 8 else if op = 0x09 then 16 else 4

/-- A device-memory range that stays within one 256-byte block. -/
def inOneBlock (a n : Nat) : Bool := decide (0 < n ∧ a % 256 + n ≤ 256)

/-- A transaction on the wire as bytes (R312), its payload padded to whole slots. -/
def Txn.bytes (t : Txn) : List Byte :=
  [t.kind, t.flags] ++ leBytes 2 t.dst.toNat ++ leBytes 2 t.src.toNat ++ [t.beatTag, t.lenTen] ++ leBytes 4 t.tid.toNat ++
  leBytes 4 t.arg0.toNat ++ leBytes 8 t.addr.toNat ++ leBytes 8 t.arg1.toNat ++ padTo (32 * t.len) 0#8 t.payload

/-- The operation codes that a RACC may carry (R212, R313). -/
def raccOpValid (op : Nat) : Bool := [0x01, 0x02, 0x03, 0x04, 0x05, 0x08, 0x09, 0x10, 0x20].contains op

/-- Order 1 of R316: the request is well formed. -/
def Txn.wellFormed (t : Txn) : Bool :=
  let common := decide (t.dst.toNat < 2 ^ 14 ∧ t.src.toNat < 2 ^ 14 ∧ t.tid.toNat < 2 ^ 25 ∧ t.len ≤ 8) &&
    !t.flags.getLsbD 1 && t.payload.length == 32 * t.len
  if t.kindN = 1 then
    common && decide (t.arg0.toNat < 2 ^ 9) && decide (t.arg1 = 0#64) && inOneBlock t.addrN t.bytesN &&
      t.len == ceilDiv t.bytesN 32
  else if t.kindN = 2 then
    common && decide (t.arg0.toNat < 2 ^ 9) && decide (t.arg1 = 0#64) && inOneBlock t.addrN t.bytesN && t.len == 0
  else if t.kindN = 3 then
    let size := raccOperandSize t.op
    let target := if t.op = 0x02 ∨ t.op = 0x03 ∨ t.op = 0x08 ∨ t.op = 0x09 then 8 else 4
    common && raccOpValid t.op && decide (t.addrN % 256 = 0) && decide (t.arg1.toNat < 2 ^ 54) && decide (field t.arg1.toNat 31 26 = 0) &&
      decide (t.elems * target ≤ 256) && t.len == ceilDiv (t.elems * size) 32
  else if t.kindN = 4 then
    common && decide (t.addrN < 2 ^ 17) && decide (t.arg0.toNat < 2 ^ 16) && decide (t.arg1 = 0#64) && t.len == 0
  else false

end Sys2Proof

namespace Sys2Proof.Machine

/-- TID from TAG, GEN and IPORT (R312). -/
def mkTid (tag gen iport : Nat) : Word := BitVec.ofNat 32 (tag % 2 ^ 16 + 2 ^ 16 * (gen % 16) + 2 ^ 20 * (iport % 32))

/-- The device's rank (R314). -/
def Dev.rank (d : Dev) : Nat := d.fld (LNK.RANKCFG 0) 13 0
/-- RANKCFG.VALID. -/
def Dev.rankValid (d : Dev) : Bool := d.flag (LNK.RANKCFG 0) 15

/-- PORTSTAT.STATE (R325): 0 DISABLED, 1 DARK, 2 TRAIN, 3 IDENT, 4 ACTIVE, 5 RECOVERY. -/
def Dev.portState (d : Dev) (p : Nat) : Nat := d.fld (LNK.PORTSTAT p) 2 0
def Dev.portActive (d : Dev) (p : Nat) : Bool := d.portState p == 4

/-- The port a transaction for rank `r` takes (R314): the ALTERNATE while it carries the destination, otherwise the
PRIMARY; 31 none. -/
def Dev.routePort (d : Dev) (r : Nat) : Nat :=
  if (d.route r).inuse then (d.route r).alternate else (d.route r).primary

/-! ### Sending -/

/-- A transaction from 32 header bytes and its payload slots. -/
def txnOf (bs : List Byte) : Txn where
  kind := BitVec.ofNat 8 (byteAt bs 0)
  flags := BitVec.ofNat 8 (byteAt bs 1)
  dst := BitVec.ofNat 16 (fieldAt bs 2 2)
  src := BitVec.ofNat 16 (fieldAt bs 4 2)
  beatTag := BitVec.ofNat 8 (byteAt bs 6)
  lenTen := BitVec.ofNat 8 (byteAt bs 7)
  tid := BitVec.ofNat 32 (fieldAt bs 8 4)
  arg0 := BitVec.ofNat 32 (fieldAt bs 12 4)
  addr := BitVec.ofNat 64 (fieldAt bs 16 8)
  arg1 := BitVec.ofNat 64 (fieldAt bs 24 8)
  payload := bs.drop 32

/-- The slots of received bodies as transactions, and the bytes of a transaction not yet whole (R309): a slot whose KIND
byte is 0 is padding where a transaction could begin. -/
def parseSlots : Nat → List Byte → List Txn × List Byte
  | 0, bs => ([], bs)
  | fuel + 1, bs =>
    if bs.length < 32 then ([], bs)
    else if byteAt bs 0 = 0 then parseSlots fuel (bs.drop 32)
    else
      let n := 32 * (1 + field (byteAt bs 7) 3 0)
      if bs.length < n then ([], bs)
      else
        let r := parseSlots fuel (bs.drop n)
        (txnOf (bs.take n) :: r.1, r.2)

/-- The first transaction of the send queue that may start (R309): CTL goes into the next flit, without credits; CPL never
waits behind REQ, and each needs credits for all its slots. -/
def Port.nextToSend (q : Port) : Option Txn :=
  if (q.sendQ.any (fun t => t.isCtl)) then q.sendQ.find? (fun t => t.isCtl) else
  match q.sendQ.find? (fun t => t.isCpl) with
  | some t => if t.slots ≤ q.creditCpl then some t
    else (q.sendQ.find? (fun t => !t.isCpl)).bind (fun u => if u.slots ≤ q.creditReq then some u else none)
  | none => q.sendQ.head?.bind (fun u => if u.slots ≤ q.creditReq then some u else none)

/-- The header of the next flit (R308): ACKSEQ, and the credits of one channel whose slots have been freed, REQ first (log
entry 16). -/
def Port.header (q : Port) (fseq : Nat) : FlitHdr × Port :=
  let nr := min 31 (q.owedReq / 64)
  let nc := if nr = 0 then min 31 (q.owedCpl / 64) else 0
  (⟨BitVec.ofNat 12 fseq, BitVec.ofNat 12 q.ackseq, nc != 0, BitVec.ofNat 5 (nr + nc)⟩,
    { q with owedReq := q.owedReq - 64 * nr, owedCpl := q.owedCpl - 64 * nc, ackSent := q.ackseq })

/-- The slots of a transaction leave the receive buffer of their channel (R309). -/
def Port.freed (q : Port) (t : Txn) : Port :=
  if t.isCtl then q
  else if t.isCpl then { q with owedCpl := q.owedCpl + t.slots }
  else { q with owedReq := q.owedReq + t.slots }

/-- One DATA flit of a transaction is sent and kept (R310). -/
def Port.sendFlit (t : Txn) (q : Port) (cont : Bool) : Port :=
  let r := q.header q.fseq
  { r.2 with
    replayBuf := q.replayBuf ++ [⟨q.fseq, [t], cont⟩]
    fseq := (q.fseq + 1) % 4096
    tx := q.tx ++ [.data r.1 [t] cont] }

/-- Send one queued transaction: it leaves the queue, takes its credits, and its flits enter the replay buffer (R310). -/
def Port.sendOne (q : Port) (t : Txn) : Port :=
  (List.range t.flits).foldl (fun (q : Port) i => q.sendFlit t (i != 0))
    { q with
      sendQ := q.sendQ.erase t
      creditCpl := if t.isCpl then q.creditCpl - t.slots else q.creditCpl
      creditReq := if t.isCpl || t.isCtl then q.creditReq else q.creditReq - t.slots }

/-- The replay buffer of 1,024 flits holds no room for the next transaction (R310). -/
def Port.full (q : Port) : Bool :=
  match q.nextToSend with
  | some t => decide (1024 < q.replayBuf.length + t.flits)
  | none => false

/-- An IDLE flit, where an acknowledgement or credits are due or the replay buffer is full (R308, R310). -/
def Port.idle (q : Port) : Port :=
  if q.ackSent ≠ q.ackseq ∨ 64 ≤ q.owedReq ∨ 64 ≤ q.owedCpl ∨ q.full = true then
    { (q.header 0).2 with tx := q.tx ++ [.idle (q.header 0).1] }
  else q

/-- The transactions that the replay buffer holds, also one whose first flit is acknowledged, each once (R319). -/
def Port.unacked (q : Port) : List Txn :=
  match q.replayBuf with
  | [] => []
  | f :: l => f.txns ++ (l.filter (fun (x : Flit) => !x.cont)).flatMap (fun (x : Flit) => x.txns)

/-! ### Flits as bytes (R308) -/

/-- The four bytes of a flit's header. -/
def flitHead (h : FlitHdr) (ftype : Nat) : List Byte :=
  leBytes 4 (h.fseq.toNat + 2 ^ 12 * h.ackseq.toNat + 2 ^ 24 * ftype + 2 ^ 26 * h.cvc.toNat + 2 ^ 27 * h.credit.toNat)

/-- Header, body and CRC of a flit: 264 bytes. -/
def flitBytes (head body : List Byte) : List Byte := head ++ body ++ leBytes 4 (crc32c (head ++ body))

/-- A flit as it is sent. -/
def Sent.bytes : Sent → List Byte
  | .data h txns cont =>
    flitBytes (flitHead h 0) (padTo 256 0#8 (((txns.flatMap Txn.bytes).drop (if cont then 256 else 0)).take 256))
  | .idle h => flitBytes (flitHead h 1) (List.replicate 256 0#8)
  | .nak h => flitBytes (flitHead h 2) (List.replicate 256 0#8)
  | .ident _ _ _ _ => []

/-! ### What a port sends -/

/-- Send what credits and the replay buffer of 1,024 flits allow (R309, R310). -/
def Port.pump : Nat → Port → Nat × Port
  | 0, q => (0, q)
  | fuel + 1, q =>
    match q.nextToSend with
    | none => (0, q)
    | some t =>
      if q.replaying = 0 ∧ q.replayBuf.length + t.flits ≤ 1024 then
        let r := Port.pump fuel (q.sendOne t)
        (r.1 + t.flits, r.2)
      else (0, q)

/-- An ACTIVE port sends what it may; TXBYTES counts the flit bodies (R325). -/
def Dev.pump (d : Dev) (p : Nat) : Dev :=
  if d.portActive p then
    let r := Port.pump (d.port p).sendQ.length (d.port p)
    (d.setPort p r.2.idle).count64 (LNK.TXBYTES p) (256 * r.1)
  else d

/-- A transaction waits at a port and is sent when it may. -/
def Dev.pushTxn (d : Dev) (p : Nat) (t : Txn) : Dev :=
  (d.setPort p { d.port p with sendQ := (d.port p).sendQ ++ [t] }).pump p

/-- A SYNC that has ended lets the next one to the same destination go (R315). -/
def Dev.releaseSync (d : Dev) (t : Txn) : Dev :=
  if t.kindN ≠ 4 then d
  else match d.link.syncWait.find? (fun (w : Nat × Txn) => w.2.dstRank == t.dstRank) with
  | none => d
  | some w =>
    let d1 := { d with link := { d.link with syncWait := d.link.syncWait.erase w } }
    if w.1 = 31 then { d1 with link := { d1.link with localQ := d1.link.localQ ++ [w.2] } } else d1.pushTxn w.1 w.2

/-! ### Completions (R316, R318, R320) -/

/-- The completion of a request, towards its source (R313): the request's BEATTAG and TID, the code, PROTO. -/
def cplOf (t : Txn) (rank code : Nat) (proto : Bool) (data : List Byte) : Txn where
  kind := 5#8
  flags := if proto then 2#8 else 0#8
  dst := t.src
  src := BitVec.ofNat 16 rank
  beatTag := t.beatTag
  lenTen := BitVec.ofNat 8 (ceilDiv data.length 32 + 16 * t.ten)
  tid := t.tid
  arg0 := BitVec.ofNat 32 code
  addr := 0#64
  arg1 := 0#64
  payload := data

/-- The completion table of an IPORT; 31 is the local one (R314, R317). -/
def Dev.table (d : Dev) (iport : Nat) : List Outst :=
  if iport = 31 then d.link.localTable else (d.port iport).table

def Dev.setTable (d : Dev) (iport : Nat) (l : List Outst) : Dev :=
  if iport = 31 then { d with link := { d.link with localTable := l } }
  else d.setPort iport { d.port iport with table := l }

/-- A completion reaches the table of its IPORT (R318): a match by TAG and GEN completes the request, and any code but
OK and OK_DUPLICATE, which leave the beat's code alone (R232), fails the beat; no match is counted in LATECPL. -/
def Dev.completeAt (d : Dev) (iport tag gen code : Nat) (proto : Bool) : Dev :=
  let l := d.table iport
  match l.find? (fun o => o.tag == tag && o.gen == gen) with
  | some o =>
    let d1 := (d.setTable iport (l.erase o)).releaseSync o.txn
    if proto then d1.beatFail 0x50 (blockName .stg o.unit) o.txn.addrN
    else if code = 0 ∨ code = 6 then d1
    else d1.beatFail code (blockName .stg o.unit) o.txn.addrN
  | none =>
    let pg := if iport = 31 then 0 else iport
    (d.countSat (LNK.LATECPL pg) 1).err (LNK.page pg) 14

/-- A completion is routed to its source (R320): locally for the device's own rank; dropped where its entry is 31 or its port
is DISABLED or DARK; otherwise queued at the port. -/
def Dev.routeCpl (d : Dev) (c : Txn) : Dev :=
  if c.dstRank = d.rank then d.completeAt c.iport c.tag c.gen (field c.arg0.toNat 7 0) c.proto
  else
    let p := d.routePort c.dstRank
    if 24 ≤ p ∨ d.portState p ≤ 1 then d else d.pushTxn p c

/-- Complete a request towards its source. -/
def Dev.complete (d : Dev) (t : Txn) (code : Nat) (proto : Bool) (data : List Byte) : Dev :=
  d.routeCpl (cplOf t d.rank code proto data)

/-! ### Requests of this device (R314, R317, R320) -/

/-- The lowest free TAG of a table (log entry 27). -/
def freeTag (l : List Outst) : Nat → Nat → Nat
  | 0, t => t
  | fuel + 1, t => if l.any (fun o => o.tag == t) then freeTag l fuel (t + 1) else t

/-- GEN of a TAG before its first allocation, which then carries 0 (log entry 27). -/
def noGen (_ : Nat) : Nat := 15

/-- A SYNC to rank `r` is outstanding. -/
def Dev.syncOut (d : Dev) (r : Nat) : Bool :=
  let hit := fun (o : Outst) => o.txn.kindN == 4 && o.txn.dstRank == r
  d.link.localTable.any hit || d.link.ports.any (fun (p : Nat × Port) => p.2.table.any hit)

/-- A SYNC waits for the one before it (R315). -/
def Dev.waitSync (d : Dev) (iport : Nat) (t : Txn) : Dev :=
  { d with link := { d.link with syncWait := d.link.syncWait ++ [(iport, t)] } }

/-- Issue a request: for the device's own rank it waits to be performed locally with IPORT = 31; otherwise it enters the
completion table of its port and is sent, a SYNC only after the one before it to its destination (R315). A route of 31 is
RANK_UNREACHABLE, a DISABLED or DARK port LINK_DOWN. -/
def Dev.issueRequest (d : Dev) (unit : Nat) (t : Txn) : Dev :=
  if t.dstRank = d.rank then
    let tag := freeTag d.link.localTable 65536 0
    let gen := (d.link.localGens.get noGen tag + 1) % 16
    let t' := { t with tid := mkTid tag gen 31 }
    let late := t.kindN == 4 && d.syncOut t.dstRank
    let d1 := { d with link := { d.link with
        localQ := if late then d.link.localQ else d.link.localQ ++ [t']
        localTable := d.link.localTable ++ [⟨tag, gen, t', 0, unit⟩]
        localGens := d.link.localGens.set noGen tag gen } }
    if late then d1.waitSync 31 t' else d1
  else
    let p := d.routePort t.dstRank
    if 24 ≤ p then d.beatFail 0x53 (blockName .stg unit) t.addrN
    else if d.inReset (LNK.page p) then d.absorb.beatFail 0xB0 (blockName .stg unit) t.addrN
    else if d.portState p ≤ 1 then d.beatFail 0x51 (blockName .stg unit) t.addrN
    else
      let q := d.port p
      let tag := freeTag q.table 65536 0
      let gen := (q.gens.get noGen tag + 1) % 16
      let t' := { t with tid := mkTid tag gen p }
      let d1 := d.setPort p { q with table := q.table ++ [⟨tag, gen, t', 0, unit⟩], gens := q.gens.set noGen tag gen }
      if t.kindN == 4 && d.syncOut t.dstRank then d1.waitSync p t' else d1.pushTxn p t'

/-- A request header of this device: beat, tenancy, rank (R312). -/
def Dev.mkReq (d : Dev) (kind dst len : Nat) (arg0 : Nat) (addr arg1 : Nat) (payload : List Byte) : Txn where
  kind := BitVec.ofNat 8 kind
  flags := 0#8
  dst := BitVec.ofNat 16 dst
  src := BitVec.ofNat 16 d.rank
  beatTag := BitVec.ofNat 8 d.beatNum
  lenTen := BitVec.ofNat 8 (len + 16 * d.tenancy)
  tid := 0#32
  arg0 := BitVec.ofNat 32 arg0
  addr := BitVec.ofNat 64 addr
  arg1 := BitVec.ofNat 64 arg1
  payload := payload

/-- Every outstanding request through port `p` completes with a code and its beat fails (R317, R320). -/
def Dev.failTable (d : Dev) (p code : Nat) : Dev :=
  let n := (d.port p).table.length
  if n = 0 then d
  else
    let d0 := d.setPort p { d.port p with table := [] }
    let d1 := { d0 with link := { d0.link with syncWait := d0.link.syncWait.filter (fun (w : Nat × Txn) => w.1 != p) } }
    let d2 := if code = 0x50 then (d1.countSat (LNK.TIMEOUTS p) n).err (LNK.page p) 3 else d1
    d2.beatFail code (blockName .stg (((d.port p).table.map (fun o => o.unit)).foldl min 11)) 0

/-- Every forwarded transaction that port `p` holds is completed towards its source with a code (R320, R327); the
device's own leave with their table entries. -/
def Dev.failHeld (d : Dev) (p code : Nat) : Dev :=
  let q := d.port p
  let l := q.unacked ++ q.sendQ
  let d1 := d.setPort p { q with replayBuf := [], sendQ := [] }
  l.foldl (fun d t => if t.srcRank == d.rank || t.isCpl || t.isCtl then d else d.complete t code false []) d1

/-- The transactions of other devices that port `p` holds. -/
def Dev.heldFor (d : Dev) (p : Nat) : List Txn :=
  ((d.port p).unacked ++ (d.port p).sendQ).filter
    (fun t => !(t.srcRank == d.rank || t.isCpl || t.isCtl))

/-- A port's reset absorbs what it holds and what is outstanding through it (R327, R393). -/
def Dev.absorbPort (d : Dev) (p : Nat) : Dev :=
  let n := (d.heldFor p).length + (d.port p).table.length
  ((d.failTable p 0xB0).failHeld p 0xB0).countSat ASC.ABSORBCNT n

/-! ### Forwarding (R314, R320) -/

/-- A transaction has reached 63 hops (R314). -/
def Dev.hopLimit (d : Dev) (from_ : Option Nat) : Dev :=
  match from_ with | some q => d.err (LNK.page q) 13 | none => d

/-- A transaction for another rank goes on, one hop further; a completion at 63 hops is dropped (R320). -/
def Dev.forward (d : Dev) (from_ : Option Nat) (t : Txn) : Dev :=
  if t.isCpl then
    if 63 ≤ t.hops then d.hopLimit from_ else d.routeCpl (t.setHops (t.hops + 1))
  else
    let p := d.routePort t.dstRank
    if 24 ≤ p then d.complete t 0x53 false []
    else if 63 ≤ t.hops then (d.hopLimit from_).complete t 0x53 false []
    else if d.inReset (LNK.page p) then d.absorb.complete t 0xB0 false []
    else if d.portState p ≤ 1 then d.complete t 0x51 false []
    else d.pushTxn p (t.setHops (t.hops + 1))

/-! ### What a destination checks first (R316 order 1 and 2) -/

/-- How BEATTAG judges an inbound request (R63). -/
inductive TagVerdict where
  | deliver | hold | full | absorbed | wrong
  deriving DecidableEq, Repr

def Dev.judgeTag (d : Dev) (p : Option Nat) (t : Txn) : TagVerdict :=
  match p with
  | none => .deliver
  | some q =>
    if t.beatTag.toNat = d.beatNum % 256 then (if d.cricket.phase == .run then .deliver else .absorbed)
    else if t.beatTag.toNat = (d.beatNum + 1) % 256 then
      (if (d.port q).held.length < 64 then .hold else .full)
    else .wrong

/-- Where a check of R316 is counted: the receiving port's page; LNK[0] for a local request. -/
def linkPage (p : Option Nat) : Nat := LNK.page (p.getD 0)

/-- A transaction leaves the receive buffer of its port. -/
def Dev.leavePort (d : Dev) (p : Option Nat) (t : Txn) : Dev :=
  match p with
  | some q => d.setPort q ({ d.port q with received := (d.port q).received.erase t }.freed t)
  | none => { d with link := { d.link with localQ := d.link.localQ.erase t } }

/-- The common part of R316, orders 1 and 2: the device where the request is refused or held, or none where it is
judged further. A transaction leaves the port's receive buffer when it is judged, unless the port holds it there (R63). -/
def Dev.receive (d : Dev) (p : Option Nat) (t : Txn) : Dev × Bool :=
  let d0 := d.leavePort p t
  if !t.wellFormed then (((d0.err (linkPage p) 2).complete t 0x50 true []), false)
  else match d.judgeTag p t with
  | .deliver => (d0, true)
  | .hold =>
    match p with
    | some q => (d.setPort q { d.port q with
        received := (d.port q).received.erase t, held := (d.port q).held ++ [t] }, false)
    | none => (d0, true)
  | .full => (d0.complete t 0x21 false [], false)
  | .absorbed => (d0.complete t 0xB0 false [], false)
  | .wrong => (((d0.err (linkPage p) 2).complete t 0x50 true []), false)

end Sys2Proof.Machine
end

