-- ==== Sys2Proof/Machine/Link.lean ====
section
/-!
DEFINITION. Carodlink ports (14 R303-R311, R317-R327): training, flits, replay, recovery, the route table and time
transfer.
-/
namespace Sys2Proof.Machine

/-! ### Time distance (R323) -/

/-- The device is grandmaster (R55, R323). -/
def Dev.grandmaster (d : Dev) : Bool := d.flag CKT.TIMECTRL 0
def Dev.timeEn (d : Dev) (p : Nat) : Bool := d.flag (LNK.PORTCFG p) 4
def Dev.nbrDist (d : Dev) (p : Nat) : Nat := d.fld (LNK.PORTSTAT p) 20 15

/-- The least NBRDIST on offer, and the lowest port offering it (R323). -/
def Dev.bestSource (d : Dev) : Option (Nat × Nat) :=
  (List.range 24).foldl (fun best p =>
    if d.portActive p && d.timeEn p then
      match best with
      | none => some (d.nbrDist p, p)
      | some b => if d.nbrDist p < b.1 then some (d.nbrDist p, p) else some b
    else best) none

/-- TIMESTAT.SRCPORT. -/
def Dev.srcPort (d : Dev) : Nat := d.fld CKT.TIMESTAT 12 8

/-- SRCPORT becomes `p` (31 for none); TIMESRC follows it, and every candidate counts anew (R323). -/
def Dev.setSrcPort (d : Dev) (p : Nat) : Dev :=
  let d1 := if d.srcPort = p then d else { d with link := { d.link with time := { d.link.time with cand := [] } } }
  (List.range 24).foldl (fun d q => d.setFlag (LNK.PORTSTAT q) 14 (q == p)) (d1.setFld CKT.TIMESTAT 12 8 p)

/-- SYSTIME is steered by `r` parts per 10^9 (R324). -/
def Dev.setRate (d : Dev) (r : Int) : Dev :=
  { d with link := { d.link with time := { d.link.time with rate := r } } }

/-- DIST, LOCKED and SRCPORT follow the ports (R323): a follower keeps its SRCPORT while that port is ACTIVE, and only a
follower steers. -/
def Dev.refreshTime (d : Dev) : Dev :=
  if d.grandmaster then ((d.setSrcPort 31).setNum (LNK.TIMEDIST 0) 0).setRate 0
  else match d.bestSource with
  | none => ((d.setSrcPort 31).setNum (LNK.TIMEDIST 0) 63).drop CKT.TIMESTAT 0
  | some b =>
    let keep := d.srcPort < 24 && d.portActive d.srcPort && d.timeEn d.srcPort
    let d1 := if keep then d else d.setSrcPort b.2
    (d1.setNum (LNK.TIMEDIST 0) (min 63 (1 + b.1))).raise CKT.TIMESTAT 0

/-- TIMEGOOD changes (R55, R71): DEGRADED of CKT follows it, a fall is latched. -/
def Dev.setTimeGood (d : Dev) (good : Bool) : Dev :=
  let was := d.flag CKT.TIMESTAT 1
  let d1 := (d.setFlag CKT.TIMESTAT 1 good).setDegraded CKT.page (!good)
  if was && !good then (d1.err CKT.page 10).irq CKT.page 1 else d1

/-! ### The port state machine (R304) -/

/-- A port's state changes: READY while ACTIVE or in RECOVERY, DEGRADED while ACTIVE below EXPWIDTH (R325). -/
def Dev.setPortState (d : Dev) (p st : Nat) : Dev :=
  let b := LNK.page p
  let d1 := (d.setFld (LNK.PORTSTAT p) 2 0 st).irq b 1
  let d2 := d1.setReady b (st == 4 || st == 5)
  let narrow := (st == 4 || st == 5) && decide (d.fld (LNK.PORTCFG p) 1 0 < d.fld (LNK.PORTSTAT p) 4 3)
  let d3 := if narrow && !d2.degraded b then d2.irq b 2 else d2
  ((d3.setDegraded b narrow).refreshTime).pump p

/-- The port falls to DARK from TRAIN or IDENT: its transactions fail (R317, R320). -/
def Dev.fallDark (d : Dev) (p : Nat) : Dev :=
  let d1 := if d.portState p = 2 then d.endLong (LNK.page p) 0x51 else d
  ((((d1.failTable p 0x50).failHeld p 0x50).dropFlitState p).err (LNK.page p) 12).setPortState p 1

/-- A long operation of training starts at step `k` (R304), with the MAXWIDTH of its start (R325). -/
def Dev.startTrain (d : Dev) (p k : Nat) : Dev :=
  let q := d.port p
  let d1 := d.setPort p { q with step := k, maxWidth := d.fld (LNK.PORTCFG p) 3 2, fromRecovery := k == 2 }
  (((d1.countSat (LNK.TRAINCNT p) 1).startLong (LNK.page p) (6 - k)).setPortState p 2)

def Dev.linkSignalDetect (d : Dev) (p : Nat) (reversed : Bool) : Dev :=
  if d.portState p = 1 then (d.setFlag (LNK.PORTSTAT p) 5 reversed).startTrain p 1 else d

/-- LINK_SIGNAL_DETECT (R304, R23). -/
def execLinkSignalDetect (p : Fin 24) (reversed : Bool) (s : State) : Host.Outcome State Fault Refusal :=
  onDev (·.linkSignalDetect p reversed) s

/-- The widest width (as PORTSTAT codes it: 0 x8, 1 x4, 2 x2, 3 x1) at code `m` or narrower whose lanes all pass (R306);
`lanes` numbers the lanes from lane 0, or from lane 7 under reversal. -/
def widthCode (lanes : Byte) (m : Nat) : Option Nat :=
  (List.range 4).find? (fun c => decide (m ≤ c) && (List.range (8 / 2 ^ c)).all (fun l => lanes.getLsbD l))

/-- Training ends: the flit state is initialised with full credits, what was kept for resending leads (R304, R319); in IDENT
this end sends its identity (R307). -/
def Dev.trainDone (d : Dev) (p : Nat) : Dev :=
  let q := d.port p
  let d1 := d.setPort p { port0 p with
    maxWidth := q.maxWidth
    table := q.table
    gens := q.gens
    tx := q.tx ++ [.ident d.rank p (d.num (LNK.TIMEDIST 0)) d.rankValid]
    held := q.held
    sendQ := q.sendQ
    received := q.received }
  ((d1.endLong (LNK.page p) 0).setPortState p 3)

def Dev.trainStepPass (d : Dev) (p : Nat) (lanes polinv : Byte) : Dev :=
  if d.portState p = 2 then
    let q := d.port p
    let k := q.step
    let w := if k = 3 then widthCode lanes q.maxWidth
      else if k = 4 then widthCode lanes (d.fld (LNK.PORTSTAT p) 4 3) else some (d.fld (LNK.PORTSTAT p) 4 3)
    match w with
    | none => d
    | some c =>
      let d1 := (if k = 1 then d.setFld (LNK.PORTSTAT p) 13 6 polinv.toNat else d).setFld (LNK.PORTSTAT p) 4 3 c
      let d2 := d1.position (LNK.page p) (d1.num64 (LNK.POSITION p) + 1)
      if k = 5 then d2.trainDone p else d2.setPort p { q with step := k + 1 }
  else d

/-- TRAIN_STEP_PASS (R305, R306). -/
def execTrainStepPass (p : Fin 24) (lanes polinv : Byte) (s : State) : Host.Outcome State Fault Refusal :=
  onDev (·.trainStepPass p lanes polinv) s

def Dev.trainStepLimit (d : Dev) (p : Nat) : Dev := if d.portState p = 2 then d.fallDark p else d

/-- TRAIN_STEP_LIMIT (R304, R305, R317). -/
def execTrainStepLimit (p : Fin 24) (s : State) : Host.Outcome State Fault Refusal := onDev (·.trainStepLimit p) s

def Dev.linkEnergyLoss (d : Dev) (p : Nat) : Dev := if d.portState p = 2 ∨ d.portState p = 3 then d.fallDark p else d

/-- LINK_ENERGY_LOSS (R304). -/
def execLinkEnergyLoss (p : Fin 24) (s : State) : Host.Outcome State Fault Refusal := onDev (·.linkEnergyLoss p) s

def Dev.identExchange (d : Dev) (p rank port dist : Nat) (valid : Bool) : Dev :=
  if d.portState p = 3 then
    let d1 := (d.setNum64 (LNK.NBRID p) (rank + 2 ^ 14 * port + 2 ^ 19)).setFld (LNK.PORTSTAT p) 20 15 dist
    if valid && d1.rankValid then d1.setPortState p 4 else d1
  else d

/-- IDENT_EXCHANGE (R307): the port becomes ACTIVE once RANKCFG.VALID = 1 on both ends. -/
def execIdentExchange (p : Fin 24) (rank : BitVec 14) (port : BitVec 5) (dist : BitVec 6) (valid : Bool) (s : State) :
    Host.Outcome State Fault Refusal := onDev (·.identExchange p rank.toNat port.toNat dist.toNat valid) s

/-- A port enters RECOVERY (R304). -/
def Dev.enterRecovery (d : Dev) (p : Nat) : Dev :=
  ((d.countSat (LNK.RECOVERCNT p) 1).err (LNK.page p) 10).setPortState p 5

def Dev.codewordLockLoss (d : Dev) (p : Nat) : Dev :=
  if d.portState p = 4 then d.enterRecovery p else if d.portState p = 3 then d.fallDark p else d

/-- CODEWORD_LOCK_LOSS (R304). -/
def execCodewordLockLoss (p : Fin 24) (s : State) : Host.Outcome State Fault Refusal := onDev (·.codewordLockLoss p) s

/-- Flits acknowledged through FSEQ `a` leave the replay buffer (R310). -/
def ackThrough (a : Nat) (l : List Flit) : List Flit :=
  match l.findIdx? (fun (e : Flit) => e.fseq == a) with
  | some i => l.drop (i + 1)
  | none => l

/-- The sender sends again every unacknowledged flit (R310): a replay runs until REPLAY_END (R317), its bodies count in
TXBYTES (R325). -/
def Dev.startReplay (d : Dev) (p : Nat) : Dev :=
  let q := d.port p
  if q.replayBuf = [] then d
  else ((d.setPort p { q with
    replaying := q.replayBuf.length
    tx := q.tx ++ q.replayBuf.map (fun (e : Flit) =>
      Sent.data ⟨BitVec.ofNat 12 e.fseq, BitVec.ofNat 12 q.ackseq, false, 0#5⟩ e.txns e.cont) }).count64 (LNK.TXBYTES p)
    (256 * q.replayBuf.length)).countSat (LNK.REPLAYS p) 1

/-- A NAK of this end: it carries the expected FSEQ in ACKSEQ (R310, R311). -/
def Dev.sendNak (d : Dev) (p : Nat) : Dev :=
  let q := d.port p
  d.setPort p { q with tx := q.tx ++ [.nak ⟨0#12, BitVec.ofNat 12 q.expected, false, 0#5⟩] }

def Dev.recoveryLockRegained (d : Dev) (p expected : Nat) : Dev :=
  if d.portState p = 5 then
    let d1 := (d.sendNak p)
    let d2 := d1.setPort p { d1.port p with
      replayBuf := ackThrough ((expected + 4095) % 4096) (d1.port p).replayBuf, naks := 0, discarding := false }
    (d2.startReplay p).setPortState p 4
  else d

/-- RECOVERY_LOCK_REGAINED (R311): each end first sends a NAK; the sender resumes from the neighbour's expected FSEQ. -/
def execRecoveryLockRegained (p : Fin 24) (expected : BitVec 12) (s : State) : Host.Outcome State Fault Refusal :=
  onDev (·.recoveryLockRegained p expected.toNat) s

/-- What a port keeps when its flit state is discarded on the way to TRAIN (R319): every transaction but TIME, in order,
with RESENT = 1. -/
def Port.kept (q : Port) : List Txn :=
  ((q.unacked ++ q.sendQ).filter (fun t => t.kindN != 7)).map Txn.setResent

def Dev.recoveryTimeout (d : Dev) (p : Nat) : Dev :=
  if d.portState p = 5 then
    let k := (d.port p).kept
    let d1 := d.dropFlitState p
    ((d1.setPort p { d1.port p with sendQ := k }).err (LNK.page p) 11).startTrain p 2
  else d

/-- RECOVERY_TIMEOUT (R304, R319). -/
def execRecoveryTimeout (p : Fin 24) (s : State) : Host.Outcome State Fault Refusal := onDev (·.recoveryTimeout p) s

def Dev.replayBufferUe (d : Dev) (p : Nat) : Dev :=
  if d.portState p = 0 then d
  else
    let d1 := ((d.failTable p 0x50).failHeld p 0x50).dropFlitState p
    let d2 := if d.portState p = 2 then d1.endLong (LNK.page p) 0x51 else d1
    (d2.setPortState p 0).setFault (LNK.page p)

/-- REPLAY_BUFFER_UE (R304, R311). -/
def execReplayBufferUe (p : Fin 24) (s : State) : Host.Outcome State Fault Refusal := onDev (·.replayBufferUe p) s

/-- CTRL.ENABLE of a port takes effect (R304): 1 leaves DISABLED for DARK unless FAULT, 0 goes to DISABLED, and a training
that runs ends (log entry 16). -/
def Dev.lnkEnable (d : Dev) (p : Nat) (on : Bool) : Dev :=
  if on then (if d.portState p = 0 ∧ !d.isFault (LNK.page p) then d.setPortState p 1 else d)
  else if d.portState p = 0 then d
  else
    let d1 := ((d.failTable p 0x51).failHeld p 0x50).dropFlitState p
    (if d.portState p = 2 then d1.endLong (LNK.page p) 0x51 else d1).setPortState p 0

/-! ### Flits (R308-R310) -/

/-- Credits that an intact header carries (R308, R309). -/
def Port.credited (q : Port) (h : FlitHdr) : Port :=
  let n := 64 * h.credit.toNat
  { q with
    creditReq := if h.cvc then q.creditReq else min 2048 (q.creditReq + n)
    creditCpl := if h.cvc then min 1024 (q.creditCpl + n) else q.creditCpl }

/-- Acknowledgement and credits that an intact header carries (R308, R309). -/
def Dev.takeHeader (d : Dev) (p : Nat) (h : FlitHdr) : Dev :=
  let q := d.port p
  let l := ackThrough h.ackseq.toNat q.replayBuf
  d.setPort p ({ q with
    replayBuf := l
    naks := if l.length < q.replayBuf.length then 0 else q.naks }.credited h)

/-- Flits are exchanged in IDENT, ACTIVE and RECOVERY. -/
def Dev.flitsFlow (d : Dev) (p : Nat) : Bool := d.portState p == 3 || d.portState p == 4 || d.portState p == 5

/-- A flit or a codeword that cannot be used (R310): one NAK, and flits are discarded until the expected one arrives. -/
def Dev.discard (d : Dev) (p : Nat) : Dev :=
  if (d.port p).discarding then d
  else (d.sendNak p).setPort p { (d.sendNak p).port p with discarding := true }

/-- A flit with a CRC mismatch (R310). -/
def Dev.flitBad (d : Dev) (p : Nat) : Dev := ((d.countSat (LNK.CRCERR p) 1).err (LNK.page p) 8).discard p

/-- An intact DATA flit in order (R309, R310): its transactions but the CTL ones join those received; the rest of one that a
boundary cut is dropped (R57). -/
def Dev.acceptFlit (d : Dev) (p : Nat) (body : List Byte) : Dev × List Txn :=
  let q := d.port p
  let r := parseSlots 9 (q.partialRx ++ body)
  let l := if q.dropFirst then r.1.drop 1 else r.1
  ((d.setPort p { q with
    expected := (q.expected + 1) % 4096
    ackseq := q.expected
    discarding := false
    partialRx := r.2
    dropFirst := q.dropFirst && r.1.isEmpty
    received := q.received ++ l.filter (fun (t : Txn) => !t.isCtl) }).count64 (LNK.RXBYTES p) 256,
    l.filter (fun (t : Txn) => t.isCtl))

def Dev.flitIdle (d : Dev) (p : Nat) (h : FlitHdr) (intact : Bool) : Dev :=
  if !d.flitsFlow p then d
  else if !intact then d.flitBad p
  else (d.takeHeader p h).pump p

/-- FLIT_IDLE (R308-R310). -/
def execFlitIdle (p : Fin 24) (h : FlitHdr) (intact : Bool) (s : State) : Host.Outcome State Fault Refusal :=
  onDev (·.flitIdle p h intact) s

def Dev.flitNak (d : Dev) (p : Nat) (h : FlitHdr) (intact : Bool) : Dev :=
  if !d.flitsFlow p then d
  else if !intact then d.flitBad p
  else
    let q := d.port p
    let n := if q.nakSeq = h.ackseq.toNat then q.naks + 1 else 1
    let d1 := d.setPort p ({ q with
      replayBuf := ackThrough ((h.ackseq.toNat + 4095) % 4096) q.replayBuf
      nakSeq := h.ackseq.toNat
      naks := n }.credited h)
    if d.portState p = 5 then d1
    else if d.portState p = 4 ∧ d.fld (LNK.PORTCFG p) 8 5 ≤ n then d1.enterRecovery p
    else d1.startReplay p

/-- FLIT_NAK (R304, R310): replay, or RECOVERY after REPLAYMAX consecutive NAKs for one FSEQ; in RECOVERY transmission is
paused. -/
def execFlitNak (p : Fin 24) (h : FlitHdr) (intact : Bool) (s : State) : Host.Outcome State Fault Refusal :=
  onDev (·.flitNak p h intact) s

def Dev.ackTimeout (d : Dev) (p : Nat) : Dev :=
  if d.portState p = 4 ∧ (d.port p).replaying = 0 then d.startReplay p else d

/-- ACK_TIMEOUT (R310). -/
def execAckTimeout (p : Fin 24) (s : State) : Host.Outcome State Fault Refusal := onDev (·.ackTimeout p) s

def Dev.replayEnd (d : Dev) (p : Nat) : Dev :=
  if (d.port p).replaying = 0 then d else (d.setPort p { d.port p with replaying := 0 }).pump p

/-- REPLAY_END (R317): ages run again and new traffic resumes. -/
def execReplayEnd (p : Fin 24) (s : State) : Host.Outcome State Fault Refusal := onDev (·.replayEnd p) s

/-! ### Timeouts (R317) -/

/-- A completion of the request has arrived and stands over its timeout (R318). -/
def Dev.cplWaits (d : Dev) (iport : Nat) (o : Outst) : Bool :=
  d.link.ports.any (fun (p : Nat × Port) => p.2.received.any (fun (c : Txn) =>
    c.isCpl && c.dstRank == d.rank && c.iport == iport && c.tag == o.tag && c.gen == o.gen))

def Dev.requestTimeout (d : Dev) (p : Option (Fin 24)) (tag : Nat) : Dev :=
  let iport := match p with | some q => q.val | none => 31
  let pg := match p with | some q => q.val | none => 0
  match (d.table iport).find? (fun o => o.tag == tag) with
  | some o =>
    if d.cplWaits iport o then d
    else if d.num (LNK.TXLIMIT pg) ≤ o.age then
      ((((d.setTable iport ((d.table iport).erase o)).releaseSync o.txn).countSat (LNK.TIMEOUTS pg) 1).err (LNK.page pg) 3).beatFail 0x50 (blockName .stg o.unit) o.txn.addrN
    else d
  | none => d

/-- REQUEST_TIMEOUT (R317): an outstanding request whose age has reached TXLIMIT. -/
def execRequestTimeout (p : Option (Fin 24)) (tag : BitVec 16) (s : State) : Host.Outcome State Fault Refusal :=
  onDev (·.requestTimeout p tag.toNat) s

/-! ### Time transfer (R323, R324) -/

/-- A TIME transaction (R313). -/
def Dev.timeTxn (d : Dev) (phase dist ts echo : Nat) : Txn where
  kind := 7#8
  flags := 0#8
  dst := 0#16
  src := BitVec.ofNat 16 d.rank
  beatTag := BitVec.ofNat 8 d.beatNum
  lenTen := 1#8
  tid := 0#32
  arg0 := BitVec.ofNat 32 (phase + 4 * dist)
  addr := 0#64
  arg1 := 0#64
  payload := padTo 32 0#8 (leBytes 8 ts ++ leBytes 8 echo)

/-- DIST of this device (R323, R326). -/
def Dev.dist (d : Dev) : Nat := d.num (LNK.TIMEDIST 0)

/-- PHASE, DIST, TS and ECHO of a TIME transaction. -/
def timePhase (t : Txn) : Nat := field t.arg0.toNat 1 0
def timeDist (t : Txn) : Nat := field t.arg0.toNat 7 2
def timeTs (t : Txn) : Nat := fieldAt t.payload 0 8
def timeEcho (t : Txn) : Nat := fieldAt t.payload 8 8

def Dev.timeSyncSend (d : Dev) (p : Nat) (t1 : Nat) : Dev :=
  if d.portActive p && d.timeEn p && decide (d.dist < 63) then d.pushTxn p (d.timeTxn 0 d.dist t1 0) else d

/-- TIME_SYNC_SEND (R324). -/
def execTimeSyncSend (p : Fin 24) (t1 : DWord) (s : State) : Host.Outcome State Fault Refusal :=
  onDev (·.timeSyncSend p t1.toNat) s

/-- A neighbour's DIST arrives (R323): a port that has offered a strictly smaller DIST than SRCPORT's in 16 consecutive SYNCs
becomes SRCPORT. -/
def Dev.offer (d : Dev) (p : Nat) : Dev :=
  let s := d.srcPort
  let n := d.link.time.cand.get zeroNat p + 1
  let note := fun (c : SMap Nat) => { d with link := { d.link with time := { d.link.time with cand := c } } }
  if s < 24 ∧ p ≠ s then
    if d.nbrDist p < d.nbrDist s then (if 16 ≤ n then d.setSrcPort p else note (d.link.time.cand.set zeroNat p n))
    else note (d.link.time.cand.set zeroNat p 0)
  else d

def Dev.timeSync (d : Dev) (p : Nat) (t : Txn) (t2 t3 : Nat) : Dev :=
  if !(d.portActive p && d.timeEn p) then d
  else if d.grandmaster then
    if timeDist t = 0 then d.err (LNK.page 0) 16 else d.setFld (LNK.PORTSTAT p) 20 15 (timeDist t)
  else
    let d1 := ((d.setFld (LNK.PORTSTAT p) 20 15 (timeDist t)).offer p).refreshTime
    if d1.srcPort = p then
      let d2 := { d1 with link := { d1.link with time := { d1.link.time with t1 := timeTs t, t2 := t2, t3 := t3 } } }
      d2.pushTxn p (d2.timeTxn 1 d2.dist t3 0)
    else d1

/-- TIME_SYNC (R323, R324): t1 and t2 are recorded; the follower answers on SRCPORT only. -/
def execTimeSync (p : Fin 24) (t : Txn) (t2 t3 : DWord) (s : State) : Host.Outcome State Fault Refusal :=
  onDev (·.timeSync p t t2.toNat t3.toNat) s

def Dev.timeDelayreq (d : Dev) (p : Nat) (t : Txn) (t4 : Nat) : Dev :=
  if d.portActive p && d.timeEn p && decide (d.dist < 63) then d.pushTxn p (d.timeTxn 2 d.dist t4 (timeTs t)) else d

/-- TIME_DELAYREQ (R324). -/
def execTimeDelayreq (p : Fin 24) (t : Txn) (t4 : DWord) (s : State) : Host.Outcome State Fault Refusal :=
  onDev (·.timeDelayreq p t t4.toNat) s

/-- offset = ((t2 − t1) − (t4 − t3) − ASYM) / 2, in 0.1 ns (R324). -/
def timeOffset (t1 t2 t3 t4 : Nat) (asym : Int) : Int :=
  (((t2 : Int) - t1) - ((t4 : Int) - t3) - asym) / 2

/-- A signed 16-bit field holds an offset, saturated (log entry 28). -/
def clampOffset (z : Int) : Int := max (-32768) (min 32767 z)

def Dev.timeDelayresp (d : Dev) (p : Nat) (t : Txn) : Dev :=
  let tm := d.link.time
  if d.portActive p && !d.grandmaster && d.srcPort == p && timeEcho t == tm.t3 then
    let off := timeOffset tm.t1 tm.t2 tm.t3 (timeTs t) (toSigned 32 (d.num (LNK.ASYM p)))
    let d1 := (d.setFld CKT.TIMESTAT 31 16 (ofSigned 16 (clampOffset off))).setTimeGood (decide (-200 ≤ off ∧ off ≤ 200))
    if off < -10000 ∨ 10000 < off then d1.setNow ((d1.now : Int) - off / 100).toNat
    else
      let k : Int := d1.freshNat.1 % 100001
      d1.freshNat.2.setRate (if 0 < off then -k else if off < 0 then k else 0)
  else d

/-- TIME_DELAYRESP (R324, R55): beyond 1 µs SYSTIME is stepped, otherwise its rate is steered by a free amount of at most 100
ppm (log entry 28); TIMEGOOD is 1 within ±20 ns. -/
def execTimeDelayresp (p : Fin 24) (t : Txn) (s : State) : Host.Outcome State Fault Refusal :=
  onDev (·.timeDelayresp p t) s

/-! ### The route table (R314, R326, R327) -/

/-- PRIMARY or ALTERNATE may name port 0 to 23, or 31. -/
def routeFieldOk (p : Nat) : Bool := decide (p < 24 ∨ p = 31)

/-- A write of ROUTEDATA (R326, R327): staged until the next close window, a field of 24 to 30 alone discarded; ROUTEIDX
advances by 1 modulo 16,384. -/
def Dev.writeRoutedata (d : Dev) (v : Word) : Dev :=
  let i := d.num (LNK.ROUTEIDX 0)
  let e := d.link.staged.get route0 i
  let p := if routeFieldOk (field v.toNat 4 0) then field v.toNat 4 0 else e.primary
  let a := if routeFieldOk (field v.toNat 9 5) then field v.toNat 9 5 else e.alternate
  { d with link := { d.link with staged := d.link.staged.set route0 i ⟨p, a, false⟩ } }.setNum (LNK.ROUTEIDX 0) ((i + 1) % 16384)

/-- ROUTEDATA_WRITE (R326, R327). -/
def execRoutedataWrite (r : Requester) (v : Word) (s : State) : Host.Outcome State Fault Refusal :=
  onDev (onPf r (·.writeRoutedata v)) s

/-- ROUTE_SELECT in a close window (R314): staged entries take effect; a destination whose PRIMARY is not ACTIVE while
its ALTERNATE is goes through the ALTERNATE. -/
def Dev.routeSelect (d : Dev) : Dev :=
  let sel : Nat × Route → Nat × Route := fun e =>
    (e.1, { e.2 with inuse := decide (e.2.alternate < 24) && d.portActive e.2.alternate &&
      !(decide (e.2.primary < 24) && d.portActive e.2.primary) })
  { d with link := { d.link with routes := (d.link.staged.map sel).filter (fun e => decide (e.2 ≠ route0 e.1)) } }

end Sys2Proof.Machine
end

