-- ==== Sys2Proof/Machine/Ascent.lean ====
section
/-!
DEFINITION. Ascent (19 R381-R399) and stack training (10 R220): the stages, the microcode broadcast, the survey, the
service states and the commands of resets.
-/
namespace Sys2Proof.Machine

/-- The running reset of a scope. -/
def Dev.findReset (d : Dev) (sc : ResetScope) : Option ResetRun := d.ascent.resets.find? (fun r => r.scope == sc)

/-! ### Stages 4 and 5 -/

/-- The fuse result loaded as the live map (R384, R385). -/
def Dev.loadMap (d : Dev) : Dev :=
  let rows := loadScree d.fuseMask 512 0 4
  let d1 := { d with ascent := { d.ascent with
    bypass := SMap.seg bypass0 0 (rows.map (fun (r : Nat × Nat) => r.1))
    uncovered := SMap.seg zeroNat 0 (rows.map (fun (r : Nat × Nat) => r.2))
    swarmFaults := []
    niParity := [] } }
  d1.refreshMapstat

def Dev.fuseRead (d : Dev) : Dev :=
  if d.stage = 3 ∧ d.findReset .device = none then
    let d1 := (Dev.clearOnDie { d with
      massif := MassifSt.reset
      trust := { d.trust with fwMem := [], hdrBuf := [] } }).loadMap
    ((d1.setFld TRU.SVN 15 8 d.trust.fuseCtr).setFld TRU.KEYSLOT 7 4 d.trust.revoked.toNat).setStage 4
  else d

/-- FUSE_READ (R381, R384): the fuses are read, the map is loaded, every on-die SRAM is 0. A whole-device reset reruns Ascent
only from its end (R394). -/
def execFuseRead (s : State) : Host.Outcome State Fault Refusal := onDev Dev.fuseRead s

def Dev.fuseReadDone (d : Dev) : Dev :=
  if d.stage = 4 then
    { (d.readyAll (pagesOf .syn ++ pagesOf .col) true).setStage 5 with
      trust := { ((d.readyAll (pagesOf .syn ++ pagesOf .col) true).setStage 5).trust with boot := .verifyFlash } }
  else d

/-- FUSE_READ_DONE (R381): SYN and COL raise READY; stage 5. -/
def execFuseReadDone (s : State) : Host.Outcome State Fault Refusal := onDev Dev.fuseReadDone s

/-! ### Configuration of the ASC page (R399) -/

/-- Every LNK and MSF page has CTRL.ENABLE = 0. -/
def Dev.gridOff (d : Dev) : Bool := (pagesOf .lnk ++ pagesOf .msf).all (fun b => !d.enableInEffect b)

/-- Every MSF page has CTRL.ENABLE = 0 (R395). -/
def Dev.msfOff (d : Dev) : Bool := (pagesOf .msf).all (fun b => !d.enableInEffect b)

/-- The configuration registers of ASC are writable (R399). -/
def Dev.ascWritable (d : Dev) : Bool := !d.flag ASC.STAGE 4 || d.gridOff

/-! ### The broadcast (R386-R388) -/

/-- The physical cells that take part: those not marked in the fuses (R386). -/
def Dev.takesPart (d : Dev) (i : Nat) : Bool := !(d.fuseMask (rowOfPhys i)).getLsbD (posOfPhys i)

/-- UCCHUNKS and the bitmap of a complete cell (R386). -/
def Dev.ucChunks (d : Dev) : Nat := d.fld ASC.SWARMCTRL 22 16
def fullBitmap (n : Nat) : DWord := BitVec.ofNat 64 (2 ^ n - 1)

/-- The bitmap of physical cell `i`. -/
def Dev.heldBy (d : Dev) (i : Nat) : DWord := d.ascent.held.get zeroDWord i

/-- Set bits of a bitmap. -/
def popcount64 (x : DWord) : Nat := ((List.range 64).filter (fun i => x.getLsbD i)).length

/-- The incomplete taking-part cells, ascending (R387). -/
def Dev.incomplete (d : Dev) : List Nat :=
  let full := fullBitmap d.ucChunks
  (List.range 4608).filter (fun i => d.takesPart i && decide (d.heldBy i &&& full ≠ full))

/-- POSITION counts the (cell, chunk) pairs held (R387). -/
def Dev.swarmPosition (d : Dev) : Dev :=
  d.position ASC.page ((d.ascent.held.map (fun e => if d.takesPart e.1 then popcount64 e.2 else 0)).foldl (· + ·) 0)

/-- Chunks `m` that arrived at the cells of a list, among those a pass sends. -/
def Dev.arrive (d : Dev) (sent : DWord) (l : List (Nat × DWord)) : Dev :=
  (l.foldl (fun d e =>
    if e.1 < 4608 ∧ d.takesPart e.1 then
      { d with ascent := { d.ascent with
        held := d.ascent.held.set zeroDWord e.1 (d.heldBy e.1 ||| (e.2 &&& sent &&& fullBitmap d.ucChunks)) } }
    else d) d).swarmPosition

/-- A write of SWARMCTRL (R386, R398, R399): a UNIATT of 0 is discarded, UNIATT keeping its value (log entry 7). -/
def Dev.writeSwarmctrl (d : Dev) (v0 : Word) : Dev :=
  let n := if field v0.toNat 15 12 = 0 then withField v0.toNat 15 12 (d.fld ASC.SWARMCTRL 15 12) else v0.toNat
  let v : Word := BitVec.ofNat 32 n
  if !d.ascWritable then d
  else if bit n 0 then
    let chunks := field n 22 16
    if d.ascent.goUsed || d.stage != 5 || d.trust.boot != .running then d
    else if chunks = 0 ∨ 64 < chunks ∨ d.num64 ASC.UCADDR % 4096 ≠ 0 then d.err ASC.page 2
    else
      let d1 := d.setNum ASC.SWARMCTRL ((v &&& 0x7FF300#32).toNat)
      let d2 := { d1 with ascent := { d1.ascent with held := [], swarm := .pass 0, goUsed := true, union := fullBitmap chunks } }
      let parts := ((List.range 4608).filter d2.takesPart).length
      let d3 := ((d2.startLong ASC.page (parts * chunks)).setNum ASC.SWARMSTAT 0).setStage 6
      if d3.num ASC.SVCSTATE = 3 then d3.setNum ASC.SVCSTATE 0 else d3
  else d.setNum ASC.SWARMCTRL ((v &&& 0x7FF300#32).toNat)

/-- SWARMCTRL_GO (R387). -/
def execSwarmctrlGo (r : Requester) (v : Word) (s : State) : Host.Outcome State Fault Refusal :=
  onDev (onPf r (·.writeSwarmctrl (v ||| 1#32))) s

/-- The pages of partition `p` and of its clusters' engines. -/
def partitionPages (p : Nat) : List Nat :=
  MSF.page p :: (clustersOf p).flatMap (fun k => [WVL.page k, SCB.page k, TLS.page k])

/-- The partitions in which no taking-part cell is incomplete become READY (R381, R387). -/
def Dev.partitionsReady (d : Dev) : Dev :=
  let inc := d.incomplete.map (fun i => rowPartition (rowOfPhys i))
  (List.range 4).foldl (fun d p => if inc.contains p then d else d.readyAll (partitionPages p) true) d

def Dev.swarmPassEnd (d : Dev) (l : List (Nat × DWord)) : Dev :=
  match d.ascent.swarm with
  | .pass n =>
    let d1 := (d.arrive d.ascent.union l).partitionsReady
    { d1 with ascent := { d1.ascent with swarm := .gather n } }
  | _ => d

/-- SWARM_PASS_END (R386, R387): `arrived` lists the chunks that arrived with a matching CRC, by physical cell. -/
def execSwarmPassEnd (arrived : List (Nat × DWord)) (s : State) : Host.Outcome State Fault Refusal :=
  onDev (·.swarmPassEnd arrived) s

/-- The broadcast ends. -/
def Dev.swarmDone (d : Dev) : Dev :=
  let d1 := { d with ascent := { d.ascent with swarm := .done } }
  (List.range 4).foldl (fun d p => d.readyAll (partitionPages p) true) ((d1.setFld ASC.SWARMSTAT 2 0 5).endLong ASC.page 0)

def Dev.swarmGatherEnd (d : Dev) : Dev :=
  match d.ascent.swarm with
  | .gather n =>
    let inc := d.incomplete
    let full := fullBitmap d.ucChunks
    let miss := inc.foldl (fun u i => u ||| (full &&& ~~~(d.heldBy i))) 0#64
    let d1 := { d with ascent := { d.ascent with union := miss } }
    let d2 := (d1.setFld ASC.SWARMSTAT 15 8 (popcount64 miss)).setFld ASC.SWARMSTAT 28 16 inc.length
    if inc = [] then d2.swarmDone
    else if n < d2.fld ASC.SWARMCTRL 9 8 then
      { d2 with ascent := { d2.ascent with swarm := .pass (n + 1) } }.setFld ASC.SWARMSTAT 2 0 (n + 1)
    else { d2 with ascent := { d2.ascent with swarm := .repair } }.setFld ASC.SWARMSTAT 2 0 4
  | _ => d

/-- SWARM_GATHER_END (R387). -/
def execSwarmGatherEnd (s : State) : Host.Outcome State Fault Refusal := onDev Dev.swarmGatherEnd s

def Dev.unicastRepairEnd (d : Dev) (l : List (Nat × DWord)) : Dev :=
  match d.ascent.swarm with
  | .repair =>
    let d1 := d.arrive (fullBitmap d.ucChunks) l
    let d2 := d1.incomplete.foldl (fun d i => d.handleCell (rowOfPhys i) (posOfPhys i)) d1
    d2.refreshMapstat.swarmDone
  | _ => d

/-- UNICAST_REPAIR_END (R387, R388): incomplete cells are handled in ascending physical index. -/
def execUnicastRepairEnd (arrived : List (Nat × DWord)) (s : State) : Host.Outcome State Fault Refusal :=
  onDev (·.unicastRepairEnd arrived) s

/-! ### Stack training (R220) -/

/-- The long operation that runs on STK[s]. -/
def Dev.stkOp (d : Dev) (s : Nat) : Option StkOp := d.mem.longOp.get (fun _ => none) s
def Dev.setStkOp (d : Dev) (s : Nat) (o : Option StkOp) : Dev :=
  { d with mem := { d.mem with longOp := d.mem.longOp.set (fun _ => none) s o } }

/-- Training of one stack begins: from step 1, or from step 3 where the contents are kept (R220, R394). -/
def Dev.startTraining (d : Dev) (s : Nat) (keep : Bool) (attempt : Nat) : Dev :=
  let d1 := (d.startLong (STK.page s) 9).setStkOp s (some (if keep then .retrain else .train))
  let d2 := if keep then d1.position (STK.page s) 2 else d1
  (d2.setFld (STK.TRAINSTAT s) 3 0 (if keep then 3 else 1)).setFld (STK.TRAINSTAT s) 5 4 attempt

def Dev.stage7Start (d : Dev) : Dev :=
  if d.stage = 6 ∧ !d.ascent.stage7 then
    let d1 := { d with ascent := { d.ascent with stage7 := true } }.setStage 7
    (List.range 12).foldl (fun d s => d.startTraining s d.ascent.warm 1) d1
  else d

/-- STAGE7_START (R381). -/
def execStage7Start (s : State) : Host.Outcome State Fault Refusal := onDev Dev.stage7Start s

/-- FOR[0] and FOR[1] raise READY once every stack has finished (R381). -/
def Dev.forReady (d : Dev) : Dev :=
  if (List.range 12).all (fun s => d.ready (STK.page s) || d.isFault (STK.page s)) then d.readyAll (pagesOf .forager) true
  else d

/-- The step after `k` (R220): a retraining skips step 8. -/
def nextStep (keep : Bool) (k : Nat) : Nat := if keep && k == 7 then 9 else k + 1

def Dev.stackTrainingStepEnd (d : Dev) (s : Nat) (pass : Bool) (failch : Word) : Dev :=
  match d.stkOp s with
  | some .train | some .retrain =>
    let keep := d.stkOp s == some .retrain
    let k := d.fld (STK.TRAINSTAT s) 3 0
    let att := d.fld (STK.TRAINSTAT s) 5 4
    let b := STK.page s
    if pass then
      let d0 := if k = 2 then
          { d with mem := { d.mem with
              rowFix := d.mem.rowFix.filter (fun e => !(e.1 / 2 ^ 26 == s && d.mem.repairLog.contains e.1))
              repairLog := d.mem.repairLog.filter (fun r => r / 2 ^ 26 != s) } }
        else if k = 8 then
          { d with
            mem := { d.mem with
              dram := d.mem.dram.openStack (StackPart.whole s) memTop d.freeCtr
              stackUE := d.mem.stackUE.filter (fun x => x % 12 != s)
              badList := d.mem.badList.filter (fun p => p.1 != s) }
            freeCtr := d.freeCtr + 1 }
        else d
      if k = 9 then
        let d1 := ((d0.position b 9).endLong b 0).setStkOp s none
        -- READY stays 0 in the thermal state STOP (R219)
        ((d1.readyAll (if d1.fld (STK.TEMP s) 18 16 = 3 then [MSC.page s, STG.page s] else [b, MSC.page s, STG.page s]) true).irq
          b 2).forReady
      else
        (d0.position b (nextStep keep k - 1)).setFld (STK.TRAINSTAT s) 3 0 (nextStep keep k)
    else
      let d1 := (d.setNum (STK.FAILCH s) failch.toNat).err b 9
      if att < 3 then d1.startTraining s keep (att + 1)
      else (((((d1.endLong b 0x41).setStkOp s none).setFault b).irq b 2).forReady)
  | _ => d

/-- STACK_TRAINING_STEP_END (R220): the memory test of step 8 overwrites the stack. -/
def execStackTrainingStepEnd (sk : Fin 12) (pass : Bool) (failch : Word) (s : State) : Host.Outcome State Fault Refusal :=
  onDev (·.stackTrainingStepEnd sk pass failch) s

/-! ### Links and the survey (R389-R392) -/

/-- ASC.POLICY: 0 STRICT, 1 TOLERANT, 2 EXPLORE. -/
def Dev.policy (d : Dev) : Nat := d.fld ASC.POLICY 1 0

/-- EXPECT fields of port `p` (R398). -/
def Dev.expPresent (d : Dev) (p : Nat) : Bool := d.flag (ASC.EXPECT p) 31

/-- CTRL.ENABLE becomes 1 (R41): in effect in the cycle of the write. -/
def Dev.enableOn (d : Dev) (b : Nat) : Dev :=
  { d.setFlag (oCtrl b) 0 true with enPend := d.enPend.filter (fun p => p.1 != b) }

/-- A write to page `b` is under its reset: RESET reads 1, or a reset that contains the page runs (R42). -/
def Dev.underReset (d : Dev) (b : Nat) : Bool := d.flag (oCtrl b) 1 || d.inReset b

/-- CTRL.ENABLE becomes 1 under reset: in effect when the reset ends (R42), unless it is in effect already. -/
def Dev.enableLater (d : Dev) (b : Nat) : Dev :=
  let was := d.enableInEffect b
  let d1 := d.enableOn b
  if was then d1 else { d1 with enPend := d1.enPend ++ [(b, true)] }

/-- CTRL.ENABLE becomes 0 (R41): in effect at the next beat boundary, at once where the Cricket runs no beats; under reset
when the reset ends (R42). -/
def Dev.enableOff (d : Dev) (b : Nat) : Dev :=
  let was := d.enableInEffect b
  let d1 := d.setFlag (oCtrl b) 0 false
  let d2 := { d1 with enPend := d1.enPend.filter (fun p => p.1 != b) }
  if was && (d.cricket.phase != .off || d.underReset b) then { d2 with enPend := d2.enPend ++ [(b, false)] }
  else d2

/-- ENABLE of a port becomes 0 (R41, R304): the port is DISABLED at the next beat boundary, at once where the Cricket runs no
beats. -/
def Dev.portOff (d : Dev) (p : Nat) : Dev :=
  let d1 := d.enableOff (LNK.page p)
  if d1.cricket.phase == .off && !d.underReset (LNK.page p) then d1.lnkEnable p false else d1

def Dev.stage8Start (d : Dev) : Dev :=
  if d.ascent.stage7 && !d.ascent.stage8 && d.rankValid then
    let d1 := { d with ascent := { d.ascent with stage8 := true } }.setStage 8
    (List.range 24).foldl (fun d p =>
      if d.policy == 2 || d.expPresent p then (d.enableOn (LNK.page p)).lnkEnable p true else d) d1
  else d

/-- STAGE8_START (R389). -/
def execStage8Start (s : State) : Host.Outcome State Fault Refusal := onDev Dev.stage8Start s

def Dev.surveyStart (d : Dev) : Dev :=
  if d.ascent.stage8 && d.stage == 8 && !d.ascent.surveying then
    { d with ascent := { d.ascent with surveying := true } }.setStage 9
  else d

/-- SURVEY_START (R381, R390): stage 9. -/
def execSurveyStart (s : State) : Host.Outcome State Fault Refusal := onDev Dev.surveyStart s

/-- The class of port `p` (R390): 0 MATCH, 1 MISSING, 2 WRONG, 3 NARROW, 4 EXTRA. -/
def Dev.portClass (d : Dev) (p : Nat) : Nat :=
  let act := d.portState p == 4 || d.portState p == 5
  let same := d.fld (LNK.NBRID p) 13 0 == d.fld (ASC.EXPECT p) 13 0 && d.fld (LNK.NBRID p) 18 14 == d.fld (ASC.EXPECT p) 18 14
  if d.expPresent p then
    if !act then 1 else if !same then 2 else if d.fld (LNK.PORTCFG p) 1 0 < d.fld (LNK.PORTSTAT p) 4 3 then 3 else 0
  else if act then 4 else 0

/-- CKT and HIV become READY, CKT DEGRADED while TIMEGOOD = 0 (R55); the service state leaves STARTUP for NORMAL (R383,
R391). -/
def Dev.cktReady (d : Dev) : Dev :=
  let d1 := (d.readyAll [CKT.page, HIV.page] true).setDegraded CKT.page (!d.flag CKT.TIMESTAT 1)
  if d1.num ASC.SVCSTATE = 0 then d1.setNum ASC.SVCSTATE 1 else d1

/-- PORTCLASS registers from the classes of the 24 ports (R398). -/
def Dev.setClasses (d : Dev) (cs : List Nat) : Dev :=
  (List.range 3).foldl (fun d i =>
    d.setNum (ASC.PORTCLASS i) ((List.range 8).foldl (fun n j => n + cs.getD (8 * i + j) 0 * 16 ^ j) 0)) d

/-- The survey's result (R391): RESULT, MISMATCHES, the READY of CKT and HIV, FAULT or DEGRADED of ASC. -/
def Dev.surveyResult (d : Dev) : Dev :=
  let pol := d.policy
  if pol = 2 then
    ((d.setClasses []).setNum ASC.SURVEYSTAT 3).cktReady
  else
    let cs := tabulate 24 d.portClass
    let bad := (cs.filter (fun c => c != 0)).length
    let d1 := (d.setClasses cs).setNum ASC.SURVEYSTAT ((if bad = 0 then 1 else 2) + 256 * bad)
    if bad = 0 then
      let d2 := (d1.clearFault ASC.page).setDegraded ASC.page false
      ((d2.setReady ASC.page true).lastCode ASC.page 0).cktReady
    else if pol = 0 then ((d1.setFault ASC.page).lastCode ASC.page 0xA4).err ASC.page 9
    else
      let d2 := (((d1.setDegraded ASC.page true).lastCode ASC.page 0xA4).err ASC.page 9).cktReady
      (List.range 24).foldl (fun d p =>
        if cs.getD p 0 == 2 || cs.getD p 0 == 4 then d.portOff p else d) d2

def Dev.surveyEnd (d : Dev) : Dev :=
  if d.ascent.surveying then
    let d1 := { d with ascent := { d.ascent with surveying := false } }
    let d2 := ((d1.surveyResult).irq ASC.page 2).drop ASC.SURVEYCTRL 0
    if d2.stage = 9 ∧ !d2.flag ASC.STAGE 4 then (d2.raise ASC.STAGE 4).irq ASC.page 1 else d2
  else d

/-- SURVEY_END (R390, R391). -/
def execSurveyEnd (s : State) : Host.Outcome State Fault Refusal := onDev Dev.surveyEnd s

/-- A write of SURVEYCTRL (R392, R398, R399). -/
def Dev.writeSurveyctrl (d : Dev) (v : Word) : Dev :=
  let w := field v.toNat 31 16
  let d1 := if d.ascWritable && w != 0 then d.setFld ASC.SURVEYCTRL 31 16 w else d
  if bit v.toNat 0 && d1.ascent.stage8 && !d1.ascent.surveying then
    { d1 with ascent := { d1.ascent with surveying := true } }.raise ASC.SURVEYCTRL 0
  else d1

/-- SURVEYCTRL_GO (R392). -/
def execSurveyctrlGo (r : Requester) (v : Word) (s : State) : Host.Outcome State Fault Refusal :=
  onDev (onPf r (·.writeSurveyctrl (v ||| 1#32))) s

/-- A write of SVCSTATE (R383): only between NORMAL and TEST, while CKT.CTRL.ENABLE = 0; otherwise PROTOCOL. -/
def Dev.writeSvcstate (d : Dev) (v : Word) : Dev :=
  let n := field v.toNat 1 0
  let cur := d.num ASC.SVCSTATE
  if d.enableInEffect CKT.page || n == 0 || n == 3 || cur == 0 || cur == 3 then d.err ASC.page 2
  else d.setNum ASC.SVCSTATE n

/-- SVCSTATE_WRITE (R383). -/
def execSvcstateWrite (r : Requester) (v : Word) (s : State) : Host.Outcome State Fault Refusal :=
  onDev (onPf r (·.writeSvcstate v)) s

/-! ### Reset commands (R41, R42, R393-R397) -/

/-- Stage 6 runs: the broadcast has begun and has not ended. -/
def Dev.swarming (d : Dev) : Bool :=
  match d.ascent.swarm with
  | .idle | .done => false
  | .pass _ | .gather _ | .repair => true

/-- A write of CELLRESET (R394, R395, R397, R399). -/
def Dev.writeCellreset (d : Dev) (v : Word) : Dev :=
  let n := v.toNat
  if !bit n 13 then d.setFld ASC.CELLRESET 12 0 (field n 12 0)
  else if d.flag ASC.CELLRESET 13 then d
  else if d.swarming then d.err ASC.page 2
  else if bit n 12 && !d.msfOff then d.err ASC.page 2
  else
    (d.setNum ASC.CELLRESET ((v &&& 0x3FFF#32).toNat)).startReset
      (.cell (Fin.ofNat 64 (field n 11 6)) (Fin.ofNat 64 (field n 5 0))) (bit n 12)

/-- CELLRESET_GO (R394, R395). -/
def execCellresetGo (r : Requester) (v : Word) (s : State) : Host.Outcome State Fault Refusal :=
  onDev (onPf r (·.writeCellreset (v ||| 0x2000#32))) s

/-- A write of CLRESET (R394, R397, R399). -/
def Dev.writeClreset (d : Dev) (v : Word) : Dev :=
  let n := v.toNat
  if !bit n 6 then d.setFld ASC.CLRESET 5 0 (field n 5 0)
  else if d.flag ASC.CLRESET 6 then d
  else if d.swarming then d.err ASC.page 2
  else (d.setNum ASC.CLRESET ((v &&& 0x7F#32).toNat)).startReset (.cluster (Fin.ofNat 64 (field n 5 0))) false

/-- CLRESET_GO (R394). -/
def execClresetGo (r : Requester) (v : Word) (s : State) : Host.Outcome State Fault Refusal :=
  onDev (onPf r (·.writeClreset (v ||| 0x40#32))) s

/-- The scope that CTRL.RESET of a page has (R394, R396). -/
def resetScopeOf (slot : Nat) (p : Page) : ResetScope :=
  match p.blk with
  | .asc => .device
  | .msf => .partition (Fin.ofNat 4 p.inst)
  | _ => .page slot

/-- CTRL.RESET is written on a page (R41, R396, R397). -/
def Dev.ctrlResetPage (d : Dev) (slot : Nat) (p : Page) : Dev :=
  if p.blk == .msf && d.swarming then d.err ASC.page 2
  else (d.raise (oCtrl p.base) 1).startReset (resetScopeOf slot p) false

/-- CTRL.ABORT on a page (R41): with BUSY = 0, or under reset, it has no effect. -/
def Dev.ctrlAbortPage (d : Dev) (p : Page) : Dev :=
  let b := p.base
  if d.flag (oCtrl b) 1 || d.inReset b || !d.busy b then d
  else
    let d1 := d.endLong b 0x24
    match p.blk with
    | .stk => (((((d1.setStkOp p.inst none).drop (STK.SCRUBCTRL p.inst) 1).drop (STK.MGCTRL p.inst) 8).drop
        (STK.TGCTRL p.inst) 0).irq b 2)
    | .msc => { d1 with mem := { d1.mem with
        pinWork := d1.mem.pinWork.set zeroNat p.inst 0
        pinFetch := d1.mem.pinFetch.filter (fun e => e.1 != p.inst) } }
    | .asc => { d1 with ascent := { d1.ascent with swarm := .idle } }
    | _ => d1

/-- ENABLE of a page takes its new value (R41); a LNK port leaves DISABLED at once (R304), the Cricket begins its grid
(R56). A page under reset applies it when the reset ends (R42). -/
def Dev.ctrlEnablePage (d : Dev) (p : Page) (on : Bool) : Dev :=
  if on then
    if d.underReset p.base then d.enableLater p.base
    else
      let d1 := d.enableOn p.base
      if p.blk == .lnk then d1.lnkEnable p.inst true
      else if p.blk == .ckt then d1.startGrid
      else d1
  else if p.blk == .lnk then d.portOff p.inst
  else d.enableOff p.base

/-- The reset of a LNK page absorbs what its port holds (R327, R396). -/
def Dev.absorbScope (d : Dev) : ResetScope → Dev
  | .page slot => match slotPage slot with
    | some p => if p.blk == .lnk then d.absorbPort p.inst else d
    | none => d
  | _ => d

/-- Whether a reset of the scope takes a port out of ACTIVE. -/
def resetsLink : ResetScope → Bool
  | .page slot => match slotPage slot with | some p => p.blk == .lnk | none => false
  | .device => true
  | _ => false

/-- Phase CLEAR of a reset begins (R393); the time source follows the ports (R323). -/
def Dev.toClear (d : Dev) (r : ResetRun) : Dev :=
  let d0 := (d.absorbScope r.scope).clearScope r
  let d1 := if resetsLink r.scope then d0.refreshTime else d0
  ({ d1 with ascent := { d1.ascent with
      resets := d1.ascent.resets.map (fun x => if x == r then { r with phase := .clear } else x) } }).setFld
    ASC.RESETSTAT 6 4 2

/-- A scope has sent the request outward (R393, R396): the whole device any, the STG pages remote accumulates and writes. -/
def sentBy (sc : ResetScope) (o : Outst) : Bool :=
  match sc with
  | .device => true
  | .page slot => match slotPage slot with
    | some p => p.blk == .stg && (o.txn.kindN == 1 || o.txn.kindN == 3)
    | none => false
  | _ => false

/-- What a scope has outstanding: port, tag and generation of each request. -/
def Dev.outstanding (d : Dev) (sc : ResetScope) : List (Nat × Nat × Nat) :=
  (List.range 24).flatMap (fun p => ((d.port p).table.filter (sentBy sc)).map (fun o => (p, o.tag, o.gen)))

def Dev.resetDrainEnd (d : Dev) (sc : ResetScope) : Dev :=
  match d.findReset sc with
  | some r => if r.phase == .drain && (d.outstanding sc).isEmpty then d.toClear r else d
  | none => d

/-- RESET_DRAIN_END (R393): nothing is outstanding. -/
def execResetDrainEnd (sc : ResetScope) (s : State) : Host.Outcome State Fault Refusal := onDev (·.resetDrainEnd sc) s

def Dev.drainlimitExpiry (d : Dev) (sc : ResetScope) : Dev :=
  match d.findReset sc with
  | some r =>
    if r.phase == .drain then
      let late := d.outstanding sc
      let d1 := (List.range 24).foldl (fun d p => d.setPort p { d.port p with
        table := (d.port p).table.filter (fun o => !sentBy sc o) }) (d.err ASC.page 11)
      { d1 with ascent := { d1.ascent with lateOut := d1.ascent.lateOut ++ late } }.toClear r
    else d
  | none => d

/-- DRAINLIMIT_EXPIRY (R393): what the scope has outstanding is given up, and its completions will come late. -/
def execDrainlimitExpiry (sc : ResetScope) (s : State) : Host.Outcome State Fault Refusal := onDev (·.drainlimitExpiry sc) s

/-- A survey has let CKT and HIV be READY (R391): the service state has left STARTUP (R383). -/
def Dev.surveyed (d : Dev) : Bool := d.num ASC.SVCSTATE == 1 || d.num ASC.SVCSTATE == 2

/-- RELEASE on one page (R40, R393): the reset bit clears, BUSY clears, READY rises where the page does not tie it to a
state of its own (LNK, STK, APX; R40) and, on CKT and HIV, a survey has let it (R391), and what ENABLE was written under reset applies (R42): the Cricket's 0 at the next
boundary, since its beats end only there (R41). -/
def Dev.releasePage (d : Dev) (b : Nat) : Dev :=
  let d0 := d.drop (oCtrl b) 1
  let d1 := { d0 with enPend := d0.enPend.filter (fun (e : Nat × Bool) => e.1 != b || (b == CKT.page && !e.2)) }
  match pageAt (b / 0x1000) with
  | none => d1
  | some p =>
    match p.blk with
    | .stk => if d1.stkOp p.inst == some .retrain then d1 else d1.setBusy b false
    | .lnk => (d1.setBusy b false).lnkEnable p.inst (d1.enable b)
    | .ckt =>
      let d2 := (d1.setBusy b false).setReady b d1.surveyed
      if d2.enable b then d2.startGrid else d2
    | .apx => (d1.setBusy b false).setReady b (d1.flag APX.LOCKSTAT 0)
    | .cpu => ((d1.setBusy b false).setReady b true).cpStart p.inst
    | .hiv => ((d1.setBusy b false).setReady b d1.surveyed).hiveReleased
    | .ffy => (((d1.setBusy b false).setReady b true).sendHost).sweepPend
    | _ => (d1.setBusy b false).setReady b true

/-- RELEASE of the whole device (R393, R394): BUSY and RESET clear on every page, what ENABLE was written after CLEAR applies
(R42), APX is READY while its lock holds (R349), and Ascent reruns from stage 3. -/
def Dev.releaseDevice (d : Dev) : Dev :=
  let d1 := (allBlks.flatMap pagesOf).foldl (fun (d : Dev) b => (d.drop (oCtrl b) 1).setBusy b false) { d with enPend := [] }
  let d2 := (d1.setReady APX.page (d1.flag APX.LOCKSTAT 0)).bootRomStart
  let d3 := (List.range 24).foldl (fun (d : Dev) p => if d.enable (LNK.page p) then d.lnkEnable p true else d) d2
  if d3.enable CKT.page then d3.startGrid else d3

def Dev.resetRelease (d : Dev) (sc : ResetScope) : Dev :=
  match d.findReset sc with
  | none => d
  | some r =>
    if r.phase != .clear then d
    else
      let rest := d.ascent.resets.filter (fun x => x.scope != sc)
      let d1 := { d with ascent := { d.ascent with resets := rest } }
      let d2 := if sc = .device then d1.releaseDevice
        else (scopePages sc).foldl Dev.releasePage d1
      let d3 := (d2.setFld ASC.RESETSTAT 6 4 3).setFlag ASC.RESETSTAT 3 (!rest.isEmpty)
      let isCell := fun (x : ResetRun) => match x.scope with | .cell _ _ => true | _ => false
      let isCl := fun (x : ResetRun) => match x.scope with | .cluster _ => true | _ => false
      let d4 := if rest.any isCell then d3 else d3.drop ASC.CELLRESET 13
      let d5 := if rest.any isCl then d4 else d4.drop ASC.CLRESET 6
      d5.irq ASC.page 3

/-- RESET_RELEASE (R393): after a whole-device reset Ascent reruns from stage 3. -/
def execResetRelease (sc : ResetScope) (s : State) : Host.Outcome State Fault Refusal := onDev (·.resetRelease sc) s

/-! ### Resets from PCI Express (R364) -/

/-- The configuration space returns to its defaults: what the model holds of it is the function masks (log entry 10);
both SPDM connections are discarded (R378). -/
def Dev.pcieReset (d : Dev) : Dev :=
  let d1 := { d with
    host := { d.host with fnMask := 0#16, msixTab := [], msixPend := [] }
    trust := { d.trust with spdmDoe := SpdmConn.reset, spdmMctp := SpdmConn.reset } }
  if d.module.pcieUp then d1.startReset .device false else d

/-- PCIE_HOT_RESET (R364): of a link that is up. -/
def execPcieHotReset (s : State) : Host.Outcome State Fault Refusal := onDev Dev.pcieReset s

def Dev.pcieDown (d : Dev) : Dev := { d.pcieReset with module := { d.module with pcieUp := false } }

/-- PCIE_LINK_DOWN (R364): the link retrains when the boot ROM stage runs again. -/
def execPcieLinkDown (s : State) : Host.Outcome State Fault Refusal := onDev Dev.pcieDown s

def Dev.pfFlr (d : Dev) : Dev := d.pcieReset

/-- PF_FLR (R364): the whole-device reset; the link stays up. -/
def execPfFlr (s : State) : Host.Outcome State Fault Refusal := onDev Dev.pfFlr s

end Sys2Proof.Machine
end

