-- ==== Sys2Proof/Machine/Fp.lean ====
section
/-!
DEFINITION. Number formats and arithmetic (05 R101-R119): exact values, the formats' encodings, rounding with
saturation, the grouped and fused products, and the conversions.
-/
namespace Sys2Proof.Machine

/-! ### Exact values -/

/-- A value: NaN, an infinity, a signed zero, or m x 2^e exactly with m not 0. -/
inductive FVal where
  | nan
  | inf (neg : Bool)
  | zero (neg : Bool)
  | fin (m : Int) (e : Int)
  deriving DecidableEq, Repr

/-- 2 to the power of a non-negative integer. -/
def pow2 (k : Int) : Nat := 2 ^ k.toNat

/-- m x 2^e as a value; 0 is +0. -/
def FVal.ofInt (m e : Int) : FVal := if m = 0 then .zero false else .fin m e

/-- Whether a value is negative (NaN is not). -/
def FVal.neg? : FVal → Bool
  | .nan => false
  | .inf s => s
  | .zero s => s
  | .fin m _ => decide (m < 0)

def FVal.isNan : FVal → Bool
  | .nan => true
  | _ => false
def FVal.isInf : FVal → Bool
  | .inf _ => true
  | _ => false
def FVal.isZero : FVal → Bool
  | .zero _ => true
  | _ => false

def FVal.negate : FVal → FVal
  | .nan => .nan
  | .inf s => .inf (!s)
  | .zero s => .zero (!s)
  | .fin m e => .fin (-m) e

def FVal.abs : FVal → FVal
  | .nan => .nan
  | .inf _ => .inf false
  | .zero _ => .zero false
  | .fin m e => .fin m.natAbs e

/-- Exact multiplication by 2^k. -/
def FVal.scale (v : FVal) (k : Int) : FVal :=
  match v with
  | .fin m e => .fin m (e + k)
  | w => w

/-- Floor of log2 of the magnitude of a finite non-zero value. -/
def log2Abs (m e : Int) : Int := (m.natAbs.log2 : Int) + e

/-- The two mantissas at the smaller of two exponents, and that exponent. -/
def alignTo (m1 e1 m2 e2 : Int) : Int × Int × Int :=
  let e := min e1 e2
  (m1 * pow2 (e1 - e), m2 * pow2 (e2 - e), e)

/-- Whether a < b for values that are not NaN; the zeros are equal. -/
def FVal.lt : FVal → FVal → Bool
  | .nan, _ => false
  | _, .nan => false
  | .inf true, .inf true => false
  | .inf true, _ => true
  | .inf false, _ => false
  | _, .inf s => !s
  | .zero _, .zero _ => false
  | .zero _, .fin m _ => decide (0 < m)
  | .fin m _, .zero _ => decide (m < 0)
  | .fin m1 e1, .fin m2 e2 => let a := alignTo m1 e1 m2 e2; decide (a.1 < a.2.1)

/-- Equality of values that are not NaN; the zeros are equal. -/
def FVal.eq (a b : FVal) : Bool := !a.isNan && !b.isNan && !a.lt b && !b.lt a

/-- Exact product (R112): infinity times zero is NaN; a zero's sign is the exclusive-or. -/
def FVal.mul : FVal → FVal → FVal
  | .nan, _ => .nan
  | _, .nan => .nan
  | .inf _, .zero _ => .nan
  | .zero _, .inf _ => .nan
  | .inf s, b => .inf (s != b.neg?)
  | a, .inf s => .inf (a.neg? != s)
  | .zero s, b => .zero (s != b.neg?)
  | a, .zero s => .zero (a.neg? != s)
  | .fin m1 e1, .fin m2 e2 => .fin (m1 * m2) (e1 + e2)

/-- Exact sum under the zero rule of R109 and the infinity rules of R110. -/
def FVal.add : FVal → FVal → FVal
  | .nan, _ => .nan
  | _, .nan => .nan
  | .inf s, .inf t => if s = t then .inf s else .nan
  | .inf s, _ => .inf s
  | _, .inf t => .inf t
  | .zero s, .zero t => .zero (s && t)
  | .zero _, b => b
  | a, .zero _ => a
  | .fin m1 e1, .fin m2 e2 => let a := alignTo m1 e1 m2 e2; .ofInt (a.1 + a.2.1) a.2.2

/-! ### Rounding (R109, R111, R118) -/

/-- A grid: significand bits, minimum and maximum normal exponents. -/
structure Grid where
  p : Nat
  emin : Int
  emax : Int
  deriving DecidableEq, Repr

def grid32 : Grid := ⟨24, -126, 127⟩
def grid64 : Grid := ⟨53, -1022, 1023⟩

/-- n / 2^k rounded to nearest, ties to even. -/
def rneShift (n k : Nat) : Nat :=
  let q := n / 2 ^ k
  let r := n % 2 ^ k
  if 2 * r < 2 ^ k then q else if 2 ^ k < 2 * r then q + 1 else q + q % 2

/-- Round a magnitude n x 2^e to a grid with no upper limit on the exponent: a multiple q of 2^lsb. -/
def roundMag (g : Grid) (n : Nat) (e : Int) : Nat × Int :=
  let lsb := max ((n.log2 : Int) + e - (g.p - 1)) (g.emin - (g.p - 1))
  if lsb ≤ e then (n * pow2 (e - lsb), lsb) else (rneShift n (lsb - e).toNat, lsb)

/-- Largest finite magnitude of a grid. -/
def maxMag (g : Grid) : Nat × Int := (2 ^ g.p - 1, g.emax - (g.p - 1))

/-- Round to a grid with saturation (R109's round32, R111): the value and whether it saturated. -/
def FVal.round (g : Grid) (v : FVal) : FVal × Bool :=
  match v with
  | .fin m e =>
    let r := roundMag g m.natAbs e
    let sg : Int := if m < 0 then -1 else 1
    if r.1 = 0 then (.zero (decide (m < 0)), false)
    else if g.emax < (r.1.log2 : Int) + r.2 then (.fin (sg * (maxMag g).1) (maxMag g).2, true)
    else (.fin (sg * r.1) r.2, false)
  | w => (w, false)

/-- One operation rounded once to a grid. -/
def fAdd (g : Grid) (a b : FVal) : FVal × Bool := (a.add b).round g
def fMul (g : Grid) (a b : FVal) : FVal × Bool := (a.mul b).round g
def fFma (g : Grid) (a b c : FVal) : FVal × Bool := ((a.mul b).add c).round g

/-- Minimum and maximum (R136): NaN if either is NaN, -0 below +0. -/
def fMin (a b : FVal) : FVal :=
  if a.isNan || b.isNan then .nan
  else if a.lt b then a else if b.lt a then b else if a.neg? then a else b
def fMax (a b : FVal) : FVal :=
  if a.isNan || b.isNan then .nan
  else if a.lt b then b else if b.lt a then a else if a.neg? then b else a

/-! ### Formats (R101-R105) -/

/-- Where a float format keeps its infinities and NaNs: as IEEE 754, one NaN only (E4M3), none. -/
inductive Specials where
  | ieee | nanOnly | none
  deriving DecidableEq, Repr

/-- A floating-point element layout (R101, R102). -/
structure FloatFmt where
  w : Nat
  t : Nat
  bias : Int
  sp : Specials
  deriving DecidableEq, Repr

def fmtE4M3 : FloatFmt := ⟨4, 3, 7, .nanOnly⟩
def fmtE5M2 : FloatFmt := ⟨5, 2, 15, .ieee⟩
def fmtE3M2 : FloatFmt := ⟨3, 2, 3, .none⟩
def fmtE2M3 : FloatFmt := ⟨2, 3, 1, .none⟩
def fmtE2M1 : FloatFmt := ⟨2, 1, 1, .none⟩
def fmtBF16 : FloatFmt := ⟨8, 7, 127, .ieee⟩
def fmtFP16 : FloatFmt := ⟨5, 10, 15, .ieee⟩
def fmtFP32 : FloatFmt := ⟨8, 23, 127, .ieee⟩
def fmtFP64 : FloatFmt := ⟨11, 52, 1023, .ieee⟩

/-- A format code of R101 is valid. -/
def fmtValid (c : Nat) : Bool := [1, 2, 3, 4, 5, 6, 7, 8, 0x10, 0x11, 0x20, 0x21].contains c

/-- Whether a format has a block scale (R101). -/
def fmtIsMx (c : Nat) : Bool := decide (4 ≤ c ∧ c ≤ 8)

/-- Element bits (R101). -/
def fmtBits (c : Nat) : Nat :=
  if c = 8 then 4 else if c = 6 ∨ c = 7 then 6 else if c = 0x10 ∨ c = 0x11 then 16 else if c = 0x20 then 32
  else if c = 0x21 then 64 else 8

/-- Bytes of `n` elements of a format, packed within a row (R104). -/
def fmtBytes (c n : Nat) : Nat := ceilDiv (fmtBits c * n) 8

/-- The float layout of a format; INT8 (1) has none. -/
def fmtFloat (c : Nat) : Option FloatFmt :=
  if c = 2 ∨ c = 4 then some fmtE4M3 else if c = 3 ∨ c = 5 then some fmtE5M2 else if c = 6 then some fmtE3M2
  else if c = 7 then some fmtE2M3 else if c = 8 then some fmtE2M1 else if c = 0x10 then some fmtBF16
  else if c = 0x11 then some fmtFP16 else if c = 0x20 then some fmtFP32 else if c = 0x21 then some fmtFP64 else none

/-- The value of an encoding (R102). -/
def FloatFmt.decode (f : FloatFmt) (raw : Nat) : FVal :=
  let m := raw % 2 ^ f.t
  let e := raw / 2 ^ f.t % 2 ^ f.w
  let s := bit raw (f.t + f.w)
  let sg : Int := if s then -1 else 1
  if f.sp = .ieee ∧ e = 2 ^ f.w - 1 then (if m = 0 then .inf s else .nan)
  else if f.sp = .nanOnly ∧ e = 2 ^ f.w - 1 ∧ m = 2 ^ f.t - 1 then .nan
  else if e = 0 then (if m = 0 then .zero s else .fin (sg * m) (1 - f.bias - f.t))
  else .fin (sg * (2 ^ f.t + m : Nat)) ((e : Int) - f.bias - f.t)

/-- The encoding of a value on the format's grid. -/
def FloatFmt.place (f : FloatFmt) (neg : Bool) (mag : Nat) : Nat := mag + neg.toNat * 2 ^ (f.t + f.w)

/-- The grid of a format, without its upper limit. -/
def FloatFmt.grid (f : FloatFmt) : Grid := ⟨f.t + 1, 1 - f.bias, 0⟩

/-- Encoding of a rounded magnitude q x 2^lsb. -/
def FloatFmt.encodeMag (f : FloatFmt) (q : Nat) (lsb : Int) : Nat :=
  if q = 0 then 0
  else
    let ex := (q.log2 : Int) + lsb
    if ex < 1 - f.bias then q * pow2 (lsb - (1 - f.bias - f.t))
    else
      let mant := if q.log2 ≤ f.t then q * 2 ^ (f.t - q.log2) else q / 2 ^ (q.log2 - f.t)
      (ex + f.bias).toNat * 2 ^ f.t + (mant - 2 ^ f.t)

/-- Largest finite encoding. -/
def FloatFmt.maxRaw (f : FloatFmt) : Nat :=
  match f.sp with
  | .ieee => (2 ^ f.w - 1) * 2 ^ f.t - 1
  | .nanOnly => 2 ^ (f.w + f.t) - 2
  | .none => 2 ^ (f.w + f.t) - 1

/-- Canonical NaN (R114). -/
def FloatFmt.nanRaw (f : FloatFmt) : Nat :=
  match f.sp with
  | .ieee => (2 ^ f.w - 1) * 2 ^ f.t + 2 ^ (f.t - 1)
  | .nanOnly => 2 ^ (f.w + f.t) - 1
  | .none => 0

/-- Infinity of an IEEE format. -/
def FloatFmt.infRaw (f : FloatFmt) : Nat := (2 ^ f.w - 1) * 2 ^ f.t

/-- convert(x, target, SAT) into a float format (R118): encoding and CVT. -/
def FloatFmt.convert (f : FloatFmt) (v : FVal) (sat : Bool) : Nat × Bool :=
  let tooFar := fun (s : Bool) (isInf : Bool) =>
    if sat || f.sp == .none then (f.place s f.maxRaw, true)
    else match f.sp with
      | .ieee => (f.place s f.infRaw, !isInf)
      | _ => (f.nanRaw, true)
  match v with
  | .nan => (f.nanRaw, f.sp == .none)
  | .inf s => tooFar s true
  | .zero s => (f.place s 0, false)
  | .fin m e =>
    let r := roundMag f.grid m.natAbs e
    let raw := f.encodeMag r.1 r.2
    if f.maxRaw < raw then tooFar (decide (m < 0)) false else (f.place (decide (m < 0)) raw, false)

/-- Nearest integer, ties to even. -/
def rneInt (m e : Int) : Int :=
  if 0 ≤ e then m * pow2 e
  else
    let q : Int := rneShift m.natAbs (-e).toNat
    if m < 0 then -q else q

/-- Conversion into INT8 (R118). -/
def convertInt8 (v : FVal) : Nat × Bool :=
  match v with
  | .nan => (0, true)
  | .inf s => (if s then 0x80 else 0x7F, true)
  | .zero _ => (0, false)
  | .fin m e =>
    let z := rneInt m e
    if 127 < z then (0x7F, true) else if z < -128 then (0x80, true) else (ofSigned 8 z, false)

/-- convert(x, target, SAT) into an unscaled format (R118). -/
def convertTo (code : Nat) (v : FVal) (sat : Bool) : Nat × Bool :=
  match fmtFloat code with
  | some f => f.convert v sat
  | none => convertInt8 v

/-- The value of an element without its block scale (R101). -/
def decodeElem (code raw : Nat) : FVal :=
  match fmtFloat code with
  | some f => f.decode raw
  | none => .ofInt (toSigned 8 raw) 0

/-- An element under an E8M0 scale byte (R103, R112). -/
def scaled (v : FVal) (x : Nat) : FVal := if x = 0xFF then .nan else v.scale ((x : Int) - 127)

/-- emax of an MX element format (R119). -/
def mxEmax (code : Nat) : Int := if code = 4 then 8 else if code = 5 then 15 else if code = 6 then 4 else 2

/-- The larger floor(log2) among finite non-zero values. -/
def maxLog2 (vs : List FVal) : Option Int :=
  vs.foldl (fun b v => match v with
    | .fin m e => (match b with | none => some (log2Abs m e) | some x => some (max x (log2Abs m e)))
    | _ => b) none

/-- convert_mx of R119: scale byte, elements, CVT. -/
def convertMx (code : Nat) (vs : List FVal) : Nat × List Nat × Bool :=
  if vs.any (fun v => v.isNan || v.isInf) then (0xFF, vs.map (fun _ => 0), true)
  else
    let xs : Int := match maxLog2 vs with
      | none => -127
      | some l => min (max (l - mxEmax code) (-127)) 127
    let es := vs.map (fun v => convertTo code (v.scale (-xs)) true)
    ((xs + 127).toNat, es.map (fun e => e.1), es.any (fun e => e.2))

/-! ### FP32 and FP64 bit patterns -/

def val32 (w : Nat) : FVal := fmtFP32.decode w
def bits32 (v : FVal) : Nat := (fmtFP32.convert v true).1
def val64 (w : Nat) : FVal := fmtFP64.decode w
def bits64 (v : FVal) : Nat := (fmtFP64.convert v true).1
/-- An infinity stays one on its own grid. -/
def enc32 (v : FVal) : Nat := (fmtFP32.convert v false).1
def enc64 (v : FVal) : Nat := (fmtFP64.convert v false).1

/-! ### Packed rows (R104) -/

/-- Element `i` of packed bytes. -/
def unpackElem (code : Nat) (bs : List Byte) (i : Nat) : Nat :=
  field (leNat bs) (fmtBits code * i + fmtBits code - 1) (fmtBits code * i)

/-- Packed bytes of a list of elements. -/
def packElems (code : Nat) (es : List Nat) : List Byte :=
  let n := (es.reverse).foldl (fun acc x => acc * 2 ^ fmtBits code + x % 2 ^ fmtBits code) 0
  leBytes (fmtBytes code es.length) n

/-! ### Format pairs (R106, R107) -/

/-- The narrow float formats that pair freely. -/
def isNarrow (c : Nat) : Bool := decide (2 ≤ c ∧ c ≤ 8)

/-- A pair that a product may combine (R106). -/
def pairValid (a b : Nat) : Bool :=
  (isNarrow a && isNarrow b) || (a == 1 && b == 1) ||
  ((a == 0x10 || a == 0x11) && (b == 0x10 || b == 0x11)) || (a == 0x20 && b == 0x20) || (a == 0x21 && b == 0x21)

/-- The group size G of a pair on the grouped path (R106); 0 on the fused path. -/
def groupSize (a b : Nat) : Nat :=
  if a = 8 ∧ b = 8 then 64 else if a = 0x10 ∨ a = 0x11 then 16 else if a = 0x20 ∨ a = 0x21 then 0 else 32

/-! ### The grouped path (R108, R109) -/

/-- A group's sum. -/
inductive GSum where
  | nan
  | inf (neg : Bool)
  | zero
  | fin (total : Int) (lsb : Int)
  deriving DecidableEq, Repr

/-- floor(m x 2^e / 2^lsb). -/
def floorAt (m e lsb : Int) : Int := if lsb ≤ e then m * pow2 (e - lsb) else m / (pow2 (lsb - e) : Int)

/-- group_sum of R108 over the products of a group, padding products left out. -/
def groupSum (prods : List FVal) : GSum :=
  if prods.any FVal.isNan then .nan
  else
    let pos := prods.any (fun p => p.isInf && !p.neg?)
    let neg := prods.any (fun p => p.isInf && p.neg?)
    if pos && neg then .nan else if pos then .inf false else if neg then .inf true
    else match maxLog2 prods with
    | none => .zero
    | some emax =>
      let lsb := emax - 26
      .fin (prods.foldl (fun t p => match p with | .fin m e => t + floorAt m e lsb | _ => t) 0) lsb

/-- fold of R109: the accumulator after a group and whether it saturated. -/
def foldGroup (acc : FVal) (g : GSum) : FVal × Bool :=
  match g with
  | .zero => (acc, false)
  | .nan => (.nan, false)
  | .inf s => (match acc with
    | .nan => .nan
    | .inf t => if s = t then .inf s else .nan
    | _ => .inf s, false)
  | .fin total lsb =>
    match acc with
    | .nan => (.nan, false)
    | .inf t => (.inf t, false)
    | a =>
      -- a zero accumulator and a group whose truncated terms cancel give an exact zero, +0
      (match a with
       | .fin m e => (FVal.fin m e).add (.ofInt total lsb)
       | _ => .ofInt total lsb).round grid32

end Sys2Proof.Machine
end

