-- ==== Sys2Proof/Machine/Operands.lean ====
section
/-!
DEFINITION. The operand forms that descriptors share: sync waits and signals (04 R93-R96), object grants (18 R366),
regions of the array (R73, R84), cluster masks, cell stores (R80), and when the running program is complete (03).
-/
namespace Sys2Proof.Machine

/-! ### Sync objects (R93-R95) -/

/-- Value of object `o`. -/
def Dev.obj (d : Dev) (o : Nat) : Nat := d.num (SYN.OBJ o)

/-- A signal: the increment, modulo 2^32; SIGCOUNT of the object's page (R93, R100). A page under reset absorbs it
(R396). -/
def Dev.signal (d : Dev) (o inc : Nat) : Dev :=
  if d.inReset (SYN.page (o / 512)) then d.absorb
  else (d.setNum (SYN.OBJ o) (d.obj o + inc)).countSat (SYN.SIGCOUNT (o / 512)) 1

/-- (value - target) mod 2^32 < 2^31 (R93). -/
def waitMet (value target : Nat) : Bool := decide ((value + 2 ^ 32 - target % 2 ^ 32) % 2 ^ 32 < 2 ^ 31)

/-- WAIT, WAITVAL, SIGNAL and SIGINC of a descriptor, at the offsets of R84. -/
def dWait (bs : List Byte) : Nat := fieldAt bs 0x18 4
def dWaitVal (bs : List Byte) : Nat := fieldAt bs 0x1C 4
def dSignal (bs : List Byte) : Nat := fieldAt bs 0x20 4
def dSigInc (bs : List Byte) : Nat := fieldAt bs 0x24 2

/-- The object and VALID of a WAIT or SIGNAL word. -/
def syncObj (w : Nat) : Nat := field w 16 0
def syncValid (w : Nat) : Bool := bit w 31

/-- Bits [30:17] of both words are reserved, and so are the two bytes after SIGINC (R84). -/
def syncReservedOk (bs : List Byte) : Bool :=
  field (dWait bs) 30 17 == 0 && field (dSignal bs) 30 17 == 0 && fieldAt bs 0x26 2 == 0

/-- The wait of a descriptor is satisfied. -/
def Dev.waitOk (d : Dev) (bs : List Byte) : Bool :=
  !syncValid (dWait bs) || waitMet (d.obj (syncObj (dWait bs))) (dWaitVal bs)

/-- The signal of a descriptor is applied. -/
def Dev.applySignal (d : Dev) (bs : List Byte) : Dev :=
  if syncValid (dSignal bs) then d.signal (syncObj (dSignal bs)) (dSigInc bs) else d

/-- Every object the descriptor names is granted to the beat's tenancy (R366). -/
def Dev.grantsOk (d : Dev) (bs : List Byte) : Bool :=
  (!syncValid (dWait bs) || d.granted d.tenancy (syncObj (dWait bs))) &&
  (!syncValid (dSignal bs) || d.granted d.tenancy (syncObj (dSignal bs)))

/-- The code of a failure at the head of a queue: among failures of one cycle the numerically lowest (R53). `own` is the
engine's first failing check. -/
def Dev.headCode (d : Dev) (bs : List Byte) (own : Option Nat) : Option Nat :=
  if d.grantsOk bs then own else some (min 0x19 (own.getD 0x19))

/-- The first code of a list of checks whose condition holds. -/
def firstFail : List (Bool × Nat) → Option Nat
  | [] => none
  | (b, c) :: l => if b then some c else firstFail l

/-! ### Regions and clusters -/

/-- A region of the array: north-west cell, rows and columns (R84). -/
structure Region where
  r0 : Nat
  c0 : Nat
  ra : Nat
  ca : Nat
  deriving DecidableEq, Repr

/-- GRIDSEL 0 to 8 (R84). -/
def regionOf (g : Nat) : Region :=
  if g = 0 then ⟨0, 0, 64, 64⟩ else if g = 1 then ⟨0, 0, 64, 32⟩ else if g = 2 then ⟨0, 32, 64, 32⟩
  else if g = 3 then ⟨0, 0, 32, 64⟩ else if g = 4 then ⟨32, 0, 32, 64⟩ else if g = 5 then ⟨0, 0, 32, 32⟩
  else if g = 6 then ⟨32, 0, 32, 32⟩ else if g = 7 then ⟨0, 32, 32, 32⟩ else ⟨32, 32, 32, 32⟩

/-- Partitions of a region, ascending. -/
def Region.parts (g : Region) : List Nat :=
  (List.range 4).filter (fun p =>
    decide (g.r0 ≤ 32 * (p % 2) ∧ 32 * (p % 2) < g.r0 + g.ra ∧ g.c0 ≤ 32 * (p / 2) ∧ 32 * (p / 2) < g.c0 + g.ca))

/-- The cell at (r, c) of a region, as 64 x row + column of the array. -/
def Region.cell (g : Region) (r c : Nat) : Nat := 64 * (g.r0 + r) + g.c0 + c

/-- Whether array cell `x` lies in the region. -/
def Region.has (g : Region) (x : Nat) : Bool :=
  decide (g.r0 ≤ x / 64 ∧ x / 64 < g.r0 + g.ra ∧ g.c0 ≤ x % 64 ∧ x % 64 < g.c0 + g.ca)

/-- Clusters of a region. -/
def Region.clusters (g : Region) : List Nat :=
  (List.range 64).filter (fun k => g.has (64 * (8 * (k / 8)) + 8 * (k % 8)))

/-- Partition and cluster of array cell `x`. -/
def partOfCell (x : Nat) : Nat := partitionOf (x / 64) (x % 64)
def clusterOfCell (x : Nat) : Nat := clusterOf (x / 64) (x % 64)

/-- CLMASK of a descriptor (R144), and the clusters it selects. -/
def dClmask (bs : List Byte) : Nat := fieldAt bs 0x08 8
def clustersIn (mask : Nat) : List Nat := (List.range 64).filter (fun k => bit mask k)

/-! ### Cell stores (R80) -/

/-- Words with an uncorrectable error that `[off, off + n)` of cell `x` touches, as keys of their first byte. -/
def Dev.badWords (d : Dev) (x off n : Nat) : List Nat :=
  d.massif.storeUE.filter (fun w => rangesMeet w 8 (storeKey x off) n)

/-- An uncorrectable cell-store error fails the beat (R80). -/
def Dev.failWord (d : Dev) (w : Nat) : Dev :=
  let x := w / storeSize
  let p := partOfCell x
  (d.errData (MSF.page p) 8).beatFail 0x30 (blockName .msf p)
    (2 ^ 63 + x / 64 * 2 ^ 24 + x % 64 * 2 ^ 18 + w % storeSize)

/-- Bytes of a cell store. -/
def Dev.storeBytes (d : Dev) (x off n : Nat) : List Byte := d.massif.store.readN (storeKey x off) n

/-- A read of a cell store by an engine. -/
def Dev.csRead (d : Dev) (x off n : Nat) : List Byte × Dev :=
  (d.storeBytes x off n, (d.badWords x off n).foldl Dev.failWord d)

/-- Write bytes without looking at errors. -/
def Dev.csPut (d : Dev) (x off : Nat) (bs : List Byte) : Dev :=
  { d with massif := { d.massif with store := d.massif.store.write (storeKey x off) bs } }

/-- A word that a write covers in part and that holds an error fails the beat and keeps its bytes; one that a write
covers wholly is clean afterwards (R80). -/
def Dev.csWrite (d : Dev) (x off : Nat) (bs : List Byte) : Dev :=
  let bad := d.badWords x off bs.length
  if bad = [] then d.csPut x off bs
  else
    let k := storeKey x off
    let part := bad.filter (fun w => !rangeInside w 8 k bs.length)
    let kept := (List.range bs.length).map (fun i =>
      if part.any (fun w => decide (w ≤ k + i ∧ k + i < w + 8)) then d.massif.store.read (k + i)
      else bs.getD i 0#8)
    let d1 := d.csPut x off kept
    let d2 := { d1 with massif := { d1.massif with
      storeUE := d1.massif.storeUE.filter (fun w => !rangeInside w 8 k bs.length) } }
    part.foldl Dev.failWord d2

/-! ### When the program is complete (03) -/

/-- Every descriptor of the stream has been issued. -/
def Dev.allIssued (d : Dev) : Bool :=
  match d.cricket.cur with
  | some b => (match b.image with | some i => decide (i.descCount ≤ b.issued) | none => false)
  | none => false

/-- A ring slot that still holds a tile. -/
def ringBusy (w : Wvl) : Bool := w.ring.any (fun s => s.state != .free)

/-- Nothing of the program is queued, running, held, unwritten or outstanding. -/
def Dev.enginesIdle (d : Dev) : Bool :=
  d.massif.queue.isEmpty && d.massif.op.isNone && d.massif.unwritten.isEmpty && d.massif.chain.isNone &&
  d.massif.banks.all (fun b => b.2.state == .free) &&
  d.weevil.queue.isEmpty && d.weevil.run.isEmpty && d.weevil.cl.all (fun w => !ringBusy w.2) &&
  d.col.queue.isEmpty && d.col.run.isNone &&
  d.scarab.cl.all (fun c => c.2.queue.isEmpty) && d.scarab.fin.isEmpty &&
  d.talus.cl.all (fun c => c.2.queue.isEmpty && c.2.spilling.isEmpty) && d.talus.fin.isEmpty &&
  d.stag.queue.isEmpty && d.stag.act.isEmpty && !d.stag.micro.running &&
  d.stag.slots.all (fun s => s.2.units.all (fun u => u != .armed)) &&
  d.mem.copyQ.isEmpty && d.mem.copyRun.isNone && d.forager.queue.isEmpty && d.forager.run.isNone &&
  d.link.localQ.isEmpty && d.link.localTable.isEmpty && d.link.ports.all (fun p => p.2.table.isEmpty)

/-- The running program has become complete: its tick is recorded once (R70). -/
def Dev.noteDone (d : Dev) : Dev :=
  match d.cricket.cur with
  | none => d
  | some b =>
    if b.complete.isNone && d.cricket.phase == .run && d.allIssued && d.enginesIdle then
      { d with cricket := { d.cricket with cur := some { b with complete := some d.now } } }
    else d

/-- A meaning that may bring the running program to its end. -/
def onBeat (f : Dev → Dev) (s : State) : Host.Outcome State Fault Refusal := onDev (fun d => (f d).noteDone) s

end Sys2Proof.Machine
end

