-- ==== Sys2Proof/Machine/Flags.lean ====
section
/-!
DEFINITION. The flags that results carry and where they are recorded (05 R117, 06 R129, R137, R146; 04 R98): OVF, INF,
NAN, CVT and EXS as bits 0 to 4 of a number.
-/
namespace Sys2Proof.Machine

def fOVF : Nat := 1
def fINF : Nat := 2
def fNAN : Nat := 4
def fCVT : Nat := 8
def fEXS : Nat := 16

/-- INF and NAN of a value. -/
def infNan (v : FVal) : Nat := if v.isNan then fNAN else if v.isInf then fINF else 0

/-- OVF of a rounding. -/
def ovfOf (b : Bool) : Nat := if b then fOVF else 0

/-- A value and the flags it gives where every result is judged (R137). -/
def judged (r : FVal × Bool) : FVal × Nat := (r.1, ovfOf r.2 ||| infNan r.1)

/-- The union of a list of flags. -/
def orAll (l : List Nat) : Nat := l.foldl (fun a b => a ||| b) 0

/-- Flags enter a W1C flag register, and IRQSUM.FLAGS (bit 1) of its page is latched where it rose from 0. -/
def Dev.orFlags (d : Dev) (page reg f : Nat) : Dev :=
  let old := d.num reg
  let d1 := d.setNum reg (old ||| f)
  if old = 0 ∧ f ≠ 0 then d1.irq page 1 else d1

/-- Flags of a tile that cluster `k`'s exit delivered (R129). -/
def Dev.exitFlags (d : Dev) (k f : Nat) : Dev := d.orFlags (WVL.page k) (WVL.EXITFLAGS k) f

/-- Flags of a Weevil instruction; an OVF makes the beat report OK_OVERFLOW (R137). -/
def Dev.weevilFlags (d : Dev) (k f : Nat) : Dev :=
  let d1 := d.orFlags (WVL.page k) (WVL.WFLAGS k) f
  if bit f 0 then
    let d2 := d1.success 3
    d2.setWvl k { d2.wvl k with ovf := true }
  else d1

/-- A tile with OVF: the beat reports OK_OVERFLOW and OVFCOUNT of its partition counts it (R117, R98). -/
def Dev.tileOverflow (d : Dev) (p f : Nat) : Dev :=
  if bit f 0 then
    let d1 := if d.num (MSF.OVFCOUNT p) = 0 then d.irq (MSF.page p) 2 else d
    let d2 := (d1.countSat (MSF.OVFCOUNT p) 1).success 3
    { d2 with massif := { d2.massif with tileOvf := true } }
  else d

/-! ### The Weevil ring (R140, R141) -/

def slotFree : RingSlot := ⟨.free, 0#64⟩

/-- The tag of a ring tile (R141). -/
def ringTag (ti tj vr vc flags seq flank : Nat) : DWord :=
  BitVec.ofNat 64 (ti % 2 ^ 20 + tj % 2 ^ 20 * 2 ^ 20 + (vr - 1) % 32 * 2 ^ 40 + (vc - 1) % 32 * 2 ^ 45 +
    flags % 32 * 2 ^ 50 + seq % 256 * 2 ^ 55 + flank % 2 * 2 ^ 63)

/-- A ring's operation number from here up is a Scarab's delivery, over the Massif's number that it stands above. -/
def scarabRing : Nat := 2 ^ 32

/-- The ring of a new operation: every slot FREE. -/
def freshRing (w : Wvl) (op rbase rlen : Nat) : Wvl :=
  { w with ringBase := rbase, ring := List.replicate rlen slotFree, ringOp := op, ringNext := 0, ringFill := [], ringHeld := [] }

/-- The slot that tile `t` of an operation takes is FREE. -/
def slotReady (w : Wvl) : Bool :=
  match w.ring[w.ringNext % w.ring.length]? with
  | some s => s.state == .free
  | none => false

/-- A tile goes into the next slot: 1,024 FP32 values into its register, the tag beside the slot (R140). -/
def deliverTile (w : Wvl) (tag : DWord) (vals : List Word) : Wvl :=
  let i := w.ringNext % w.ring.length
  { w with
    treg := w.treg.setRange zeroWord (1024 * (w.ringBase + i)) (vals.take 1024)
    tregUE := w.tregUE.filter (fun a => !decide (a / 1024 = w.ringBase + i))
    ring := setAt w.ring i ⟨.filled, tag⟩
    ringNext := w.ringNext + 1
    ringFill := w.ringFill ++ [i] }

end Sys2Proof.Machine
end

