-- ==== Sys2Proof/Machine/Transc.lean ====
section
/-!
DEFINITION. Correctly rounded functions (06 R130, R137): reciprocal, roots and quotient exactly with a sticky bit;
exponential, logarithm, hyperbolic tangent, logistic function and complementary error function from fixed-point series
with far more bits than FP32 rounding can need; and the activation menu (R131, R132).
-/
namespace Sys2Proof.Machine

/-- A magnitude known as q units of 2^e, exactly or with a remainder below one unit: the remainder is kept as a sticky
bit, so that rounding to fewer bits is right. -/
def sticky (neg exact : Bool) (q : Nat) (e : Int) : FVal :=
  let sg : Int := if neg then -1 else 1
  if exact then .ofInt (sg * q) e else .fin (sg * (2 * q + 1 : Nat)) (e - 1)

/-- Integer square root, digit by digit from bit `i` down. -/
def isqrtFrom : Nat → Nat → Nat → Nat
  | 0, _, r => r
  | i + 1, n, r => isqrtFrom i n (if (r + 2 ^ i) * (r + 2 ^ i) ≤ n then r + 2 ^ i else r)

def isqrt (n : Nat) : Nat := isqrtFrom (n.log2 / 2 + 1) n 0

/-- a / b of two finite non-zero values, with a sticky bit. -/
def divExact (m1 e1 m2 e2 : Int) : FVal :=
  let k := 160 + m2.natAbs.log2
  let n := m1.natAbs * 2 ^ k
  sticky (decide (m1 < 0) != decide (m2 < 0)) (n % m2.natAbs == 0) (n / m2.natAbs) (e1 - e2 - k)

/-- Square root of a positive finite value, with a sticky bit. -/
def sqrtExact (m e : Int) : FVal :=
  let odd := (e % 2).toNat
  let n := m.natAbs * 2 ^ odd * 2 ^ 160
  let r := isqrt n
  sticky false (r * r == n) r ((e - odd - 160) / 2)

/-- Reciprocal square root of a positive finite value, with a sticky bit. -/
def rsqrtExact (m e : Int) : FVal :=
  let odd := (e % 2).toNat
  let n := m.natAbs * 2 ^ odd
  let k := 160 + n.log2
  let r := isqrt (2 ^ (2 * k) / n)
  sticky false (r * r * n == 2 ^ (2 * k)) r (-(k : Int) - (e - odd) / 2)

/-! ### Fixed-point series: numbers are units of 2^-N -/

/-- Fractional bits. -/
def fixN : Nat := 512

/-- ln 2 in units of 2^-512. -/
def fixLn2 : Nat := 0xb17217f7d1cf79abc9e3b39803f2f6af40f343267298b62d8a0d175b8baafa2be7b876206debac98559552fb4afa1b10ed2eae35c138214427573b291169b825

/-- 2 / sqrt(pi) in units of 2^-512. -/
def fix2SqrtPi : Nat := 0x120dd750429b6d11ae3a914fed7fd8688281341d7587cea2e7342b06199cc416180eb39f0b24e1e2281806c12d98f35d77a3e9ddc91c394f0e9eedf0efffd84a2

/-- A finite value in units of 2^-N, rounded down. -/
def toFix (m e : Int) : Int := floorAt m e (-(fixN : Int))

/-- The sum of r^n / n!, term by term. -/
def expSeries : Nat → Nat → Nat → Nat → Nat → Nat
  | 0, _, _, _, acc => acc
  | fuel + 1, r, n, term, acc =>
    if term = 0 then acc else expSeries fuel r (n + 1) (term * r / 2 ^ fixN / (n + 1)) (acc + term)

/-- e^x for x in units of 2^-N: mantissa in units of 2^-N and a power of two. -/
def expFix (x : Int) : Nat × Int :=
  let k := x / (fixLn2 : Int)
  let r := (x - k * fixLn2).toNat
  (expSeries 200 r 0 (2 ^ fixN) 0, k)

/-- e^x as a value; the argument lies well inside the range of the result. -/
def expVal (m e : Int) : FVal :=
  let r := expFix (toFix m e)
  sticky false false r.1 (r.2 - fixN)

/-- atanh series: z + z^3/3 + z^5/5 + ... -/
def atanhSeries : Nat → Nat → Nat → Nat → Nat → Nat
  | 0, _, _, _, acc => acc
  | fuel + 1, z2, n, p, acc =>
    if p = 0 then acc else atanhSeries fuel z2 (n + 2) (p * z2 / 2 ^ fixN) (acc + p / n)

/-- ln of a positive finite value in units of 2^-N. -/
def logFix (m e : Int) : Int :=
  let n := m.natAbs
  let l := n.log2
  -- n / 2^l in [1, 2)
  let z := (n - 2 ^ l) * 2 ^ fixN / (n + 2 ^ l)
  let a := atanhSeries 200 (z * z / 2 ^ fixN) 1 z 0
  ((l : Int) + e) * fixLn2 + 2 * a

/-- A fixed-point number as a value with a sticky bit. -/
def fixVal (x : Int) : FVal := sticky (decide (x < 0)) false x.natAbs (-(fixN : Int))

/-- The series of R130's erf: sum of 2^n y^(2n+1) / (1 3 5 ... (2n+1)), y in units of 2^-N. -/
def erfSeries : Nat → Nat → Nat → Nat → Nat → Nat
  | 0, _, _, _, acc => acc
  | fuel + 1, y2, n, term, acc =>
    if term = 0 then acc else erfSeries fuel y2 (n + 1) (term * (2 * y2) / 2 ^ fixN / (2 * n + 3)) (acc + term)

/-- erf(y) for 0 < y < 11, in units of 2^-N; its error is below 2^-330. -/
def erfFix (y : Nat) : Nat :=
  let y2 := y * y / 2 ^ fixN
  let s := erfSeries 1500 y2 0 y 0
  let ex := expFix (-(y2 : Int))
  -- e^(-y^2) <= 1, so its power of two is not positive
  let g := floorAt ex.1 ex.2 0
  fix2SqrtPi * (g.toNat * s / 2 ^ fixN) / 2 ^ fixN

/-! ### cr(f, x) (R130): the exact mathematical value, rounded by round32 -/

/-- Largest finite FP32 value with a sign. -/
def maxFloat32 (neg : Bool) : FVal := .fin (if neg then -16777215 else 16777215) 104

/-- Whether a finite value's magnitude is at least 2^k, or below 2^k. -/
def atLeast2 (m e k : Int) : Bool := decide (k ≤ log2Abs m e)

def crRcp (v : FVal) : FVal × Bool :=
  match v with
  | .nan => (.nan, false)
  | .inf s => (.zero s, false)
  | .zero s => (maxFloat32 s, true)
  | .fin m e => (divExact 1 0 m e).round grid32

def crSqrt (v : FVal) : FVal × Bool :=
  match v with
  | .nan => (.nan, false)
  | .inf s => (if s then .nan else .inf false, false)
  | .zero s => (.zero s, false)
  | .fin m e => if m < 0 then (.nan, false) else (sqrtExact m e).round grid32

def crRsqrt (v : FVal) : FVal × Bool :=
  match v with
  | .nan => (.nan, false)
  | .inf s => (if s then .nan else .zero false, false)
  | .zero s => (maxFloat32 s, true)
  | .fin m e => if m < 0 then (.nan, false) else (rsqrtExact m e).round grid32

def crExp (v : FVal) : FVal × Bool :=
  match v with
  | .nan => (.nan, false)
  | .inf s => (if s then .zero false else .inf false, false)
  | .zero _ => (.fin 1 0, false)
  | .fin m e =>
    if atLeast2 m e 7 then (if m < 0 then (.zero false, false) else (maxFloat32 false, true))
    else if !atLeast2 m e (-40) then (.fin 1 0, false)
    else (expVal m e).round grid32

def crLog (v : FVal) : FVal × Bool :=
  match v with
  | .nan => (.nan, false)
  | .inf s => (if s then .nan else .inf false, false)
  | .zero _ => (maxFloat32 true, true)
  | .fin m e =>
    if m < 0 then (.nan, false)
    else
      let x := logFix m e
      -- ln 1 is an exact zero
      if FVal.eq v (.fin 1 0) then (.zero false, false) else (fixVal x).round grid32

/-- The logistic function. -/
def crSigma (v : FVal) : FVal × Bool :=
  match v with
  | .nan => (.nan, false)
  | .inf s => (if s then .zero false else .fin 1 0, false)
  | .zero _ => (.fin 1 (-1), false)
  | .fin m e =>
    if atLeast2 m e 7 then (if m < 0 then .zero false else .fin 1 0, false)
    else if !atLeast2 m e (-40) then (.fin 1 (-1), false)
    else
      -- sigma(x) = t / (1 + t) with t = e^x
      let r := expFix (toFix m e)
      let t := floorAt r.1 r.2 0
      (sticky false false (t.toNat * 2 ^ fixN / (t.toNat + 2 ^ fixN)) (-(fixN : Int))).round grid32

def crTanh (v : FVal) : FVal × Bool :=
  match v with
  | .nan => (.nan, false)
  | .inf s => (.fin (if s then -1 else 1) 0, false)
  | .zero s => (.zero s, false)
  | .fin m e =>
    if atLeast2 m e 6 then (.fin (if m < 0 then -1 else 1) 0, false)
    else if !atLeast2 m e (-30) then (.fin m e, false)
    else
      -- tanh |x| = (1 - t) / (1 + t) with t = e^(-2|x|)
      let r := expFix (-2 * toFix m.natAbs e)
      let t := (floorAt r.1 r.2 0).toNat
      (sticky (decide (m < 0)) false ((2 ^ fixN - t) * 2 ^ fixN / (2 ^ fixN + t)) (-(fixN : Int))).round grid32

/-- The complementary error function. From 11 on it lies below 2^-180: its rounded value is +0, and that of 2 less it is 2. -/
def crErfc (v : FVal) : FVal × Bool :=
  match v with
  | .nan => (.nan, false)
  | .inf s => (if s then .fin 2 0 else .zero false, false)
  | .zero _ => (.fin 1 0, false)
  | .fin m e =>
    if 11 ≤ floorAt m.natAbs e 0 then (if m < 0 then .fin 2 0 else .zero false, false)
    else if !atLeast2 m e (-40) then (.fin 1 0, false)
    else
      let f := erfFix (toFix m.natAbs e).toNat
      (sticky false false (if m < 0 then 2 ^ fixN + f else 2 ^ fixN - f) (-(fixN : Int))).round grid32

/-! ### The activation menu (R131, R132) -/

/-- round32 without its flag. -/
def r32 (v : FVal) : FVal := (v.round grid32).1

/-- c0, c1, c2 of R131. -/
def geluC0 : FVal := val32 0x3F4C422A
def geluC1 : FVal := val32 0x3D372713
def geluC2 : FVal := val32 0x3F3504F3

def geluTanh (x : FVal) : FVal :=
  let x2 := r32 (x.mul x)
  let x3 := r32 (x2.mul x)
  let u := r32 (x.add (r32 (geluC1.mul x3)))
  let v := r32 (geluC0.mul u)
  r32 (x.mul (crSigma (v.scale 1)).1)

def geluErf (x : FVal) : FVal :=
  let a := r32 (x.mul geluC2)
  r32 ((x.scale (-1)).mul (crErfc a.negate).1)

/-- floor of a value, clamped to 0 to 255. -/
def floorIdx (t : FVal) : Nat :=
  match t with
  | .fin m e => (min (max (floorAt m e 0) 0) 255).toNat
  | .inf s => if s then 0 else 255
  | _ => 0

/-- PWL (R132): `tab i` is the entry's value and slope as FP32 bits. -/
def pwl (tab : Nat → Nat × Nat) (x0 inv x : FVal) : FVal :=
  let t := r32 ((r32 (x.add x0.negate)).mul inv)
  if t.isNan then .nan
  else
    let i := floorIdx t
    let f := r32 (t.add (FVal.ofInt (i : Int) 0).negate)
    r32 ((f.mul (val32 (tab i).2)).add (val32 (tab i).1))

/-- GELU and SILU at the infinities and zeros (R131); elsewhere the value given. -/
def rampEnds (x v : FVal) : FVal :=
  match x with
  | .inf true => .zero true
  | .inf false => .inf false
  | .zero s => .zero s
  | _ => v

/-- An activation of the menu (R131) on a value of grid `g`. -/
def activation (tab : Nat → Nat × Nat) (act : Nat) (p0 p1 x : FVal) : FVal :=
  match x with
  | .nan => .nan
  | _ =>
    if act = 0 then x
    else if act = 1 then (if (FVal.zero false).lt x then x else .zero false)
    else if act = 2 then rampEnds x (geluTanh x)
    else if act = 3 then rampEnds x (geluErf x)
    else if act = 4 then rampEnds x (r32 (x.mul (crSigma x).1))
    else if act = 5 then (crSigma x).1
    else if act = 6 then (crTanh x).1
    else if act = 7 then (if x.lt p0 then p0 else if p1.lt x then p1 else x)
    else pwl tab p0 p1 x

end Sys2Proof.Machine
end

