-- ==== Sys2Proof/Machine/Rows.lean ====
section
/-!
DEFINITION. Row reductions (06 R137, 07 R156) and packed images (06 R138), shared by the Weevil, the Scarab and fused
attention. A pair is a value and the flags that forming it set.
-/
namespace Sys2Proof.Machine

/-- A value and its flags. -/
abbrev JVal := FVal × Nat

/-- A value that sets no flag by itself. -/
def jOf (v : FVal) : JVal := (v, 0)

/-- One rounding of an exact value, judged. -/
def jRound (v : FVal) (f : Nat) : JVal := let r := judged (v.round grid32); (r.1, f ||| r.2)
def jAdd (a b : JVal) : JVal := jRound (a.1.add b.1) (a.2 ||| b.2)
def jSub (a b : JVal) : JVal := jRound (a.1.add b.1.negate) (a.2 ||| b.2)
def jMul (a b : JVal) : JVal := jRound (a.1.mul b.1) (a.2 ||| b.2)
def jFma (a b c : JVal) : JVal := jRound ((a.1.mul b.1).add c.1) (a.2 ||| b.2 ||| c.2)

/-- A correctly rounded function (R130), judged. -/
def jCr (f : FVal → FVal × Bool) (a : JVal) : JVal := let r := judged (f a.1); (r.1, a.2 ||| r.2)

/-- A value divided by a positive count: the exact quotient. -/
def divCount (v : FVal) (n : Nat) : FVal :=
  match v with
  | .fin m e => divExact m e n 0
  | w => w

/-- round32 of an exact quotient by a count. -/
def jDiv (a : JVal) (n : Nat) : JVal := jRound (divCount a.1 n) a.2

/-- One level of a pairwise tree: element 2q with element 2q + 1; a last element alone passes up. -/
def pairUp {α : Type} (f : α → α → α) : List α → List α
  | a :: b :: l => f a b :: pairUp f l
  | l => l

/-- Levels of the tree. -/
def treeOf {α : Type} (f : α → α → α) : Nat → List α → List α
  | 0, l => l
  | n + 1, l => treeOf f n (pairUp f l)

/-- The five-level tree of R137 over 32 values. -/
def tree32 (f : JVal → JVal → JVal) (l : List JVal) : JVal := (treeOf f 5 l).headD (.zero false, 0)

/-- rowsum of R156. -/
def rowsum (v : List JVal) : JVal :=
  tree32 jAdd (tabulate 32 (fun i =>
    (List.range (ceilDiv (v.length - i) 32)).foldl (fun s j => jAdd s (v.getD (32 * j + i) (.nan, 0))) (.zero false, 0)))

/-- rowdot of R156. -/
def rowdot (u w : List JVal) : JVal :=
  tree32 jAdd (tabulate 32 (fun i =>
    (List.range (ceilDiv (u.length - i) 32)).foldl (fun s j =>
      jFma (u.getD (32 * j + i) (.nan, 0)) (w.getD (32 * j + i) (.nan, 0)) s) (.zero false, 0)))

/-! ### Packed images (R138) -/

/-- Bytes of the element part of an image, and of the whole image. -/
def imageElems (f : Nat) : Nat := 32 * fmtBytes f 32
def imageBytes (f : Nat) : Nat := imageElems f + (if fmtIsMx f then 32 else 0)

/-- Element (i, j) of an image of format `f`. -/
def imageVal (f : Nat) (bs : List Byte) (i j : Nat) : FVal :=
  let rb := fmtBytes f 32
  let v := decodeElem f (unpackElem f ((bs.drop (rb * i)).take rb) j)
  if fmtIsMx f then scaled v (byteAt bs (imageElems f + i)) else v

/-- One row of 32 values converted to format `f`: packed elements, scale byte, CVT (R118, R119). -/
def convRow (f : Nat) (sat : Bool) (vs : List FVal) : List Nat × Nat × Bool :=
  if fmtIsMx f then let r := convertMx f vs; (r.2.1, r.1, r.2.2)
  else
    let r := vs.map (fun v => convertTo f v sat)
    (r.map (fun e => e.1), 0, r.any (fun e => e.2))

end Sys2Proof.Machine
end

