-- ==== Sys2Proof/Machine/Massif.lean ====
section
/-!
DEFINITION. The Massif's products and the accumulator exit (04 R79-R100, 05 R106-R117, 06 R121-R129): descriptors and
their checks, waves, folding, band reduction, and the exit of every tile.
-/
namespace Sys2Proof.Machine

/-! ### Descriptor fields (R84, R91): `b` is a 128-byte half -/

def half (bs : List Byte) (h : Nat) : List Byte := (bs.drop (128 * h)).take 128
def mFence (b : List Byte) : Bool := bit (byteAt b 2) 0
def mStart (b : List Byte) : Nat := field (byteAt b 2) 2 1
def mKeep (b : List Byte) : Bool := bit (byteAt b 2) 3
def mAfmt (b : List Byte) : Nat := byteAt b 3
def mBfmt (b : List Byte) : Nat := byteAt b 4
def mGrid (b : List Byte) : Nat := byteAt b 5
def mSplit (b : List Byte) : Nat := byteAt b 6
def mPace (b : List Byte) : Nat := byteAt b 7
def mM (b : List Byte) : Nat := fieldAt b 0x08 4
def mN (b : List Byte) : Nat := fieldAt b 0x0C 4
def mK (b : List Byte) : Nat := fieldAt b 0x10 4
def mKchunk (b : List Byte) : Nat := fieldAt b 0x14 2
def mAbase (b : List Byte) : Nat := fieldAt b 0x28 4
def mBbase (b : List Byte) : Nat := fieldAt b 0x2C 4
def mAscale (b : List Byte) : Nat := fieldAt b 0x30 4
def mBscale (b : List Byte) : Nat := fieldAt b 0x34 4

/-! ### The exit block (R124): `x` is 64 bytes -/

def xOut (x : List Byte) : Nat := byteAt x 0
def xDest (x : List Byte) : Nat := byteAt x 1
def xAct (x : List Byte) : Nat := byteAt x 2
def xSat (x : List Byte) : Bool := bit (byteAt x 3) 0
def xScaleMode (x : List Byte) : Nat := field (byteAt x 3) 2 1
def xBiasMode (x : List Byte) : Nat := field (byteAt x 3) 4 3
def xPmode (x : List Byte) : Nat := field (byteAt x 4) 1 0
def xPfmt (x : List Byte) : Nat := byteAt x 5
def xVfmt (x : List Byte) : Nat := byteAt x 6
def xRbase (x : List Byte) : Nat := field (byteAt x 7) 4 0
def xScale (x : List Byte) : Nat := fieldAt x 0x08 4
def xSvbase (x : List Byte) : Nat := fieldAt x 0x0C 4
def xBvbase (x : List Byte) : Nat := fieldAt x 0x10 4
def xPbase (x : List Byte) : Nat := fieldAt x 0x14 4
def xActp0 (x : List Byte) : Nat := fieldAt x 0x18 4
def xActp1 (x : List Byte) : Nat := fieldAt x 0x1C 4
def xOaddr (x : List Byte) : Nat := fieldAt x 0x20 8
def xOpitch (x : List Byte) : Nat := fieldAt x 0x28 4
def xRlen (x : List Byte) : Nat := field (byteAt x 0x2C) 4 0
def xOscale (x : List Byte) : Nat := fieldAt x 0x30 8
def xOspitch (x : List Byte) : Nat := fieldAt x 0x38 4

/-- Whether the scale and bias vectors are used (R124). -/
def xVecUsed (x : List Byte) : Bool := decide (2 ≤ xScaleMode x ∨ xBiasMode x ≠ 0)

/-- Element sizes of 32-bit, 16-bit and 64-bit vectors. -/
def vecBytes (f : Nat) : Nat := fmtBits f / 8

/-- The exit-block conditions of R125, check 1. -/
def exitBad1 (x : List Byte) (fp64 : Bool) (start : Nat) : Bool :=
  let mx := fmtIsMx (xOut x)
  let okVec := fun (f : Nat) => if fp64 then f == 0x20 || f == 0x21 else f == 0x20 || f == 0x10 || f == 0x11
  let a0 := val32 (xActp0 x)
  let a1 := val32 (xActp1 x)
  decide (field (byteAt x 3) 7 5 ≠ 0 ∨ field (byteAt x 4) 7 2 ≠ 0 ∨ field (byteAt x 7) 7 5 ≠ 0 ∨
    field (byteAt x 0x2C) 7 5 ≠ 0 ∨ fieldAt x 0x2D 3 ≠ 0 ∨ fieldAt x 0x3C 4 ≠ 0) ||
  !fmtValid (xOut x) || decide (2 < xDest x ∨ 8 < xAct x ∨ xBiasMode x = 3 ∨ xPmode x = 3) ||
  (if start = 1 then !okVec (xPfmt x) else xPfmt x != 0) ||
  (if xVecUsed x then !(okVec (xVfmt x) || (!fp64 && xVfmt x == 0x21)) else xVfmt x != 0) ||
  (xAct x == 7 && (a0.isNan || a1.isNan || a1.lt a0)) ||
  (xAct x == 8 && (a1.isNan || a1.isInf || a1.isZero)) ||
  (if xDest x = 2 then
    xOut x != 0x20 || decide (xRlen x = 0 ∨ 16 < xRlen x ∨ 32 < xRbase x + xRlen x) || xOaddr x != 0
   else xRbase x != 0 || xRlen x != 0) ||
  (xDest x == 1 && decide (2 ^ 32 ≤ xOaddr x ∨ 2 ^ 32 ≤ xOscale x)) ||
  (xDest x != 0 && xOpitch x != 0) ||
  (!(mx && decide (xDest x < 2)) && xOscale x != 0) ||
  (!(mx && xDest x == 0) && xOspitch x != 0) ||
  (fp64 && (!(xOut x == 0x20 || xOut x == 0x21) || xDest x == 2 || !(xAct x == 0 || xAct x == 1 || xAct x == 7)))

/-- R125, check 3. -/
def exitBad3 (x : List Byte) (start : Nat) : Bool :=
  (decide (2 ≤ xScaleMode x) && xSvbase x % 64 != 0) || (xBiasMode x != 0 && xBvbase x % 64 != 0) ||
  (start == 1 && xPbase x % 64 != 0) ||
  (decide (xDest x < 2) && (xOaddr x % 64 != 0 || xOpitch x % 64 != 0))

/-- R125, check 4, for wave counts WI, WJ and W. -/
def exitBad4 (x : List Byte) (start wi wj : Nat) : Bool :=
  let v := vecBytes (xVfmt x)
  let p := vecBytes (xPfmt x)
  let tooFar := fun (base n : Nat) => decide (storeSize < base + n)
  (xScaleMode x == 2 && tooFar (xSvbase x) (32 * v * wj)) || (xScaleMode x == 3 && tooFar (xSvbase x) (32 * v * wi)) ||
  (xBiasMode x == 1 && tooFar (xBvbase x) (32 * v * wj)) || (xBiasMode x == 2 && tooFar (xBvbase x) (32 * v * wi)) ||
  (start == 1 && tooFar (xPbase x)
    (if xPmode x = 0 then 32 * p * wj else if xPmode x = 1 then 32 * p * wi else 1024 * p * (wi * wj))) ||
  (xDest x == 1 && (tooFar (xOaddr x) (fmtBytes (xOut x) 1024 * (wi * wj)) ||
    (fmtIsMx (xOut x) && tooFar (xOscale x) (32 * (wi * wj)))))

/-! ### Derived quantities (R86) -/

/-- The geometry of one product. -/
structure Geo where
  reg : Region
  m : Nat
  n : Nat
  k : Nat
  kc : Nat
  s : Nat
  deriving DecidableEq, Repr

def Geo.br (g : Geo) : Nat := g.reg.ra / g.s
def Geo.ca (g : Geo) : Nat := g.reg.ca
def Geo.rt (g : Geo) : Nat := ceilDiv g.m 32
def Geo.ct (g : Geo) : Nat := ceilDiv g.n 32
def Geo.q (g : Geo) : Nat := ceilDiv g.k g.kc
def Geo.qb (g : Geo) : Nat := ceilDiv g.q g.s
def Geo.wi (g : Geo) : Nat := ceilDiv g.rt g.br
def Geo.wj (g : Geo) : Nat := ceilDiv g.ct g.ca
def Geo.w (g : Geo) : Nat := g.wi * g.wj
def Geo.sa (g : Geo) : Nat := ceilDiv g.qb g.ca
def Geo.sb (g : Geo) : Nat := ceilDiv g.qb g.br

/-- Tiles of wave `w`: those of wave row wi and wave column wj that the output has (R86). -/
def Geo.tiles (g : Geo) (w : Nat) : List (Nat × Nat) :=
  let wi := w / g.wj
  let wj := w % g.wj
  ((List.range g.br).flatMap (fun r => (List.range g.ca).map (fun c => (wi * g.br + r, wj * g.ca + c)))).filter
    (fun t => decide (t.1 < g.rt ∧ t.2 < g.ct))

/-- The cell of band `s` that computes tile (ti, tj). -/
def Geo.cellOf (g : Geo) (s ti tj : Nat) : Nat := g.reg.cell (s * g.br + ti % g.br) (tj % g.ca)

/-- The wave of tile (ti, tj). -/
def Geo.waveOf (g : Geo) (ti tj : Nat) : Nat := ti / g.br * g.wj + tj / g.ca

/-- place_a of R87: cell, slot and row in the chunk of A's element (m, k). -/
def Geo.placeA (g : Geo) (ti k : Nat) : Nat × Nat × Nat :=
  let q := k / g.kc
  let s := q / g.qb
  let j := q - s * g.qb
  (g.reg.cell (s * g.br + ti % g.br) (j % g.ca), ti / g.br * g.sa + j / g.ca, k % g.kc)

/-- place_b of R87. -/
def Geo.placeB (g : Geo) (k tj : Nat) : Nat × Nat × Nat :=
  let q := k / g.kc
  let s := q / g.qb
  let j := q - s * g.qb
  (g.reg.cell (s * g.br + j % g.br) (tj % g.ca), tj / g.ca * g.sb + j / g.br, k % g.kc)

/-- Bytes of the A and B regions of every cell, and of their scale regions (R87). -/
def Geo.aBytes (g : Geo) (fmt : Nat) : Nat := fmtBytes fmt 32 * g.kc * g.wi * g.sa
def Geo.bBytes (g : Geo) (fmt : Nat) : Nat := fmtBytes fmt 32 * g.kc * g.wj * g.sb
def Geo.aScaleBytes (g : Geo) : Nat := g.kc * g.wi * g.sa
def Geo.bScaleBytes (g : Geo) : Nat := g.kc * g.wj * g.sb

/-- Arithmetic cycles of the fold of `chunks` chunks without PACE: chunks x KCHUNK / d (R79, R97). -/
def Geo.foldCycles (g : Geo) (chunks a b : Nat) : Nat :=
  let n := chunks * g.kc
  if a = 8 ∧ b = 8 then n / 2 else if a = 0x10 ∨ a = 0x11 then 2 * n else if a = 0x20 then 32 * n
  else if a = 0x21 then 256 * n else n

/-! ### Sliding windows (R172-R176): the geometry of a convolution's groups -/

def cNimg (b : List Byte) : Nat := fieldAt b 0x08 4
def cIh (b : List Byte) : Nat := fieldAt b 0x0C 2
def cIw (b : List Byte) : Nat := fieldAt b 0x0E 2
def cCin (b : List Byte) : Nat := fieldAt b 0x10 4
def cCout (b : List Byte) : Nat := fieldAt b 0x14 4
def cKh (b : List Byte) : Nat := byteAt b 0x40
def cKw (b : List Byte) : Nat := byteAt b 0x41
def cSy (b : List Byte) : Nat := byteAt b 0x42
def cSx (b : List Byte) : Nat := byteAt b 0x43
def cDy (b : List Byte) : Nat := byteAt b 0x44
def cDx (b : List Byte) : Nat := byteAt b 0x45
def cGroups (b : List Byte) : Nat := fieldAt b 0x46 2
def cPt (b : List Byte) : Nat := fieldAt b 0x48 2
def cPb (b : List Byte) : Nat := fieldAt b 0x4A 2
def cPl (b : List Byte) : Nat := fieldAt b 0x4C 2
def cPr (b : List Byte) : Nat := fieldAt b 0x4E 2
def cPadval (b : List Byte) : Nat := fieldAt b 0x50 4
def cKchunk (b : List Byte) : Nat := fieldAt b 0x54 2
def cNbox (b : List Byte) : Nat := fieldAt b 0x60 4
def cOhc (b : List Byte) : Nat := fieldAt b 0x64 2
def cOwc (b : List Byte) : Nat := fieldAt b 0x66 2
def cAbase (b : List Byte) : Nat := fieldAt b 0x68 4
def cBbase (b : List Byte) : Nat := fieldAt b 0x6C 4

/-- The output-size rule (R174): floor toward minus infinity, plus 1. -/
def outSize (i p0 p1 dil k s : Nat) : Int := ((i + p0 + p1 : Nat) - (dil * (k - 1) + 1 : Nat) : Int) / (s : Int) + 1

def cOh (b : List Byte) : Int := outSize (cIh b) (cPt b) (cPb b) (cDy b) (cKh b) (cSy b)
def cOw (b : List Byte) : Int := outSize (cIw b) (cPl b) (cPr b) (cDx b) (cKw b) (cSx b)

/-- Rows of the output matrix: NIMG x OH x OW, or NBOX x OHC x OWC for CROPRESIZE (R174, R182). -/
def cRows (b : List Byte) : Nat :=
  if opcodeOf b = 0x12 then cNbox b * cOhc b * cOwc b else cNimg b * (cOh b).toNat * (cOw b).toNat

/-- Channels of a group, and CINP (R175). -/
def cCing (b : List Byte) : Nat := cCin b / cGroups b
def cCoutg (b : List Byte) : Nat := cCout b / cGroups b
def cCinp (b : List Byte) : Nat :=
  let g := groupSize (mAfmt b) (mBfmt b)
  if g = 0 then cCing b else g * ceilDiv (cCing b) g

/-- Whether a tap position of an output is inside the image (R174): output position (oy, ox), tap (ky, kx). -/
def tapY (b : List Byte) (oy ky : Nat) : Int := (oy * cSy b + ky * cDy b : Nat) - (cPt b : Int)
def tapX (b : List Byte) (ox kx : Nat) : Int := (ox * cSx b + kx * cDx b : Nat) - (cPl b : Int)
def insideImg (b : List Byte) (y x : Int) : Bool := decide (0 ≤ y ∧ y < cIh b ∧ 0 ≤ x ∧ x < cIw b)

/-! ### What an operation is: geometry, exit block, START and KEEP of each flank or group -/

def isFlank (bs : List Byte) : Bool := opcodeOf bs == 0x02
def flanksOf (bs : List Byte) : Nat := if isFlank bs then 2 else 1
def isWindow (bs : List Byte) : Bool := opcodeOf bs == 0x10 || opcodeOf bs == 0x11 || opcodeOf bs == 0x12
def groupsOfOp (bs : List Byte) : Nat := if opcodeOf bs = 0x10 then cGroups bs else 1

/-- The geometry of flank `f` of a descriptor; a convolution's is that of each group. -/
def geoOf (bs : List Byte) (f : Nat) : Geo :=
  if isFlank bs then
    let b := half bs f
    ⟨regionOf (1 + f), mM b, mN b, mK b, mKchunk b, 2 ^ mSplit b⟩
  else if opcodeOf bs = 0x10 then
    ⟨regionOf (mGrid bs), cRows bs, cCoutg bs, cKh bs * cKw bs * cCinp bs, cKchunk bs, 2 ^ mSplit bs⟩
  else if isWindow bs then ⟨regionOf (mGrid bs), cRows bs, cCin bs, 64, 64, 1⟩
  else ⟨regionOf (mGrid bs), mM bs, mN bs, mK bs, mKchunk bs, 2 ^ mSplit bs⟩

def exitOf (bs : List Byte) (f : Nat) : List Byte :=
  if isFlank bs then ((half bs f).drop 0x40).take 64
  else if isWindow bs then (bs.drop 0x80).take 64 else (bs.drop 0x40).take 64

def startOf (bs : List Byte) (f : Nat) : Nat := if isFlank bs then mStart (half bs f) else mStart bs
def keepOf (bs : List Byte) (f : Nat) : Bool := if isFlank bs then mKeep (half bs f) else if isWindow bs then false else mKeep bs
def isFp64 (bs : List Byte) (f : Nat) : Bool := if isFlank bs then mAfmt (half bs f) == 0x21 else mAfmt bs == 0x21

/-- Partitions of a descriptor's region (R84, R85). -/
def descParts (bs : List Byte) : List Nat := (regionOf (if isFlank bs then 0 else mGrid bs)).parts

/-- Tiles that an operation writes out. -/
def exitsOf (bs : List Byte) : Nat :=
  ((List.range (flanksOf bs)).map (fun f =>
    if keepOf bs f then 0 else (geoOf bs f).rt * (geoOf bs f).ct * groupsOfOp bs)).foldl (· + ·) 0

/-! ### Checks at the head of the queue (R85) -/

/-- Check 1 of R85 for one product, with its region's row count. -/
def mmBad1 (b : List Byte) (ra : Nat) : Bool :=
  decide (field (byteAt b 2) 7 4 ≠ 0 ∨ fieldAt b 0x16 2 ≠ 0 ∨ fieldAt b 0x38 8 ≠ 0) || !syncReservedOk b ||
  mStart b == 3 || decide (8 < mGrid b) || decide (ra.log2 < mSplit b) ||
  decide (mKchunk b % 64 ≠ 0 ∨ mKchunk b < 64 ∨ 8192 < mKchunk b) || !pairValid (mAfmt b) (mBfmt b) ||
  decide (1048576 < mM b ∨ 1048576 < mN b ∨ 1048576 < mK b) ||
  (!fmtIsMx (mAfmt b) && mAscale b != 0) || (!fmtIsMx (mBfmt b) && mBscale b != 0) ||
  (mStart b == 1 && mKeep b) ||
  (!mKeep b && exitBad1 ((b.drop 0x40).take 64) (mAfmt b == 0x21) (mStart b))

/-- Checks 1 to 4 of R85 for one product. -/
def mmCheck14 (b : List Byte) (g : Geo) : Option Nat :=
  let x := (b.drop 0x40).take 64
  let tooFar := fun (base n : Nat) => decide (storeSize < base + n)
  firstFail [
    (mmBad1 b g.reg.ra, 0x10),
    (mM b == 0 || mN b == 0 || mK b == 0, 0x13),
    (mAbase b % 64 != 0 || mBbase b % 64 != 0 || mAscale b % 64 != 0 || mBscale b % 64 != 0 ||
      (!mKeep b && exitBad3 x (mStart b)), 0x11),
    (tooFar (mAbase b) (g.aBytes (mAfmt b)) || tooFar (mBbase b) (g.bBytes (mBfmt b)) ||
      (fmtIsMx (mAfmt b) && tooFar (mAscale b) g.aScaleBytes) || (fmtIsMx (mBfmt b) && tooFar (mBscale b) g.bScaleBytes) ||
      (!mKeep b && exitBad4 x (mStart b) g.wi g.wj), 0x12)]

/-- HELD banks of cell `x`. -/
def Dev.heldIn (d : Dev) (x : Nat) : Nat :=
  ((List.range 2).filter (fun b => (d.bank x b).state == .held)).length

/-- Cells with a HELD bank that lie in a region. -/
def Dev.heldCells (d : Dev) (r : Region) : List Nat :=
  ((d.massif.banks.filter (fun e => e.2.state == .held)).map (fun e => e.1 / 2)).filter r.has

/-- Whether flank `f` of a descriptor continues the held chain (R82, R85). Check 5 of R85 compares GRIDSEL, SPLITLOG, M and
N; that the opcode too must be the held operation's, and FP64 go on exactly where it was, is the model's (DESIGN CHOICE,
log 14). -/
def Dev.continues (d : Dev) (bs : List Byte) (f : Nat) : Bool :=
  match d.massif.chain with
  | none => false
  | some c =>
    let b := if isFlank bs then half bs f else bs
    let h := if isFlank c.desc.bytes then half c.desc.bytes f else c.desc.bytes
    startOf bs f == 2 && opcodeOf bs == opcodeOf c.desc.bytes && mKeep h && mGrid b == mGrid h && mSplit b == mSplit h &&
      mM b == mM h && mN b == mN h && (mAfmt b == 0x21) == (mAfmt h == 0x21)

/-- Check 5 of R85 for flank `f`: PARTMASK, KEEP, START = continue and the refusals of R82 and R111. -/
def Dev.mmBad5 (d : Dev) (bs : List Byte) (f : Nat) : Bool :=
  let g := geoOf bs f
  let b := if isFlank bs then half bs f else bs
  let held := d.heldCells g.reg
  let mask := match d.curImage with | some i => i.partMask | none => 0
  let cont := d.continues bs f
  g.reg.parts.any (fun p => !bit mask p) ||
  (mKeep b && decide ((if mAfmt b = 0x21 then 1 else 2) < g.w)) ||
  (mStart b == 2 && !cont) ||
  (!cont && held.any (fun x => decide (d.heldIn x = 2))) ||
  (!cont && mKeep b && d.massif.chain.isSome) ||
  (!cont && mAfmt b == 0x21 && !held.isEmpty)

/-- A partition of the region has CTRL.ENABLE = 0 (check 6). -/
def Dev.partsOff (d : Dev) (ps : List Nat) : Bool := ps.any (fun p => !d.enableInEffect (MSF.page p))

/-- R85 for one half. -/
def Dev.mmCheck (d : Dev) (bs : List Byte) (f : Nat) : Option Nat :=
  let b := if isFlank bs then half bs f else bs
  let g := geoOf bs f
  match mmCheck14 b g with
  | some c => some c
  | none => firstFail [(d.mmBad5 bs f, 0x10), (d.partsOff g.reg.parts, 0xA5)]

/-- FLANKMM's own conditions: GRIDSEL 0, and in the east half the engine bytes, no WAIT and no SIGNAL (R91). -/
def flankBad (bs : List Byte) (f : Nat) : Bool :=
  let b := half bs f
  mGrid b != 0 || (f == 1 && (fieldAt b 0 2 != 0x020F || dWait b != 0 || dSignal b != 0))

/-- R85 for a FLANKMM: the west half first. -/
def Dev.flankCheck (d : Dev) (bs : List Byte) : Option Nat :=
  if flankBad bs 0 then some 0x10
  else match d.mmCheck bs 0 with
  | some c => some c
  | none => if flankBad bs 1 then some 0x10 else d.mmCheck bs 1

/-! ### Starting an operation -/

/-- The descriptor at the head of the Massif, if it carries an opcode: an operation in progress stands before the queue
until its last wave has folded (R85, R88; DEDUCED, log 14). -/
def Dev.massifHead (d : Dev) (op : Nat) : Option QDesc :=
  if d.massif.op.isSome then none
  else match d.massif.queue with
  | q :: _ => if engineOf q.bytes = 0x0F ∧ opcodeOf q.bytes = op then some q else none
  | [] => none

/-- The head leaves the queue. -/
def Dev.massifPop (d : Dev) : Dev := { d with massif := { d.massif with queue := d.massif.queue.drop 1 } }

/-- A descriptor fails its checks: DESCFAULT and LASTOP on its partitions, and the beat (R85, R98). A SYNC has no region:
its failure under R94 is shown on all four pages, and FAULTBLOCK names MSF[0] (DESIGN CHOICE, log 14). -/
def Dev.massifFail (d : Dev) (q : QDesc) (code addr : Nat) : Dev :=
  let g := if isFlank q.bytes then 0 else if opcodeOf q.bytes = 4 then 0 else mGrid q.bytes
  let ps := if 8 < g then [0, 1, 2, 3] else (regionOf g).parts
  let d1 := ps.foldl (fun d p => ((d.err (MSF.page p) 11).setNum (MSF.LASTOP p) (opcodeOf q.bytes + 256 * code)).lastCode
    (MSF.page p) code) d.massifPop
  d1.beatFail code (blockName .msf (ps.headD 0)) addr

/-- The queue's order lets the head begin: no operation runs, and with FENCE every earlier one has written out (R88). -/
def Dev.mayStart (d : Dev) (fence : Bool) : Bool := d.massif.op.isNone && (!fence || d.massif.unwritten.isEmpty)

/-- The operation a bank belongs to. -/
def Dev.opOf (d : Dev) (n : Nat) : Option MassifOp :=
  match d.massif.op with
  | some o => if o.number = n then some o else d.massif.unwritten.find? (fun u => u.number == n)
  | none => d.massif.unwritten.find? (fun u => u.number == n)

/-- Tiles of an operation that come before tile (ti, tj) of cluster `k` in delivery order: ascending wave, then
ascending cell index of the cluster (R140). -/
def earlierTiles (bs : List Byte) (f k group : Nat) (ti tj : Nat) : Nat :=
  let g := geoOf bs f
  let key := fun (t : Nat × Nat) =>
    let x := g.cellOf 0 t.1 t.2
    g.waveOf t.1 t.2 * 64 + 8 * (x / 64 % 8) + x % 8
  let mine := ((List.range g.w).flatMap g.tiles).filter (fun t => clusterOfCell (g.cellOf 0 t.1 t.2) == k)
  group * mine.length + (mine.filter (fun t => decide (key t < key (ti, tj)))).length

/-- Tiles that an operation delivers to the ring of cluster `k`. -/
def ringTiles (bs : List Byte) (k : Nat) : Nat :=
  ((List.range (flanksOf bs)).map (fun f =>
    let g := geoOf bs f
    if keepOf bs f || xDest (exitOf bs f) != 2 then 0
    else groupsOfOp bs *
      (((List.range g.w).flatMap g.tiles).filter (fun t => clusterOfCell (g.cellOf 0 t.1 t.2) == k)).length)).foldl (· + ·) 0

/-- The operation that fills the ring of cluster `k` still has tiles for it. -/
def Dev.ringOwing (d : Dev) (k : Nat) : Bool :=
  let w := d.wvl k
  decide (scarabRing ≤ w.ringOp) ||
  (w.ringOp != 0 &&
    match d.opOf (w.ringOp - 1) with
    | some o => decide (w.ringNext < ringTiles o.desc.bytes k)
    | none => false)

/-- The ring of cluster `k` is active (R140): a slot is not FREE, or tiles are still to come. -/
def Dev.ringActive (d : Dev) (k : Nat) : Bool :=
  let w := d.wvl k
  w.ring.any (fun s => s.state != .free) || d.ringOwing k ||
  (d.massif.op.toList ++ d.massif.unwritten).any (fun o =>
    decide (w.ringOp < o.number + 1) && decide (0 < ringTiles o.desc.bytes k))

/-- The ring of cluster `k` as an operation needs it: its own where it already fills it, a new one where every slot is
FREE, the same one after an earlier operation of the Massif, none while another delivery stands in it. -/
def Dev.ringFor (d : Dev) (k op rbase rlen : Nat) : Option Wvl :=
  let w := d.wvl k
  if w.ringOp = op + 1 then some w
  else if d.ringOwing k then none
  else if w.ring.all (fun s => s.state == .free) then some (freshRing w (op + 1) rbase rlen)
  else if w.ringBase = rbase ∧ w.ring.length = rlen ∧ w.ringNext < scarabRing then
    some { w with ringOp := op + 1, ringNext := 0 }
  else none

/-- Clusters that an operation delivers tiles to, for DEST = 2: the ring becomes active as the operation issues (R140). -/
def Dev.openRings (d : Dev) (bs : List Byte) (number : Nat) : Dev :=
  (List.range (flanksOf bs)).foldl (fun d f =>
    let x := exitOf bs f
    if !keepOf bs f && xDest x == 2 then
      (geoOf bs f).reg.clusters.foldl (fun d k =>
        match d.ringFor k number (xRbase x) (xRlen x) with
        | some w => d.setWvl k w
        | none => d) d
    else d) d

/-- The head becomes the operation in progress. -/
def Dev.massifStart (d : Dev) (q : QDesc) : Dev :=
  let n := d.massif.seq
  let op : MassifOp :=
    ⟨q, n, List.replicate (flanksOf q.bytes) 0, List.replicate (flanksOf q.bytes) none, exitsOf q.bytes, 0, 0, false⟩
  let d1 := d.massifPop
  (({ d1 with massif := { d1.massif with op := some op, seq := n + 1 } }).countIssue).openRings q.bytes n

def Dev.matmul (d : Dev) : Dev :=
  if !d.issuing then d
  else match d.massifHead 1 with
  | none => d
  | some q =>
    match d.headCode q.bytes (d.mmCheck q.bytes 0) with
    | some c => d.massifFail q c 0
    | none => if d.waitOk q.bytes && d.mayStart (mFence q.bytes) then d.massifStart q else d

/-- MATMUL (R84, R85, R88). -/
def execMatmul (s : State) : Host.Outcome State Fault Refusal := onBeat Dev.matmul s

def Dev.flankmm (d : Dev) : Dev :=
  if !d.issuing then d
  else match d.massifHead 2 with
  | none => d
  | some q =>
    match d.headCode q.bytes (d.flankCheck q.bytes) with
    | some c => d.massifFail q c 0
    | none =>
      if d.waitOk q.bytes && d.mayStart (mFence (half q.bytes 0) || mFence (half q.bytes 1)) then d.massifStart q else d

/-- FLANKMM (R91, R92). -/
def execFlankmm (s : State) : Host.Outcome State Fault Refusal := onBeat Dev.flankmm s

/-- A SYNC with a non-zero byte where zeros are required (R94). -/
def syncBad (bs : List Byte) : Bool :=
  (bs.drop 2).take 22 != List.replicate 22 0#8 || (bs.drop 0x28).any (fun b => b != 0#8) || !syncReservedOk bs

def Dev.massifSync (d : Dev) : Dev :=
  if !d.issuing then d
  else match d.massifHead 4 with
  | none => d
  | some q =>
    match d.headCode q.bytes (if syncBad q.bytes then some 0x10 else none) with
    | some c => d.massifFail q c 0
    | none => if d.waitOk q.bytes && d.mayStart true then (d.massifPop.countIssue).applySignal q.bytes else d

/-- SYNC (R94). -/
def execSync (s : State) : Host.Outcome State Fault Refusal := onBeat Dev.massifSync s

/-! ### Waves (R81, R82) -/

/-- The bank a wave takes in cell `x` for tile (ti, tj), if it can have it now. -/
def Dev.chooseBank (d : Dev) (x ti tj : Nat) (cont fp64 : Bool) : Option Nat :=
  let b0 := d.bank x 0
  let b1 := d.bank x 1
  let holds := fun (b : Bank) => b.state == .held && b.tileR == ti && b.tileC == tj
  if cont then (if holds b0 then some 0 else if holds b1 then some 1 else none)
  else if fp64 then (if b0.state == .free && b1.state == .free then some 0 else none)
  else if b0.state == .held then (if b1.state == .free then some 1 else none)
  else if b1.state == .held then (if b0.state == .free then some 0 else none)
  else
    let n := d.massif.nextBank.get zeroNat x % 2
    if (d.bank x n).state == .free then some n else none

/-- Preload of a tile (R121, R122): 1,024 values from the cell's store as bit patterns of the bank's format. -/
def Dev.preload (d : Dev) (x : List Byte) (fp64 : Bool) (cell w wi wj : Nat) : List DWord × Dev :=
  let p := vecBytes (xPfmt x)
  let base := if xPmode x = 0 then xPbase x + 32 * p * wj else if xPmode x = 1 then xPbase x + 32 * p * wi
    else xPbase x + 1024 * p * w
  let n := if xPmode x = 2 then 1024 else 32
  let r := d.csRead cell base (p * n)
  let at_ := fun (i : Nat) => decodeElem (xPfmt x) (fieldAt r.1 (p * i) p)
  (tabulate 1024 (fun e =>
    let i := if xPmode x = 0 then e % 32 else if xPmode x = 1 then e / 32 else e
    BitVec.ofNat 64 (if fp64 then enc64 (at_ i) else enc32 (at_ i))), r.2)

/-- The tile column that a bank keeps: a convolution's column counts over all its groups (R176). -/
def colOfOp (op : MassifOp) (g : Geo) (tj : Nat) : Nat :=
  if opcodeOf op.desc.bytes = 0x10 then op.group * g.ct + tj else tj

/-- Bank `b` of cell `x` becomes ACTIVE for a tile of an operation; an FP64 wave takes both banks as one (R111). The banks
alternate per cell: a cell without a tile in a wave does not alternate (R81), and after an FP64 wave, which used both banks,
the next ordinary wave takes bank 1 (R111); both DESIGN CHOICE, log 14. -/
def Dev.activate (d : Dev) (op : MassifOp) (f x b ti tj band w : Nat) (g : Geo) : Dev :=
  let bs := op.desc.bytes
  let fp64 := isFp64 bs f
  let old := d.bank x b
  let g0 := op.group
  let tc := colOfOp op g tj
  let r : List DWord × Dev :=
    if startOf bs f = 2 ∧ !isWindow bs then (old.acc, d)
    else if startOf bs f = 1 ∧ band = 0 then
      d.preload (exitOf bs f) fp64 x (g0 * g.w + w) (ti / g.br) (g0 * g.wj + tj / g.ca)
    else (List.replicate 1024 0#64, d)
  let fl := if startOf bs f = 2 ∧ !isWindow bs then old.flags else 0
  let d1 := r.2.setBank x b ⟨.active, r.1, fl, ti, tc, op.number, f⟩
  let d2 := if fp64 then d1.setBank x 1 ⟨.active, [], 0, ti, tc, op.number, f⟩ else d1
  let held := d.heldIn x != 0 && startOf bs f != 2
  { d2 with massif := { d2.massif with
      nextBank := if held then d2.massif.nextBank else d2.massif.nextBank.set zeroNat x (1 - b)
      bankErr := if startOf bs f = 2 then d2.massif.bankErr else d2.massif.bankErr.filter (fun e => !(e == 2 * x + b || (fp64 && e / 2 == x))) } }

/-- A parity error in a network interface's copy of the map fails the beat that uses it; the copy is rewritten before the next
(R385). -/
def Dev.niCheck (d : Dev) (r : Region) : Dev :=
  if d.ascent.niParity.any r.has then
    (({ d with ascent := { d.ascent with niParity := d.ascent.niParity.filter (fun x => !r.has x) } }).err ASC.page 12).beatFail
      0x32 (blockName .asc 0) 0
  else d

def Dev.waveBegin (d : Dev) (f : Nat) : Dev :=
  if !d.running then d
  else match d.massif.op with
  | none => d
  | some op =>
    let bs := op.desc.bytes
    let g := geoOf bs f
    let w := op.waves.getD f 0
    let fp64 := isFp64 bs f
    let cont := startOf bs f == 2 && !isWindow bs
    if decide (op.waves.length ≤ f) || decide (g.w ≤ w) || op.folding.getD f none != none ||
        (opcodeOf bs == 0x10 && decide (op.fetched ≤ op.group)) then d
    else
      let spots := (g.tiles w).flatMap (fun t => (List.range g.s).map (fun s => (s, t.1, t.2)))
      let picks := spots.map (fun (p : Nat × Nat × Nat) =>
        (p, d.chooseBank (g.cellOf p.1 p.2.1 p.2.2) p.2.1 p.2.2 cont fp64))
      if picks.any (fun p => p.2.isNone) then d
      else
        let d1 := picks.foldl (fun (d : Dev) (p : (Nat × Nat × Nat) × Option Nat) =>
          d.activate op f (g.cellOf p.1.1 p.1.2.1 p.1.2.2) (p.2.getD 0) p.1.2.1 p.1.2.2 p.1.1 w g) (d.niCheck g.reg)
        { d1 with massif := { d1.massif with op := some { op with
            waves := setAt op.waves f (w + 1), folding := setAt op.folding f (some w) } } }

/-- WAVE_BEGIN (R81, R82): a wave whose bank is not free yet waits. -/
def execWaveBegin (flank : Fin 2) (s : State) : Host.Outcome State Fault Refusal := onBeat (·.waveBegin flank) s

/-! ### Folding (R89, R108-R111) -/

/-- Where an operand stands: format, base and scale base. -/
structure OpndLoc where
  fmt : Nat
  base : Nat
  scale : Nat
  deriving DecidableEq, Repr

/-- The operands of flank `f`. -/
def opndA (bs : List Byte) (f : Nat) : OpndLoc :=
  let b := if isFlank bs then half bs f else bs
  if opcodeOf bs = 0x10 then ⟨mAfmt bs, cAbase bs, 0⟩ else ⟨mAfmt b, mAbase b, mAscale b⟩
def opndB (bs : List Byte) (f : Nat) : OpndLoc :=
  let b := if isFlank bs then half bs f else bs
  if opcodeOf bs = 0x10 then ⟨mBfmt bs, cBbase bs, 0⟩ else ⟨mBfmt b, mBbase b, mBscale b⟩

/-- The 32 values of one operand row (R87, R104). -/
def Dev.operandRow (d : Dev) (l : OpndLoc) (kc : Nat) (p : Nat × Nat × Nat) : List FVal :=
  let rb := fmtBytes l.fmt 32
  let row := d.storeBytes p.1 (l.base + rb * (kc * p.2.1 + p.2.2)) rb
  tabulate 32 (fun i =>
    let v := decodeElem l.fmt (unpackElem l.fmt row i)
    if fmtIsMx l.fmt then
      scaled v (byteAt (d.storeBytes p.1 (l.scale + kc * p.2.1 + 32 * (p.2.2 / 32) + i) 1) 0)
    else v)

/-- The k that band `s` folds, and whether its chunks reach past K. -/
def Geo.bandKs (g : Geo) (s : Nat) : List Nat :=
  let lo := s * g.qb * g.kc
  let hi := min g.k ((s + 1) * g.qb * g.kc)
  (List.range (hi - lo)).map (fun i => lo + i)
def Geo.bandPads (g : Geo) (s : Nat) : Bool := decide (g.k < (s + 1) * g.qb * g.kc)

/-- Consecutive groups of `n` elements. -/
def chunks {α : Type} (n : Nat) : Nat → List α → List (List α)
  | 0, _ => []
  | fuel + 1, l => if l.isEmpty then [] else l.take n :: chunks n fuel (l.drop n)

/-- One element's fold over its products in ascending k, from an accumulator: value and OVF (R89, R108-R111). `none`
marks a padding product. On the fused path a padding product folds +0 (R86, R116), which turns a -0 into +0: with S = 1 a
chunk that reaches past K bears on that sign, although R90 leaves KCHUNK out there (DEDUCED, log 14). -/
def foldElem (grp : Nat) (g : Grid) (pads : Bool) (prods : List (Option (FVal × FVal))) (acc : FVal) : FVal × Bool :=
  if 0 < grp then
    (chunks grp (prods.length + 1) prods).foldl (fun (r : FVal × Bool) c =>
      let q := foldGroup r.1 (groupSum (c.filterMap (fun p => p.map (fun x => x.1.mul x.2))))
      (q.1, r.2 || q.2)) (acc, false)
  else
    let r := prods.foldl (fun (r : FVal × Bool) p =>
      let q := match p with
        | some x => fFma g x.1 x.2 r.1
        | none => fAdd g (.zero false) r.1
      (q.1, r.2 || q.2)) (acc, false)
    if pads then let q := fAdd g (.zero false) r.1; (q.1, r.2 || q.2) else r

/-- Accumulator bits and values of a bank. -/
def accVal (fp64 : Bool) (w : DWord) : FVal := if fp64 then val64 w.toNat else val32 w.toNat
def accBits (fp64 : Bool) (v : FVal) : DWord := BitVec.ofNat 64 (if fp64 then enc64 v else enc32 v)

/-- Whether a convolution's product (m, k) is a padding product because its tap lies in zero padding or its channel is
padding (R175); the geometry of k is t x CINP + ci. -/
def convPads (bs : List Byte) (m k : Nat) : Bool :=
  let t := k / cCinp bs
  let ci := k % cCinp bs
  let oh := (cOh bs).toNat
  let ow := (cOw bs).toNat
  let y := tapY bs (m / ow % oh) (t / cKw bs)
  let x := tapX bs (m % ow) (t % cKw bs)
  decide (cCing bs ≤ ci) || (!insideImg bs y x && (decodeElem (mAfmt bs) (cPadval bs)).isZero)

/-- Whether every product of chunk `q` of a convolution is a padding product, in every output tile of the wave: the chunk is
not folded and costs no cycles (R177). -/
def convSkips (bs : List Byte) (g : Geo) (ts : List (Nat × Nat)) (q : Nat) : Bool :=
  (List.range g.kc).all (fun j => decide (g.k ≤ q * g.kc + j) ||
    ts.all (fun t => (List.range 32).all (fun i =>
      decide (g.m ≤ 32 * t.1 + i) || convPads bs (32 * t.1 + i) (q * g.kc + j))))

/-- Chunks that band `s` folds in a wave with tiles `ts`: every chunk of the band, of a convolution only those that are not
skipped (R86, R177). -/
def foldedChunks (bs : List Byte) (g : Geo) (ts : List (Nat × Nat)) (s : Nat) : Nat :=
  if opcodeOf bs = 0x10 then ((List.range g.qb).filter (fun j => !convSkips bs g ts (s * g.qb + j))).length else g.qb

/-- Band `s` of tile (ti, tj) folds its products onto the bank's accumulators. -/
def Dev.foldTile (d : Dev) (bs : List Byte) (f : Nat) (g : Geo) (s ti tj : Nat) (b : Bank) : Bank :=
  let a := opndA bs f
  let bb := opndB bs f
  let fp64 := isFp64 bs f
  let gr := if fp64 then grid64 else grid32
  let grp := groupSize a.fmt bb.fmt
  let rows := (g.bandKs s).map (fun k => (k, d.operandRow a g.kc (g.placeA ti k), d.operandRow bb g.kc (g.placeB k tj)))
  let conv := opcodeOf bs == 0x10
  let res := tabulate 1024 (fun e =>
    let i := e / 32
    let j := e % 32
    let old := b.acc.getD e 0#64
    if 32 * ti + i < g.m ∧ 32 * tj + j < g.n then
      let prods := rows.map (fun (r : Nat × List FVal × List FVal) =>
        if conv && convPads bs (32 * ti + i) r.1 then none else some (r.2.1.getD i .nan, r.2.2.getD j .nan))
      let v := foldElem grp gr (g.bandPads s) prods (accVal fp64 old)
      (accBits fp64 v.1, ovfOf v.2)
    else (old, 0))
  { b with acc := res.map (fun r => r.1), flags := b.flags ||| orAll (res.map (fun r => r.2)) }

/-- Store words with an uncorrectable error that a wave reads: a word is read if some product of the wave uses it. -/
def Dev.badOperands (d : Dev) (bs : List Byte) (f : Nat) (g : Geo) (w : Nat) : List Nat :=
  if d.massif.storeUE = [] then []
  else
    let a := opndA bs f
    let bb := opndB bs f
    let ts := g.tiles w
    let ks := (List.range g.s).flatMap g.bandKs
    let span := fun (l : OpndLoc) (p : Nat × Nat × Nat) =>
      let rb := fmtBytes l.fmt 32
      (storeKey p.1 (l.base + rb * (g.kc * p.2.1 + p.2.2)), rb) ::
        (if fmtIsMx l.fmt then [(storeKey p.1 (l.scale + g.kc * p.2.1 + 32 * (p.2.2 / 32)), 32)] else [])
    let reads := ks.flatMap (fun k => ts.flatMap (fun t => span a (g.placeA t.1 k) ++ span bb (g.placeB k t.2)))
    d.massif.storeUE.filter (fun u => reads.any (fun r => rangesMeet u 8 r.1 r.2))

/-- The bank of cell `x` that folds tile (ti, tj) of an operation. -/
def Dev.activeBank (d : Dev) (x op ti tj : Nat) : Option Nat :=
  (List.range 2).find? (fun b =>
    let k := d.bank x b
    k.state == .active && k.op == op && k.tileR == ti && k.tileC == tj)

/-- INF and NAN of a tile's valid elements. -/
def tileInfNan (fp64 : Bool) (g : Geo) (ti tj : Nat) (acc : List DWord) : Nat :=
  orAll (tabulate 1024 (fun e =>
    if 32 * ti + e / 32 < g.m ∧ 32 * tj + e % 32 < g.n then infNan (accVal fp64 (acc.getD e 0#64)) else 0))

/-- Band reduction (R89, step 3): partials added to band 0's in ascending band, element by element. -/
def reduceBands (fp64 : Bool) (g : Geo) (ti tj : Nat) (b0 : Bank) (parts : List Bank) : Bank :=
  let gr := if fp64 then grid64 else grid32
  let r := tabulate 1024 (fun e =>
    if 32 * ti + e / 32 < g.m ∧ 32 * tj + e % 32 < g.n then
      let v := parts.foldl (fun (r : FVal × Bool) p =>
        let q := fAdd gr r.1 (accVal fp64 (p.acc.getD e 0#64))
        (q.1, r.2 || q.2)) (accVal fp64 (b0.acc.getD e 0#64), false)
      (accBits fp64 v.1, ovfOf v.2)
    else (b0.acc.getD e 0#64, 0))
  let acc := r.map (fun x => x.1)
  let fl := orAll (r.map (fun x => x.2)) ||| orAll ((b0 :: parts).map (fun p => p.flags ||| tileInfNan fp64 g ti tj p.acc))
  { b0 with acc := acc, flags := fl ||| tileInfNan fp64 g ti tj acc }

/-- A bank's state changes; an FP64 tile's second bank follows it (R111). -/
def Dev.setPair (d : Dev) (x b : Nat) (fp64 : Bool) (v : Bank) : Dev :=
  let d1 := d.setBank x b v
  if fp64 then d1.setBank x 1 (if v.state = .free then bank0 0 else { v with acc := [], flags := 0 }) else d1

/-- A parity error in a bank that is used fails the beat (R80). -/
def Dev.bankParity (d : Dev) (x b : Nat) : Dev :=
  if d.massif.bankErr.contains (2 * x + b) then
    let p := partOfCell x
    ({ d with massif := { d.massif with bankErr := d.massif.bankErr.filter (fun e => e != 2 * x + b) } }.err
      (MSF.page p) 9).beatFail 0x32 (blockName .msf p) 0
  else d

/-- The banks of a tile are checked: both of them where an FP64 tile uses them as one (R80, R111). -/
def Dev.tileParity (d : Dev) (x b : Nat) (fp64 : Bool) : Dev :=
  if fp64 then (d.bankParity x 0).bankParity x 1 else d.bankParity x b

/-- One tile of a wave finishes folding: KEEP holds every band's bank; otherwise the bands are reduced into band 0,
whose bank is FULL, and the others are FREE (R81). `fill` gives what a band's bank holds after its fold. -/
def Dev.finishTile (d : Dev) (op : MassifOp) (f : Nat) (g : Geo) (fill : Nat → Bank → Bank) (t : Nat × Nat) : Dev :=
  let bs := op.desc.bytes
  let fp64 := isFp64 bs f
  let spots := (List.range g.s).filterMap (fun s =>
    (d.activeBank (g.cellOf s t.1 t.2) op.number t.1 (colOfOp op g t.2)).map (fun b => (s, g.cellOf s t.1 t.2, b)))
  let done := spots.map (fun (p : Nat × Nat × Nat) => (p, fill p.1 (d.bank p.2.1 p.2.2)))
  let d0 := spots.foldl (fun (d : Dev) (p : Nat × Nat × Nat) => d.tileParity p.2.1 p.2.2 fp64) d
  if keepOf bs f then
    done.foldl (fun (d : Dev) (e : (Nat × Nat × Nat) × Bank) => d.setPair e.1.2.1 e.1.2.2 fp64 { e.2 with state := .held }) d0
  else
    match done with
    | [] => d0
    | e :: rest =>
      let full := reduceBands fp64 g t.1 t.2 e.2 (rest.map (fun (r : (Nat × Nat × Nat) × Bank) => r.2))
      rest.foldl (fun (d : Dev) (r : (Nat × Nat × Nat) × Bank) => d.setPair r.1.2.1 r.1.2.2 fp64 (bank0 0))
        (d0.setPair e.1.2.1 e.1.2.2 fp64 { full with state := .full })

/-- `c` arithmetic cycles of folding enter the counters of partition `p`, with the idle cycles that PACE inserts and the
stalls, whose number is not fixed (R84, R98). -/
def Dev.countFold (d : Dev) (p c pace : Nat) : Dev :=
  ((d.count64 (MSF.COMPCYC p) c).count64 (MSF.PACECYC p) (pace * (c / 256))).countFree64 (MSF.STALLCYC p)

/-- Cycles of a folded wave enter the counters of the partitions that hold cells of its bands (R98): `cycles s` are those of
band `s`, and the bands fold side by side. -/
def Dev.countWave (d : Dev) (g : Geo) (ts : List (Nat × Nat)) (cycles : Nat → Nat) (pace : Nat) : Dev :=
  let bandsIn := fun (p : Nat) =>
    (List.range g.s).filter (fun s => ts.any (fun t => partOfCell (g.cellOf s t.1 t.2) == p))
  ((List.range 4).filter (fun p => !(bandsIn p).isEmpty)).foldl (fun d p =>
    d.countFold p ((bandsIn p).foldl (fun n s => max n (cycles s)) 0) pace) d

/-- Every flank has folded its last wave of the last group. -/
def opFolded (op : MassifOp) : Bool :=
  let bs := op.desc.bytes
  (List.range (flanksOf bs)).all (fun f => op.folding.getD f none == none && decide ((geoOf bs f).w ≤ op.waves.getD f 0)) &&
  decide (groupsOfOp bs ≤ op.group + 1)

/-- An operation has completed: the registers of its partitions, and its signal (R94, R98). -/
def Dev.opDone (d : Dev) (op : MassifOp) : Dev :=
  let code := if op.ovf then 3 else 0
  ((descParts op.desc.bytes).foldl (fun d p =>
    ((d.countSat (MSF.OPCOUNT p) 1).setNum (MSF.LASTOP p) (opcodeOf op.desc.bytes + 256 * code)).lastCode (MSF.page p) code)
    d).applySignal op.desc.bytes

/-- After a fold: the next group, or the operation leaves the array for its exits; the chain it holds, or ends (R82). An
operation with KEEP = 1 writes nothing out: it is done, and its signal applied, as its last chunk folds (R88, R94). -/
def Dev.advanceOp (d : Dev) (op : MassifOp) : Dev :=
  if opFolded op then
    let keeps := (List.range (flanksOf op.desc.bytes)).any (keepOf op.desc.bytes)
    let anyHeld := d.massif.banks.any (fun b => b.2.state == .held)
    let chain := if keeps then some op else if anyHeld then d.massif.chain else none
    if op.exits = 0 then { d with massif := { d.massif with op := none, chain := chain } }.opDone op
    else { d with massif := { d.massif with op := none, unwritten := d.massif.unwritten ++ [op], chain := chain } }
  else if op.folding.all (fun x => x == none) && decide ((geoOf op.desc.bytes 0).w ≤ op.waves.getD 0 0) &&
      decide (op.group + 1 < groupsOfOp op.desc.bytes) then
    { d with massif := { d.massif with op := some { op with group := op.group + 1, waves := [0] } } }
  else { d with massif := { d.massif with op := some op } }

/-- The end of a wave's fold in flank `f`, with what each band's bank holds after it. -/
def Dev.endFold (d : Dev) (op : MassifOp) (f w : Nat) (fill : Nat → Nat × Nat → Bank → Bank)
    (cycles : Nat → Nat) : Dev :=
  let g := geoOf op.desc.bytes f
  let ts := g.tiles w
  let d1 := ts.foldl (fun d t => d.finishTile op f g (fun s b => fill s t b) t) d
  let pace := mPace (if isFlank op.desc.bytes then half op.desc.bytes f else op.desc.bytes)
  (d1.countWave g ts cycles pace).advanceOp { op with folding := setAt op.folding f none }

/-! ### The exit (R124-R129) -/

/-- The PWL table of a cluster. -/
def Dev.pwlOf (d : Dev) (k : Nat) : Nat → Nat × Nat := fun i =>
  let e := ((d.wvl k).pwl.get zeroDWord i).toNat
  (e % 2 ^ 32, e / 2 ^ 32)

/-- A scale or bias vector's value for element (i, j) of the tile in wave row wi and wave column wj. -/
def vecAt (bytesAt : Nat → Nat → List Byte) (base fmt wi wj i j : Nat) (perRow : Bool) : FVal :=
  let v := vecBytes fmt
  let o := if perRow then base + 32 * v * wi + v * i else base + 32 * v * wj + v * j
  decodeElem fmt (leNat (bytesAt o v))

/-- exit_element of R126 before its conversion: value and EXS. -/
def exitValue (x : List Byte) (g : Grid) (bytesAt : Nat → Nat → List Byte) (tab : Nat → Nat × Nat)
    (wi wj i j : Nat) (v : FVal) : FVal × Nat :=
  let sm := xScaleMode x
  let s1 := if sm = 0 then (v, false) else if sm = 1 then fMul g v (val32 (xScale x))
    else fMul g v (vecAt bytesAt (xSvbase x) (xVfmt x) wi wj i j (sm == 3))
  let s2 := if xBiasMode x = 0 then (s1.1, false)
    else fAdd g s1.1 (vecAt bytesAt (xBvbase x) (xVfmt x) wi wj i j (xBiasMode x == 2))
  (activation tab (xAct x) (val32 (xActp0 x)) (val32 (xActp1 x)) s2.1, if s1.2 || s2.2 then fEXS else 0)

/-- A bank of cell `x` in a state, the earliest operation and wave first. -/
def Dev.bankIn (d : Dev) (x : Nat) (st : BankState) : Option Nat :=
  let c := (List.range 2).filter (fun b => (d.bank x b).state == st && !(d.bank x b).acc.isEmpty)
  c.foldl (fun best b => match best with
    | none => some b
    | some a =>
      let p := d.bank x a
      let q := d.bank x b
      if q.op < p.op ∨ (q.op = p.op ∧ (q.tileR < p.tileR ∨ (q.tileR = p.tileR ∧ q.tileC < p.tileC))) then some b else some a) none

/-- The group of a convolution's tile column is kept in the bank's tile column: column g x CTg + tj (R176). -/
def groupOfTile (bs : List Byte) (tc : Nat) : Nat := if opcodeOf bs = 0x10 then tc / (geoOf bs 0).ct else 0
def colInGroup (bs : List Byte) (tc : Nat) : Nat := if opcodeOf bs = 0x10 then tc % (geoOf bs 0).ct else tc

/-- The exit may accept a bank for DEST = 2: it is the next tile of its cluster and its slot is FREE (R140). -/
def Dev.ringAccepts (d : Dev) (op : MassifOp) (b : Bank) (k : Nat) : Option Wvl :=
  let x := exitOf op.desc.bytes b.flank
  match d.ringFor k op.number (xRbase x) (xRlen x) with
  | none => none
  | some w =>
    let t := earlierTiles op.desc.bytes b.flank k (groupOfTile op.desc.bytes b.tileC) b.tileR (colInGroup op.desc.bytes b.tileC)
    if w.ringNext = t ∧ slotReady w then some w else none

def Dev.exitAccept (d : Dev) (x : Nat) : Dev :=
  if !d.running || (d.bankIn x .exiting).isSome then d
  else match d.bankIn x .full with
  | none => d
  | some b =>
    let k := d.bank x b
    match d.opOf k.op with
    | none => d
    | some op =>
      let fp64 := isFp64 op.desc.bytes k.flank
      let go := (d.tileParity x b fp64).setPair x b fp64 { k with state := .exiting }
      if xDest (exitOf op.desc.bytes k.flank) = 2 then
        match d.ringAccepts op k (clusterOfCell x) with
        | some w => go.setWvl (clusterOfCell x) w
        | none => d
      else go

/-- EXIT_ACCEPT (R81, R140): an exit that finds its ring slot not FREE stalls. -/
def execExitAccept (cell : Fin 4096) (s : State) : Host.Outcome State Fault Refusal := onBeat (·.exitAccept cell) s

/-- One tile with flags `f` has been written out: the operation has one fewer to write. -/
def Dev.tileOut (d : Dev) (n f : Nat) : Dev :=
  let dec := fun (o : MassifOp) => if o.number = n then { o with exits := o.exits - 1, ovf := o.ovf || bit f 0 } else o
  { d with massif := { d.massif with op := d.massif.op.map dec, unwritten := d.massif.unwritten.map dec } }

/-- A tile's values before conversion, row by row, with EXS: padding elements are +0 (R127). -/
def Dev.tileValues (d : Dev) (op : MassifOp) (x : Nat) (b : Bank) : List (List FVal) × Nat :=
  let bs := op.desc.bytes
  let g := geoOf bs b.flank
  let ex := exitOf bs b.flank
  let fp64 := isFp64 bs b.flank
  let gr := if fp64 then grid64 else grid32
  let tj := colInGroup bs b.tileC
  let wi := b.tileR / g.br
  let wj := groupOfTile bs b.tileC * g.wj + tj / g.ca
  let tab := d.pwlOf (clusterOfCell x)
  let rows := tabulate 32 (fun i => tabulate 32 (fun j =>
    if 32 * b.tileR + i < g.m ∧ 32 * tj + j < g.n then
      exitValue ex gr (fun o n => d.storeBytes x o n) tab wi wj i j (accVal fp64 (b.acc.getD (32 * i + j) 0#64))
    else (.zero false, 0)))
  (rows.map (fun r => r.map (fun e => e.1)), orAll (rows.map (fun r => orAll (r.map (fun e => e.2)))))

/-- Vector words with an uncorrectable error that a tile's exit reads. -/
def Dev.vecCheck (d : Dev) (ex : List Byte) (x wi wj : Nat) : Dev :=
  let v := vecBytes (xVfmt ex)
  let d1 := if 2 ≤ xScaleMode ex then
      (d.csRead x (xSvbase ex + 32 * v * (if xScaleMode ex = 3 then wi else wj)) (32 * v)).2 else d
  if xBiasMode ex ≠ 0 then (d1.csRead x (xBvbase ex + 32 * v * (if xBiasMode ex = 2 then wi else wj)) (32 * v)).2 else d1

/-- Flags of a delivered tile are recorded (R117, R129). -/
def Dev.recordTile (d : Dev) (x f : Nat) : Dev := (d.exitFlags (clusterOfCell x) f).tileOverflow (partOfCell x) f

/-- Row `i` of a tile is written to device memory (DEST 0) or to the cell's store (DEST 1) (R128). -/
def Dev.writeRow (d : Dev) (op : MassifOp) (x : Nat) (b : Bank) (i : Nat) (els : List Nat) (scale : Nat) : Dev :=
  let bs := op.desc.bytes
  let g := geoOf bs b.flank
  let ex := exitOf bs b.flank
  let out := xOut ex
  let grp := groupOfTile bs b.tileC
  let tj := colInGroup bs b.tileC
  let m := 32 * b.tileR + i
  let w := grp * g.w + g.waveOf b.tileR tj
  let blk := blockName .msf (partOfCell x)
  if xDest ex = 1 then
    let rb := fmtBytes out 32
    let d1 := d.csWrite x (xOaddr ex + 32 * rb * w + rb * i) (packElems out els)
    if fmtIsMx out then d1.csWrite x (xOscale ex + 32 * w + i) [BitVec.ofNat 8 scale] else d1
  else if m < g.m then
    let nv := min 32 (g.n - 32 * tj)
    let col := grp * g.n + 32 * tj
    let d1 := d.engWrite (xOaddr ex + m * xOpitch ex + fmtBits out * col / 8) (packElems out (els.take nv)) blk
    if fmtIsMx out then d1.engWrite (xOscale ex + m * xOspitch ex + col / 32) [BitVec.ofNat 8 scale] blk else d1
  else d

def Dev.exitWriteEnd (d : Dev) (x : Nat) : Dev :=
  if !d.running then d
  else match d.bankIn x .exiting with
  | none => d
  | some b =>
    let k := d.bank x b
    match d.opOf k.op with
    | none => d
    | some op =>
      let bs := op.desc.bytes
      let ex := exitOf bs k.flank
      if xDest ex = 2 then d
      else
        let g := geoOf bs k.flank
        let v := d.tileValues op x k
        let d0 := d.vecCheck ex x (k.tileR / g.br) (groupOfTile bs k.tileC * g.wj + colInGroup bs k.tileC / g.ca)
        let conv := v.1.map (convRow (xOut ex) (xSat ex))
        let fl := k.flags ||| v.2 ||| (if conv.any (fun r => r.2.2) then fCVT else 0)
        let d1 := (List.range 32).foldl (fun d i =>
          let r := conv.getD i ([], 0, false)
          d.writeRow op x k i r.1 r.2.1) d0
        ((d1.recordTile x fl).setPair x b (isFp64 bs k.flank) (bank0 0)).tileOut k.op fl

/-- EXIT_WRITE_END (R81, R126-R129). -/
def execExitWriteEnd (cell : Fin 4096) (s : State) : Host.Outcome State Fault Refusal := onBeat (·.exitWriteEnd cell) s

def Dev.ringTileDeliver (d : Dev) (x : Nat) : Dev :=
  if !d.running then d
  else match d.bankIn x .exiting with
  | none => d
  | some b =>
    let k := d.bank x b
    match d.opOf k.op with
    | none => d
    | some op =>
      let bs := op.desc.bytes
      let ex := exitOf bs k.flank
      if xDest ex ≠ 2 then d
      else
        let g := geoOf bs k.flank
        let cl := clusterOfCell x
        let tj := colInGroup bs k.tileC
        let v := d.tileValues op x k
        let d0 := d.vecCheck ex x (k.tileR / g.br) (groupOfTile bs k.tileC * g.wj + tj / g.ca)
        let conv := v.1.map (convRow 0x20 (xSat ex))
        let fl := k.flags ||| v.2 ||| (if conv.any (fun r => r.2.2) then fCVT else 0)
        let tag := ringTag k.tileR k.tileC (min 32 (g.m - 32 * k.tileR)) (min 32 (g.n - 32 * tj)) fl op.number k.flank
        let vals := (conv.flatMap (fun r => r.1)).map (fun n => BitVec.ofNat 32 n)
        let d1 := d0.setWvl cl (deliverTile (d0.wvl cl) tag vals)
        ((d1.recordTile x fl).setPair x b (isFp64 bs k.flank) (bank0 0)).tileOut k.op fl

/-- RING_TILE_DELIVER (R140, R141). -/
def execRingTileDeliver (cell : Fin 4096) (s : State) : Host.Outcome State Fault Refusal := onBeat (·.ringTileDeliver cell) s

def Dev.massifOpComplete (d : Dev) : Dev :=
  if !d.running then d
  else match d.massif.unwritten.find? (fun o => o.exits == 0) with
  | none => d
  | some op =>
    { d with massif := { d.massif with
      unwritten := d.massif.unwritten.filter (fun o => o.number != op.number) } }.opDone op

/-- MASSIF_OP_COMPLETE (R94): everything the operation writes is visible; its signal is applied. -/
def execMassifOpComplete (s : State) : Host.Outcome State Fault Refusal := onBeat Dev.massifOpComplete s

/-! ### Signals from registers (R93-R95, R100) -/

/-- A write of SYN[g].SIGPORT. -/
def Dev.writeSigport (d : Dev) (g : Nat) (v : Word) : Dev := d.signal (512 * g + field v.toNat 8 0) (field v.toNat 31 16)

/-- A VF reaches the SYN pages of its grant (R365). -/
def Dev.synReach (d : Dev) (r : Requester) (g : Nat) : Bool :=
  match r with
  | .vf v => decide (1 ≤ v.val) && decide (d.fld (HST.SYNGRANT v) 7 0 ≤ g ∧ g < d.fld (HST.SYNGRANT v) 7 0 + d.fld (HST.SYNGRANT v) 15 8)
  | _ => true

/-- SIGPORT_WRITE (R100): `g` is the SYN page. -/
def execSigportWrite (r : Requester) (g : Fin 256) (v : Word) (s : State) : Host.Outcome State Fault Refusal :=
  onDev (fun d => if d.synReach r g then d.writeSigport g v else d) s

/-- SYNC_OBJECT_WRITE (R100): `obj` is the object's number. -/
def execSyncObjectWrite (r : Requester) (obj : Fin 131072) (v : Word) (s : State) : Host.Outcome State Fault Refusal :=
  onDev (fun d => if d.synReach r (obj.val / 512) then d.wr (SYN.OBJ obj) v else d) s

end Sys2Proof.Machine
end

