-- ==== Sys2Proof/Machine/Window.lean ====
section
/-!
DEFINITION. How a requester reads and writes 64-bit registers and windows in halves (02 R35): the shadow of a high half,
the buffer of a low half; and the data that a read returns.
-/
namespace Sys2Proof.Machine

/-- A read returned these bytes. -/
def Dev.answer (d : Dev) (bs : List Byte) : Dev := { d with bus := { d.bus with readData := bs, resp := .ok } }

/-- The high half that requester `r` captured for the register at `n`. -/
def Dev.shadowOf (d : Dev) (r : Requester) (n : Nat) : Option Word :=
  (d.bus.shadows.find? (fun e => e.1 == r && e.2.1 == n)).map (fun e => e.2.2)

def Dev.dropShadow (d : Dev) (r : Requester) (n : Nat) : Dev :=
  { d with bus := { d.bus with shadows := d.bus.shadows.filter (fun e => !(e.1 == r && e.2.1 == n)) } }

def Dev.setShadow (d : Dev) (r : Requester) (n : Nat) (v : Word) : Dev :=
  let d1 := d.dropShadow r n
  { d1 with bus := { d1.bus with shadows := (r, n, v) :: d1.bus.shadows } }

/-- The low half that requester `r` buffered for the register at `n`. -/
def Dev.bufferOf (d : Dev) (r : Requester) (n : Nat) : Option Word :=
  (d.bus.wbufs.find? (fun e => e.1 == r && e.2.1 == n)).map (fun e => e.2.2)

def Dev.dropBuffer (d : Dev) (r : Requester) (n : Nat) : Dev :=
  { d with bus := { d.bus with wbufs := d.bus.wbufs.filter (fun e => !(e.1 == r && e.2.1 == n)) } }

/-- A low half is buffered. DEDUCED (log entry 33): the spec calls the buffer of R35 per requester; here a requester has one for
each 64-bit register. -/
def Dev.setBuffer (d : Dev) (r : Requester) (n : Nat) (v : Word) : Dev :=
  let d1 := d.dropBuffer r n
  { d1 with bus := { d1.bus with wbufs := (r, n, v) :: d1.bus.wbufs } }

/-- High and low words of a 64-bit value. -/
def hiWord (v : Nat) : Word := BitVec.ofNat 32 (v / 2 ^ 32)
def loWord (v : Nat) : Word := BitVec.ofNat 32 v

/-- A read of a 64-bit window register at `n`, whose value is `v` where it is performed and 0 where not; a performed
8-byte or high-half access moves the window on (R99, R147). -/
def Dev.winRead (d : Dev) (r : Requester) (n : Nat) (a : WinRead) (ok : Bool) (v : Nat) (next : Dev → Dev) : Dev :=
  let w := if ok then v else 0
  let go := fun (d : Dev) => if ok then next d else d
  match a with
  | .whole => (go d).answer (leBytes 8 w)
  | .half false => (d.setShadow r n (hiWord w)).answer (leBytes 4 w)
  | .half true => (go (d.dropShadow r n)).answer (leBytes 4 (if ok then ((d.shadowOf r n).getD (hiWord w)).toNat else 0))

/-- A write of a 64-bit window register at `n`; `cur` is its current value. -/
def Dev.winWrite (d : Dev) (r : Requester) (n : Nat) (a : WinWrite) (ok : Bool) (cur : Nat)
    (put : Nat → Dev → Dev) (next : Dev → Dev) : Dev :=
  match a with
  | .whole v => if ok then next (put v.toNat d) else d
  | .half false v => d.setBuffer r n v
  | .half true v =>
    let lo := (d.bufferOf r n).getD (loWord cur)
    let d1 := d.dropBuffer r n
    if ok then next (put (lo.toNat + 2 ^ 32 * v.toNat) d1) else d1

/-- A VF's BAR0 holds none of the windows: a read returns 0, a write is discarded (R33, R365). -/
def isVf : Requester → Bool
  | .vf _ => true
  | _ => false

/-- Bytes that a window read returns. -/
def winReadLen : WinRead → Nat
  | .whole => 8
  | .half _ => 4

/-- A window read by a requester that the window is not mapped for. -/
def Dev.noWindow (d : Dev) (a : WinRead) : Dev := d.answer (List.replicate (winReadLen a) 0#8)

end Sys2Proof.Machine
end

