-- ==== Sys2Proof/Machine/Place.lean ====
section
/-!
DEFINITION. How operands enter the cell stores (04 R87, 07 R148, R151): the Col buffer of a cell, the rows of an operand,
and what the buffers count.
-/
namespace Sys2Proof.Machine

/-- The Col buffer that serves array cell `x` (R148). -/
def bufOf (x : Nat) : Nat := x % 64 / 8 + (if 32 ≤ x / 64 then 8 else 0)

/-- Buffers that serve a region. -/
def Region.bufs (g : Region) : List Nat :=
  (List.range 16).filter (fun b => g.has (64 * (32 * (b / 8)) + 8 * (b % 8)))

/-- `n` bytes that the buffer of cell `x` wrote into its store (R167). -/
def Dev.countPlaced (d : Dev) (x n : Nat) : Dev := d.count64 (COL.BYTESPLACED (bufOf x)) n

/-- A staging error in a buffer that takes part (R153). -/
def Dev.stageCheck (d : Dev) (ps : List Nat) : Dev :=
  (d.col.stageUE.filter ps.contains).foldl (fun d i =>
    ({ d with col := { d.col with stageUE := d.col.stageUE.filter (fun x => x != i) } }.errData (COL.page i) 8).beatFail
      0x30 (blockName .col i) 0) d

/-- Buffers that delivered since `a`: they were busy for a number of cycles that is not fixed (R167). -/
def Dev.colBusy (d a : Dev) : Dev :=
  ((List.range 16).filter (fun i => d.num64 (COL.BYTESPLACED i) != a.num64 (COL.BYTESPLACED i))).foldl
    (fun (d : Dev) i => d.countFree64 (COL.BUSYCYC i)) d

/-- Bytes placed in cell `x` by its buffer: an uncorrectable word written in part fails the beat (R80). -/
def Dev.placeBytes (d : Dev) (x off : Nat) (bs : List Byte) : Dev :=
  (d.csWrite x off bs).countPlaced x bs.length

/-- Every row of an operand (R87, R151): element (mn, k) is `el mn k` in format `fmt`; a row's positions beyond M or N
are not written, but for the padding bits of its last byte. -/
def Dev.placeOperand (d : Dev) (g : Geo) (isA : Bool) (fmt base : Nat) (el : Nat → Nat → Nat) : Dev :=
  let mn := if isA then g.m else g.n
  (List.range (if isA then g.rt else g.ct)).foldl (fun d t =>
    (List.range g.k).foldl (fun d k =>
      let p := if isA then g.placeA t k else g.placeB k t
      d.placeBytes p.1 (base + fmtBytes fmt 32 * (g.kc * p.2.1 + p.2.2))
        (packElems fmt (tabulate (min 32 (mn - 32 * t)) (fun i => el (32 * t + i) k)))) d) d

/-- The scale bytes of an operand (R87): block j of element row mn is `sc mn j`. -/
def Dev.placeScales (d : Dev) (g : Geo) (isA : Bool) (base : Nat) (sc : Nat → Nat → Nat) : Dev :=
  let mn := if isA then g.m else g.n
  (List.range (if isA then g.rt else g.ct)).foldl (fun d t =>
    (List.range (ceilDiv g.k 32)).foldl (fun d j =>
      let p := if isA then g.placeA t (32 * j) else g.placeB (32 * j) t
      d.placeBytes p.1 (base + g.kc * p.2.1 + 32 * (p.2.2 / 32))
        (tabulate (min 32 (mn - 32 * t)) (fun i => BitVec.ofNat 8 (sc (32 * t + i) j)))) d) d

/-- A range of a cell store that an operation uses as work space: its bytes are indeterminate afterwards. -/
def Dev.csOpen (d : Dev) (x off n : Nat) : Dev :=
  let k := storeKey x off
  { d with
    massif := { d.massif with
      store := d.massif.store.openUp k (k + n) d.freeCtr
      storeUE := d.massif.storeUE.filter (fun w => !rangeInside w 8 k n) }
    freeCtr := d.freeCtr + 1 }

/-- Reads of several ranges of device memory: what their errors do (R211, R218). -/
def Dev.touchAll (d : Dev) (rs : List (Nat × Nat)) : Dev :=
  rs.foldl (fun (d : Dev) (r : Nat × Nat) => (d.engRead r.1 r.2).2) d

/-! ### The cell-store window (R98, R99) -/

/-- The array cell and the byte offset that MSF[p].CSADDR names; the low three bits of OFFSET are ignored. -/
def Dev.csWinCell (d : Dev) (p : Nat) : Nat :=
  64 * (d.fld (MSF.CSADDR p) 27 23 + 32 * (p % 2)) + d.fld (MSF.CSADDR p) 22 18 + 32 * (p / 2)
def Dev.csWinOff (d : Dev) (p : Nat) : Nat := d.fld (MSF.CSADDR p) 17 3 * 8

/-- A CSDATA access is performed (R99). -/
def Dev.csWinOk (d : Dev) (p : Nat) : Bool :=
  !d.enableInEffect (MSF.page p) && decide (d.csWinOff p < storeSize)

/-- OFFSET moves on by 8. -/
def csWinNext (p : Nat) (d : Dev) : Dev := d.setFld (MSF.CSADDR p) 17 0 (d.fld (MSF.CSADDR p) 17 0 + 8)

/-- Whether a read of a window goes to the memory: a high half that the requester captured does not. -/
def Dev.goesThrough (d : Dev) (r : Requester) (n : Nat) (a : WinRead) : Bool :=
  match a with
  | .half true => (d.shadowOf r n).isNone
  | _ => true

def Dev.csdataRead (d : Dev) (r : Requester) (p : Nat) (a : WinRead) : Dev :=
  if isVf r then d.noWindow a
  else
    let x := d.csWinCell p
    let o := d.csWinOff p
    let ok := d.csWinOk p
    let bad := ok && d.goesThrough r (MSF.CSDATA p) a && d.badWords x o 8 != []
    let d1 := if bad then d.err (MSF.page p) 8 else d
    d1.winRead r (MSF.CSDATA p) a ok (if bad then 0 else leNat (d.storeBytes x o 8)) (csWinNext p)

/-- CSDATA_READ (R99): `p` is the partition. -/
def execCsdataRead (r : Requester) (p : Fin 4) (a : WinRead) (s : State) : Host.Outcome State Fault Refusal :=
  onDev (·.csdataRead r p a) s

def Dev.csdataWrite (d : Dev) (r : Requester) (p : Nat) (a : WinWrite) : Dev :=
  if isVf r then d
  else
    let x := d.csWinCell p
    let o := d.csWinOff p
    d.winWrite r (MSF.CSDATA p) a (d.csWinOk p) (leNat (d.storeBytes x o 8))
      (fun v d =>
        let d1 := d.csPut x o (leBytes 8 v)
        { d1 with massif := { d1.massif with storeUE := d1.massif.storeUE.filter (fun w => w != storeKey x o) } })
      (csWinNext p)

/-- CSDATA_WRITE (R99). -/
def execCsdataWrite (r : Requester) (p : Fin 4) (a : WinWrite) (s : State) : Host.Outcome State Fault Refusal :=
  onDev (·.csdataWrite r p a) s

end Sys2Proof.Machine
end

