-- ==== Sys2Proof/Machine/Stacks.lean ====
section
/-!
DEFINITION. Stacks, copies, atomics and the pin table (10 R208-R225): temperature, patrol and on-demand scrub, margining,
the traffic generators, COPY, the atomic unit, and what a pin commit does in the close window.
-/
namespace Sys2Proof.Machine

/-! ### Temperature (R219); readings in 1/8 degrees C -/

def Dev.thr (d : Dev) (s i : Nat) : Int := 8 * (d.fld (STK.THR s) (8 * i + 7) (8 * i) : Int)

/-- The thermal state after a reading `t` in state `c`: 0 NORMAL, 1 THROTTLE, 2 HOT, 3 STOP. -/
def Dev.thermalNext (d : Dev) (s c : Nat) (t : Int) : Nat :=
  let level := fun (m : Int) =>
    if d.thr s 2 - m ≤ t then 3 else if d.thr s 1 - m ≤ t then 2 else if d.thr s 0 - m ≤ t then 1 else 0
  if c < level 0 then level 0 else min c (level 24)

/-- The issue share in a thermal state. -/
def Dev.shareOf (d : Dev) (s c : Nat) (t : Int) : Nat :=
  if c = 0 then 100 else if c = 2 then 25 else if c = 3 then 0
  else
    let span := d.thr s 1 - d.thr s 0
    (min 100 (max 25 ((100 * span - 75 * (t - d.thr s 0)) / span))).toNat

/-- Training of a stack has completed. -/
def Dev.trained (d : Dev) (s : Nat) : Bool :=
  d.fld (STK.TRAINSTAT s) 3 0 == 9 && !d.isFault (STK.page s) && d.stkOp s != some .train && d.stkOp s != some .retrain

/-- A temperature reading (R219): READY is 0 in STOP, and comes back on leaving it where the stack is trained. -/
def Dev.stackTemp (d : Dev) (s : Nat) (t : Int) : Dev :=
  let c := d.fld (STK.TEMP s) 18 16
  let n := d.thermalNext s c t
  let d1 := ((d.setFld (STK.TEMP s) 15 0 (ofSigned 16 t)).setFld (STK.TEMP s) 18 16 n).setFld (STK.SHARE s) 7 0 (d.shareOf s n t)
  let d2 := if c < n then (d1.err (STK.page s) 5).irq (STK.page s) 1 else d1
  let d3 := if n = 3 ∧ c ≠ 3 then (d2.setReady (STK.page s) false).beatFail 0x40 (blockName .stk s) 0 else d2
  if c = 3 ∧ n ≠ 3 ∧ d3.trained s ∧ !d3.inReset (STK.page s) then d3.setReady (STK.page s) true else d3

/-- STACK_TEMP_READING (R219). -/
def execStackTempReading (s : Fin 12) (eighths : Int) (st : State) : Host.Outcome State Fault Refusal :=
  onDev (·.stackTemp s eighths) st

/-! ### Scrub (R218) -/

/-- The key of a row: stack, pseudo-channel, bank, row (R209). -/
def rowKey (blk : Nat) : Nat :=
  let a := 256 * blk
  ((stackOf a * 64 + pseudoChannel a) * 64 + bankOf a) * 16384 + rowOf a

/-- A scrub corrected a block and rewrote it: counters, and the row's log for hard repair after more than 8. -/
def Dev.noteCorrected (d : Dev) (blk : Nat) : Dev :=
  let k := rowKey blk
  let n := d.mem.rowFix.get zeroNat k + 1
  let d1 := { d with mem := { d.mem with
    rowFix := d.mem.rowFix.set zeroNat k n
    repairLog := if 8 < n ∧ !d.mem.repairLog.contains k then d.mem.repairLog ++ [k] else d.mem.repairLog } }
  ((d1.countSat (STK.CECOUNT (blk % 12)) 1).err (STK.page (blk % 12)) 0).count64 (STK.WRITEBYTES (blk % 12)) 256

/-- A scrub read finds a block uncorrectable: it counts and is listed; no beat fails. -/
def Dev.scrubUE (d : Dev) (blk : Nat) : Dev :=
  let s := blk % 12
  let d1 := if d.mem.stackUE.contains blk then d else { d with mem := { d.mem with stackUE := blk :: d.mem.stackUE } }
  ((d1.countSat (STK.UECOUNT s) 1).setNum64 (STK.LASTUE s) (256 * blk)).listBad blk

def Dev.patrolRead (d : Dev) (s lb : Nat) (o : ScrubOutcome) : Dev :=
  let blk := 12 * lb + s
  if !d.flag (STK.SCRUBCTRL s) 0 || d.fld (STK.TRAINSTAT s) 3 0 != 9 then d
  else
    let d1 := d.count64 (STK.READBYTES s) 256
    if o = .uncorrectable ∨ d1.mem.stackUE.contains blk then (d1.scrubUE blk).err (STK.page s) 10
    else if o = .corrected then d1.noteCorrected blk else d1

/-- PATROL_SCRUB_READ (R218): `blk` is the local block. -/
def execPatrolScrubRead (s : Fin 12) (blk : BitVec 28) (o : ScrubOutcome) (st : State) : Host.Outcome State Fault Refusal :=
  onDev (·.patrolRead s blk.toNat o) st

/-! ### Long operations of an STK page (R218, R220-R223) -/

/-- A long operation of STK[s] starts. -/
def Dev.stkStart (d : Dev) (s : Nat) (o : StkOp) (total : Nat) : Dev := (d.setStkOp s (some o)).startLong (STK.page s) total

/-- It ends with OK. -/
def Dev.stkEnd (d : Dev) (s : Nat) : Dev :=
  ((((d.setStkOp s none).position (STK.page s) (d.num64 (oTotal (STK.page s)))).endLong (STK.page s) 0).irq (STK.page s) 2)

/-- A write of SCRUBCTRL. -/
def Dev.writeScrubctrl (d : Dev) (s : Nat) (v : Word) : Dev :=
  let d1 := d.setFld (STK.SCRUBCTRL s) 0 0 v.toNat
  if !v.getLsbD 1 then d1
  else if d.busy (STK.page s) then d1.err (STK.page s) 2
  else (d1.stkStart s .scrub (d.num64 (STK.SCRUBLEN s) / 256)).raise (STK.SCRUBCTRL s) 1

/-- SCRUB_GO (R218, R223). -/
def execScrubGo (r : Requester) (s : Fin 12) (v : Word) (st : State) : Host.Outcome State Fault Refusal :=
  onDev (onPf r (·.writeScrubctrl s v)) st

/-- Blocks of stack `s` that an on-demand scrub reads. -/
def Dev.scrubBlocks (d : Dev) (s : Nat) : List Nat :=
  (blocksOf (d.num64 (STK.SCRUBBASE s)) (d.num64 (STK.SCRUBLEN s))).filter (fun b => b % 12 == s)

/-- Whether an on-demand scrub of stack `s` reads block `blk`. -/
def Dev.scrubs (d : Dev) (s blk : Nat) : Bool :=
  blk % 12 == s && decide (d.num64 (STK.SCRUBBASE s) / 256 ≤ blk) &&
  decide (blk < d.num64 (STK.SCRUBBASE s) / 256 + d.num64 (STK.SCRUBLEN s) / 256)

/-- Blocks that the scrub corrected, of the local blocks `l` reported: each counts once. -/
def Dev.scrubFixed (d : Dev) (s : Nat) (l : List Nat) : List Nat :=
  ((l.map (fun lb => 12 * lb + s)).filter (d.scrubs s)).eraseDups

def Dev.scrubDone (d : Dev) (s : Nat) (corrected : List Nat) : Dev :=
  if d.stkOp s ≠ some .scrub then d
  else
    let d1 := d.count64 (STK.READBYTES s) (256 * (d.scrubBlocks s).length)
    let d2 := (d.mem.stackUE.filter (d.scrubs s)).foldl Dev.scrubUE d1
    let d3 := (d.scrubFixed s corrected).foldl Dev.noteCorrected d2
    (d3.stkEnd s).drop (STK.SCRUBCTRL s) 1

/-- SCRUB_DONE (R218): `corrected` lists the local blocks that were corrected. -/
def execScrubDone (s : Fin 12) (corrected : List Nat) (st : State) : Host.Outcome State Fault Refusal :=
  onDev (·.scrubDone s corrected) st

/-- Channels of a sweep, ascending. -/
def Dev.mgChannels (d : Dev) (s : Nat) : List Nat :=
  if d.flag (STK.MGCTRL s) 5 then List.range 32 else [d.fld (STK.MGCTRL s) 4 0]

/-- A write of MGCTRL. -/
def Dev.writeMgctrl (d : Dev) (s : Nat) (v : Word) : Dev :=
  let d1 := d.setFld (STK.MGCTRL s) 7 0 v.toNat
  if !v.getLsbD 8 then d1
  else if d.busy (STK.page s) || d.enableInEffect (STK.page s) || !d.trained s then d1.err (STK.page s) 2
  else
    let d2 := { d1 with mem := { d1.mem with margins := d1.mem.margins.clear (2048 * s) (2048 * s + 2048) } }
    (d2.stkStart s .margin (64 * (d2.mgChannels s).length)).raise (STK.MGCTRL s) 8

/-- MARGIN_GO (R221). -/
def execMarginGo (r : Requester) (s : Fin 12) (v : Word) (st : State) : Host.Outcome State Fault Refusal :=
  onDev (onPf r (·.writeMgctrl s v)) st

/-- A pin's result: the two margins as measured, and FAIL where the eye is below the minimum of the mode (R221): 16/64 UI,
or 40 mV in steps of 4 mV. -/
def marginWord (mode : Nat) (v : Word) : Word :=
  let lo := field v.toNat 7 0
  let hi := field v.toNat 15 8
  let f := if mode < 2 then decide (lo + hi < 16) else decide (lo + hi < 10)
  BitVec.ofNat 32 (lo + 256 * hi + 65536 * f.toNat)

def Dev.marginDone (d : Dev) (s : Nat) (data : List Word) : Dev :=
  if d.stkOp s ≠ some .margin then d
  else
    let pins := (d.mgChannels s).flatMap (fun c => (List.range 64).map (fun q => 64 * c + q))
    let mode := d.fld (STK.MGCTRL s) 7 6
    let m := (List.range pins.length).foldl (fun m i =>
      m.set zeroWord (2048 * s + pins.getD i 0) (marginWord mode (data.getD i 0#32))) d.mem.margins
    (({ d with mem := { d.mem with margins := m } }).stkEnd s).drop (STK.MGCTRL s) 8

/-- MARGIN_DONE (R221): `data` holds the margins of the swept pins, ascending. -/
def execMarginDone (s : Fin 12) (data : List Word) (st : State) : Host.Outcome State Fault Refusal :=
  onDev (·.marginDone s data) st

/-- Channels of a traffic-generator run. -/
def Dev.tgChannels (d : Dev) (s : Nat) : List Nat := (List.range 32).filter (fun c => d.flag (STK.TGCHMASK s) c)

/-- Blocks per pseudo-channel of a traffic-generator run. -/
def Dev.tgBlocks (d : Dev) (s : Nat) : Nat :=
  if d.num64 (STK.TGBLOCKS s) = 0 then chanBlocks else d.num64 (STK.TGBLOCKS s)

/-- The blocks that a run tests: the first ones of every pseudo-channel of the selected channels (which ones is the model's
reading; DESIGN CHOICE, log 13). The generators bypass the MSC: lines that it holds pinned keep their bytes. -/
def Dev.tgPart (d : Dev) (s : Nat) : StackPart :=
  ⟨s, d.num (STK.TGCHMASK s), d.tgBlocks s,
    (d.mem.pinWarm.filter (fun e => e.1 == s)).map (fun e => (0x300000 * e.2, 1))⟩

/-- A write of TGCTRL. The blocks a run writes are indeterminate afterwards: the patterns' bytes are not stated. They are
full writes, which clear the errors stored there (R218). -/
def Dev.writeTgctrl (d : Dev) (s : Nat) (v : Word) : Dev :=
  let d1 := (d.setFld (STK.TGCTRL s) 7 1 (v.toNat / 2))
  if !v.getLsbD 0 then d1
  else if d.busy (STK.page s) || d.enableInEffect (STK.page s) || !d.trained s || field v.toNat 2 1 = 3 ||
      decide (6 ≤ field v.toNat 6 4) then d1.err (STK.page s) 2
  else
    let part := d.tgPart s
    let d2 := { d1 with mem := { d1.mem with
      tgFirst := (d.tgChannels s).foldl (fun m c => m.set zeroNat (32 * s + c) 0) d1.mem.tgFirst } }
    let d3 := if field v.toNat 2 1 = 2 then d2 else
      { d2 with
        mem := { d2.mem with
          dram := d2.mem.dram.openStack part memTop d2.freeCtr
          stackUE := d2.mem.stackUE.filter (fun b => !part.has (256 * b))
          badList := d2.mem.badList.filter (fun e => !part.has (256 * e.2)) }
        freeCtr := d2.freeCtr + 1 }
    (d3.stkStart s .traffic (2 * d.tgBlocks s * (d.tgChannels s).length)).raise (STK.TGCTRL s) 0

/-- TG_GO (R222). -/
def execTgGo (r : Requester) (s : Fin 12) (v : Word) (st : State) : Host.Outcome State Fault Refusal :=
  onDev (onPf r (·.writeTgctrl s v)) st

def Dev.tgDone (d : Dev) (s : Nat) (errs firsts : List Nat) : Dev :=
  if d.stkOp s ≠ some .traffic then d
  else
    let d1 := (List.range 32).foldl (fun (d : Dev) c =>
      let n := errs.getD c 0
      if n = 0 ∨ !d.flag (STK.TGCHMASK s) c then d
      else
        let d2 := (d.countSat (STK.TGERR s c) n).err (STK.page s) 11
        if d2.mem.tgFirst.get zeroNat (32 * s + c) ≠ 0 then d2
        else { d2 with mem := { d2.mem with tgFirst := d2.mem.tgFirst.set zeroNat (32 * s + c) (2 ^ 63 + firsts.getD c 0 % 2 ^ 28) } }) d
    let op := d.fld (STK.TGCTRL s) 2 1
    let n := 256 * (2 * d.tgBlocks s * (d.tgChannels s).length)
    let d2 := (d1.count64 (STK.WRITEBYTES s) (if op = 2 then 0 else n)).count64 (STK.READBYTES s) (if op = 1 then 0 else n)
    if d.flag (STK.TGCTRL s) 3 then d2 else (d2.stkEnd s).drop (STK.TGCTRL s) 0

/-- TG_DONE (R222): a pass has ended, with the mismatching bursts of each channel and the local address of its first
mismatch. A run with LOOP goes on with the next pass, and ends by ABORT only. -/
def execTgDone (s : Fin 12) (errs firsts : List Nat) (st : State) : Host.Outcome State Fault Refusal :=
  onDev (·.tgDone s errs firsts) st

/-! ### Copies (R214, R215) -/

def cpSfmt (b : List Byte) : Nat := byteAt b 3
def cpDfmt (b : List Byte) : Nat := byteAt b 4
def cpSrc (b : List Byte) : Nat := fieldAt b 0x08 8
def cpCount (b : List Byte) : Nat := fieldAt b 0x10 4
def cpDst (b : List Byte) : Nat := fieldAt b 0x28 8
def cpSscale (b : List Byte) : Nat := fieldAt b 0x30 8
def cpDscale (b : List Byte) : Nat := fieldAt b 0x38 8

/-- The multiple that COUNT must be, for one format. -/
def countUnit (f : Nat) : Nat := if fmtIsMx f then 32 else if fmtBits f = 6 then 4 else if fmtBits f = 4 then 2 else 1

/-- Ranges read and written: elements, and scales of an MX format. -/
def cpReads (b : List Byte) : List (Nat × Nat) :=
  (cpSrc b, fmtBytes (cpSfmt b) (cpCount b)) :: (if fmtIsMx (cpSfmt b) then [(cpSscale b, cpCount b / 32)] else [])
def cpWrites (b : List Byte) : List (Nat × Nat) :=
  (cpDst b, fmtBytes (cpDfmt b) (cpCount b)) :: (if fmtIsMx (cpDfmt b) then [(cpDscale b, cpCount b / 32)] else [])

/-- R215. -/
def Dev.copyCheck (d : Dev) (b : List Byte) : Option Nat :=
  firstFail [
    (field (byteAt b 2) 7 1 != 0 || fieldAt b 5 3 != 0 || fieldAt b 0x14 4 != 0 || !syncReservedOk b || opcodeOf b != 1 ||
      !fmtValid (cpSfmt b) || !fmtValid (cpDfmt b) || decide (268435456 < cpCount b) ||
      cpCount b % countUnit (cpSfmt b) != 0 || cpCount b % countUnit (cpDfmt b) != 0 ||
      (!fmtIsMx (cpSfmt b) && cpSscale b != 0) || (!fmtIsMx (cpDfmt b) && cpDscale b != 0) ||
      (cpReads b).any (fun r => (cpWrites b).any (fun w => rangesMeet r.1 r.2 w.1 w.2)), 0x10),
    (cpCount b == 0, 0x13),
    (cpSrc b % 64 != 0 || cpDst b % 64 != 0, 0x11),
    ((cpReads b ++ cpWrites b).any (fun r => !d.inRegion d.tenancy r.1 r.2) || (cpWrites b).any (fun w => !d.windowed w.1 w.2), 0x12),
    (cpSfmt b != cpDfmt b && d.num ASC.SVCSTATE == 1, 0x14)]

def Dev.copyIssue (d : Dev) : Dev :=
  if !d.issuing then d
  else match d.mem.copyQ with
  | [] => d
  | q :: rest =>
    match d.headCode q.bytes (d.copyCheck q.bytes) with
    | some c => (({ d with mem := { d.mem with copyQ := rest } }).lastCode (STK.page 0) c).beatFail c (blockName .stk 0) 0
    | none =>
      if d.waitOk q.bytes && d.mem.copyRun.isNone then
        ({ d with mem := { d.mem with copyQ := rest, copyRun := some q } }).countIssue
      else d

/-- COPY (R214, R215): it issues; its bytes are in place at COPY_COMPLETE. -/
def execCopy (s : State) : Host.Outcome State Fault Refusal := onBeat Dev.copyIssue s

/-- The bytes that a copy writes: elements, scales, CVT. -/
def Dev.copied (d : Dev) (b : List Byte) : List Byte × List Byte × Bool :=
  let n := cpCount b
  let src := d.mem.dram.readN (cpSrc b) (fmtBytes (cpSfmt b) n)
  let sc := if fmtIsMx (cpSfmt b) then d.mem.dram.readN (cpSscale b) (n / 32) else []
  if cpSfmt b = cpDfmt b then (src, sc, false)
  else
    let vals := tabulate n (fun i =>
      let v := decodeElem (cpSfmt b) (unpackElem (cpSfmt b) src i)
      if fmtIsMx (cpSfmt b) then scaled v (byteAt sc (i / 32)) else v)
    if fmtIsMx (cpDfmt b) then
      let r := (chunks 32 n vals).map (convertMx (cpDfmt b))
      (packElems (cpDfmt b) (r.flatMap (fun c => c.2.1)), r.map (fun c => BitVec.ofNat 8 c.1), r.any (fun c => c.2.2))
    else
      let r := vals.map (fun v => convertTo (cpDfmt b) v (bit (byteAt b 2) 0))
      (packElems (cpDfmt b) (r.map (fun e => e.1)), [], r.any (fun e => e.2))

def Dev.copyComplete (d : Dev) : Dev :=
  if !d.running then d
  else match d.mem.copyRun with
  | none => d
  | some q =>
    let b := q.bytes
    let c := d.copied b
    let d1 := (d.touchAll (cpReads b)).engWrite (cpDst b) c.1 (blockName .stk 0)
    let d2 := if fmtIsMx (cpDfmt b) then d1.engWrite (cpDscale b) c.2.1 (blockName .stk 0) else d1
    let d3 := if c.2.2 then d2.err (STK.page 0) 12 else d2
    (({ d3 with mem := { d3.mem with copyRun := none } }).lastCode (STK.page 0) 0).applySignal b

/-- COPY_COMPLETE (R214). -/
def execCopyComplete (s : State) : Host.Outcome State Fault Refusal := onBeat Dev.copyComplete s

/-! ### Atomics (R212, R213) -/

/-- Target size of an operation code. -/
def atomSize (code : Nat) : Nat := if code = 0x01 ∨ code = 0x04 ∨ code = 0x05 ∨ code = 0x10 then 4 else 8

/-- Result of one element: old value, operand, second operand (the new value of CAS64). -/
def atomResult (code old a b : Nat) : Nat :=
  if code = 0x01 then (old + a) % 2 ^ 32
  else if code = 0x02 then (old + a) % 2 ^ 64
  else if code = 0x03 then ofSigned 64 ((old : Int) + toSigned 32 a)
  else if code = 0x04 then ofSigned 32 (max (toSigned 32 old) (toSigned 32 a))
  else if code = 0x05 then max old (a % 2 ^ 32)
  else if code = 0x08 then a
  else if code = 0x09 then (if old = a then b else old)
  else enc32 ((fAdd grid32 (val32 old) (val32 a)).1)

/-- Elements performed: index, target address. -/
def atomElems (code : Nat) (q : AtomicReq) : List (Nat × Nat) :=
  ((List.range (256 / atomSize code)).filter (fun i => q.mask.getLsbD i)).map (fun i => (i, q.addr + atomSize code * i))

/-- What the atomic unit refuses (R213): code and the bit of ERRSUM. -/
def Dev.atomBad (d : Dev) (code : Nat) (q : AtomicReq) : Option (Nat × Nat) :=
  if code = 0x10 ∧ q.bedrock then some (0x14, 11)
  else if (atomElems code q).any (fun e => !(d.pinned e.2 && d.pinned (e.2 + atomSize code - 1) && decide (e.2 + atomSize code ≤ memTop))) then some (0x42, 9)
  else if (atomElems code q).any (fun e => e.2 % atomSize code != 0) then some (0x11, 9)
  else none

/-- The request performed: old values in element order. -/
def Dev.atomDo (d : Dev) (code : Nat) (q : AtomicReq) : List Nat × Dev :=
  let n := atomSize code
  (atomElems code q).foldl (fun (acc : List Nat × Dev) (e : Nat × Nat) =>
    let r := acc.2.engRead e.2 n
    let old := leNat r.1
    let a := if code = 0x09 then (q.operands.getD (2 * e.1) 0#64).toNat else (q.operands.getD e.1 0#64).toNat
    let b := (q.operands.getD (2 * e.1 + 1) 0#64).toNat
    (acc.1 ++ [old], ((r.2.memWrite e.2 (leBytes n (atomResult code old a b))).count64 (MSC.ATOMICS (stackOf e.2)) 1)))
    ([], d)

/-- An atomic of this device's own beat: a refused one fails the beat and performs none of its elements (R213). SWAP64 and
CAS64 return the old values. -/
def Dev.atomic (d : Dev) (code : Nat) (q : AtomicReq) : Dev :=
  let s := stackOf q.addr
  match d.atomBad code q with
  | some c => (d.err (MSC.page s) c.2).beatFail c.1 (blockName .msc s) q.addr
  | none =>
    let r := d.atomDo code q
    if code = 0x08 ∨ code = 0x09 then
      { r.2 with bus := { r.2.bus with readData := r.1.flatMap (leBytes 8), resp := .ok } } else r.2

/-- IADD32 (R212). -/
def execIadd32 (q : AtomicReq) (s : State) : Host.Outcome State Fault Refusal := onDev (·.atomic 0x01 q) s
/-- IADD64 (R212). -/
def execIadd64 (q : AtomicReq) (s : State) : Host.Outcome State Fault Refusal := onDev (·.atomic 0x02 q) s
/-- IADD64S32 (R212). -/
def execIadd64s32 (q : AtomicReq) (s : State) : Host.Outcome State Fault Refusal := onDev (·.atomic 0x03 q) s
/-- IMAX32 (R212). -/
def execImax32 (q : AtomicReq) (s : State) : Host.Outcome State Fault Refusal := onDev (·.atomic 0x04 q) s
/-- UMAX32 (R212). -/
def execUmax32 (q : AtomicReq) (s : State) : Host.Outcome State Fault Refusal := onDev (·.atomic 0x05 q) s
/-- SWAP64 (R212). -/
def execSwap64 (q : AtomicReq) (s : State) : Host.Outcome State Fault Refusal := onDev (·.atomic 0x08 q) s
/-- CAS64 (R212). -/
def execCas64 (q : AtomicReq) (s : State) : Host.Outcome State Fault Refusal := onDev (·.atomic 0x09 q) s
/-- FADD32 (R212). -/
def execFadd32 (q : AtomicReq) (s : State) : Host.Outcome State Fault Refusal := onDev (·.atomic 0x10 q) s

/-! ### The pin table (R211, R225) -/

/-- The staged table: base and granules of every used entry. -/
def Dev.stagedPins (d : Dev) : List (Nat × Nat) :=
  ((List.range 8).map (fun i => (d.num64 (MSC.PINBASE 0 i), d.num (MSC.PINSIZE 0 i) % 128))).filter (fun p => p.2 != 0)

/-- A write of MSC[0].PINCTRL: COMMIT captures the staged table. -/
def Dev.writePinctrl (d : Dev) (v : Word) : Dev :=
  if !v.getLsbD 0 || d.flag (MSC.PINCTRL 0) 0 then d
  else ({ d with mem := { d.mem with captured := some d.stagedPins } }).raise (MSC.PINCTRL 0) 0

/-- PIN_COMMIT (R211). -/
def execPinCommit (r : Requester) (v : Word) (st : State) : Host.Outcome State Fault Refusal := onDev (onPf r (·.writePinctrl v)) st

/-- Granule numbers of a table. -/
def granules (t : List (Nat × Nat)) : List Nat :=
  t.flatMap (fun p => (List.range p.2).map (fun i => p.1 / 0x300000 + i))

/-- The rules of R211. A granule fills a sixth of each slice's sets with one line each. -/
def pinsOk (t : List (Nat × Nat)) : Bool :=
  let gs := granules t
  t.all (fun p => decide (p.1 % 0x300000 = 0 ∧ 1 ≤ p.2 ∧ p.2 ≤ 88 ∧ p.1 + p.2 * 0x300000 ≤ memTop)) &&
  decide (gs.length ≤ 88) && decide (gs.eraseDups.length = gs.length) &&
  (List.range 6).all (fun c => decide ((gs.filter (fun g => g % 6 == c)).length ≤ 15))

/-- Granules that slice `s` fetches in the background. -/
def Dev.pinFetching (d : Dev) (s : Nat) : List Nat := (d.mem.pinFetch.filter (fun e => e.1 == s)).map (fun e => e.2)

/-- Lines that slice `s` has still to write back. -/
def Dev.pinBack (d : Dev) (s : Nat) : Nat := d.mem.pinWork.get zeroNat s - 1024 * (d.pinFetching s).length

/-- Slice `s` starts its background fetch and write-back for a table with granules `new` where `old` were pinned: a long
operation that counts the lines of both (R211). -/
def Dev.startPinWork (old new : List Nat) (d : Dev) (s : Nat) : Dev :=
  let fetch := (d.pinFetching s).filter new.contains ++ new.filter (fun g => !old.contains g)
  let n := 1024 * fetch.length + 1024 * (old.filter (fun g => !new.contains g)).length + d.pinBack s
  let d1 := { d with mem := { d.mem with
    pinFetch := d.mem.pinFetch.filter (fun e => e.1 != s) ++ fetch.map (fun g => (s, g))
    pinWarm := d.mem.pinWarm.filter (fun e => !(e.1 == s && !new.contains e.2))
    pinWork := d.mem.pinWork.set zeroNat s n } }
  if n = 0 then d1 else d1.startLong (MSC.page s) n

/-- The close window applies or refuses the captured table (R211). A line that leaves it is written back: an uncorrectable
error in it is met then. -/
def Dev.applyPins (d : Dev) : Dev :=
  match d.mem.captured with
  | none => d
  | some t =>
    let d1 := (({ d with mem := { d.mem with captured := none } }).drop (MSC.PINCTRL 0) 0).irq (MSC.page 0) 1
    if pinsOk t then
      let new := granules t
      let d2 := (d1.mem.pinUE.filter (fun b => !pinnedIn t (256 * b))).foldl Dev.pinnedFail d1
      let d3 := { d2 with mem := { d2.mem with pins := t } }
      let d4 := (List.range 12).foldl (fun d s => d.setNum (MSC.PINNEDLINES s) (1024 * new.length)) d3
      (List.range 12).foldl (Dev.startPinWork (granules d.mem.pins) new) (d4.setNum (MSC.PINSTAT 0) t.length)
    else (d1.setFlag (MSC.PINSTAT 0) 8 true).err (MSC.page 0) 10

def Dev.pinFetchDone (d : Dev) (s : Nat) : Dev :=
  if d.mem.pinWork.get zeroNat s = 0 then d
  else
    let fetch := d.mem.pinFetch.filter (fun e => e.1 == s)
    let d1 := { d with mem := { d.mem with
      pinWork := d.mem.pinWork.set zeroNat s 0
      pinFetch := d.mem.pinFetch.filter (fun e => e.1 != s)
      pinWarm := d.mem.pinWarm ++ fetch } }
    let d2 := (d1.count64 (STK.READBYTES s) (256 * (1024 * fetch.length))).count64 (STK.WRITEBYTES s) (256 * d.pinBack s)
    (d2.position (MSC.page s) (d2.num64 (oTotal (MSC.page s)))).endLong (MSC.page s) 0

/-- PIN_FETCH_DONE (R211). -/
def execPinFetchDone (s : Fin 12) (st : State) : Host.Outcome State Fault Refusal := onDev (·.pinFetchDone s) st

end Sys2Proof.Machine
end

