-- ==== Sys2Proof/Machine/Stag.lean ====
section
/-!
DEFINITION. Stag (11 R226-R242, R250): group tables and shards, the checks of a descriptor, ARM, the lines that arrive,
and the slots.
-/
namespace Sys2Proof.Machine

/-! ### Groups and shards (R226, R227, R229) -/

def grpNsrc (g : List Byte) : Nat := fieldAt g 0 4
def grpNown (g : List Byte) : Nat := fieldAt g 4 2
def grpSelf (g : List Byte) : Nat := fieldAt g 6 2

/-- Bytes from a table's start to SRCDEV[0], and to its end. -/
def grpSrcOff (p : Nat) : Nat := 0x40 + 64 * ceilDiv (2 * p) 64
def grpExtent (g : List Byte) : Nat := grpSrcOff (grpNown g) + 2 * grpNsrc g

/-- Ranks of the owners, and of the devices that compute the sources. -/
def grpOwners (g : List Byte) : List Nat := tabulate (grpNown g) (fun j => fieldAt g (0x40 + 2 * j) 2)
def grpSrcdev (g : List Byte) : List Nat := tabulate (grpNsrc g) (fun i => fieldAt g (grpSrcOff (grpNown g) + 2 * i) 2)

/-- The replica set: distinct ranks. -/
def grpReplicas (g : List Byte) : List Nat := (grpOwners g ++ grpSrcdev g).eraseDups

/-- The table's first 64 bytes as they stand in device memory, and the whole table. -/
def Dev.grpHead (d : Dev) (a : Nat) : List Byte := d.mem.dram.readN a 64
def Dev.grpTable (d : Dev) (a : Nat) : List Byte := d.mem.dram.readN a (grpExtent (d.grpHead a))

/-- The table lies within device memory and the tenancy's region (R240). -/
def Dev.grpInside (d : Dev) (a : Nat) : Bool :=
  d.inRegion d.tenancy a 64 && d.inRegion d.tenancy a (grpExtent (d.grpHead a))

/-- R226, and R229 for FLOAT, on a device of rank `rank`. -/
def grpOk (g : List Byte) (rank : Nat) (isFloat : Bool) : Bool :=
  let p := grpNown g
  let n := grpNsrc g
  if p = 0 ∨ 16384 < p ∨ n = 0 ∨ 16384 < n then false
  else
    let own := grpOwners g
    let src := grpSrcdev g
    let self := grpSelf g
    fieldAt g 8 56 == 0 && own.eraseDups.length == p && (own ++ src).all (fun r => decide (r < 2 ^ 14)) &&
    (if self = 0xFFFF then !own.contains rank else decide (self < p) && own.getD self 0 == rank) &&
    (!isFloat || (n == p && src == own))

/-- The table of a descriptor is valid. -/
def Dev.grpValid (d : Dev) (b : List Byte) : Bool :=
  d.grpInside (fieldAt b 0x10 8) && grpOk (d.grpTable (fieldAt b 0x10 8)) d.rank (bit (byteAt b 2) 0)

/-- Blocks of a bucket, the first block of owner `j`, blocks of owner `j` (R227). -/
def bucketBlocks (nval : Nat) : Nat := ceilDiv nval 4096
def firstBlock (j nval p : Nat) : Nat := j * bucketBlocks nval / p
def shardBlocks (j nval p : Nat) : Nat := firstBlock (j + 1) nval p - firstBlock j nval p

/-- Levels of the FLOAT tree. -/
def treeLevels (p : Nat) : Nat := if p ≤ 1 then 0 else (p - 1).log2 + 1

/-! ### Descriptor fields (R239) -/

def sgFmt (b : List Byte) : Nat := field (byteAt b 2) 0 0
def sgAccStart (b : List Byte) : Bool := bit (byteAt b 2) 1
def sgUpd (b : List Byte) : Bool := bit (byteAt b 2) 2
def sgDist (b : List Byte) : Bool := bit (byteAt b 2) 3
def sgSlot (b : List Byte) : Nat := byteAt b 3 % 16
def sgBtag (b : List Byte) : Nat := fieldAt b 4 2
def sgNval (b : List Byte) : Nat := fieldAt b 8 4
def sgGpitch (b : List Byte) : Nat := fieldAt b 0x0C 4
def sgGroup (b : List Byte) : Nat := fieldAt b 0x10 8
/-- ACCADDR and EXPADDR of an ARM. -/
def armAcc (b : List Byte) : Nat := fieldAt b 0x28 8
def armExp (b : List Byte) : Nat := fieldAt b 0x30 8
def sgGaddr (b : List Byte) : Nat := fieldAt b 0x28 8
def sgEaddr (b : List Byte) : Nat := fieldAt b 0x30 8
def sgEsync (b : List Byte) : Nat := fieldAt b 0x38 4
def sgEtarget (b : List Byte) : Nat := fieldAt b 0x3C 4
def sgAcc (b : List Byte) : Nat := fieldAt b 0x40 8
def sgExp (b : List Byte) : Nat := fieldAt b 0x48 8
def sgGacc (b : List Byte) : Nat := fieldAt b 0x50 8
def sgUpdaddr (b : List Byte) : Nat := fieldAt b 0x58 8
def sgDsync (b : List Byte) : Nat := fieldAt b 0x60 4

/-- This device's owner index, if it owns a shard's place. -/
def ownerIdx (g : List Byte) : Option Nat := if grpSelf g = 0xFFFF then none else some (grpSelf g)

/-- First block and blocks of this device's shard. -/
def myFirst (b g : List Byte) : Nat :=
  match ownerIdx g with
  | none => 0
  | some j => firstBlock j (sgNval b) (grpNown g)
def myBlocks (b g : List Byte) : Nat :=
  match ownerIdx g with
  | none => 0
  | some j => shardBlocks j (sgNval b) (grpNown g)

/-- Values of this device's shard, without the padding of the last block. -/
def myValues (b g : List Byte) : Nat := min (4096 * myBlocks b g) (sgNval b - 4096 * myFirst b g)

/-- Source indices that this device computes, ascending (R226). -/
def Dev.mySources (d : Dev) (g : List Byte) : List Nat :=
  let src := grpSrcdev g
  (List.range src.length).filter (fun i => src.getD i 0 == d.rank)

/-! ### The lines of a slot (R230, R231, R234, R237) -/

/-- Exponent lines of a shard of `nb` blocks. -/
def expLines (nb : Nat) : Nat := ceilDiv nb 64

/-- Lines of 64 values in a FLOAT bucket. -/
def floatLines (nval : Nat) : Nat := ceilDiv nval 64

/-- Bucket lines of shard `j` in FLOAT. -/
def shardLines (j nval p : Nat) : List Nat :=
  (List.range (min (64 * firstBlock (j + 1) nval p) (floatLines nval) - 64 * firstBlock j nval p)).map
    (fun x => 64 * firstBlock j nval p + x)

/-- Deliveries that member `self` expects at level `v`: the sender and the shards for which it adds there (R237). -/
def treeSender (self v p : Nat) : Nat := (self + 2 ^ v) % p
def treeShards (self v p : Nat) : List Nat :=
  (List.range p).filter (fun j =>
    let u := (self + p - j) % p
    u % 2 ^ (v + 1) == 0 && decide (u + 2 ^ v < p))

/-- The deliveries that member `self` stages in FLOAT, as level and bucket line, in the order of their places in its staging
area (R237; the order is log entry 25's). -/
def floatSlots (nval p self : Nat) : List (Nat × Nat) :=
  (List.range (treeLevels p)).flatMap (fun v =>
    (treeShards self v p).flatMap (fun j => (shardLines j nval p).map (fun x => (v, x))))

/-- Where member `self` stages the level-`v` delivery of bucket line `x`. -/
def stagingLine (acc nval p self v x : Nat) : Nat :=
  acc + 256 * ((floatSlots nval p self).findIdx? (fun e => e == (v, x))).getD 0

/-- One expected line: its source, its key in the arrival record, the address of its target, its SEQ (R230). The key is the
sequence number in EXACT, the bucket line in FLOAT. -/
structure LineKey where
  src : Nat
  key : Nat
  addr : Nat
  seq : Nat
  deriving DecidableEq, Repr

/-- Lines that the slot's ARM makes this device expect; blocks whose agreed word is 0 or 0x7FFF_FFFF have no value lines
once the words are known. -/
def expected (b g : List Byte) (words : Option (List Nat)) : List LineKey :=
  let nb := myBlocks b g
  let ns := grpNsrc g
  if sgFmt b = 0 then
    (List.range ns).flatMap (fun i =>
      (List.range (expLines nb)).map (fun e => (⟨i, e, armExp b + 256 * e, e⟩ : LineKey)) ++
      ((List.range (128 * nb)).filter (fun x => match words with
        | none => true
        | some w => !(w.getD (x / 128) 0 == 0 || w.getD (x / 128) 0 == 0x7FFFFFFF))).map
        (fun x => (⟨i, expLines nb + x, armAcc b + 256 * x, expLines nb + x⟩ : LineKey)))
  else match ownerIdx g with
  | none => []
  | some self =>
    let p := grpNown g
    (List.range (treeLevels p)).flatMap (fun v =>
      (treeShards self v p).flatMap (fun j =>
        (shardLines j (sgNval b) p).map (fun x =>
          (⟨treeSender self v p, x, stagingLine (armAcc b) (sgNval b) p self v x, x - 64 * firstBlock j (sgNval b) p⟩ :
            LineKey))))

/-- Lines of a list that unit `u` keeps (R231). -/
def unitLines (l : List LineKey) (u : Nat) : List LineKey := l.filter (fun k => stackOf k.addr == u)

/-- Expected lines of a slot that have not arrived. -/
def Dev.missing (d : Dev) (slot : Nat) : List LineKey :=
  let s := d.slot slot
  match s.arm with
  | none => []
  | some q => (expected q.bytes s.group s.words).filter (fun k => !s.arrived.contains (k.src, k.key))

/-- Every unit passes to COMPLETE when each of its expected lines is set (R233). -/
def Dev.refreshSlot (d : Dev) (slot : Nat) : Dev :=
  let s := d.slot slot
  let miss := d.missing slot
  if s.arm.isNone then d
  else d.setSlot slot { s with
    units := tabulate 12 (fun u => if miss.any (fun k => stackOf k.addr == u) then StagState.armed else .complete) }

/-- Once every exponent line has arrived the agreed words are known (R234, R241). -/
def Dev.learnWords (d : Dev) (slot : Nat) : Dev :=
  let s := d.slot slot
  match s.arm with
  | none => d
  | some q =>
    if sgFmt q.bytes = 0 && s.words.isNone &&
        (expected q.bytes s.group (some [])).all (fun k => decide (expLines (myBlocks q.bytes s.group) ≤ k.key) || s.arrived.contains (k.src, k.key)) then
      d.setSlot slot { s with words := some (tabulate (myBlocks q.bytes s.group) (fun i => leNat (d.mem.dram.readN (armExp q.bytes + 4 * i) 4))) }
    else d

/-! ### Checks (R240) -/

/-- A range inside the tenancy's region; an empty one is. -/
def Dev.rangeOk (d : Dev) (a n : Nat) : Bool := n == 0 || d.inRegion d.tenancy a n

/-- A range inside the write windows (R64). -/
def Dev.writeOk (d : Dev) (a n : Nat) : Bool := n == 0 || d.windowed a n

/-- Every address of a range is pinned (R211). -/
def Dev.allPinned (d : Dev) (a n : Nat) : Bool :=
  n == 0 || (List.range ((a + n - 1) / 0x300000 - a / 0x300000 + 1)).all (fun i =>
    d.pinned (max a ((a / 0x300000 + i) * 0x300000)))

/-- Accumulator and exponent arrays of this device's shard, or its FLOAT staging. -/
def accRange (b g : List Byte) (acc : Nat) : Nat × Nat :=
  if sgFmt b = 0 then (acc, 32768 * myBlocks b g) else (acc, 4 * sgNval b * treeLevels (grpNown g))
def expRange (b g : List Byte) (ex : Nat) : Nat × Nat := (ex, if sgFmt b = 0 then 4 * myBlocks b g else 0)

/-- Units without room for an ARM's lines (R231). -/
def Dev.shortUnits (d : Dev) (b : List Byte) : List Nat :=
  let l := expected b (d.grpTable (sgGroup b)) none
  (List.range 12).filter (fun u => decide (d.num (STG.BITMAPFREE u) < (unitLines l u).length))

/-- The checks of R240 for an ARM; the group table is judged only where it lies within the region. -/
def Dev.armCheck (d : Dev) (b : List Byte) : Option Nat :=
  let inside := d.grpInside (sgGroup b)
  let valid := d.grpValid b
  let g := d.grpTable (sgGroup b)
  firstFail [
    (field (byteAt b 2) 7 1 != 0 || field (byteAt b 3) 7 4 != 0 || fieldAt b 6 2 != 0 || fieldAt b 0x0C 4 != 0 ||
      !syncReservedOk b || fieldAt b 0x38 8 != 0 || decide (67108864 < sgNval b) || (sgFmt b == 1 && armExp b != 0) ||
      (inside && !valid) || (d.slot (sgSlot b)).arm.isSome || (valid && d.shortUnits b != []), 0x10),
    (sgNval b == 0, 0x13),
    (armAcc b % 256 != 0 || armExp b % 256 != 0 || sgGroup b % 64 != 0, 0x11),
    (!inside || !d.rangeOk (accRange b g (armAcc b)).1 (accRange b g (armAcc b)).2 ||
      !d.rangeOk (expRange b g (armExp b)).1 (expRange b g (armExp b)).2, 0x12),
    (sgFmt b == 0 && !(d.allPinned (armAcc b) (accRange b g (armAcc b)).2 && d.allPinned (armExp b) (expRange b g (armExp b)).2),
      0x42),
    (!d.writeOk (accRange b g (armAcc b)).1 (accRange b g (armAcc b)).2 ||
      !d.writeOk (expRange b g (armExp b)).1 (expRange b g (armExp b)).2, 0x12)]

/-- ESYNC and DSYNC are objects that the descriptor names too (R366). -/
def Dev.stagGrants (d : Dev) (b : List Byte) : Bool :=
  (!syncValid (sgEsync b) || d.granted d.tenancy (syncObj (sgEsync b))) &&
  (!syncValid (sgDsync b) || d.granted d.tenancy (syncObj (sgDsync b)))

/-- The head of the Stag queue leaves it. -/
def Dev.popStag (d : Dev) (rest : List QDesc) : Dev := { d with stag := { d.stag with queue := rest } }

/-- Counters of every unit: bits taken or given back for a list of lines. -/
def Dev.takeBits (d : Dev) (l : List LineKey) : Dev :=
  (List.range 12).foldl (fun d u => d.setNum (STG.BITMAPFREE u) (d.num (STG.BITMAPFREE u) - (unitLines l u).length)) d
def Dev.giveBits (d : Dev) (l : List LineKey) : Dev :=
  (List.range 12).foldl (fun d u => d.setNum (STG.BITMAPFREE u) (d.num (STG.BITMAPFREE u) + (unitLines l u).length)) d

/-- LASTCODE of the twelve units, which share every descriptor (R39, R248). -/
def Dev.stagCode (d : Dev) (code : Nat) : Dev := (List.range 12).foldl (fun (d : Dev) u => d.lastCode (STG.page u) code) d

/-- An ARM takes effect (R233): bits allocated and cleared, EXACT arrays 0, the slot ARMED. -/
def Dev.armNow (d : Dev) (q : QDesc) : Dev :=
  let b := q.bytes
  let t := sgSlot b
  let g := d.grpTable (sgGroup b)
  let d1 := d.takeBits (expected b g none)
  let d2 := if sgFmt b = 0 then
      ((d1.engWrite (armAcc b) (List.replicate (accRange b g (armAcc b)).2 0#8) (blockName .stg 0)).engWrite (armExp b)
        (List.replicate (expRange b g (armExp b)).2 0#8) (blockName .stg 0))
    else d1
  let d3 := d2.setSlot t { d2.slot t with arm := some q, group := g, arrived := [], words := none, named := false }
  let d4 := { d3 with stag := { d3.stag with
    missCount := (List.range 12).foldl (fun m u => m.set zeroNat (16 * u + t) 0) d3.stag.missCount
    missFirst := (List.range 12).foldl (fun m u => m.set zeroNat (16 * u + t) 0) d3.stag.missFirst } }
  ((((d4.learnWords t).refreshSlot t).countIssue).stagCode 0).applySignal b

def Dev.stagArm (d : Dev) : Dev :=
  if !d.issuing then d
  else match d.stag.queue with
  | [] => d
  | q :: rest =>
    if opcodeOf q.bytes != 1 then d
    else match d.headCode q.bytes (d.armCheck q.bytes) with
    | some c =>
      let d1 := if d.grpValid q.bytes then (d.shortUnits q.bytes).foldl (fun d u => d.err (STG.page u) 12) d else d
      ((d1.popStag rest).stagCode c).beatFail c (blockName .stg 0) 0
    | none => if d.waitOk q.bytes then ((d.touchAll [(sgGroup q.bytes, grpExtent (d.grpHead (sgGroup q.bytes)))]).popStag rest).armNow q else d

/-- ARM (R231, R233, R240). -/
def execArm (s : State) : Host.Outcome State Fault Refusal := onBeat Dev.stagArm s

/-! ### A line arrives (R232) -/

/-- Operand elements of a RACC payload. -/
def raccOperands (t : Txn) : List DWord :=
  let size := raccOperandSize t.op
  if t.op = 0x09 then tabulate (2 * t.elems) (fun i => BitVec.ofNat 64 (fieldAt t.payload (8 * i) 8))
  else tabulate t.elems (fun i => BitVec.ofNat 64 (fieldAt t.payload (size * i) size))

/-- A dropped duplicate: this device's beat reports OK_DUPLICATE. -/
def Dev.dropLine (d : Dev) (u : Nat) : Dev × Nat := ((d.countSat (STG.DUPCNT u) 1).success 6, 6)

/-- The key under which a line is recorded in its slot. -/
def lineKeyOf (b g : List Byte) (t : Txn) : Nat :=
  if sgFmt b = 0 then t.arg0.toNat
  else match ownerIdx g with
  | some self => (((floatSlots (sgNval b) (grpNown g) self)[(t.addrN - armAcc b) / 256]?).map (fun e => e.2)).getD 0
  | none => 0

/-- The line is one that the slot expects: its source and its SEQ (R232); in FLOAT, where SEQ counts within a shard, its target
too. -/
def Dev.lineExpected (d : Dev) (slot : Nat) (t : Txn) : Bool :=
  let s := d.slot slot
  match s.arm with
  | none => false
  | some q => (expected q.bytes s.group s.words).any (fun k => k.src == t.raccSrc &&
      k.key == lineKeyOf q.bytes s.group t && k.seq == t.arg0.toNat && (sgFmt q.bytes == 0 || k.addr == t.addrN))

/-- The line is applied: an FTREE line is stored, any other goes through the atomic unit (R212, R213, R313). -/
def Dev.applyLine (d : Dev) (t : Txn) : Dev × Nat :=
  if t.op = 0x20 then (d.memWrite t.addrN ((t.payload).take (4 * t.elems)), 0)
  else
    let q : AtomicReq := ⟨t.addrN, BitVec.ofNat 64 (2 ^ t.elems - 1), raccOperands t, d.bedrock⟩
    match d.atomBad t.op q with
    | some c => (d.err (MSC.page (stackOf t.addrN)) c.2, c.1)
    | none => ((d.atomDo t.op q).2, 0)

/-- What the Stag unit does with a reduction transaction, and the code it completes with. -/
def Dev.stagLine (d : Dev) (t : Txn) : Dev × Nat :=
  let u := stackOf t.addrN
  let sl := t.raccSlot
  let s := d.slot sl
  match s.arm with
  | some q =>
    if sgBtag q.bytes = t.btag then
      if s.arrived.contains (t.raccSrc, lineKeyOf q.bytes s.group t) && (sgFmt q.bytes == 0 || d.lineExpected sl t) then
        d.dropLine u
      else if !d.lineExpected sl t then (d.err (STG.page u) 9, 0x10)
      else
        let r := d.applyLine t
        if r.2 = 0 then
          let d1 := r.1.setSlot sl { s with arrived := (t.raccSrc, lineKeyOf q.bytes s.group t) :: s.arrived }
          (((d1.count64 (STG.LINESIN u) 1).learnWords sl).refreshSlot sl, 0)
        else r
    else if s.lastTag = some t.btag then d.dropLine u
    else (d.err (STG.page u) 8, 0x10)
  | none => if s.lastTag = some t.btag then d.dropLine u else (d.err (STG.page u) 8, 0x10)

/-! ### Slots at the close (R233, R242, R250) -/

/-- A slot is ARMED in some unit. -/
def Dev.slotArmed (d : Dev) (slot : Nat) : Bool := (d.slot slot).arm.isSome && (d.slot slot).units.contains .armed

/-- MISSCOUNT and MISSFIRST of a slot in a unit, from the missing lines: SRC in [13:0], SEQ in [63:32]; the lowest is the
least as a 64-bit word. In FLOAT the sequence number counts within the shard. -/
def missWord (k : LineKey) : Nat := k.src + 2 ^ 32 * k.seq
def missFirstOf (l : List LineKey) : Nat :=
  match l.map missWord with
  | [] => 0
  | w :: ws => ws.foldl min w

/-- At C(n) every slot becomes IDLE; an ARMED one leaves its misses, and ERRSUM.INCOMPLETE where `incomplete`. -/
def Dev.closeSlot (incomplete : Bool) (d : Dev) (slot : Nat) : Dev :=
  let s := d.slot slot
  match s.arm with
  | none => d.setSlot slot { s with lastTag := none }
  | some q =>
    let miss := d.missing slot
    let d1 := (List.range 12).foldl (fun (d : Dev) u =>
      let l := unitLines miss u
      let d0 := { d with stag := { d.stag with
        missCount := d.stag.missCount.set zeroNat (16 * u + slot) l.length
        missFirst := d.stag.missFirst.set zeroNat (16 * u + slot) (missFirstOf l) } }
      if incomplete && l != [] then
        (if d0.flag (STG.ERRSUM u) 11 then d0 else d0.irq (STG.page u) 1).err (STG.page u) 11
      else d0) d
    (d1.giveBits (expected q.bytes s.group none)).setSlot slot (slot0 slot)

def Dev.closeSlots (d : Dev) (incomplete : Bool) : Dev := (List.range 16).foldl (Dev.closeSlot incomplete) d

/-- Slots that are not IDLE (CKT.DRAINSTAT.STAGQ counts them, R233). -/
def Dev.slotsOpen (d : Dev) : Nat := ((List.range 16).filter (fun t => (d.slot t).arm.isSome)).length

end Sys2Proof.Machine
end

