-- ==== Sys2Proof/Machine/Optim.lean ====
section
/-!
DEFINITION. Optimiser updates (11 R243-R247): the update block, the optimisers on one value, Adafactor on a band, and
the conversion of the output weights.
-/
namespace Sys2Proof.Machine

/-! ### The update block (R243) -/

def ubOpt (u : List Byte) : Nat := byteAt u 0
def ubWfmt (u : List Byte) : Nat := byteAt u 1
def ubSat (u : List Byte) : Bool := bit (byteAt u 2) 0
def ubNesterov (u : List Byte) : Bool := bit (byteAt u 2) 1
def ubAfmom (u : List Byte) : Bool := bit (byteAt u 2) 2
def ubNprog (u : List Byte) : Nat := byteAt u 3
def ubFr (u : List Byte) : Nat := fieldAt u 4 2
def ubNstate (u : List Byte) : Nat := byteAt u 6
def ubNcol (u : List Byte) : Nat := fieldAt u 8 4
def ubWaddr (u : List Byte) : Nat := fieldAt u 0x40 8
def ubSaddr (u : List Byte) : Nat := fieldAt u 0x48 8
def ubSpitch (u : List Byte) : Nat := fieldAt u 0x50 4
def ubOutaddr (u : List Byte) : Nat := fieldAt u 0x58 8
def ubOscaddr (u : List Byte) : Nat := fieldAt u 0x60 8
def ubProgaddr (u : List Byte) : Nat := fieldAt u 0x68 8

/-- Constant C[k], 0 to 15. -/
def ubConst (u : List Byte) (k : Nat) : FVal :=
  val32 (fieldAt u (if k < 12 then 0x10 + 4 * k else 0x70 + 4 * (k - 12)) 4)

/-- R243, with the shard boundaries of Adafactor for a bucket of `nval` values and `p` owners. -/
def ubOk (u : List Byte) (nval p : Nat) : Bool :=
  let opt := ubOpt u
  let af := opt == 5
  let mp := opt == 6
  decide (1 ≤ opt ∧ opt ≤ 6) &&
  (ubWfmt u == 0 || (fmtValid (ubWfmt u) && ubWfmt u != 1 && ubWfmt u != 0x21)) &&
  (!ubNesterov u || opt == 1) && (!ubAfmom u || af) && field (byteAt u 2) 7 3 == 0 &&
  (if mp then decide (1 ≤ ubNprog u ∧ ubNprog u ≤ 64) else ubNprog u == 0) &&
  (if mp then decide (ubNstate u ≤ 4) else ubNstate u == 0) &&
  (if af then decide (1 ≤ ubFr u ∧ 1 ≤ ubNcol u ∧ ubNcol u ≤ 16777216 ∧ ubFr u * ubNcol u % 4096 = 0)
   else ubFr u == 0 && ubNcol u == 0) &&
  byteAt u 7 == 0 && fieldAt u 0x0C 4 == 0 && fieldAt u 0x54 4 == 0 && ubSpitch u % 256 == 0 &&
  (fmtIsMx (ubWfmt u) || ubOscaddr u == 0) && (if mp then ubProgaddr u % 64 == 0 else ubProgaddr u == 0) &&
  (!af || (List.range (p + 1)).all (fun j => firstBlock j nval p * 4096 % (ubFr u * ubNcol u) == 0))

/-- State streams that an optimiser keeps as values indexed like the weights. -/
def ubStreams (u : List Byte) : Nat :=
  let o := ubOpt u
  if o = 1 ∨ o = 4 then 1 else if o = 2 ∨ o = 3 then 2 else if o = 5 then (ubAfmom u).toNat else ubNstate u

/-- Bands of a shard of `n` values; padding completes the last. -/
def ubBands (u : List Byte) (n : Nat) : Nat := ceilDiv n (ubFr u * ubNcol u)

/-- Ranges of the state areas of a shard of `n` values. -/
def ubStateRanges (u : List Byte) (n : Nat) : List (Nat × Nat) :=
  tabulate (ubStreams u) (fun k => (ubSaddr u + k * ubSpitch u, 4 * n)) ++
  (if ubOpt u = 5 then
    [(ubSaddr u + ubSpitch u, 4 * ubFr u * ubBands u n), (ubSaddr u + 2 * ubSpitch u, 4 * ubNcol u * ubBands u n)]
   else [])

/-- Ranges of the output weights of a shard that begins at value `first`. -/
def ubOutRanges (u : List Byte) (first n : Nat) : List (Nat × Nat) :=
  if ubWfmt u = 0 then []
  else (ubOutaddr u + fmtBytes (ubWfmt u) first, fmtBytes (ubWfmt u) n) ::
    (if fmtIsMx (ubWfmt u) then [(ubOscaddr u + first / 32, ceilDiv n 32)] else [])

/-- Everything an update writes, and what it reads besides. -/
def ubWrites (u : List Byte) (first n : Nat) : List (Nat × Nat) :=
  (ubWaddr u, 4 * n) :: (ubStateRanges u n ++ ubOutRanges u first n)
def ubReads (u : List Byte) : List (Nat × Nat) := if ubOpt u = 6 then [(ubProgaddr u, 4 * ubNprog u)] else []

/-! ### Single operations (R244) -/

/-- A quotient of R244: the infinite quotient of a finite value saturates. -/
def jQuot (a b : JVal) : JVal :=
  let f := a.2 ||| b.2
  let big := fun (s : Bool) => ((maxFloat32 s, f ||| fOVF) : JVal)
  match a.1, b.1 with
  | .nan, _ => (.nan, f ||| fNAN)
  | _, .nan => (.nan, f ||| fNAN)
  | .inf _, .inf _ => (.nan, f ||| fNAN)
  | .inf s, w => (.inf (s != w.neg?), f ||| fINF)
  | v, .inf s => (.zero (v.neg? != s), f)
  | .zero _, .zero _ => (.nan, f ||| fNAN)
  | .fin m _, .zero s => big (decide (m < 0) != s)
  | .zero s, .fin m _ => (.zero (s != decide (m < 0)), f)
  | .fin m1 e1, .fin m2 e2 => jRound (divExact m1 e1 m2 e2) f

/-- sign(x): +1.0, −1.0, +0 for either zero, NaN for NaN. -/
def signVal (v : FVal) : FVal :=
  match v with
  | .nan => .nan
  | .zero _ => .zero false
  | w => .fin (if w.neg? then -1 else 1) 0

/-- A value judged for NaN only. -/
def jExact (v : FVal) (f : Nat) : JVal := (v, f ||| (if v.isNan then fNAN else 0))

/-- RFLAGS bits of an update: UOVF from a saturation, UNAN from a NaN (R244, R250). -/
def updFlags (f : Nat) : Nat := (if bit f 0 then 4 else 0) + (if bit f 2 then 8 else 0)

/-- The update of one value (R244): weight and state after it, from GACC, weight and state. -/
def optimise (u : List Byte) (acc w : FVal) (st : List FVal) : JVal × List JVal :=
  let c := fun (k : Nat) => jOf (ubConst u k)
  let negLr := jOf (ubConst u 0).negate
  let g := jMul (jOf acc) (c 7)
  let w0 := jOf w
  let s := fun (k : Nat) => jOf (st.getD k (.zero false))
  let opt := ubOpt u
  if opt = 1 then
    let g1 := jFma (c 6) w0 g
    let m := jFma (c 1) (s 0) g1
    let dd := if ubNesterov u then jFma (c 1) m g1 else m
    (jFma negLr dd w0, [m])
  else if opt = 2 ∨ opt = 3 then
    let g1 := if opt = 2 then jFma (c 6) w0 g else g
    let m := jFma (c 1) (s 0) (jMul (c 2) g1)
    let v := jFma (c 3) (s 1) (jMul (c 4) (jMul g1 g1))
    let q := jQuot (jMul m (c 8)) (jAdd (jCr crSqrt (jMul v (c 9))) (c 5))
    let q1 := if opt = 3 then jFma (c 6) w0 q else q
    (jFma negLr q1 w0, [m, v])
  else
    let t := jFma (c 2) g (jMul (c 1) (s 0))
    let sg := jExact (signVal t.1) t.2
    (jFma negLr (jFma (c 6) w0 sg) w0, [jFma (c 4) g (jMul (c 3) (s 0))])

/-- What Adafactor makes of one band: weights, row vector, column vector, momentum, all flags. -/
structure BandResult where
  w : List JVal
  rowv : List JVal
  colv : List JVal
  m : List JVal
  deriving DecidableEq, Repr

/-- R245; lists of a band in row-major order, `acc` not yet multiplied by GSCALE. -/
def adafactor (u : List Byte) (acc w rowv colv m : List FVal) : BandResult :=
  let fr := ubFr u
  let nc := ubNcol u
  let c := fun (k : Nat) => jOf (ubConst u k)
  let at_ := fun (l : List JVal) (i : Nat) => l.getD i ((.zero false, 0) : JVal)
  let g := acc.map (fun a => jMul (jOf a) (c 7))
  let q := g.map (fun x => jFma x x (c 11))
  let rv := tabulate fr (fun r =>
    jFma (c 3) (jOf (rowv.getD r (.zero false))) (jMul (c 4) (jDiv (rowsum ((q.drop (nc * r)).take nc)) nc)))
  let cv := tabulate nc (fun k =>
    jFma (c 3) (jOf (colv.getD k (.zero false)))
      (jMul (c 4) (jDiv (rowsum (tabulate fr (fun r => at_ q (nc * r + k)))) fr)))
  let rbar := jDiv (rowsum rv) fr
  let uu := tabulate (fr * nc) (fun i => jMul (at_ g i) (jCr crRsqrt (jQuot (jMul (at_ rv (i / nc)) (at_ cv (i % nc))) rbar)))
  let rms := jCr crSqrt (jDiv (rowdot uu uu) (fr * nc))
  let q1 := jQuot rms (c 10)
  let k := jExact (fMax (.fin 1 0) q1.1) q1.2
  let u1 := uu.map (fun x => jQuot x k)
  let m1 := if ubAfmom u then
      tabulate (fr * nc) (fun i => jFma (c 1) (jOf (m.getD i (.zero false))) (jMul (c 2) (at_ u1 i))) else []
  let u2 := if ubAfmom u then m1 else u1
  { w := tabulate (fr * nc) (fun i =>
      let w0 := jOf (w.getD i (.zero false))
      jFma (jOf (ubConst u 0).negate) (jFma (c 6) w0 (at_ u2 i)) w0)
    rowv := rv
    colv := cv
    m := m1 }

/-! ### FP32 arrays in device memory -/

/-- Value `i` of an FP32 array at `a`. -/
def Dev.f32At (d : Dev) (a i : Nat) : FVal := val32 (leNat (d.mem.dram.readN (a + 4 * i) 4))
def Dev.f32s (d : Dev) (a n : Nat) : List FVal := tabulate n (fun i => d.f32At a i)

/-- The bytes of FP32 values. -/
def f32Bytes (l : List FVal) : List Byte := l.flatMap (fun v => leBytes 4 (enc32 v))

/-! ### What units count (R248, R250) -/

/-- Flags of a result enter RFLAGS of its unit; OVF or UOVF makes the beat report OK_OVERFLOW (R235, R244). -/
def Dev.stagFlags (d : Dev) (u f : Nat) : Dev :=
  if f = 0 then d
  else
    let old := d.num (STG.RFLAGS u)
    let d1 := d.setNum (STG.RFLAGS u) (old ||| f)
    let d2 := if old = 0 then d1.irq (STG.page u) 2 else d1
    if bit f 0 || bit f 2 then d2.success 3 else d2

/-- Lane-cycles of a phase by unit: each unit is busy ceil(lane-cycles / 256) controller cycles. `l` lists the address of
each value with its lane-cycles. -/
def Dev.laneBusy (d : Dev) (l : List (Nat × Nat)) : Dev :=
  (List.range 12).foldl (fun d u =>
    d.count64 (STG.LANECYC u)
      (ceilDiv ((l.filter (fun (e : Nat × Nat) => stackOf e.1 == u)).foldl (fun s (e : Nat × Nat) => s + e.2) 0) 256)) d

/-- Lane-cycles per value of an optimiser (R248); Adafactor's terms per band are `bandCost`. -/
def optCost (u : List Byte) : Nat :=
  let o := ubOpt u
  if o = 1 then (if ubNesterov u then 5 else 4) else if o = 4 then 8
  else if o = 5 then (if ubAfmom u then 23 else 21) else 19
def bandCost (u : List Byte) : Nat := 8 * (ubFr u + ubNcol u) + 16

/-! ### The optimisers on a shard -/

/-- Values updated: UPDCNT and RFLAGS by the unit of each value's GACC entry. -/
def Dev.countUpdates (d : Dev) (gacc : Nat) (flags : List Nat) : Dev :=
  (List.range flags.length).foldl (fun (d : Dev) i =>
    let u := stackOf (gacc + 4 * i)
    (d.count64 (STG.UPDCNT u) 1).stagFlags u (updFlags (flags.getD i 0))) d

/-- OPT 1 to 4: every value by itself. -/
def Dev.runSimple (d : Dev) (u : List Byte) (gacc n : Nat) : Dev :=
  let k := ubStreams u
  let r := tabulate n (fun i =>
    optimise u (d.f32At gacc i) (d.f32At (ubWaddr u) i) (tabulate k (fun j => d.f32At (ubSaddr u + j * ubSpitch u) i)))
  let d1 := d.engWrite (ubWaddr u) (f32Bytes (r.map (fun e => e.1.1))) (blockName .stg 0)
  let d2 := (List.range k).foldl (fun d j =>
    d.engWrite (ubSaddr u + j * ubSpitch u) (f32Bytes (r.map (fun e => (e.2.getD j ((.zero false, 0) : JVal)).1))) (blockName .stg 0)) d1
  d2.countUpdates gacc (r.map (fun e => orAll (e.1.2 :: e.2.map (fun x => x.2))))

/-- Adafactor on the bands of a shard; positions beyond the bucket hold +0 and are not stored. -/
def Dev.runBands (d : Dev) (u : List Byte) (gacc n : Nat) : Dev :=
  let sz := ubFr u * ubNcol u
  (List.range (ubBands u n)).foldl (fun (d : Dev) b =>
    let o := sz * b
    let k := min sz (n - o)
    let ra := ubSaddr u + ubSpitch u + 4 * ubFr u * b
    let ca := ubSaddr u + 2 * ubSpitch u + 4 * ubNcol u * b
    let r := adafactor u (padTo sz (.zero false) (d.f32s (gacc + 4 * o) k)) (padTo sz (.zero false) (d.f32s (ubWaddr u + 4 * o) k))
      (d.f32s ra (ubFr u)) (d.f32s ca (ubNcol u)) (padTo sz (.zero false) (d.f32s (ubSaddr u + 4 * o) k))
    let d1 := (d.engWrite ra (f32Bytes (r.rowv.map (fun e => e.1))) (blockName .stg 0)).engWrite ca
      (f32Bytes (r.colv.map (fun e => e.1))) (blockName .stg 0)
    let d2 := d1.engWrite (ubWaddr u + 4 * o) (f32Bytes ((r.w.take k).map (fun e => e.1))) (blockName .stg 0)
    let d3 := if ubAfmom u then
        d2.engWrite (ubSaddr u + 4 * o) (f32Bytes ((r.m.take k).map (fun e => e.1))) (blockName .stg 0) else d2
    let band := orAll ((r.rowv ++ r.colv).map (fun e => e.2))
    (d3.countUpdates (gacc + 4 * o) ((r.w.take k).map (fun e => e.2))).stagFlags (stackOf (gacc + 4 * o)) (updFlags band)) d

/-- Adafactor's lane-cycles per band, on the unit of the band's first GACC entry (R248). -/
def bandLanes (u : List Byte) (gacc n : Nat) : List (Nat × Nat) :=
  (List.range (ubBands u n)).map (fun b => (gacc + 4 * (ubFr u * ubNcol u * b), bandCost u))

/-- The packed output weights of a shard that begins at value `first`, and their scale bytes (R247). -/
def Dev.outBytes (d : Dev) (u : List Byte) (n : Nat) : List Byte × List Byte :=
  let ws := d.f32s (ubWaddr u) n
  let f := ubWfmt u
  if fmtIsMx f then
    let r := tabulate (ceilDiv n 32) (fun c => convRow f (ubSat u) (padTo 32 (.zero false) ((ws.drop (32 * c)).take 32)))
    (packElems f ((r.flatMap (fun e => e.1)).take n), r.map (fun e => BitVec.ofNat 8 e.2.1))
  else (packElems f (ws.map (fun w => (convertTo f w (ubSat u)).1)), [])

end Sys2Proof.Machine
end

