-- ==== Sys2Proof/Machine/Jobs.lean ====
section
/-!
DEFINITION. Job descriptors of the submission rings (18 R367-R372): their fields, the order in which a close window applies
them, the checks every type shares, and the completions they form.
-/
namespace Sys2Proof.Machine

/-! ### Ring registers (R379) and job descriptors (R369) -/

/-- The register at offset `off` of the HST page as function `fn` sees it: the page for the PF, the view for a VF. -/
def ringReg (fn off : Nat) : Nat := if fn = 0 then off else viewBase fn + off

def Dev.ringOn (d : Dev) (fn : Nat) : Bool := d.flag (ringReg fn 0x58) 0
def Dev.sqBase (d : Dev) (fn : Nat) : Nat := d.num64 (ringReg fn 0x40)
def Dev.sqSize (d : Dev) (fn : Nat) : Nat := d.num (ringReg fn 0x48)
def Dev.cqSize (d : Dev) (fn : Nat) : Nat := d.num (ringReg fn 0x4C)
def Dev.cqBase (d : Dev) (fn : Nat) : Nat := d.num64 (ringReg fn 0x50)

def jType (b : List Byte) : Nat := byteAt b 0
def jdFlags (b : List Byte) : Nat := byteAt b 1
def jImage (b : List Byte) : Nat := fieldAt b 2 2
def jJob (b : List Byte) : Nat := fieldAt b 4 4
def jAddr (b : List Byte) : Nat := fieldAt b 8 8
def jArg (b : List Byte) : Nat := fieldAt b 0x10 4
def jPayload (b : List Byte) : List Byte := (b.drop 0x20).take 32
/-- OP of a HIVECMD or FORCMD payload (R261, R281). -/
def jOp (b : List Byte) : Nat := byteAt b 0x20

/-- A reserved field of R369 is not 0, or a field holds what its type does not have (log entry 9). -/
def jobReservedBad (fn : Nat) (b : List Byte) : Bool :=
  let t := jType b
  field (jdFlags b) 7 2 != 0 ||
  (bit (jdFlags b) 0 && t != 1) ||
  (bit (jdFlags b) 1 && (t != 3 || fn != 0)) ||
  (if t = 3 ∨ t = 4 then decide (255 < jImage b) else jImage b != 0) ||
  (jAddr b != 0 && t != 1 && t != 3) ||
  (if t = 1 then decide (jArg b = 0 ∨ 65536 < jArg b) else t != 2 && jArg b != 0) ||
  fieldAt b 0x14 12 != 0 ||
  (fieldAt b 0x20 32 != 0 && t != 5 && t != 6)

/-! ### Completions (R372) -/

/-- A completion is formed for function `fn`. -/
def Dev.postDone (d : Dev) (fn : Nat) (c : Completion) : Dev :=
  { d with host := { d.host with done := d.host.done ++ [(fn, c)] } }

/-- What the 8 bytes at 0x10 hold for a job that has no value of its own there: a RUN that ran no beat has no last beat,
and the spec names no value (log entry 9). -/
def Dev.noLastBeat (d : Dev) : Nat × Dev := (d.freshNat.1 % 2 ^ 64, d.freshNat.2)

/-- A notification (TYPE 0) for a sequence: OK when it is DONE, KV_POOL_EXHAUSTED; its JOB is not stated (log 15). -/
def Dev.notifySeq (d : Dev) (fn code seqid : Nat) : Dev :=
  d.freshWord.2.postDone fn ⟨d.freshWord.1, code, 0, 0, d.beatNum, seqid⟩

/-- LASTCODE of a tenancy and ERRSUM.CMDFAULT follow a Hive command (R268); a feed's LASTCODE a FORCMD (R301). -/
def Dev.noteCommand (d : Dev) (fn code : Nat) (b : List Byte) : Dev :=
  if jType b = 5 then
    let d1 := d.setFld (TEN.TENSTAT fn) 15 8 code
    if code = 0 then d1 else d1.err HIV.page 12
  else if jType b = 6 ∧ jOp b ≠ 4 ∧ byteAt b 0x21 < 16 then
    d.setFeed (byteAt b 0x21) { d.feed (byteAt b 0x21) with code := code }
  else d

/-- The completion of a job descriptor. -/
def Dev.answerJob (d : Dev) (fn : Nat) (b : List Byte) (code aux info : Nat) : Dev :=
  (d.noteCommand fn code b).postDone fn ⟨BitVec.ofNat 32 (jJob b), code, jType b, aux, d.beatNum, info⟩

/-- The completion of a descriptor that takes no effect: the entry or image it names, its SEQID. A registration refused sets
IMAGEREJECT (R71). -/
def Dev.refuseJob (d : Dev) (fn : Nat) (b : List Byte) (code : Nat) : Dev :=
  if jType b = 1 then d.noLastBeat.2.answerJob fn b code 0 d.noLastBeat.1
  else if jType b = 3 then (if code = 0xB0 then d else d.err CKT.page 11).answerJob fn b code (jImage b) 0
  else if jType b = 4 then d.answerJob fn b code (jImage b) 0
  else if jType b = 5 then d.answerJob fn b code (fieldAt b 0x24 2) (fieldAt b 0x28 4)
  else d.answerJob fn b code 0 0

/-! ### The order of application (R370) -/

/-- The lowest function with a fetched descriptor left. -/
def Dev.firstFn (d : Dev) : Option Nat :=
  match d.host.fetched.map (fun (p : Nat × List Byte) => p.1) with
  | [] => none
  | f :: fs => some (fs.foldl min f)

/-- The oldest fetched descriptor of function `fn`. -/
def Dev.fnHead (d : Dev) (fn : Nat) : Option (List Byte) :=
  (d.host.fetched.find? (fun (p : Nat × List Byte) => p.1 == fn)).map (fun (p : Nat × List Byte) => p.2)

/-- It leaves. -/
def Dev.popFetched (d : Dev) (fn : Nat) : Dev :=
  { d with host := { d.host with fetched := d.host.fetched.eraseP (fun (p : Nat × List Byte) => p.1 == fn) } }

/-- A descriptor that no command row stands for: an invalid TYPE, or an invalid OP of a Hive or Forager command. -/
def jobInvalid (b : List Byte) : Bool :=
  let t := jType b
  decide (t = 0 ∨ 6 < t) || (t == 5 && decide (jOp b = 0 ∨ 5 < jOp b)) || (t == 6 && decide (jOp b = 0 ∨ 4 < jOp b))

/-- What meets a fetched descriptor before its own checks: a reset of the block it is for absorbs it (R396), a page that is
not READY answers NOT_READY (R382; log entry 9). -/
def Dev.jobGate (d : Dev) (b : List Byte) : Option Nat :=
  if d.inReset CKT.page || (jType b == 5 && d.inReset HIV.page) || (jType b == 6 && d.inReset (FOR.page 0)) then
    some 0xB0
  else if !d.ready HST.page || (jType b == 5 && !d.ready HIV.page) || (jType b == 6 && !d.ready (FOR.page 0)) then
    some 0xA5
  else none

/-- A descriptor is refused at its gate. -/
def Dev.gateJob (d : Dev) (fn : Nat) (b : List Byte) (code : Nat) : Dev :=
  (if code = 0xB0 then d.absorb else d).refuseJob fn b code

/-- Leading descriptors that no command row stands for complete with BAD_DESCRIPTOR, in their turn. -/
def Dev.settleJobs : Nat → Dev → Dev
  | 0, d => d
  | n + 1, d =>
    match d.firstFn with
    | none => d
    | some fn =>
      match d.fnHead fn with
      | none => d
      | some b =>
        if jobInvalid b then
          Dev.settleJobs n ((d.popFetched fn).gateJob fn b ((d.jobGate b).getD 0x10))
        else d

/-- The descriptor a job command acts on: the head of function `fn`, in the close window, where no lower function has
descriptors left and `want` says that it is of the command's type. -/
def Dev.headJob (d : Dev) (fn : Nat) (want : List Byte → Bool) : Option (List Byte) :=
  if d.cricket.phase == .marked && d.firstFn == some fn then (d.fnHead fn).filter want else none

/-- A job command: its descriptor leaves the fetched ones and is gated, or acts. -/
def Dev.jobCommand (d : Dev) (fn : Nat) (want : List Byte → Bool) (act : Dev → List Byte → Dev) : Dev :=
  match d.headJob fn want with
  | none => d
  | some b =>
    let d0 := d.popFetched fn
    let d1 := match d0.jobGate b with
      | some code => d0.gateJob fn b code
      | none => act d0 b
    Dev.settleJobs d1.host.fetched.length d1

/-! ### Jobs that stop -/

/-- A RUN job ends with a code (R369, R370): its completion, and it leaves the active ones. -/
def Dev.endJob (d : Dev) (j : Job) (code : Nat) : Dev :=
  let d1 := { d with host := { d.host with
    jobs := d.host.jobs.filter (fun (x : Job) => !(x.fn == j.fn && x.job == j.job))
    ended := d.host.ended ++ [(j.fn, j.job)]
    waiting := d.host.waiting.filter (fun (x : Job) => !(x.fn == j.fn && x.job == j.job)) } }
  d1.postDone j.fn ⟨j.job, code, 1, 0, d.beatNum, j.lastBeat⟩

/-- A function has at most 16 active RUN jobs; the next that waits becomes active (R370). -/
def activeOf (l : List Job) (fn : Nat) : Nat := (l.filter (fun (x : Job) => x.fn == fn)).length

def Dev.promote (d : Dev) (fn : Nat) : Dev :=
  match d.host.waiting.find? (fun (x : Job) => x.fn == fn) with
  | some j =>
    if activeOf d.host.jobs fn < 16 then
      { d with host := { d.host with
          waiting := d.host.waiting.erase j
          jobs := d.host.jobs ++ [j] } }
    else d
  | none => d

/-- Every function's waiting jobs move up. -/
def Dev.promoteAll (d : Dev) : Dev :=
  (d.host.waiting.map (fun (x : Job) => x.fn)).foldl Dev.promote d

end Sys2Proof.Machine
end

