-- ==== Sys2Proof/Machine/Marker.lean ====
section
/-!
DEFINITION. Beat markers (03 R65, R69; 13 R293, R294; 14 R321): how one is formed, sent, forwarded and acted on.
-/
namespace Sys2Proof.Machine

def mkBeat (t : Txn) : Nat := t.addr.toNat
def mkJob (t : Txn) : Word := t.arg0
def mkCode (t : Txn) : Nat := field t.arg1.toNat 7 0
def mkHold (t : Txn) : Bool := bit t.arg1.toNat 8
def mkFwd (t : Txn) : Bool := bit t.arg1.toNat 9
def mkOrigin (t : Txn) : Nat := field t.arg1.toNat 23 10

/-- A BEATMARK of this device (R313). -/
def Dev.marker (d : Dev) (n : Nat) (job : Word) (code : Nat) (hold fwd : Bool) (origin : Nat) : Txn :=
  { d.mkReq 6 0 0 job.toNat (n % 2 ^ 64) (code + 256 * hold.toNat + 512 * fwd.toNat + 1024 * origin) [] with
    lenTen := 0#8 }

/-- A control transaction leaves on every ACTIVE port but one (R321). -/
def Dev.pushAll (d : Dev) (t : Txn) (but : Option Nat) : Dev :=
  (List.range 24).foldl (fun (d : Dev) p => if d.portActive p && but != some p then d.pushTxn p t else d) d

/-- What identifies a forwarded marker (R321): JOB, beat number, HOLD. -/
def mkKey (t : Txn) : Word × Nat × Bool := (mkJob t, mkBeat t, mkHold t)

/-- A marker with FWD = 1 is noted, so that later copies are dropped. -/
def Dev.noteMarker (d : Dev) (t : Txn) : Dev :=
  { d with cricket := { d.cricket with seen := mkKey t :: d.cricket.seen } }

/-- This device originates a marker. -/
def Dev.sendMarker (d : Dev) (t : Txn) : Dev := (if mkFwd t then d.noteMarker t else d).pushAll t none

/-- An image holds an ASSEMBLE. -/
def Image.assembles (i : Image) : Bool := i.engines.contains 0x0A

/-- A HOLD for (JOB, beat) is in force (R293); one that reaches an ASSEMBLE image already admitted for that beat, or
running in it, fails the beat with LINK_TIMEOUT (R294). -/
def Dev.takeHold (d : Dev) (job : Word) (n : Nat) : Dev :=
  let d1 := { d with cricket := { d.cricket with holds := (job, n) :: d.cricket.holds } }
  let hitNext := match d.cricket.next with
    | some x => x.job == job && x.image.assembles && decide (d.beatNum + 1 = n)
    | none => false
  let hitCur := match d.cricket.cur with
    | some b => b.job == job && decide (b.n = n) && (match b.image with | some i => i.assembles | none => false) && d.beatOpen
    | none => false
  if hitNext then
    { d1.err (FOR.page 0) 14 with
      cricket := { d1.cricket with next := d1.cricket.next.map (fun (x : NextBeat) => { x with late := true }) } }
  else if hitCur then (d1.err (FOR.page 0) 14).beatFail 0x50 (blockName .forager 0) 0
  else d1

/-- A failure marker for a job that runs here stops it at the next C (R69). -/
def Dev.takeStop (d : Dev) (t : Txn) : Dev :=
  if d.host.jobs.any (fun (j : Job) => j.job == mkJob t) then
    { d with cricket := { d.cricket with stops := d.cricket.stops ++ [(⟨mkJob t, mkCode t, mkOrigin t, mkBeat t⟩ : StopMark)] } }
  else d

/-- Whether a BEATMARK keeps R312 and R313. -/
def markerOk (t : Txn) : Bool :=
  t.kindN == 6 && t.dst == 0#16 && decide (t.src.toNat < 2 ^ 14) && t.tid == 0#32 && t.len == 0 && t.payload == [] &&
  decide (t.arg1.toNat < 2 ^ 24)

def Dev.beatMark (d : Dev) (p : Nat) (t : Txn) : Dev :=
  if !d.portActive p then d
  else if !markerOk t then d.err (LNK.page p) 2
  else if !mkFwd t then
    (if mkBeat t = d.beatNum then d else d.err (LNK.page p) 15)
  else if d.cricket.seen.contains (mkKey t) then
    (if t.resent then d.countSat (LNK.RESENTCNT p) 1 else d)
  else
    let d0 := d.noteMarker t
    let d1 := if 63 ≤ t.hops then d0.hopLimit (some p) else d0.pushAll (t.setHops (t.hops + 1)) (some p)
    if mkHold t then d1.takeHold (mkJob t) (mkBeat t)
    else if mkCode t < 0x10 then d1
    else d1.takeStop t

/-- BEATMARK (R69, R293, R294, R321). -/
def execBeatmark (p : Fin 24) (t : Txn) (s : State) : Host.Outcome State Fault Refusal := onDev (·.beatMark p t) s

/-! ### CTL transactions in a flit (R309) -/

/-- The CTL transactions of a flit are consumed as it is accepted; a TIME transaction's timestamps are of this tick, which 0.1 ns
of it being free. -/
def Dev.takeCtl (p : Nat) (d : Dev) (t : Txn) : Dev :=
  if t.kindN = 6 then d.beatMark p t
  else
    let t2 := 100 * d.now + d.freshNat.1 % 100
    let e := d.freshNat.2
    match timePhase t with
    | 0 => e.freshNat.2.timeSync p t t2 (t2 + e.freshNat.1 % 100)
    | 1 => e.timeDelayreq p t t2
    | 2 => e.timeDelayresp p t
    | _ => e.err (LNK.page p) 2

def Dev.flitData (d : Dev) (p : Nat) (h : FlitHdr) (intact : Bool) (body : List Byte) : Dev :=
  if !d.flitsFlow p then d
  else if !intact then d.flitBad p
  else
    let d1 := d.takeHeader p h
    if h.fseq.toNat = (d1.port p).expected then
      let r := d1.acceptFlit p body
      (r.2.foldl (Dev.takeCtl p) r.1).pump p
    else d1.pump p

/-- FLIT_DATA (R309, R310): accepted only intact and in order; a CRC mismatch is answered with one NAK. -/
def execFlitData (p : Fin 24) (h : FlitHdr) (intact : Bool) (body : List Byte) (s : State) :
    Host.Outcome State Fault Refusal := onDev (·.flitData p h intact body) s

end Sys2Proof.Machine
end

