-- ==== Sys2Proof/Machine/Shards.lean ====
section
/-!
DEFINITION. The Forager's background work (13 R270-R284, R295-R300): shards and records, decoding, the tokenizer, feeds and
their cache, live streams, the vote, encoding and the FORCMD jobs.
-/
namespace Sys2Proof.Machine

/-! ### Feed blocks (R282) and sample records (R283) -/

def fbMode (b : List Byte) : Nat := byteAt b 0
def fbRefill (b : List Byte) : Bool := bit (byteAt b 1) 0
def fbClamp (b : List Byte) : Bool := bit (byteAt b 1) 1
def fbOutfmt (b : List Byte) : Nat := byteAt b 2
def fbLook (b : List Byte) : Nat := byteAt b 3
def fbSlots (b : List Byte) : Nat := fieldAt b 4 2
def fbSlowx (b : List Byte) : Nat := fieldAt b 6 2
def fbOh (b : List Byte) : Nat := fieldAt b 8 2
def fbOw (b : List Byte) : Nat := fieldAt b 0xA 2
def fbFrames (b : List Byte) : Nat := fieldAt b 0xC 2
def fbAudioch (b : List Byte) : Nat := byteAt b 0xE
def fbOutrate (b : List Byte) : Nat := fieldAt b 0x10 4
def fbAudiolen (b : List Byte) : Nat := fieldAt b 0x14 4
def fbMaxtok (b : List Byte) : Nat := fieldAt b 0x18 4
def fbPadtok (b : List Byte) : Nat := fieldAt b 0x1C 4
def fbJob (b : List Byte) : Nat := fieldAt b 0x20 4
def fbPitch (b : List Byte) : Nat := fieldAt b 0x24 4
def fbCache (b : List Byte) : Nat := fieldAt b 0x28 8
def fbCacheSize (b : List Byte) : Nat := fieldAt b 0x30 8
def fbReport (b : List Byte) : Nat := fieldAt b 0x38 8
def fbReportSize (b : List Byte) : Nat := fieldAt b 0x40 4
def fbNmerge (b : List Byte) : Nat := fieldAt b 0x44 4
def fbVocab (b : List Byte) : Nat := fieldAt b 0x48 8
def fbRstable (b : List Byte) : Nat := fieldAt b 0x50 8

def srId (r : List Byte) : List Byte := r.take 8
def srShard (r : List Byte) : Nat := fieldAt r 8 8
def srRecord (r : List Byte) : Nat := fieldAt r 0x10 4
def srField (r : List Byte) : Nat := fieldAt r 0x14 2
def srStream (r : List Byte) : Nat := byteAt r 0x16
def srParam (r : List Byte) : Nat := fieldAt r 0x18 8
def srFirst (r : List Byte) : Nat := fieldAt r 0x20 4
def srBatch (r : List Byte) : Nat := fieldAt r 0x24 4
def srSlot (r : List Byte) : Nat := fieldAt r 0x28 2

/-- BATCH of a standby sample. -/
def standby : Nat := 0xFFFFFFFF

/-- A record with another BATCH and SLOT. -/
def srPlace (r : List Byte) (batch slot : Nat) : List Byte := r.take 0x24 ++ leBytes 4 batch ++ leBytes 2 slot ++ r.drop 0x2A

/-! ### Shards and records (R273-R275) -/

def shNrec (h : List Byte) : Nat := fieldAt h 8 4
def shIndex (h : List Byte) : Nat := fieldAt h 0x10 8
def shBytes (h : List Byte) : Nat := fieldAt h 0x18 8
def shId (h : List Byte) : List Byte := (h.drop 0x20).take 8

/-- MAGIC, VERSION and HCRC of a shard header (R275). -/
def shHeaderOk (h : List Byte) : Bool :=
  fieldAt h 0 4 == 0x53525A57 && fieldAt h 4 2 == 1 && crc32c (h.take 0x3C) == fieldAt h 0x3C 4

/-- An index entry points outside SHARDBYTES. -/
def shEntryOut (h idx : List Byte) (i : Nat) : Bool := decide (shBytes h < fieldAt idx (16 * i) 8 + fieldAt idx (16 * i + 8) 4)

/-- The check of a shard (R275): none, SHARD_INVALID, or STACK_UNCORRECTABLE where its bytes hold an error (R295). -/
def Dev.shardCheck (d : Dev) (fn a : Nat) : Option Nat × Dev :=
  if !d.inRegion fn a 64 then (some 0x72, d)
  else
    let r := d.quietRead a 64
    let h := r.2.1
    let n := 16 * shNrec h
    if r.1 then (some 0x31, r.2.2)
    else if !shHeaderOk h then (some 0x72, r.2.2)
    else if !d.inRegion fn (a + shIndex h) (n + 4) || decide (shBytes h < shIndex h + n + 4) then (some 0x72, r.2.2)
    else
      let x := r.2.2.quietRead (a + shIndex h) (n + 4)
      let idx := x.2.1
      if x.1 then (some 0x31, x.2.2)
      else if crc32c (idx.take n) ≠ fieldAt idx n 4 ∨ (List.range (shNrec h)).any (shEntryOut h idx) then (some 0x72, x.2.2)
      else (none, x.2.2)

/-- The fields of a record body: type, codec, value (R274); none where one passes the end, or bytes are left. -/
def parseFields : Nat → List Byte → Option (List (Nat × Nat × List Byte))
  | 0, bs => if bs = [] then some [] else none
  | n + 1, bs =>
    let len := fieldAt bs 4 4
    let size := 8 + 8 * ceilDiv len 8
    if bs.length < size then none
    else (parseFields n (bs.drop size)).map (fun l => (fieldAt bs 0 2, fieldAt bs 2 2, (bs.drop 8).take len) :: l)

/-- The fields of a record of `len` bytes, where it passes RMAGIC, BODYLEN, field bounds and RCRC (R275). -/
def recordFields (r : List Byte) (len : Nat) : Option (List (Nat × Nat × List Byte)) :=
  let n := fieldAt r 4 2
  if fieldAt r 0 4 = 0x43455257 ∧ 1 ≤ n ∧ n ≤ 64 ∧ 32 + fieldAt r 0x10 4 = len ∧ r.length = len ∧
      crc32c (r.take 0x1C ++ r.drop 32) = fieldAt r 0x1C 4 then
    parseFields n (r.drop 32)
  else none

/-- The codec fits the field type (R276). -/
def codecFits (ty codec : Nat) : Bool :=
  if ty = 1 then decide (0x101 ≤ codec ∧ codec ≤ 0x105)
  else if ty = 2 then decide (0x201 ≤ codec ∧ codec ≤ 0x204)
  else if ty = 3 then decide (0x301 ≤ codec ∧ codec ≤ 0x303)
  else codec == 0x401

/-! ### The supported subsets (R276) and what decodes to (R277, R278) -/

/-- A profile or an option of a field lies outside the table of R276, by what its headers signal: JPEG process (0 baseline,
1 progressive), entropy coding (0 Huffman), bits, components, largest sampling factor; JPEG 2000 block coder (0 Part 1, 1
HT), components, bits, transform (0 5/3, 1 9/7); DPX version (10, 20), descriptor (0 luma, 1 RGB, 2 RGBA), bits, packing
(1 method A, 2 method B), run-length coding; AVC profile (0 Main, 1 High, 2 High 10), interlacing, level x 10; HEVC profile
(0 Main, 1 Main 10, 2 Main 4:4:4 12), level x 10; AV1 profile (0 Main, 1 High), bits, level x 10; FFV1 version, coder (1 range
coder), colour space (0 YCbCr, 1 RGB), bits; FLAC channels, bits, rate; Opus mapping family, channels. -/
def codecOutside (codec : Nat) (s : List Nat) : Bool :=
  let p := fun (i : Nat) => s.getD i 0
  if codec = 0x101 then
    decide (1 < p 0) || p 1 != 0 || p 2 != 8 || !([1, 3].contains (p 3)) || decide (p 4 = 0 ∨ 2 < p 4)
  else if codec = 0x102 ∨ codec = 0x103 then
    p 0 != codec - 0x102 || decide (p 1 = 0 ∨ 4 < p 1) || decide (p 2 = 0 ∨ 16 < p 2) || decide (1 < p 3)
  else if codec = 0x105 then
    !([10, 20].contains (p 0)) || decide (2 < p 1) || !([8, 10, 12, 16].contains (p 2)) ||
    (p 2 == 10 && !([1, 2].contains (p 3))) || p 4 != 0
  else if codec = 0x201 then decide (2 < p 0) || p 1 != 0 || decide (52 < p 2)
  else if codec = 0x202 then decide (2 < p 0) || decide (61 < p 1)
  else if codec = 0x203 then decide (1 < p 0) || !([8, 10].contains (p 1)) || decide (61 < p 2)
  else if codec = 0x204 then p 0 != 3 || p 1 != 1 || decide (1 < p 2) || decide (p 3 < 8 ∨ 16 < p 3)
  else if codec = 0x301 then decide (p 0 = 0 ∨ 8 < p 0) || decide (p 1 < 8 ∨ 24 < p 1) || decide (192000 < p 2)
  else if codec = 0x302 then decide (1 < p 0) || decide (p 1 = 0 ∨ 8 < p 1)
  else false

/-- The chunks of a RIFF file after its head: identifier and bytes (log entry 20). -/
def riffChunks : Nat → List Byte → List (Nat × List Byte)
  | 0, _ => []
  | n + 1, bs =>
    if bs.length < 8 then []
    else (fieldAt bs 0 4, (bs.drop 8).take (fieldAt bs 4 4)) :: riffChunks n (bs.drop (8 + 2 * ceilDiv (fieldAt bs 4 4) 2))

/-- LPCM in BWF (R276, R277): RIFF WAVE with its fmt and data chunks; 16-, 24- and 32-bit integer and 32-bit float, 1 to 64
channels, 8 to 192 kHz. -/
def decodeLpcm (v : List Byte) : Nat × List (List Nat) :=
  let cs := riffChunks v.length (v.drop 12)
  let chunk := fun (id : Nat) => (cs.find? (fun (c : Nat × List Byte) => c.1 == id)).map (fun (c : Nat × List Byte) => c.2)
  match decide (fieldAt v 0 4 = 0x46464952 ∧ fieldAt v 8 4 = 0x45564157), chunk 0x20746D66, chunk 0x61746164 with
  | true, some f, some x =>
    let tag := if fieldAt f 0 2 = 0xFFFE then fieldAt f 24 2 else fieldAt f 0 2
    let ch := fieldAt f 2 2
    let rate := fieldAt f 4 4
    let bits := fieldAt f 14 2
    if f.length < 16 then (0x70, [])
    else if !((tag == 1 && [16, 24, 32].contains bits) || (tag == 3 && bits == 32)) || decide (ch = 0 ∨ 64 < ch) ||
        decide (rate < 8000 ∨ 192000 < rate) then (0x71, [])
    else
      let n := x.length / (ch * (bits / 8)) * ch
      (0, [[rate, ch, if tag = 3 then 0 else bits] ++ tabulate n (fun i => fieldAt x (bits / 8 * i) (bits / 8))])
  | _, _, _ => (0x70, [])

/-- A frame's place in display order. -/
def frameOrder (fr : List Nat) : Nat := fr.getD 3 0

/-- Insert a frame into frames in display order, after those of its place. -/
def insertFrame (x : List Nat) : List (List Nat) → List (List Nat)
  | [] => [x]
  | y :: l => if frameOrder x < frameOrder y then x :: y :: l else y :: insertFrame x l

/-- What a field of TYPE `ty` decodes to (R276-R278): a code, and its frames, a video's in display order. Opus is integer
input of 16 bits at 48 kHz. -/
def decodeField (ty codec : Nat) (v : List Byte) : Nat × List (List Nat) :=
  if codec = 0x303 then decodeLpcm v
  else if codecOutside codec (Config.signal codec v) then (0x71, [])
  else
    let c := Config.decode codec v
    if c.1 ≠ 0 ∨ c.2 = [] then (0x70, [])
    else if codec = 0x302 then (0, c.2.map (fun a => [48000, a.getD 1 1, 16] ++ a.drop 3))
    else if ty = 2 then (0, c.2.foldl (fun l x => insertFrame x l) [])
    else (0, c.2)

/-- The cache entries of a decoded field. -/
def cacheEntries (key id : List Byte) (ty : Nat) (fs : List (List Nat)) : List Cached :=
  (List.range fs.length).map (fun i =>
    let x := fs.getD i []
    (⟨key, id, i, fs.length, ty, if ty ≤ 2 then x.getD 2 0 else 0, x, Config.cacheSize x⟩ : Cached))

/-! ### The tokenizer (R279) -/

/-- Merge the pair at its leftmost occurrence. -/
def mergeOnce (l r t : Nat) : List Nat → Option (List Nat)
  | x :: y :: rest =>
    if x = l ∧ y = r then some (t :: rest) else (mergeOnce l r t (y :: rest)).map (fun z => x :: z)
  | _ => none

/-- The lowest-ranked pair present is merged. -/
def mergeLowest : List (Nat × Nat) → Nat → List Nat → Option (List Nat)
  | [], _, _ => none
  | (l, r) :: ms, rank, toks =>
    match mergeOnce l r (256 + rank) toks with
    | some z => some z
    | none => mergeLowest ms (rank + 1) toks

/-- Merges until none applies; each shortens the list by one. -/
def mergeAll (ms : List (Nat × Nat)) : Nat → List Nat → List Nat
  | 0, toks => toks
  | n + 1, toks =>
    match mergeLowest ms 0 toks with
    | some z => mergeAll ms n z
    | none => toks

/-- The merge table of a feed. -/
def mergeTable (bytes : List Byte) (n : Nat) : List (Nat × Nat) :=
  (List.range n).map (fun r => (fieldAt bytes (8 * r) 4, fieldAt bytes (8 * r + 4) 4))

def tokenize (ms : List (Nat × Nat)) (bs : List Byte) : List Nat := mergeAll ms bs.length (bs.map (fun b => b.toNat))

/-! ### Feeds (R280-R284) -/

def Feed.sample (f : Feed) (pos : Nat) : List Byte := f.records.getD pos []

/-- Outcome of the sample at a position: 0 decoded, a failure code, or none yet. -/
def Feed.outcome (f : Feed) (pos : Nat) : Option Nat :=
  (f.outcomes.find? (fun (o : Nat × Nat) => o.1 == pos)).map (fun (o : Nat × Nat) => o.2)

/-- The sample at a position belongs to a batch: it is no standby sample, and none has replaced it. -/
def Feed.placed (f : Feed) (pos : Nat) : Bool := srBatch (f.sample pos) != standby && !f.gone.contains pos

/-- Positions of the records of a batch. -/
def Feed.batch (f : Feed) (b : Nat) : List Nat :=
  (List.range f.records.length).filter (fun i => f.placed i && srBatch (f.sample i) == b)

/-- Every slot of a batch is listed (R284). -/
def Feed.complete (f : Feed) (b : Nat) : Bool := (f.batch b).length == fbSlots f.block

/-- A sample is live. -/
def Feed.live (f : Feed) (pos : Nat) : Bool := srStream (f.sample pos) != 0

/-- Shard samples of a batch without an outcome. -/
def Feed.unresolved (f : Feed) (b : Nat) : List Nat := (f.batch b).filter (fun i => !f.live i && (f.outcome i).isNone)

/-- FEEDMEAN: the mean decode time of the last 1,024 decodes, in arithmetic cycles, rounded down; 0 before any. -/
def Feed.mean (f : Feed) : Nat := f.times.foldl (· + ·) 0 / max 1 f.times.length

/-- A sample belongs to a batch that is not yet assembled. -/
def Feed.wanted (f : Feed) (pos : Nat) : Bool := f.placed pos && decide (f.next ≤ srBatch (f.sample pos))

/-- Frames that a sample needs of a field of kind `kind`. -/
def Feed.frameSpan (f : Feed) (kind : Nat) (r : List Byte) : List Nat :=
  if kind = 2 then (List.range (fbFrames f.block)).map (fun i => srFirst r + i) else [0]

/-- A cache entry is pinned: a batch not yet assembled uses it (R280). -/
def Feed.pinned (f : Feed) (c : Cached) : Bool :=
  f.keys.any (fun (k : Nat × List Byte) =>
    k.2 == c.key && f.wanted k.1 && (f.frameSpan c.kind (f.sample k.1)).contains c.frame)

def cacheBytes (l : List Cached) : Nat := (l.map (fun (c : Cached) => c.size)).foldl (· + ·) 0

/-- Unpinned entries leave, oldest first, until the rest and `need` fit in `size` (R280). -/
def evict (pinned : Cached → Bool) (size need : Nat) : Nat → List Cached → List Cached
  | 0, l => l
  | n + 1, l =>
    if cacheBytes l + need ≤ size then l
    else match l.find? (fun c => !pinned c) with
      | some c => evict pinned size need n (l.erase c)
      | none => l

/-- The cache with room for `need` more bytes, none where there is none. -/
def Feed.roomFor (f : Feed) (need : Nat) : Option (List Cached) :=
  let l := evict f.pinned (fbCacheSize f.block) need f.cache.length f.cache
  if cacheBytes l + need ≤ fbCacheSize f.block then some l else none

/-- The cache key of a sample, less the frame (R280). -/
def cacheKey (shard r : List Byte) : List Byte := shId shard ++ (r.drop 0x10).take 6 ++ (r.drop 0x20).take 4

/-- A sample's entries are all in the cache. -/
def Feed.cached (f : Feed) (key r : List Byte) : Bool :=
  match f.cache.find? (fun (c : Cached) => c.key == key) with
  | none => false
  | some c => (f.frameSpan c.kind r).all (fun n => f.cache.any (fun (x : Cached) => x.key == key && x.frame == n))

/-- SAMPLEID of the record that the entries of a key come from. -/
def Feed.cachedId (f : Feed) (key : List Byte) : List Byte :=
  ((f.cache.find? (fun (c : Cached) => c.key == key)).map (fun (c : Cached) => c.id)).getD []

/-- Where a sample's record stands: its address and length; none where the index or the region does not admit it. -/
def Dev.recordSpan (d : Dev) (fn : Nat) (r : List Byte) : Option (Nat × Nat) :=
  let a := srShard r
  let h := d.mem.dram.readN a 64
  let e := d.mem.dram.readN (a + shIndex h + 16 * srRecord r) 16
  let off := fieldAt e 0 8
  let len := fieldAt e 8 4
  if shNrec h ≤ srRecord r ∨ len < 32 ∨ !d.inRegion fn (a + off) len then none else some (a + off, len)

/-- The TYPE of a sample's field, 0 where it has none of the four (R274). -/
def Dev.sampleKind (d : Dev) (fn : Nat) (r : List Byte) : Nat :=
  match d.recordSpan fn r with
  | none => 0
  | some (a, len) =>
    match (recordFields (d.mem.dram.readN a len) len).bind (fun fs => fs[srField r]?) with
    | some x => if x.1 ≤ 4 then x.1 else 0
    | none => 0

/-- What a sample decodes to: its code, and its cache entries (R274-R279). -/
def Dev.decodeSample (d : Dev) (f : Feed) (r : List Byte) : Dev × Nat × List Cached :=
  match d.recordSpan f.fn r with
  | none => (d, 0x70, [])
  | some (a, len) =>
    let x := d.quietRead a len
    if x.1 then (x.2.2, 0x31, [])
    else match recordFields x.2.1 len with
    | none => (x.2.2, 0x70, [])
    | some fs =>
      if (x.2.1.drop 8).take 8 ≠ srId r then (x.2.2, 0x70, [])
      else match fs[srField r]? with
      | none => (x.2.2, 0x70, [])
      | some (ty, codec, v) =>
        if ty = 0 ∨ 4 < ty then (x.2.2, 0x70, [])
        else if !codecFits ty codec then (x.2.2, 0x71, [])
        else
          let res : Dev × Nat × List (List Nat) :=
            if ty = 4 then
              let m := x.2.2.quietRead (fbVocab f.block) (8 * fbNmerge f.block)
              if m.1 then (m.2.2, 0x31, [])
              else (m.2.2, 0, [tokenize (mergeTable m.2.1 (fbNmerge f.block)) (v.drop (srFirst r))])
            else (x.2.2, decodeField ty codec v)
          if res.2.1 ≠ 0 then (res.1, res.2.1, [])
          else if ty = 2 ∧ res.2.2.length < srFirst r + fbFrames f.block then (res.1, 0x70, [])
          else (res.1, 0, cacheEntries (cacheKey (d.mem.dram.readN (srShard r) 64) r) (srId r) ty res.2.2)

/-! ### Registers and reports (R295, R296, R301) -/

/-- One more sample of the warm-up has its outcome (R281). -/
def Feed.warmCount (f : Feed) : Nat :=
  ((List.range f.records.length).filter (fun i =>
    decide (srBatch (f.sample i) < fbLook f.block) && (f.live i || (f.outcome i).isSome))).length

def Dev.warmMove (d : Dev) (k : Nat) : Dev :=
  if d.forager.warm = some k then d.position (FOR.page 0) (min (d.feed k).warmCount (d.num64 (FOR.TOTAL 0))) else d

/-- A sample ends with an outcome; of one that failed with a record that could be read the type of its field is kept
(R290). -/
def Dev.setOutcome (d : Dev) (k pos code : Nat) : Dev :=
  let f := d.feed k
  let kind := if code = 0x70 ∨ code = 0x71 ∨ code = 0x30 then d.sampleKind f.fn (f.sample pos) else 0
  let d1 := d.setFeed k { f with
    outcomes := f.outcomes ++ [(pos, code)]
    kinds := if kind = 0 then f.kinds else f.kinds ++ [(pos, kind)]
    decoding := f.decoding.filter (fun (x : Nat × Nat) => x.1 != pos) }
  let d2 := if code = 0x72 then d1.err (FOR.page 0) 8
    else if code = 0x70 ∨ code = 0x30 ∨ code = 0x31 then d1.err (FOR.page 0) 9 else d1
  d2.warmMove k

/-- A report entry (R296): a background write, bound by the tenancy's region. -/
def Dev.report (d : Dev) (k : Nat) (id : List Byte) (batch slot code : Nat) : Dev :=
  let f := d.feed k
  let a := fbReport f.block + 16 * (f.reports % max 1 (fbReportSize f.block))
  let bs := id ++ leBytes 4 batch ++ leBytes 2 slot ++ leBytes 1 code ++ leBytes 1 0
  let d1 := if d.inRegion f.fn a 16 then d.memWrite a bs else d
  (d1.setFeed k { f with reports := (f.reports + 1) % 2 ^ 32 }).irq (FOR.page 0) 1

/-- A success condition of a batch is noted for its assembly. -/
def Feed.note (f : Feed) (b code : Nat) : Feed := { f with notes := f.notes ++ [(b, code)] }

/-- A feed enters FAULT with BAD_SHAPE for want of room (R280). -/
def Dev.cacheFull (d : Dev) (k : Nat) : Dev :=
  (d.setFeed k { d.feed k with state := 2, code := 0x13, fault := 0x13, decoding := [] }).err (FOR.page 0) 12

/-! ### Decoding (R275, R278, R280) -/

/-- The feed may decode a sample: open, listed, of the batches ahead, not yet begun. -/
def Feed.mayDecode (f : Feed) (pos : Nat) : Bool :=
  f.state == 1 && decide (pos < f.records.length) && !f.live pos && (f.outcome pos).isNone &&
  !(f.decoding.any (fun (x : Nat × Nat) => x.1 == pos)) && !f.gone.contains pos &&
  (srBatch (f.sample pos) == standby || decide (srBatch (f.sample pos) < f.next + fbLook f.block))

/-- A sample for which there is no room waits; one of the next batch faults the feed (R280). -/
def Dev.noRoom (d : Dev) (k pos : Nat) : Dev :=
  if srBatch ((d.feed k).sample pos) = (d.feed k).next then d.cacheFull k else d

def Dev.decodeStart (d : Dev) (k pos : Nat) : Dev :=
  let f := d.feed k
  if !f.mayDecode pos || d.inReset (FOR.page 0) then d
  else
    let r := f.sample pos
    let c := d.shardCheck f.fn (srShard r)
    match c.1 with
    | some code => c.2.setOutcome k pos code
    | none =>
      let h := c.2.mem.dram.readN (srShard r) 64
      let key := cacheKey h r
      if f.cached key r && f.cachedId key != srId r then c.2.setOutcome k pos 0x70
      else if f.cached key r then
        ((c.2.setFeed k { f with keys := f.keys ++ [(pos, key)] }).countSat (FOR.CACHEHITS 0) 1).setOutcome k pos 0
      else
        let x := c.2.decodeSample f r
        match f.roomFor (cacheBytes x.2.2) with
        | some l => c.2.setFeed k { f with cache := l, decoding := f.decoding ++ [(pos, d.now)] }
        | none => c.2.noRoom k pos

/-- SAMPLE_DECODE_START (R275, R280). -/
def execSampleDecodeStart (f : Fin 16) (pos : Nat) (s : State) : Host.Outcome State Fault Refusal :=
  onDev (·.decodeStart f pos) s

/-- The cache region's bytes change: what they hold is the Forager's own (log entries 2 and 18). -/
def Dev.cacheWrite (d : Dev) (f : Feed) : Dev :=
  if d.inRegion f.fn (fbCache f.block) (fbCacheSize f.block) then
    { d with
      mem := { d.mem with dram := d.mem.dram.openUp (fbCache f.block) (fbCache f.block + fbCacheSize f.block) d.freeCtr }
      freeCtr := d.freeCtr + 1 }
  else d

/-- The engine that has done a decode or an encode, which one being free (R272); engine 0 while engine 1 is reset (R302). -/
def Dev.engine (d : Dev) : Nat × Dev :=
  (if d.inReset (FOR.page 1) then 0 else d.freshNat.1 % 2, d.freshNat.2)

/-- An engine meets its uncorrectable SRAM error (R301). -/
def Dev.engineBad (d : Dev) (e : Nat) : Dev :=
  ({ d with forager := { d.forager with engUE := d.forager.engUE.filter (fun x => x != e) } }).err (FOR.page e) 13

/-- A decode ends on engine `e`: DECODED, DECCYC. -/
def Dev.decodeCounts (d : Dev) (e : Nat) : Dev := (d.countSat (FOR.DECODED e) 1).countFree64 (FOR.DECCYC e)

def Dev.decodeDone (d : Dev) (k pos : Nat) : Dev :=
  let f := d.feed k
  match f.decoding.find? (fun (x : Nat × Nat) => x.1 == pos) with
  | none => d
  | some w =>
    let r := f.sample pos
    let x := d.decodeSample f r
    let g := x.1.engine
    if d.inReset (FOR.page 0) then d
    else if d.forager.engUE.contains g.1 then (g.2.engineBad g.1).setOutcome k pos 0x30
    else if x.2.1 ≠ 0 then x.1.setOutcome k pos x.2.1
    else match f.roomFor (cacheBytes x.2.2) with
      | none => x.1.noRoom k pos
      | some l =>
        let key := cacheKey (d.mem.dram.readN (srShard r) 64) r
        let d1 := g.2.setFeed k { f with
          cache := l ++ x.2.2
          keys := f.keys ++ [(pos, key)]
          times := ((18 * (d.now - w.2)) :: f.times).take 1024 }
        ((d1.cacheWrite f).decodeCounts g.1).setOutcome k pos 0

/-- SAMPLE_DECODE_DONE (R275-R280). -/
def execSampleDecodeDone (f : Fin 16) (pos : Nat) (s : State) : Host.Outcome State Fault Refusal :=
  onDev (·.decodeDone f pos) s

/-- The warm-up of the feed opened last ends when every sample of its first LOOKAHEAD batches has its outcome (R281). -/
def Dev.warmupDone (d : Dev) (k : Nat) : Dev :=
  let f := d.feed k
  if d.forager.warm = some k ∧ (List.range (fbLook f.block)).all (fun b => f.complete b && f.unresolved b == []) then
    ((({ d with forager := { d.forager with warm := none } }).position (FOR.page 0) (d.num64 (FOR.TOTAL 0))).endLong
      (FOR.page 0) 0).irq (FOR.page 0) 3
  else d

/-- WARMUP_DONE (R281, R301). -/
def execWarmupDone (f : Fin 16) (s : State) : Host.Outcome State Fault Refusal := onDev (·.warmupDone f) s

/-! ### The vote (R293, R295) -/

/-- The sample decodes for more than SLOWX x FEEDMEAN. -/
def Feed.slow (f : Feed) (now pos : Nat) : Bool :=
  match f.decoding.find? (fun (x : Nat × Nat) => x.1 == pos) with
  | some w => decide (fbSlowx f.block * f.mean < 18 * (now - w.2))
  | none => false

/-- Two samples exchange batch and slot. -/
def Feed.swap (f : Feed) (i j : Nat) : Feed :=
  let a := f.sample i
  let b := f.sample j
  { f with records := (f.records.set i (srPlace a (srBatch b) (srSlot b))).set j (srPlace b (srBatch a) (srSlot a)) }

/-- A slow sample of batch `b` is parked: the first decoded sample of a later listed batch takes its slot. -/
def Dev.park (d : Dev) (k b pos : Nat) : Dev :=
  let f := d.feed k
  match (List.range f.records.length).find? (fun j => !f.live j && f.outcome j == some 0 && f.placed j &&
      decide (b < srBatch (f.sample j))) with
  | some j =>
    let d1 := (d.setFeed k ((f.swap pos j).note b 5)).countSat (FOR.PARKCNT 0) 1
    d1.report k (srId (f.sample pos)) (srBatch (f.sample j)) (srSlot (f.sample j)) 5
  | none => d

/-- A failed sample of batch `b`: reported; refilled from the decoded standby samples in SCRAMBLE with REFILL, otherwise
masked (R295). -/
def Dev.settleSample (d : Dev) (k b pos : Nat) : Dev :=
  let f := d.feed k
  let r := f.sample pos
  let d1 := (d.report k (srId r) b (srSlot r) ((f.outcome pos).getD 0)).countSat (FOR.CORRUPTCNT 0) 1
  let f1 := d1.feed k
  let spare := (List.range f1.records.length).find? (fun j => srBatch (f1.sample j) == standby && f1.outcome j == some 0 && !f1.live j &&
    (f1.keys.any (fun (x : Nat × List Byte) => x.1 == j && f1.cached x.2 (f1.sample j))))
  match fbMode f.block == 1 && fbRefill f.block, spare with
  | true, some j =>
    let f2 := { f1 with records := f1.records.set j (srPlace (f1.sample j) b (srSlot r)), gone := pos :: f1.gone }
    (d1.setFeed k (f2.note b 5)).countSat (FOR.REFILLCNT 0) 1
  | _, _ => d1.setFeed k (f1.note b 4)

/-- A resolved batch is decided, once. -/
def Dev.decide_ (d : Dev) (k b : Nat) : Dev :=
  let f := d.feed k
  if b < f.voted then d
  else
    let bad := (f.batch b).filter (fun i => !f.live i && f.outcome i != some 0)
    let d1 := bad.foldl (fun (d : Dev) i => d.settleSample k b i) d
    d1.setFeed k { d1.feed k with voted := b + 1 }

/-- Whether a batch is ready: complete, nothing unresolved. -/
def Feed.batchReady (f : Feed) (b : Nat) : Bool := f.complete b && f.unresolved b == []

/-- The vote of feed `k` in the close window of beat `n` (R293). -/
def Dev.voteFeed (n : Nat) (d : Dev) (k : Nat) : Dev :=
  let f := d.feed k
  if f.state ≠ 1 then d
  else
    let taken := match d.cricket.next with
      | some x => x.image.feeds.contains k
      | none => false
    let b := if taken then f.next + 1 else f.next
    let d1 := if fbMode f.block = 1 ∧ f.complete b then
        ((f.unresolved b).filter (f.slow d.now)).foldl (fun (d : Dev) i => d.park k b i) d
      else d
    if (d1.feed k).batchReady b then d1.decide_ k b
    else
      let job := BitVec.ofNat 32 (fbJob f.block)
      let d2 := (d1.sendMarker (d1.marker (n + 2) job 1 true true d1.rank)).countSat (FOR.HOLDCNT 0) 1
      { d2 with cricket := { d2.cricket with holds := (job, n + 2) :: d2.cricket.holds } }

/-- FORAGER_VOTE (R293): at tick 250, after admission. -/
def Dev.foragerVote (d : Dev) : Dev :=
  if d.cricket.phase != .admitted then d
  else
    let d1 := (List.range 16).foldl (Dev.voteFeed d.beatNum) d
    { d1 with cricket := { d1.cricket with phase := .voted } }

/-- FORAGER_VOTE (R293, R295). -/
def execForagerVote (s : State) : Host.Outcome State Fault Refusal := onDev Dev.foragerVote s

/-! ### Live streams (R297, R298) -/

/-- Where the entry after STRMTAIL starts: the next multiple of 64, from 0 at the end of the ring. -/
def Dev.entryStart (d : Dev) (s : Nat) : Nat :=
  let p := 64 * ceilDiv (d.num (FOR.STRMTAIL 0 s)) 64
  if d.num (FOR.STRMSIZE 0 s) ≤ p then 0 else p

/-- The one field of a live record, decoded: its entries, or none where it fails. A text field's entry holds its bytes. -/
def decodeLive (r : List Byte) : Option (List Cached) :=
  match recordFields r r.length with
  | some [(ty, codec, v)] =>
    if ty = 4 ∧ codec = 0x401 then some (cacheEntries [] ((r.drop 8).take 8) 4 [v.map (fun b => b.toNat)])
    else if 1 ≤ ty ∧ ty ≤ 3 ∧ codecFits ty codec then
      let c := decodeField ty codec v
      if c.1 = 0 then some (cacheEntries [] ((r.drop 8).take 8) ty c.2) else none
    else none
  | _ => none

/-- A frame older than MAXAGE is dropped and counted (R297, R298). -/
def Dev.staleFrames (d : Dev) (n : Nat) : Dev := if n = 0 then d else (d.countSat (FOR.STALECNT 0) n).err (FOR.page 0) 10

def Dev.streamRead (d : Dev) (s : Nat) : Dev :=
  let size := d.num (FOR.STRMSIZE 0 s)
  let head := d.num (FOR.STRMHEAD 0 s)
  let tail := d.num (FOR.STRMTAIL 0 s)
  let fn := d.fld (FOR.STRMCTRL 0 s) 11 8
  let p := d.entryStart s
  let base := d.num64 (FOR.STRMBASE 0 s)
  let wrapped := decide (head < tail)
  let fits := fun (e : Nat) => if wrapped && decide (tail ≤ p) then decide (e ≤ size) else decide (e ≤ head)
  if !d.flag (FOR.STRMCTRL 0 s) 0 || tail == head || d.inReset (FOR.page 0) then d
  else if !fits (p + 64) || !d.inRegion fn (base + p) 64 then d
  else
    let h := d.quietRead (base + p) 64
    let len := fieldAt h.2.1 8 4
    if len = 0 then
      (if wrapped then h.2.2.setNum (FOR.STRMTAIL 0 s) 0 else d)
    else if !fits (p + 64 + len) || !d.inRegion fn (base + p + 64) len then d
    else
      let cap := fieldAt h.2.1 0 8
      let d1 := (h.2.2.setNum (FOR.STRMTAIL 0 s) (p + 64 + len)).setStream s { d.stream s with last := d.now }
      if d.num (FOR.MAXAGE 0 s) < d.now - cap then d1.staleFrames 1
      else
        let r := d1.quietRead (base + p + 64) len
        let g := r.2.2.engine
        if d.forager.engUE.contains g.1 then (g.2.engineBad g.1).err (FOR.page 0) 9
        else match (if r.1 || h.1 then none else decodeLive r.2.1) with
        | some c =>
          let st := r.2.2.stream s
          (g.2.setStream s { st with frames := st.frames ++ [(cap, c)] }).decodeCounts g.1
        | none => r.2.2.err (FOR.page 0) 9

/-- STREAM_ENTRY_READ (R297). -/
def execStreamEntryRead (st : Fin 4) (s : State) : Host.Outcome State Fault Refusal := onDev (·.streamRead st) s

def Dev.streamLost (d : Dev) (s : Nat) : Dev :=
  if d.flag (FOR.STRMCTRL 0 s) 0 && !d.flag (FOR.STRMCTRL 0 s) 1 &&
      decide (d.num (FOR.LOSTTICKS 0 s) ≤ d.now - (d.stream s).last) then
    ((d.raise (FOR.STRMCTRL 0 s) 1).err (FOR.page 0) 11).irq (FOR.page 0) 2
  else d

/-- STREAM_LOST (R298). -/
def execStreamLost (st : Fin 4) (s : State) : Host.Outcome State Fault Refusal := onDev (·.streamLost st) s

/-- REOPEN clears LOST at the boundary (R298). -/
def Dev.reopenStream (d : Dev) (s : Nat) : Dev :=
  if (d.stream s).reopen then
    ((d.drop (FOR.STRMCTRL 0 s) 1).drop (FOR.STRMCTRL 0 s) 2).setStream s { d.stream s with reopen := false, last := d.now }
  else d

/-- STRMCTRL is written: TENANCY only while ENABLE = 0 (R301); a stream that is enabled counts LOSTTICKS from then on. -/
def Dev.writeStrmctrl (d : Dev) (s : Nat) (v : Word) : Dev :=
  let was := d.flag (FOR.STRMCTRL 0 s) 0
  let on := bit v.toNat 0
  let d1 := if was then d else d.setFld (FOR.STRMCTRL 0 s) 11 8 (field v.toNat 11 8)
  let d2 := d1.setFlag (FOR.STRMCTRL 0 s) 0 on
  let d3 := if on && !was then d2.setStream s { d2.stream s with last := d2.now } else d2
  if bit v.toNat 2 then
    let d4 := (d3.raise (FOR.STRMCTRL 0 s) 2).setStream s { d3.stream s with reopen := true }
    if d4.cricket.phase == .off then d4.reopenStream s else d4
  else d3

/-- STRMCTRL_REOPEN (R298): the write sets REOPEN. -/
def execStrmctrlReopen (r : Requester) (st : Fin 4) (v : Word) (s : State) : Host.Outcome State Fault Refusal :=
  onDev (onPf r (·.writeStrmctrl st (v ||| 4#32))) s

/-! ### FORCMD (R281-R284) -/

def fcFeed (b : List Byte) : Nat := byteAt b 0x21
def fcCount (b : List Byte) : Nat := fieldAt b 0x24 4
def fcAddr (b : List Byte) : Nat := fieldAt b 0x28 8

/-- A reserved field of the payload is not 0. -/
def fcReservedBad (fn : Nat) (b : List Byte) : Bool :=
  jobReservedBad fn b || fieldAt b 0x22 2 != 0 || fieldAt b 0x30 16 != 0 || (jOp b != 2 && fcCount b != 0) ||
  (jOp b == 2 && decide (1048576 < fcCount b)) || decide (15 < fcFeed b) || (jOp b == 4 && fcFeed b != 0)

/-- The bytes a command names can be read: aligned, in the region. -/
def Dev.fcReadable (d : Dev) (fn : Nat) (b : List Byte) (n : Nat) : Bool :=
  decide (fcAddr b % 64 = 0) && d.inRegion fn (fcAddr b) n

/-- Cache bytes of the open feeds. -/
def Dev.cacheTotal (d : Dev) : Nat :=
  (((List.range 16).filter (fun k => (d.feed k).state != 0)).map (fun k => fbCacheSize (d.feed k).block)).foldl (· + ·) 0

/-- A field of the feed block out of range (R282). -/
def Dev.feedBad (d : Dev) (u : List Byte) : Bool :=
  decide (1 < fbMode u) || field (byteAt u 1) 7 2 != 0 || !([0x10, 0x11, 0x20, 0x02].contains (fbOutfmt u)) ||
  decide (fbLook u = 0 ∨ 16 < fbLook u) || decide (fbSlots u = 0 ∨ 4096 < fbSlots u) || decide (fbSlowx u < 2) ||
  decide (fbOh u = 0 ∨ 8192 < fbOh u) || decide (fbOw u = 0 ∨ 8192 < fbOw u) ||
  decide (fbFrames u = 0 ∨ 256 < fbFrames u) || decide (fbAudioch u = 0 ∨ 8 < fbAudioch u) || byteAt u 0xF != 0 ||
  decide (fbOutrate u < 8000 ∨ 192000 < fbOutrate u) || decide (fbAudiolen u = 0 ∨ 16777216 < fbAudiolen u) ||
  decide (fbMaxtok u = 0 ∨ 1048576 < fbMaxtok u) || decide (262143 < fbPadtok u) ||
  decide (fbCacheSize u % 0x200000 ≠ 0) || decide (2 ^ 38 < d.cacheTotal + fbCacheSize u) ||
  !isPow2 (fbReportSize u) || decide (fbReportSize u < 64 ∨ 65536 < fbReportSize u) || decide (261888 < fbNmerge u) ||
  (fbNmerge u == 0 && fbVocab u != 0) || fieldAt u 0x58 40 != 0

/-- Checks of OPEN in the order of R281. -/
def Dev.openCheck (d : Dev) (fn : Nat) (b u : List Byte) (ok : Bool) : Option Nat :=
  let f := d.feed (fcFeed b)
  firstFail [
    (fcReservedBad fn b || (decide (fcFeed b < 16) && f.state != 0) || (ok && d.feedBad u), 0x10),
    (ok && fbMode u == 0 && fbRefill u, 0x14),
    (decide (fcAddr b % 64 ≠ 0) || (ok && decide (fbPitch u % 64 ≠ 0 ∨ fbCache u % 0x200000 ≠ 0 ∨ fbReport u % 64 ≠ 0)), 0x11),
    (!ok || !d.inRegion fn (fbCache u) (fbCacheSize u) || !d.inRegion fn (fbReport u) (16 * fbReportSize u) ||
      (fbNmerge u != 0 && !d.inRegion fn (fbVocab u) (8 * fbNmerge u)) || !d.inRegion fn (fbRstable u) 65536, 0x12)]

def Dev.openFeed (d : Dev) (fn k : Nat) (u : List Byte) : Dev :=
  let d1 := d.setFeed k { feed0 k with state := 1, fn := fn, block := u }
  ({ d1 with forager := { d1.forager with warm := some k } }).startLong (FOR.page 0) (fbLook u * fbSlots u)

/-- A FORCMD of OP `op` that its check refuses or that is performed and completes OK. -/
def Dev.forCommand (d : Dev) (fn op : Nat) (act : Dev → List Byte → Option Nat × Dev) : Dev :=
  d.jobCommand fn (fun b => jType b == 6 && jOp b == op) (fun d b =>
    let r := act d b
    match r.1 with
    | some code => d.refuseJob fn b code
    | none => r.2.answerJob fn b 0 0 0)

def Dev.forOpen (fn : Nat) (d : Dev) (b : List Byte) : Option Nat × Dev :=
  let ok := d.fcReadable fn b 128
  let r := d.quietRead (if ok then fcAddr b else 0) (if ok then 128 else 0)
  match d.openCheck fn b r.2.1 ok with
  | some code => (some code, d)
  | none => (none, r.2.2.openFeed fn (fcFeed b) r.2.1)

/-- FORCMD_OPEN (R281, R282). -/
def execForcmdOpen (fn : Fin 16) (s : State) : Host.Outcome State Fault Refusal :=
  onDev (fun d => d.forCommand fn 1 (Dev.forOpen fn)) s

/-- A field of a sample record out of range, or a stream of another tenancy (R283, R301). -/
def Dev.sampleBad (d : Dev) (f : Feed) (r : List Byte) : Bool :=
  let live := srStream r != 0
  byteAt r 0x17 != 0 || fieldAt r 0x2A 22 != 0 || decide (4 < srStream r) || (live && srShard r != 0) ||
  decide (fbSlots f.block ≤ srSlot r) || (live && d.fld (FOR.STRMCTRL 0 (srStream r - 1)) 11 8 != f.fn) ||
  (!live && d.inRegion f.fn (srShard r) 64 &&
    (let h := d.mem.dram.readN (srShard r) 64; shHeaderOk h && decide (shNrec h ≤ srRecord r)))

/-- The bytes of a slot of kind `kind` (R289). -/
def kindBytes (u : List Byte) (kind : Nat) : Nat :=
  let image := fmtBytes (fbOutfmt u) (3 * fbOh u * fbOw u)
  if kind = 1 then image
  else if kind = 2 then fbFrames u * image
  else if kind = 3 then fmtBytes (fbOutfmt u) (fbAudiolen u * fbAudioch u)
  else if kind = 4 then 4 * fbMaxtok u
  else 0

/-- A listed sample is of a kind that SLOTPITCH cannot hold (R282; log entry 18): of a record that can be read. -/
def Dev.pitchBad (d : Dev) (f : Feed) (r : List Byte) : Bool :=
  srStream r == 0 && d.inRegion f.fn (srShard r) 64 && decide (fbPitch f.block < kindBytes f.block (d.sampleKind f.fn r))

/-- R284 over the records a LIST adds: batches never fall, start at 0, leave no gap. -/
def batchesRise : Option Nat → List Nat → Bool
  | _, [] => true
  | none, b :: l => b == 0 && batchesRise (some b) l
  | some p, b :: l => (b == p || b == p + 1) && batchesRise (some b) l

/-- Batches of records that are not standby. -/
def batchesOf (rs : List (List Byte)) : List Nat := (rs.map srBatch).filter (fun b => b != standby)

/-- R284 holds when `rs` follow the feed's records. -/
def Feed.orderOk (f : Feed) (rs : List (List Byte)) : Bool :=
  let kept := ((List.range f.records.length).filter f.placed).map f.sample
  let last := match batchesOf kept with | [] => none | b :: l => some (l.foldl max b)
  let pairs := ((kept ++ rs).filter (fun r => srBatch r != standby)).map (fun r => (srBatch r, srSlot r))
  batchesRise last (batchesOf rs) && pairs.eraseDups.length == pairs.length

def Dev.forList (fn : Nat) (d : Dev) (b : List Byte) : Option Nat × Dev :=
  let k := fcFeed b
  let f := d.feed k
  let n := fcCount b
  let ok := d.fcReadable fn b (64 * n)
  let r := d.quietRead (if ok then fcAddr b else 0) (if ok then 64 * n else 0)
  let rs := if ok then (List.range n).map (fun i => (r.2.1.drop (64 * i)).take 64) else []
  let code := firstFail [
    (fcReservedBad fn b || f.state == 0 || rs.any (d.sampleBad f) || rs.any (d.pitchBad f) || !f.orderOk rs, 0x10),
    (n == 0, 0x13),
    (decide (fcAddr b % 64 ≠ 0) || rs.any (fun r => decide (srParam r % 16 ≠ 0)), 0x11),
    (!ok || rs.any (fun r => (srStream r == 0 && !d.inRegion fn (srShard r) 64) || (srParam r != 0 && !d.inRegion fn (srParam r) 144)), 0x12),
    (f.fn != fn, 0x19)]
  match code with
  | some c => (some c, d)
  | none => (none, (r.2.2.setFeed k { f with records := f.records ++ rs }).warmMove k)

/-- FORCMD_LIST (R281, R283, R284). -/
def execForcmdList (fn : Fin 16) (s : State) : Host.Outcome State Fault Refusal :=
  onDev (fun d => d.forCommand fn 2 (Dev.forList fn)) s

def Dev.forClose (fn : Nat) (d : Dev) (b : List Byte) : Option Nat × Dev :=
  let f := d.feed (fcFeed b)
  match firstFail [(fcReservedBad fn b || f.state == 0, 0x10), (decide (fcAddr b % 64 ≠ 0), 0x11), (f.fn != fn, 0x19)] with
  | some c => (some c, d)
  | none => (none, d.setFeed (fcFeed b) { f with closing := true })

/-- FORCMD_CLOSE (R281). -/
def execForcmdClose (fn : Fin 16) (s : State) : Host.Outcome State Fault Refusal :=
  onDev (fun d => d.forCommand fn 3 (Dev.forClose fn)) s

/-- A close window is open. -/
def Dev.inClose (d : Dev) : Bool :=
  d.cricket.phase == .closed || d.cricket.phase == .marked || d.cricket.phase == .admitted || d.cricket.phase == .voted ||
  d.cricket.phase == .posted

/-- A waiting CLOSE takes effect (R281): no ASSEMBLE of the feed runs or stands admitted. -/
def Dev.feedClose (d : Dev) (k : Nat) : Dev :=
  let busy := match d.cricket.next with
    | some x => x.image.feeds.contains k
    | none => false
  if (d.feed k).closing && d.inClose && !busy then
    let d1 := d.setFeed k (feed0 k)
    if d1.forager.warm = some k then ({ d1 with forager := { d1.forager with warm := none } }).endLong (FOR.page 0) 0 else d1
  else d

/-- FEED_CLOSE_APPLY (R281). -/
def execFeedCloseApply (f : Fin 16) (s : State) : Host.Outcome State Fault Refusal := onDev (·.feedClose f) s

/-! ### Encoding (R299, R300) -/

def ebCodec (u : List Byte) : Nat := fieldAt u 0 2
def ebSfmt (u : List Byte) : Nat := byteAt u 2
def ebDepth (u : List Byte) : Nat := byteAt u 3
def ebW (u : List Byte) : Nat := fieldAt u 4 2
def ebH (u : List Byte) : Nat := fieldAt u 6 2
def ebN (u : List Byte) : Nat := fieldAt u 8 4
def ebLevel (u : List Byte) : Nat := byteAt u 0xC
def ebPlanes (u : List Byte) : Nat := byteAt u 0xD
def ebSrc (u : List Byte) : Nat := fieldAt u 0x10 8
def ebRate (u : List Byte) : Nat := fieldAt u 0x18 4
def ebDst (u : List Byte) : Nat := fieldAt u 0x20 8
def ebCap (u : List Byte) : Nat := fieldAt u 0x28 4
def ebFlac (u : List Byte) : Bool := ebCodec u == 0x301

/-- Samples of the source tensor. -/
def ebCount (u : List Byte) : Nat := if ebFlac u then ebN u * ebW u else ebN u * ebW u * ebH u * ebPlanes u

/-- A field of the encode block out of range (R299). -/
def encBad (u : List Byte) : Bool :=
  let fl := ebFlac u
  !([0x103, 0x204, 0x203, 0x301].contains (ebCodec u)) || !([0x10, 0x11, 0x20].contains (ebSfmt u)) ||
  (if fl then !([16, 24].contains (ebDepth u)) else !([8, 10, 12, 16].contains (ebDepth u))) ||
  (if fl then decide (ebW u = 0 ∨ 8 < ebW u ∨ ebH u ≠ 0) else decide (ebW u = 0 ∨ 16384 < ebW u ∨ ebH u = 0 ∨ 16384 < ebH u)) ||
  (if fl then decide (8 < ebLevel u) || ebPlanes u != 0
   else if ebCodec u = 0x103 then decide (100 < ebLevel u) || !([1, 3].contains (ebPlanes u))
   else if ebCodec u = 0x204 then ebLevel u != 0 || !([1, 3].contains (ebPlanes u))
   else ebLevel u == 0 || !([1, 3].contains (ebPlanes u))) ||
  fieldAt u 0xE 2 != 0 || fieldAt u 0x1C 4 != 0 || fieldAt u 0x2C 4 != 0 || fieldAt u 0x38 8 != 0

/-- A picture size or rate past AV1's level 6.1: its largest picture, width and height, and samples displayed in a second
(log entry 20). -/
def av1Past (w h rate : Nat) : Bool :=
  decide (16384 < w ∨ 8704 < h ∨ 35651584 < w * h ∨ 2139095040 * 1000 < w * h * rate)

/-- A codec option outside R276: what the output would signal lies outside the table. -/
def encUnsupported (u : List Byte) : Bool :=
  let n := ebPlanes u
  if ebCodec u = 0x103 then codecOutside 0x103 [1, n, ebDepth u, if ebLevel u = 0 then 0 else 1]
  else if ebCodec u = 0x203 then
    codecOutside 0x203 [0, ebDepth u, 61] || av1Past (ebW u) (ebH u) (ebRate u)
  else if ebCodec u = 0x204 then codecOutside 0x204 [3, 1, if n = 3 then 1 else 0, ebDepth u]
  else codecOutside 0x301 [ebW u, ebDepth u, ebRate u]

/-- The codestream form that R300 fixes: HTJ2K a J2C codestream with one tile, blocks of 64 x 64, 5/3 or 9/7 with a quality;
FFV1 version 3 with the range coder, 16 slices, slice CRCs; AV1 Main, a fixed quantiser, no rate control, a key frame every 64
frames, no film grain; FLAC at its level. -/
def codecForm (u : List Byte) : List Nat :=
  if ebCodec u = 0x103 then [1, 1, 64, 64, if ebLevel u = 0 then 0 else 1, ebLevel u]
  else if ebCodec u = 0x204 then [3, 1, 16, 1]
  else if ebCodec u = 0x203 then [0, ebLevel u, 0, 64, 0]
  else [ebLevel u]

/-- What the output of an encode depends on beside the sample codes (R300): the form, depth, width, height, planes, frames,
rate. -/
def encForm (u : List Byte) : List Nat := codecForm u ++ [ebDepth u, ebW u, ebH u, ebPlanes u, ebN u, ebRate u]

def Dev.forEncode (fn : Nat) (d : Dev) (b : List Byte) : Option Nat × Dev :=
  let ok := d.fcReadable fn b 64
  let r := d.quietRead (if ok then fcAddr b else 0) (if ok then 64 else 0)
  let u := r.2.1
  let code := firstFail [
    (fcReservedBad fn b || (ok && encBad u), 0x10),
    (decide (fcAddr b % 64 ≠ 0) || (ok && decide (ebDst u % 64 ≠ 0)), 0x11),
    (!ok || !d.inRegion fn (ebSrc u) (fmtBytes (ebSfmt u) (ebCount u)) || !d.inRegion fn (ebDst u) (ebCap u), 0x12)]
  match code with
  | some c => (some c, d)
  | none =>
    let e : Enc := ⟨fn, BitVec.ofNat 32 (jJob b), u⟩
    (none, { r.2.2 with forager := { r.2.2.forager with enc := r.2.2.forager.enc ++ [e] } })

/-- FORCMD_ENCODE (R299): its completion comes when the encode has finished (R370). -/
def execForcmdEncode (fn : Fin 16) (s : State) : Host.Outcome State Fault Refusal :=
  onDev (fun d => d.jobCommand fn (fun b => jType b == 6 && jOp b == 4) (fun d b =>
    let r := Dev.forEncode fn d b
    match r.1 with
    | some code => d.refuseJob fn b code
    | none => r.2)) s

/-- x clamped, scaled and rounded to a code; a NaN is 0 (R300). -/
def encCode (flac : Bool) (depth : Nat) (v : FVal) : Nat :=
  let one := FVal.fin 1 0
  let hi := if flac then one.add (FVal.fin (-1) (1 - (depth : Int))) else one
  let lo := if flac then FVal.fin (-1) 0 else FVal.zero false
  let x := if v.isNan then FVal.zero false else if v.lt lo then lo else if hi.lt v then hi else v
  let k : FVal := if flac then .fin 1 ((depth : Int) - 1) else .ofInt ((2 ^ depth : Nat) - 1 : Int) 0
  match x.mul k with
  | .fin m e => ofSigned depth (rneInt m e)
  | _ => 0

/-- The record an encoder writes (R274, R299). -/
def encRecord (u : List Byte) (v : List Byte) : List Byte :=
  let ty := if ebFlac u then 3 else if ebCodec u = 0x103 then 1 else 2
  let body := leBytes 2 ty ++ leBytes 2 (ebCodec u) ++ leBytes 4 v.length ++ padTo (8 * ceilDiv v.length 8) 0#8 v
  let head := leBytes 4 0x43455257 ++ leBytes 2 1 ++ leBytes 2 0 ++ (u.drop 0x30).take 8 ++ leBytes 4 body.length ++ leBytes 8 0
  head ++ leBytes 4 (crc32c (head ++ body)) ++ body

/-- The oldest encode finishes or fails (R299, R370). -/
def Dev.encodeDone (d : Dev) : Dev :=
  match d.forager.enc with
  | [] => d
  | e :: rest =>
    if d.inReset (FOR.page 0) then d else
    let u := e.block
    let d0 := { d with forager := { d.forager with enc := rest } }
    let post := fun (d : Dev) (code len : Nat) => d.postDone e.fn ⟨e.job, code, 6, 0, d.beatNum, len⟩
    if encUnsupported u then post d0 0x71 0
    else
      let r := d0.quietRead (ebSrc u) (fmtBytes (ebSfmt u) (ebCount u))
      let g := r.2.2.engine
      if r.1 then post r.2.2 0x31 0
      else if d.forager.engUE.contains g.1 then post (g.2.engineBad g.1) 0x30 0
      else
        let codes := (List.range (ebCount u)).map (fun i =>
          encCode (ebFlac u) (ebDepth u) (decodeElem (ebSfmt u) (unpackElem (ebSfmt u) r.2.1 i)))
        let rec_ := encRecord u (Config.encode (ebCodec u) (encForm u) codes)
        if ebCap u < rec_.length then post r.2.2 0x12 0
        else
          let d1 := if g.2.inRegion e.fn (ebDst u) rec_.length then g.2.memWrite (ebDst u) rec_ else g.2
          post ((d1.countSat (FOR.ENCODED g.1) 1).countFree64 (FOR.ENCCYC g.1)) 0 rec_.length

/-- ENCODE_DONE (R299, R300). -/
def execEncodeDone (s : State) : Host.Outcome State Fault Refusal := onDev Dev.encodeDone s

end Sys2Proof.Machine
end

