-- ==== Sys2Proof/Machine/Sliding.lean ====
section
/-!
DEFINITION. Sliding windows (08 R171-R184): the checks of CONV, POOL and CROPRESIZE, the window fetch, pooled and
resampled values, and the end of a wave's fold for every Massif operation (04 R81, R89).
-/
namespace Sys2Proof.Machine

/-! ### Fields (R173) -/
def swSubmode (b : List Byte) : Nat := field (byteAt b 2) 4 3
def swIncludePad (b : List Byte) : Bool := bit (byteAt b 2) 5
def swIaddr (b : List Byte) : Nat := fieldAt b 0x28 8
def swIppitch (b : List Byte) : Nat := fieldAt b 0x30 4
def swIrpitch (b : List Byte) : Nat := fieldAt b 0x34 4
def swInpitch (b : List Byte) : Nat := fieldAt b 0x38 8
def swWaddr (b : List Byte) : Nat := fieldAt b 0x58 8
def swWrpitch (b : List Byte) : Nat := fieldAt b 0x60 4
def swExit (b : List Byte) : List Byte := (b.drop 0x80).take 64

/-- Formats of sliding windows (R171). -/
def swFmt (c : Nat) : Bool := [1, 2, 3, 0x10, 0x11, 0x20].contains c

/-- Bytes of an element of AFMT and of BFMT. -/
def swE (b : List Byte) : Nat := fmtBits (mAfmt b) / 8
def swEB (b : List Byte) : Nat := fmtBits (mBfmt b) / 8

/-- Taps of an output (R181, R184). -/
def swTaps (b : List Byte) : Nat :=
  if opcodeOf b = 0x12 then (if swSubmode b = 1 then 1 else 4) else cKh b * cKw b

/-! ### Checks (R179) -/

/-- Check 1: the fields that every operation shares. -/
def swBadShared (b : List Byte) : Bool :=
  field (byteAt b 2) 7 6 != 0 || decide (1 < swSubmode b) || !swFmt (mAfmt b) || decide (8 < mGrid b) ||
  decide (cNimg b = 0 ∨ 65536 < cNimg b ∨ cIh b = 0 ∨ cIw b = 0 ∨ cCin b = 0 ∨ 65535 < cCin b) || !syncReservedOk b ||
  decide (swIppitch b < swE b * cCin b ∨ swIrpitch b % 64 ≠ 0 ∨ swIrpitch b < cIw b * swIppitch b ∨
    swInpitch b % 64 ≠ 0 ∨ swInpitch b < cIh b * swIrpitch b) ||
  decide (2 ^ (8 * swE b) ≤ cPadval b) || fieldAt b 0x56 2 != 0 || fieldAt b 0x70 16 != 0 ||
  exitBad1 (swExit b) false (mStart b)

/-- Windows of CONV and POOL are in range. -/
def swWindowBad (b : List Byte) : Bool :=
  let out := fun (lo hi n : Nat) => decide (n < lo ∨ hi < n)
  out 1 32 (cKh b) || out 1 32 (cKw b) || out 1 64 (cSy b) || out 1 64 (cSx b) || out 1 64 (cDy b) || out 1 64 (cDx b)

/-- Check 1, CONV. -/
def convBad1 (b : List Byte) : Bool :=
  let ra := (regionOf (mGrid b)).ra
  swBadShared b || swWindowBad b || decide (1 < mStart b) || swSubmode b != 0 || swIncludePad b || !swFmt (mBfmt b) ||
  !pairValid (mAfmt b) (mBfmt b) || decide (ra.log2 < mSplit b) || decide (cCout b = 0 ∨ 65535 < cCout b) ||
  decide (cGroups b = 0 ∨ cCin b % cGroups b ≠ 0 ∨ cCout b % cGroups b ≠ 0) ||
  (mSplit b != 0 && decide (1 < cGroups b)) ||
  decide (cKchunk b % 64 ≠ 0 ∨ cKchunk b < 64 ∨ 8192 < cKchunk b) ||
  decide (swWrpitch b % 64 ≠ 0 ∨ swWrpitch b < swEB b * cCout b) || cOhc b != 0 || cOwc b != 0 ||
  (decide (1 < cGroups b) &&
    (if fmtIsMx (xOut (swExit b)) then cCoutg b % 32 != 0
     else if fmtBits (xOut (swExit b)) = 4 then cCoutg b % 2 != 0
     else fmtBits (xOut (swExit b)) == 6 && cCoutg b % 4 != 0))

/-- Check 1, what POOL and CROPRESIZE share. -/
def noWeights (b : List Byte) : Bool :=
  mBfmt b != 0 || mSplit b != 0 || cCout b != 0 || cGroups b != 1 || cKchunk b != 0 || cBbase b != 0 || mStart b != 0

/-- Check 1, POOL. -/
def poolBad1 (b : List Byte) : Bool :=
  swBadShared b || swWindowBad b || noWeights b || swWaddr b != 0 || swWrpitch b != 0 || cOhc b != 0 || cOwc b != 0

/-- Check 1, CROPRESIZE. -/
def cropBad1 (b : List Byte) : Bool :=
  swBadShared b || noWeights b || swIncludePad b || fieldAt b 0x40 6 != 0 || fieldAt b 0x48 8 != 0 ||
  decide (cNbox b = 0 ∨ 65536 < cNbox b ∨ cOhc b = 0 ∨ 4096 < cOhc b ∨ cOwc b = 0 ∨ 4096 < cOwc b)

/-- The declared input extent (R179). -/
def swExtent (b : List Byte) : Nat :=
  (cNimg b - 1) * swInpitch b + (cIh b - 1) * swIrpitch b + (cIw b - 1) * swIppitch b + swE b * cCin b

/-- Weight rows or box list: bytes from WADDR or BOXADDR. -/
def swSecond (b : List Byte) : Nat :=
  if opcodeOf b = 0x10 then (cKh b * cKw b * cCing b - 1) * swWrpitch b + swEB b * cCout b
  else if opcodeOf b = 0x12 then 32 * cNbox b else 0

/-- Check 4. -/
def Dev.swBad4 (d : Dev) (b : List Byte) : Bool :=
  let g := geoOf b 0
  !d.inRegion d.tenancy (swIaddr b) (swExtent b) ||
  (swSecond b != 0 && !d.inRegion d.tenancy (swWaddr b) (swSecond b)) ||
  (if opcodeOf b = 0x10 then
     decide (storeSize < cAbase b + g.aBytes (mAfmt b)) || decide (storeSize < cBbase b + g.bBytes (mBfmt b))
   else decide (storeSize < cAbase b + 2 * swE b * 1024)) ||
  exitBad4 (swExit b) (mStart b) g.wi (groupsOfOp b * g.wj)

/-- R179. `bad1` is the operation's own first check. -/
def Dev.swCheck (d : Dev) (b : List Byte) (bad1 : Bool) : Option Nat :=
  let r := regionOf (mGrid b)
  let mask := match d.curImage with | some i => i.partMask | none => 0
  if bad1 then some 0x10
  else firstFail [
    (opcodeOf b != 0x12 && decide (cOh b ≤ 0 ∨ cOw b ≤ 0), 0x13),
    (swIaddr b % 64 != 0 || swWaddr b % 64 != 0 || cAbase b % 64 != 0 || cBbase b % 64 != 0 ||
      exitBad3 (swExit b) (mStart b), 0x11),
    (d.swBad4 b, 0x12),
    (r.parts.any (fun p => !bit mask p) || (d.heldCells r).any (fun x => decide (d.heldIn x = 2)), 0x10),
    (d.partsOff r.parts, 0xA5)]

/-- A descriptor that fails while it reads a list: LASTOP of its partitions, and the beat (R182, R188). -/
def Dev.listFail (d : Dev) (q : QDesc) (code addr : Nat) : Dev :=
  let ps := (regionOf (mGrid q.bytes)).parts
  let d1 := ps.foldl (fun d p => (d.setNum (MSF.LASTOP p) (opcodeOf q.bytes + 256 * code)).lastCode (MSF.page p) code)
    d.massifPop
  d1.beatFail code (blockName .msf (ps.headD 0)) addr

/-! ### Boxes (R182) -/

/-- Entry `i` of a box list. -/
def boxAt (l : List Byte) (i : Nat) : List Byte := (l.drop (32 * i)).take 32

def boxBad (nimg : Nat) (e : List Byte) : Bool :=
  let bad := fun (o : Nat) => (val32 (fieldAt e o 4)).isNan || (val32 (fieldAt e o 4)).isInf
  decide (nimg ≤ fieldAt e 0 4) || fieldAt e 4 4 != 0 || fieldAt e 0x18 8 != 0 || bad 8 || bad 0xC || bad 0x10 || bad 0x14

/-- The first bad entry of a box list of `n`. -/
def firstBadBox (nimg n : Nat) (l : List Byte) : Option Nat := (List.range n).find? (fun i => boxBad nimg (boxAt l i))

/-! ### Issue -/

/-- A sliding-window descriptor at the head of the queue. A CROPRESIZE keeps its box list behind its descriptor. -/
def Dev.sliding (d : Dev) (op : Nat) (bad1 : List Byte → Bool) : Dev :=
  if !d.issuing then d
  else match d.massifHead op with
  | none => d
  | some q =>
    match d.headCode q.bytes (d.swCheck q.bytes (bad1 q.bytes)) with
    | some c => d.massifFail q c 0
    | none =>
      if d.waitOk q.bytes && d.mayStart (mFence q.bytes) then
        if op = 0x12 then
          let r := d.engRead (swWaddr q.bytes) (32 * cNbox q.bytes)
          match firstBadBox (cNimg q.bytes) (cNbox q.bytes) r.1 with
          | some i => r.2.listFail q 0x10 (swWaddr q.bytes + 32 * i)
          | none => r.2.massifStart { q with bytes := padTo 192 0#8 q.bytes ++ r.1 }
        else d.massifStart q
      else d

/-- CONV (R173, R175, R179): its window fetch begins. -/
def execConv (s : State) : Host.Outcome State Fault Refusal := onBeat (·.sliding 0x10 convBad1) s

/-- POOL (R181). -/
def execPool (s : State) : Host.Outcome State Fault Refusal := onBeat (·.sliding 0x11 poolBad1) s

/-- CROPRESIZE (R182, R183). -/
def execCropresize (s : State) : Host.Outcome State Fault Refusal := onBeat (·.sliding 0x12 cropBad1) s

/-! ### The window fetch (R175, R177) -/

/-- A window fetch runs: Col issues no descriptor (R178). -/
def Dev.fetching (d : Dev) : Bool :=
  match d.massif.op with
  | some op => isWindow op.desc.bytes && (opcodeOf op.desc.bytes != 0x10 || decide (op.fetched ≤ op.group))
  | none => false

/-- Address of input element (n, y, x, c). -/
def pixelAddr (b : List Byte) (n y x c : Nat) : Nat :=
  swIaddr b + n * swInpitch b + y * swIrpitch b + x * swIppitch b + swE b * c

/-- Image and tap position of row `m` and tap `t` of a window operation, if inside (R174). -/
def tapPixel (b : List Byte) (m t : Nat) : Option (Nat × Nat × Nat) :=
  let oh := (cOh b).toNat
  let ow := (cOw b).toNat
  let y := tapY b (m / ow % oh) (t / cKw b)
  let x := tapX b (m % ow) (t % cKw b)
  if insideImg b y x then some (m / (oh * ow), y.toNat, x.toNat) else none

/-- The A element (m, k) of group `grp` as the fetch writes it. -/
def Dev.convA (d : Dev) (b : List Byte) (grp m k : Nat) : Nat :=
  let ci := k % cCinp b
  if cCing b ≤ ci then 0
  else match tapPixel b m (k / cCinp b) with
  | some p => leNat (d.mem.dram.readN (pixelAddr b p.1 p.2.1 p.2.2 (grp * cCing b + ci)) (swE b))
  | none => if (decodeElem (mAfmt b) (cPadval b)).isZero then 0 else cPadval b

/-- The B element (k, n) of group `grp`. -/
def Dev.convB (d : Dev) (b : List Byte) (grp n k : Nat) : Nat :=
  let ci := k % cCinp b
  if cCing b ≤ ci then 0
  else leNat (d.mem.dram.readN
    (swWaddr b + (k / cCinp b * cCing b + ci) * swWrpitch b + swEB b * (grp * cCoutg b + n)) (swEB b))

/-- What the fetch of group `grp` reads: pixels of inside taps, weight rows. -/
def convReads (b : List Byte) (grp : Nat) : List (Nat × Nat) :=
  let taps := cKh b * cKw b
  let px := ((List.range (cRows b)).flatMap (fun m => (List.range taps).filterMap (tapPixel b m))).eraseDups
  px.map (fun (p : Nat × Nat × Nat) => (pixelAddr b p.1 p.2.1 p.2.2 (grp * cCing b), swE b * cCing b)) ++
  (List.range (taps * cCing b)).map (fun r => (swWaddr b + r * swWrpitch b + swEB b * (grp * cCoutg b), swEB b * cCoutg b))

def Dev.windowFetchEnd (d : Dev) : Dev :=
  if !d.running then d
  else match d.massif.op with
  | none => d
  | some op =>
    let b := op.desc.bytes
    if opcodeOf b != 0x10 || decide (op.group < op.fetched) || d.col.run.isSome then d
    else
      let g := geoOf b 0
      let d0 := (d.touchAll (convReads b op.group)).stageCheck g.reg.bufs
      let d1 := d0.placeOperand g true (mAfmt b) (cAbase b) (d.convA b op.group)
      let d2 := d1.placeOperand g false (mBfmt b) (cBbase b) (d.convB b op.group)
      { d2.colBusy d0 with massif := { (d2.colBusy d0).massif with op := some { op with fetched := op.fetched + 1 } } }

/-- WINDOW_FETCH_END (R177). -/
def execWindowFetchEnd (s : State) : Host.Outcome State Fault Refusal := onBeat Dev.windowFetchEnd s

/-! ### Pooling (R181) -/

/-- Maximum or average of the counted values. -/
def poolOf (avg : Bool) (vs : List FVal) : FVal × Bool :=
  match vs with
  | [] => (.zero false, false)
  | v :: rest =>
    if avg then
      let s := vs.foldl (fun (r : FVal × Bool) x => let q := fAdd grid32 r.1 x; (q.1, r.2 || q.2)) (.zero false, false)
      let q := (divCount s.1 vs.length).round grid32
      (q.1, s.2 || q.2)
    else (rest.foldl fMax v, false)

/-- The value of output row `m`, channel `c`. -/
def Dev.poolValue (d : Dev) (b : List Byte) (m c : Nat) : FVal × Bool :=
  poolOf (swSubmode b == 1) ((List.range (cKh b * cKw b)).filterMap (fun t =>
    match tapPixel b m t with
    | some p => some (decodeElem (mAfmt b) (leNat (d.mem.dram.readN (pixelAddr b p.1 p.2.1 p.2.2 c) (swE b))))
    | none => if swIncludePad b then some (decodeElem (mAfmt b) (cPadval b)) else none))

/-! ### Crop and resize (R183) -/

/-- sample_pos of R183. -/
def samplePos (a0 a1 : FVal) (count i : Nat) : FVal :=
  let h := r32 (divCount (a1.add a0.negate) count)
  let s := r32 (a0.add ((FVal.fin (2 * i + 1) (-1)).mul h))
  r32 (s.add (.fin (-1) (-1)))

/-- floor of a finite value. -/
def floorOf (v : FVal) : Int :=
  match v with
  | .fin m e => floorAt m e 0
  | _ => 0

/-- A position less its floor. -/
def fracOf (v : FVal) : FVal := v.add (FVal.ofInt (-(floorOf v)) 0)

/-- lerp of R183, with OVF. -/
def lerp (u v f : FVal) : FVal × Bool :=
  if f.isZero then (u, false)
  else ((((FVal.fin 1 0).add f.negate).mul u).add (f.mul v)).round grid32

/-- Image, row and column positions of output row `m`. -/
def cropPos (b : List Byte) (m : Nat) : Nat × FVal × FVal :=
  let e := boxAt (b.drop 192) (m / (cOhc b * cOwc b))
  let at_ := fun (o : Nat) => val32 (fieldAt e o 4)
  (fieldAt e 0 4, samplePos (at_ 8) (at_ 0x10) (cOhc b) (m / cOwc b % cOhc b),
    samplePos (at_ 0xC) (at_ 0x14) (cOwc b) (m % cOwc b))

def half_ : FVal := .fin 1 (-1)

/-- The pixels that output row `m` reads: those of weight other than 0, inside the image. -/
def cropPixels (b : List Byte) (m : Nat) : List (Nat × Nat × Nat) :=
  let p := cropPos b m
  let spots : List (Int × Int) :=
    if swSubmode b = 1 then [(floorOf (p.2.1.add half_), floorOf (p.2.2.add half_))]
    else
      let y := floorOf p.2.1
      let x := floorOf p.2.2
      ([0, 1].filter (fun i => i == 0 || !(fracOf p.2.1).isZero)).flatMap (fun (i : Int) =>
        ([0, 1].filter (fun j => j == 0 || !(fracOf p.2.2).isZero)).map (fun (j : Int) => (y + i, x + j)))
  (spots.filter (fun s => insideImg b s.1 s.2)).map (fun s => (p.1, s.1.toNat, s.2.toNat))

/-- val of R183. -/
def Dev.cropVal (d : Dev) (b : List Byte) (n c : Nat) (y x : Int) : FVal :=
  decodeElem (mAfmt b) (if insideImg b y x then leNat (d.mem.dram.readN (pixelAddr b n y.toNat x.toNat c) (swE b)) else cPadval b)

/-- crop_sample of R183 for output row `m`, channel `c`, with OVF. -/
def Dev.cropValue (d : Dev) (b : List Byte) (m c : Nat) : FVal × Bool :=
  let p := cropPos b m
  let v := fun (y x : Int) => d.cropVal b p.1 c y x
  if swSubmode b = 1 then (v (floorOf (p.2.1.add half_)) (floorOf (p.2.2.add half_)), false)
  else
    let y0 := floorOf p.2.1
    let x0 := floorOf p.2.2
    let fy := fracOf p.2.1
    let fx := fracOf p.2.2
    let top := lerp (v y0 x0) (v y0 (x0 + 1)) fx
    if fy.isZero then top
    else
      let bot := lerp (v (y0 + 1) x0) (v (y0 + 1) (x0 + 1)) fx
      let r := lerp top.1 bot.1 fy
      (r.1, top.2 || bot.2 || r.2)

/-! ### The end of a wave's fold (R81, R89) -/

/-- The values of a POOL or CROPRESIZE tile in its bank. -/
def Dev.windowTile (d : Dev) (b : List Byte) (g : Geo) (ti tj : Nat) (k : Bank) : Bank :=
  let r := tabulate 1024 (fun e =>
    let m := 32 * ti + e / 32
    let c := 32 * tj + e % 32
    if m < g.m ∧ c < g.n then
      let v := if opcodeOf b = 0x12 then d.cropValue b m c else d.poolValue b m c
      (accBits false v.1, ovfOf v.2)
    else (0#64, 0))
  { k with acc := r.map (fun x => x.1), flags := k.flags ||| orAll (r.map (fun x => x.2)) }

/-- What a wave of a POOL or CROPRESIZE reads. -/
def windowReads (b : List Byte) (g : Geo) (ts : List (Nat × Nat)) : List (Nat × Nat) :=
  (ts.flatMap (fun t => (List.range (min 32 (g.m - 32 * t.1))).flatMap (fun i =>
    let m := 32 * t.1 + i
    let px := if opcodeOf b = 0x12 then cropPixels b m else (List.range (cKh b * cKw b)).filterMap (tapPixel b m)
    px.map (fun (p : Nat × Nat × Nat) =>
      (pixelAddr b p.1 p.2.1 p.2.2 (32 * t.2), swE b * min 32 (g.n - 32 * t.2)))))).eraseDups

/-- The window fetch of one tile of a POOL or CROPRESIZE (R178, R182): its taps' values enter the work area of its cell. How
many bytes travel is the model's reading: each tap's values at the tile's valid positions (DESIGN CHOICE, log 14). -/
def Dev.stageTile (d : Dev) (b : List Byte) (g : Geo) (t : Nat × Nat) : Dev :=
  let x := g.cellOf 0 t.1 t.2
  (d.csOpen x (cAbase b) (2 * swE b * 1024)).countPlaced x
    (swTaps b * swE b * min 32 (g.m - 32 * t.1) * min 32 (g.n - 32 * t.2))

def Dev.waveFoldEnd (d : Dev) (f : Nat) : Dev :=
  if !d.running then d
  else match d.massif.op with
  | none => d
  | some op =>
    match op.folding.getD f none with
    | none => d
    | some w =>
      let b := op.desc.bytes
      let g := geoOf b f
      if opcodeOf b = 0x11 ∨ opcodeOf b = 0x12 then
        if d.col.run.isSome then d
        else
        let d1 := (d.touchAll (windowReads b g (g.tiles w))).stageCheck g.reg.bufs
        let d2 := ((g.tiles w).foldl (fun (d : Dev) (t : Nat × Nat) => d.stageTile b g t) d1).colBusy d1
        d2.endFold op f w (fun _ t k => d.windowTile b g t.1 t.2 k) (fun _ => swTaps b)
      else
        let d1 := (d.badOperands b f g w).foldl Dev.failWord d
        d1.endFold op f w (fun s t k => d.foldTile b f g s t.1 t.2 k)
          (fun s => g.foldCycles (foldedChunks b g (g.tiles w) s) (opndA b f).fmt (opndB b f).fmt)

/-- WAVE_FOLD_END (R81, R89, R181, R183): the fetch of a POOL or CROPRESIZE waits for a Col descriptor that runs (R178). -/
def execWaveFoldEnd (flank : Fin 2) (s : State) : Host.Outcome State Fault Refusal := onBeat (·.waveFoldEnd flank) s

end Sys2Proof.Machine
end

