-- ==== Sys2Proof/Machine/Assemble.lean ====
section
/-!
DEFINITION. Assembly of a batch (13 R285-R292, R295, R298): augmentation, the slot layouts, the slot records, ASSEMBLE and
its completion.
-/
namespace Sys2Proof.Machine

/-! ### Parameter blocks (R285) and decoded frames (R278) -/

/-- A field of a parameter block as FP32; `p` is empty where PARAMADDR is 0, and every stage is off. -/
def pv (p : List Byte) (o : Nat) : FVal := val32 (fieldAt p o 4)
def pFlag (p : List Byte) (i : Nat) : Bool := bit (fieldAt p 0 2) i
def pMeshN (p : List Byte) : Nat := byteAt p 2
def pMesh (p : List Byte) : Nat := fieldAt p 0x70 8
def pLut1 (p : List Byte) : Nat := fieldAt p 0x78 8
def pLut3 (p : List Byte) : Nat := fieldAt p 0x80 8
def pGain (p : List Byte) : FVal := if p = [] then .fin 1 0 else pv p 0x88

/-- A plane of a decoded frame. -/
structure Plane where
  w : Nat
  h : Nat
  depth : Nat
  hp : Nat
  vp : Nat
  codes : List Nat
  deriving DecidableEq, Repr

/-- The planes of a decoded frame. -/
def planesOf : Nat → List Nat → List Plane
  | n + 1, w :: h :: dp :: hp :: vp :: rest => ⟨w, h, dp, hp, vp, rest.take (w * h)⟩ :: planesOf n (rest.drop (w * h))
  | _, _ => []

def framePlanes (fr : List Nat) : List Plane := planesOf (fr.getD 1 0) (fr.drop 4)
def frameRgb (fr : List Nat) : Bool := fr.headD 0 == 1

/-! ### Geometry (R286) -/

def one_ : FVal := .fin 1 0
def two_ : FVal := .fin 2 0
/-- A quotient rounded once (R286). -/
def quot32 (a b : FVal) : FVal := (jQuot (a, 0) (b, 0)).1

/-- floor clamped to 0 … hi; a NaN counts as 0. -/
def clampFloor (v : FVal) (hi : Nat) : Nat :=
  if v.isInf then (if v.neg? then 0 else hi) else (max 0 (min (floorOf v) hi)).toNat

/-- mesh_map, from the mesh points of `g`. -/
def meshMap (n : Nat) (g : Nat → Nat → FVal × FVal) (u v : FVal) : FVal × FVal :=
  let s := r32 (u.mul (.ofInt ((n - 1 : Nat) : Int) 0))
  let t := r32 (v.mul (.ofInt ((n - 1 : Nat) : Int) 0))
  let b := clampFloor s (n - 2)
  let a := clampFloor t (n - 2)
  let fs := s.add (.ofInt (-(b : Int)) 0)
  let ft := t.add (.ofInt (-(a : Int)) 0)
  let both := fun (x y : FVal × FVal) (f : FVal) => ((lerp x.1 y.1 f).1, (lerp x.2 y.2 f).1)
  both (both (g a b) (g a (b + 1)) fs) (both (g (a + 1) b) (g (a + 1) (b + 1)) fs) ft

/-- The lens stage. -/
def lensPoint (p : List Byte) (x y : FVal) : FVal × FVal :=
  let cx := pv p 0x14
  let cy := pv p 0x18
  let f := pv p 0x1C
  let xn := quot32 (x.add cx.negate) f
  let yn := quot32 (y.add cy.negate) f
  let r2 := r32 ((xn.mul xn).add (yn.mul yn))
  let rad := r32 (one_.add (r2.mul (r32 ((pv p 0x20).add (r2.mul (r32 ((pv p 0x24).add (r2.mul (pv p 0x28)))))))))
  let p1 := pv p 0x2C
  let p2 := pv p 0x30
  let xd := r32 (((xn.mul rad).add (((two_.mul p1).mul xn).mul yn)).add (p2.mul (r2.add ((two_.mul xn).mul xn))))
  let yd := r32 (((yn.mul rad).add (p1.mul (r2.add ((two_.mul yn).mul yn)))).add (((two_.mul p2).mul xn).mul yn))
  (r32 (cx.add (f.mul xd)), r32 (cy.add (f.mul yd)))

/-- source_point: (y, x) of output pixel (i, j) of an OH x OW frame, from a source of `w` x `h` pixels. -/
def sourcePoint (p : List Byte) (g : Nat → Nat → FVal × FVal) (oh ow w h i j : Nat) : FVal × FVal :=
  let u0 := r32 (divCount (.fin (2 * j + 1) (-1)) ow)
  let v0 := r32 (divCount (.fin (2 * i + 1) (-1)) oh)
  let u1 := if pFlag p 0 then r32 (one_.add u0.negate) else u0
  let v1 := if pFlag p 1 then r32 (one_.add v0.negate) else v0
  let uv := if pFlag p 3 then meshMap (pMeshN p) g u1 v1 else (u1, v1)
  let x0 := if p = [] then .zero false else pv p 4
  let y0 := if p = [] then .zero false else pv p 8
  let x1 := if p = [] then .ofInt w 0 else pv p 0xC
  let y1 := if p = [] then .ofInt h 0 else pv p 0x10
  let x := r32 (x0.add (uv.1.mul (r32 (x1.add x0.negate))))
  let y := r32 (y0.add (uv.2.mul (r32 (y1.add y0.negate))))
  let q := if pFlag p 2 then lensPoint p x y else (x, y)
  (q.2, q.1)

/-- val: a plane's value at a place; outside it the border value, or with BORDER = 1 the nearest edge sample. -/
def Plane.at (pl : Plane) (clamp : Bool) (border : FVal) (y x : Int) : FVal :=
  let inside := decide (0 ≤ y ∧ y < pl.h ∧ 0 ≤ x ∧ x < pl.w)
  if inside || (clamp && pl.w != 0 && pl.h != 0) then
    let yy := (max 0 (min y ((pl.h : Int) - 1))).toNat
    let xx := (max 0 (min x ((pl.w : Int) - 1))).toNat
    r32 (divCount (.ofInt ((pl.codes.getD (yy * pl.w + xx) 0 : Nat) : Int) 0) (2 ^ pl.depth - 1))
  else border

/-- crop_sample of R183 in bilinear mode on a plane. A NaN coordinate gives the border value; an infinite one has no
fraction (R112). -/
def Plane.sample (pl : Plane) (clamp : Bool) (border y x : FVal) : FVal :=
  if y.isNan || x.isNan then border
  else if y.isInf || x.isInf then .nan
  else
    let y0 := floorOf y
    let x0 := floorOf x
    let top := (lerp (pl.at clamp border y0 x0) (pl.at clamp border y0 (x0 + 1)) (fracOf x)).1
    if (fracOf y).isZero then top
    else (lerp top (lerp (pl.at clamp border (y0 + 1) x0) (pl.at clamp border (y0 + 1) (x0 + 1)) (fracOf x)).1 (fracOf y)).1

/-- A coordinate of a plane with subsampling 1 or 2. -/
def planeCoord (v : FVal) (sub : Nat) : FVal := r32 ((if sub = 2 then v.scale (-1) else v).add (.fin (-1) (-1)))

/-- The three channels at a source point (R286). -/
def channelsAt (p : List Byte) (clamp : Bool) (fr : List Nat) (y x : FVal) : List FVal :=
  let ps := framePlanes fr
  let n := if frameRgb fr || decide (3 ≤ ps.length) then 3 else 1
  tabulate 3 (fun k =>
    match ps[k]? with
    | some pl => if k < n then pl.sample clamp (if p = [] then .zero false else pv p (0x64 + 4 * k)) (planeCoord y pl.vp) (planeCoord x pl.hp)
        else .zero false
    | none => .zero false)

/-! ### Colour (R287) -/

/-- idx: index and fraction of a table look-up. -/
def lutIdx (x : FVal) (n : Nat) : Nat × FVal :=
  let t := if x.isNan then .zero false
    else r32 ((fMin (fMax x (.zero false)) one_).mul (.ofInt (n : Int) 0))
  let i := clampFloor t (n - 1)
  (i, t.add (.ofInt (-(i : Int)) 0))

/-- colour, before the conversion; `l1` and `l3` read the tables. -/
def colourOf (p : List Byte) (l1 : Nat → Nat → FVal) (l3 : Nat → Nat → Nat → Nat → FVal) (c0 : List FVal) : List FVal :=
  let at_ := fun (c : List FVal) (k : Nat) => c.getD k (.zero false)
  let c1 := if pFlag p 4 then tabulate 3 (fun k =>
      let q := lutIdx (at_ c0 k) 4095
      (lerp (l1 k q.1) (l1 k (q.1 + 1)) q.2).1) else c0
  let c2 := if pFlag p 5 then tabulate 3 (fun k =>
      let m := fun (j : Nat) => pv p (0x34 + 16 * k + 4 * j)
      r32 (((((m 0).mul (at_ c1 0)).add ((m 1).mul (at_ c1 1))).add ((m 2).mul (at_ c1 2))).add (m 3))) else c1
  if pFlag p 6 then
    let r := lutIdx (at_ c2 0) 32
    let g := lutIdx (at_ c2 1) 32
    let b := lutIdx (at_ c2 2) 32
    tabulate 3 (fun k =>
      let e := fun (dg db : Nat) => (lerp (l3 r.1 (g.1 + dg) (b.1 + db) k) (l3 (r.1 + 1) (g.1 + dg) (b.1 + db) k) r.2).1
      let e2 := fun (db : Nat) => (lerp (e 0 db) (e 1 db) g.2).1
      (lerp (e2 0) (e2 1) b.2).1)
  else c2

/-! ### Slots (R288, R289) -/

/-- An image's bytes: OH x OW pixels of three channels in OUTFMT, and whether a conversion overflowed. -/
def Dev.imageSlot (d : Dev) (u p : List Byte) (fr : List Nat) : List Byte × Bool :=
  let pl := (framePlanes fr).headD ⟨0, 0, 1, 1, 1, []⟩
  let n := pMeshN p
  let g := fun (a b : Nat) => (d.f32At (pMesh p) (2 * (a * n + b)), d.f32At (pMesh p) (2 * (a * n + b) + 1))
  let l1 := fun (k i : Nat) => d.f32At (pLut1 p) (4096 * k + i)
  let l3 := fun (r gg b k : Nat) => d.f32At (pLut3 p) (3 * (r + 33 * gg + 1089 * b) + k)
  let px := (List.range (fbOh u * fbOw u)).flatMap (fun q =>
    let s := sourcePoint p g (fbOh u) (fbOw u) pl.w pl.h (q / fbOw u) (q % fbOw u)
    (colourOf p l1 l3 (channelsAt p (fbClamp u) fr s.1 s.2)).map (fun c => convertTo (fbOutfmt u) c true))
  (px.flatMap (fun (x : Nat × Bool) => leBytes (fmtBytes (fbOutfmt u) 1) x.1), px.any (fun (x : Nat × Bool) => x.2))

/-- Sample `i` of channel `c` of decoded audio, from source sample FIRST on; +0 outside the field (R277, R288). -/
def audioAt (a : List Nat) (first : Nat) (c : Nat) (i : Int) : FVal :=
  let ch := a.getD 1 1
  let bits := a.getD 2 0
  let k := (first : Int) + i
  let n := (a.length - 3) / max 1 ch
  if 0 ≤ k ∧ k < n ∧ c < ch then
    let v := a.getD (3 + k.toNat * ch + c) 0
    if bits = 0 then val32 v else r32 (FVal.ofInt (toSigned bits v) (1 - (bits : Int)))
  else .zero false

/-- audio(n) of channel `c` (R288); a channel beyond the source's is +0. -/
def Dev.audioOut (d : Dev) (u p : List Byte) (a : List Nat) (first c n : Nat) : FVal :=
  let src := a.headD 0
  if a.getD 1 1 ≤ c then .zero false
  else if src = fbOutrate u then r32 ((audioAt a first c n).mul (pGain p))
  else
    let num := n * src
    let q := num / fbOutrate u
    let ph := num % fbOutrate u * 256 / fbOutrate u
    let acc := (List.range 64).foldl (fun (acc : FVal) k =>
      r32 (acc.add ((d.f32At (fbRstable u) (64 * ph + k)).mul (audioAt a first c ((q : Int) - 31 + k))))) (.zero false)
    r32 (acc.mul (pGain p))

def Dev.audioSlot (d : Dev) (u p : List Byte) (a : List Nat) (first : Nat) : List Byte × Bool :=
  let xs := (List.range (fbAudiolen u * fbAudioch u)).map (fun q =>
    convertTo (fbOutfmt u) (d.audioOut u p a first (q % fbAudioch u) (q / fbAudioch u)) true)
  (xs.flatMap (fun (x : Nat × Bool) => leBytes (fmtBytes (fbOutfmt u) 1) x.1), xs.any (fun (x : Nat × Bool) => x.2))

/-- Tokens of a slot (R279). -/
def textSlot (u : List Byte) (toks : List Nat) : List Byte :=
  (padTo (fbMaxtok u) (fbPadtok u) (toks.take (fbMaxtok u))).flatMap (leBytes 4)

/-- A slot's bytes from its cache entries, in order. -/
def Dev.slotBytes (d : Dev) (u p : List Byte) (first : Nat) (es : List Cached) : List Byte × Bool :=
  match es with
  | [] => ([], false)
  | e :: _ =>
    if e.kind = 4 then (textSlot u e.data, false)
    else if e.kind = 3 then d.audioSlot u p e.data first
    else
      let l := es.map (fun (c : Cached) => d.imageSlot u p c.data)
      (l.flatMap (fun (x : List Byte × Bool) => x.1), l.any (fun (x : List Byte × Bool) => x.2))

/-- What an assembly reads for a slot: its parameter block and the tables of the stages that are on; a table is read
whole. -/
def slotReads (u p : List Byte) (addr : Nat) (es : List Cached) : List (Nat × Nat) :=
  let k := (es.map (fun (c : Cached) => c.kind)).headD 0
  (if addr = 0 then [] else [(addr, 144)]) ++
  (if k = 1 ∨ k = 2 then
    (if pFlag p 3 then [(pMesh p, 8 * (pMeshN p * pMeshN p))] else []) ++
    (if pFlag p 4 then [(pLut1 p, 49152)] else []) ++ (if pFlag p 6 then [(pLut3 p, 431244)] else [])
  else if k = 3 ∧ (es.map (fun (c : Cached) => c.data.headD 0)).headD 0 ≠ fbOutrate u then [(fbRstable u, 65536)]
  else [])

/-- The cache entries of a decoded shard sample (R280, R289). -/
def Feed.entries (f : Feed) (pos : Nat) : List Cached :=
  match f.keys.find? (fun (k : Nat × List Byte) => k.1 == pos) with
  | none => []
  | some k =>
    let l := f.cache.filter (fun (c : Cached) => c.key == k.2)
    match l with
    | [] => []
    | c :: _ => (f.frameSpan c.kind (f.sample pos)).filterMap (fun n => l.find? (fun (x : Cached) => x.frame == n))

/-- The frame a live slot takes (R298): frames past MAXAGE leave and are counted; the oldest left is used, once. -/
def Dev.takeFrame (d : Dev) (s : Nat) : Dev × List Cached :=
  let st := d.stream s
  let fresh := st.frames.filter (fun (x : Nat × List Cached) => decide (d.now - x.1 ≤ d.num (FOR.MAXAGE 0 s)))
  let d1 := d.staleFrames (st.frames.length - fresh.length)
  match fresh with
  | [] => (d1.setStream s { st with frames := [] }, [])
  | x :: rest => (d1.setStream s { st with frames := rest }, x.2)

/-- A live slot: none where its stream is LOST or has no frame within its age; the beat reports OK_STALE (R295, R298). A video
with too few frames is corrupt (R289), and masked. -/
def Dev.liveSlot (d : Dev) (k b : Nat) (r : List Byte) : Dev × List Cached :=
  let s := srStream r - 1
  if d.flag (FOR.STRMCTRL 0 s) 1 then ((d.report k (srId r) b (srSlot r) 0x73).success 7, [])
  else
    let x := d.takeFrame s
    let kind := (x.2.map (fun (c : Cached) => c.kind)).headD 0
    let es := ((d.feed k).frameSpan kind r).filterMap (fun n => x.2.find? (fun (c : Cached) => c.frame == n))
    if x.2 = [] then (x.1.success 7, [])
    else if es.length < ((d.feed k).frameSpan kind r).length then
      ((((x.1.report k (srId r) b (srSlot r) 0x70).countSat (FOR.CORRUPTCNT 0) 1).err (FOR.page 0) 9).success 4, [])
    else (x.1, es)

def asmFeed (b : List Byte) : Nat := field (byteAt b 3) 3 0
def asmDst (b : List Byte) : Nat := fieldAt b 8 8
def asmRec (b : List Byte) : Nat := fieldAt b 0x10 8

/-- A live text frame is tokenized with the feed's table. -/
def Dev.liveText (d : Dev) (f : Feed) (r : List Byte) (c : Cached) : Cached :=
  let ms := mergeTable (d.mem.dram.readN (fbVocab f.block) (8 * fbNmerge f.block)) (fbNmerge f.block)
  let toks := tokenize ms ((c.data.drop (srFirst r)).map (fun n => BitVec.ofNat 8 n))
  if c.kind = 4 then { c with data := toks }
  else c

/-- KIND of a masked slot (R290): the type of the sample's field where it is known. -/
def Feed.maskedKind (f : Feed) (pos : Nat) : Nat :=
  match f.kinds.find? (fun (x : Nat × Nat) => x.1 == pos) with
  | some x => x.2
  | none => 1 + Config.maskedKind (f.sample pos ++ f.block) % 4

/-- One slot of the batch is written, with its slot record (R290). -/
def Dev.writeSlot (k b : Nat) (bs : List Byte) (d : Dev) (pos : Nat) : Dev :=
  let f := d.feed k
  let r := f.sample pos
  let u := f.block
  let x := if f.live pos then d.liveSlot k b r else (d, if f.outcome pos = some 0 then f.entries pos else [])
  let es := if f.live pos then x.2.map (x.1.liveText f r) else x.2
  let dst := asmDst bs + srSlot r * fbPitch u
  let blk := blockName .forager 0
  let recAt := asmRec bs + 16 * srSlot r
  if es = [] then
    let d1 := x.1.engWrite dst (List.replicate (fbPitch u) 0#8) blk
    d1.engWrite recAt (leBytes 4 0 ++ leBytes 1 (f.maskedKind pos) ++ leBytes 3 0 ++ srId r) blk
  else
    let p := if srParam r = 0 then [] else x.1.mem.dram.readN (srParam r) 144
    let d1 := x.1.touchAll (slotReads u p (srParam r) es)
    let v := x.1.slotBytes u p (srFirst r) es
    let d2 := (if v.2 then d1.err (FOR.page 0) 15 else d1).engWrite dst v.1 blk
    let kind := (es.map (fun (c : Cached) => c.kind)).headD 0
    d2.engWrite recAt (leBytes 4 0x3F800000 ++ leBytes 1 kind ++ leBytes 3 0 ++ srId r) blk

/-- A bad block in the cache region may lie under an entry that the batch reads: whether it does is free (R280). -/
def Dev.cacheReads (d : Dev) (f : Feed) : Dev :=
  let lo := fbCache f.block
  match (d.mem.stackUE ++ d.mem.badList.map (fun (x : Nat × Nat) => x.2)).find? (fun b =>
      rangesMeet (256 * b) 256 lo (fbCacheSize f.block)) with
  | some b => if d.freshNat.1 % 2 = 1 then (d.freshNat.2.noteUE b).beatFail 0x31 (blockName .stk (b % 12)) (256 * b) else d.freshNat.2
  | none => d

/-- Checks of R291. -/
def Dev.asmCheck (d : Dev) (b : List Byte) : Option Nat :=
  let f := d.feed (asmFeed b)
  let u := f.block
  let scr := match d.cricket.cur with | some x => x.scramble | none => false
  let job := match d.cricket.cur with | some x => x.job | none => 0#32
  firstFail [
    (byteAt b 2 != 0 || field (byteAt b 3) 7 4 != 0 || fieldAt b 4 4 != 0 || !syncReservedOk b || fieldAt b 0x28 24 != 0, 0x10),
    (f.state == 0 || f.fn != d.tenancy, 0x19),
    (fbMode u != scr.toNat || BitVec.ofNat 32 (fbJob u) != job, 0x14),
    (f.state == 2, f.fault),
    (asmDst b % 64 != 0 || asmRec b % 64 != 0, 0x11),
    (!d.windowed (asmDst b) (fbSlots u * fbPitch u) || !d.windowed (asmRec b) (16 * fbSlots u), 0x12)]

/-- An engine's uncorrectable SRAM error met in assembly fails the beat (R68, R301). -/
def Dev.assembleEngines (d : Dev) : Dev :=
  d.forager.engUE.foldl (fun (d : Dev) e => (d.engineBad e).beatFail 0x30 (blockName .forager e) 0) d

/-- An ASSEMBLE is issued: the next batch is written (R290). -/
def Dev.assembleNow (d : Dev) (q : QDesc) : Dev :=
  let k := asmFeed q.bytes
  let d0 := ((d.decide_ k (d.feed k).next).cacheReads (d.feed k)).assembleEngines
  let f := d0.feed k
  let d1 := (f.batch f.next).foldl (Dev.writeSlot k f.next q.bytes) d0
  let d2 := (f.notes.filter (fun (n : Nat × Nat) => n.1 == f.next)).foldl (fun (d : Dev) (n : Nat × Nat) => d.success n.2) d1
  { d2 with forager := { d2.forager with run := some (q, f.next) } }

def Dev.assemble (d : Dev) : Dev :=
  if !d.issuing then d
  else match d.forager.queue with
  | [] => d
  | q :: rest =>
    if d.forager.run.isSome then d
    else
      let pop := fun (d : Dev) => ({ d with forager := { d.forager with queue := rest } }).countIssue
      match d.headCode q.bytes (d.asmCheck q.bytes) with
      | some c => ((pop d).lastCode (FOR.page 0) c).beatFail c (blockName .forager 0) 0
      | none =>
        if d.waitOk q.bytes && (d.feed (asmFeed q.bytes)).batchReady (d.feed (asmFeed q.bytes)).next then
          (pop d).assembleNow q
        else d

/-- ASSEMBLE (R285-R291, R295, R298). -/
def execAssemble (s : State) : Host.Outcome State Fault Refusal := onBeat Dev.assemble s

def Dev.assembleComplete (d : Dev) : Dev :=
  if !d.running then d
  else match d.forager.run with
  | none => d
  | some (q, b) =>
    let k := asmFeed q.bytes
    let d1 := d.setFeed k { d.feed k with next := b + 1 }
    (((({ d1 with forager := { d1.forager with run := none } }).countFree64 (FOR.ASMCYC 0)).countFree64 (FOR.ASMCYC 1)).lastCode
      (FOR.page 0) 0).applySignal q.bytes

/-- ASSEMBLE_COMPLETE (R292): the batch counts as assembled; the signal is applied. -/
def execAssembleComplete (s : State) : Host.Outcome State Fault Refusal := onBeat Dev.assembleComplete s

end Sys2Proof.Machine
end

