-- ==== Sys2Proof/Machine/Col.lean ====
section
/-!
DEFINITION. Col (07 R148-R154): the checks of PLACE and DUAL, placement with transposition and conversion, and what the
buffers count.
-/
namespace Sys2Proof.Machine

/-! ### Fields (R150) -/

def pTrans (b : List Byte) (s : Nat) : Bool := bit (byteAt b 2) s
def pSat (b : List Byte) : Bool := bit (byteAt b 2) 2
def pSquare (b : List Byte) : Bool := bit (byteAt b 2) 3
def pSfmt (b : List Byte) : Nat := byteAt b 3
def pDfmt (b : List Byte) : Nat := byteAt b 4
def pSrc (b : List Byte) : Nat := fieldAt b 0x08 8
def pSpitch (b : List Byte) : Nat := fieldAt b 0x10 4
def pSmp (b : List Byte) : Nat := fieldAt b 0x14 4
def pSaddr (b : List Byte) : Nat := fieldAt b 0x28 8
def isDual (b : List Byte) : Bool := opcodeOf b == 2
def setsOf (b : List Byte) : List Nat := if isDual b then [0, 1] else [0]

/-- SET[i]. -/
def pSet (b : List Byte) (i : Nat) : List Byte := (b.drop (0x40 + 0x20 * i)).take 32
def setRole (b : List Byte) (i : Nat) : Nat := byteAt (pSet b i) 0
def setGrid (b : List Byte) (i : Nat) : Nat := byteAt (pSet b i) 1
def setSplit (b : List Byte) (i : Nat) : Nat := byteAt (pSet b i) 2
def setKchunk (b : List Byte) (i : Nat) : Nat := fieldAt (pSet b i) 4 2
def setMn (b : List Byte) (i : Nat) : Nat := fieldAt (pSet b i) 8 4
def setK (b : List Byte) (i : Nat) : Nat := fieldAt (pSet b i) 0xC 4
def setBase (b : List Byte) (i : Nat) : Nat := fieldAt (pSet b i) 0x10 4
def setScbase (b : List Byte) (i : Nat) : Nat := fieldAt (pSet b i) 0x14 4

/-- Geometry of a set's consuming operation, as far as its own operand needs it. -/
def setGeo (b : List Byte) (i : Nat) : Geo :=
  ⟨regionOf (setGrid b i), if setRole b i = 0 then setMn b i else 1, if setRole b i = 0 then 1 else setMn b i, setK b i,
    setKchunk b i, 2 ^ setSplit b i⟩

/-- The stored row runs along k (R149): role A without TRANS, role B with it. -/
def alongK (b : List Byte) (i : Nat) : Bool := (setRole b i == 0) != pTrans b i

/-- Rows and columns of the stored matrix that a set implies (R151). -/
def storedShape (b : List Byte) (i : Nat) : Nat × Nat :=
  if alongK b i then (setMn b i, setK b i) else (setK b i, setMn b i)

/-- Stored coordinates of the operand element (mn, k) of a set. -/
def storedAt (b : List Byte) (i mn k : Nat) : Nat × Nat := if alongK b i then (mn, k) else (k, mn)

/-! ### Checks (R152) -/

/-- Check 1 for a set. -/
def setBad1 (b : List Byte) (i : Nat) : Bool :=
  let r := regionOf (setGrid b i)
  decide (1 < setRole b i ∨ 8 < setGrid b i ∨ r.ra.log2 < setSplit b i ∨ setKchunk b i % 64 ≠ 0 ∨ setKchunk b i < 64 ∨
    8192 < setKchunk b i ∨ 1048576 < setMn b i ∨ 1048576 < setK b i) ||
  byteAt (pSet b i) 3 != 0 || fieldAt (pSet b i) 6 2 != 0 || fieldAt (pSet b i) 0x18 8 != 0 ||
  (!fmtIsMx (pDfmt b) && setScbase b i != 0) || (fmtIsMx (pSfmt b) && !pSquare b && !alongK b i)

/-- Check 1. -/
def placeBad1 (b : List Byte) : Bool :=
  field (byteAt b 2) 7 4 != 0 || !fmtValid (pSfmt b) || !fmtValid (pDfmt b) || fieldAt b 5 3 != 0 ||
  !syncReservedOk b || fieldAt b 0x30 16 != 0 || (!fmtIsMx (pSfmt b) && decide (pSmp b ≠ 0 ∨ pSaddr b ≠ 0)) ||
  (setsOf b).any (setBad1 b) ||
  (if isDual b then storedShape b 0 != storedShape b 1 || setGrid b 0 != 1 || setGrid b 1 != 2
   else pTrans b 1 || pSet b 1 != List.replicate 32 0#8)

/-- Bytes from SADDR to the end of the scale array of a U x V matrix. -/
def scaleExtent (b : List Byte) (u v : Nat) : Nat :=
  if pSquare b then (ceilDiv u 32 - 1) * pSmp b + 32 * ceilDiv v 32 else (u - 1) * pSmp b + ceilDiv v 32

/-- Check 4. -/
def Dev.placeBad4 (d : Dev) (b : List Byte) : Bool :=
  let s := storedShape b 0
  let tooFar := fun (base n : Nat) => decide (storeSize < base + n)
  !d.inRegion d.tenancy (pSrc b) ((s.1 - 1) * pSpitch b + fmtBytes (pSfmt b) s.2) ||
  (fmtIsMx (pSfmt b) && !d.inRegion d.tenancy (pSaddr b) (scaleExtent b s.1 s.2)) ||
  (setsOf b).any (fun i =>
    let g := setGeo b i
    let isA := setRole b i == 0
    tooFar (setBase b i) (if isA then g.aBytes (pDfmt b) else g.bBytes (pDfmt b)) ||
      (fmtIsMx (pDfmt b) && tooFar (setScbase b i) (if isA then g.aScaleBytes else g.bScaleBytes)))

/-- Partitions of every set's region. -/
def placeParts (b : List Byte) : List Nat := (setsOf b).flatMap (fun i => (regionOf (setGrid b i)).parts)

/-- R152. -/
def Dev.placeCheck (d : Dev) (b : List Byte) : Option Nat :=
  let mask := match d.curImage with | some i => i.partMask | none => 0
  firstFail [
    (placeBad1 b, 0x10),
    ((setsOf b).any (fun i => setMn b i == 0 || setK b i == 0), 0x13),
    (pSrc b % 64 != 0 || pSpitch b % 64 != 0 || (setsOf b).any (fun i => setBase b i % 64 != 0 || setScbase b i % 64 != 0), 0x11),
    (d.placeBad4 b, 0x12),
    (pDfmt b != pSfmt b && d.num ASC.SVCSTATE == 1, 0x14),
    ((placeParts b).any (fun p => !bit mask p), 0x10),
    (d.partsOff (placeParts b), 0xA5)]

/-! ### Issue -/

/-- The head of the Col queue, if it carries an opcode. -/
def Dev.colHead (d : Dev) (op : Nat) : Option QDesc :=
  match d.col.queue with
  | q :: _ => if opcodeOf q.bytes = op then some q else none
  | [] => none

/-- Buffers that serve the sets whose GRIDSEL is valid; COL[0] where none is (R152). -/
def placeBufs (b : List Byte) : List Nat :=
  let bs := (List.range 16).filter (fun x =>
    (setsOf b).any (fun i => decide (setGrid b i ≤ 8) && (regionOf (setGrid b i)).bufs.contains x))
  if bs = [] then [0] else bs

/-- A descriptor fails R152. -/
def Dev.colFail (d : Dev) (q : QDesc) (code : Nat) : Dev :=
  let ps := placeBufs q.bytes
  let d1 := { d with col := { d.col with queue := d.col.queue.drop 1 } }
  (ps.foldl (fun d i => ((d.err (COL.page i) 10).setNum (COL.LASTDESC i) (opcodeOf q.bytes + 256 * code)).lastCode
    (COL.page i) code) d1).beatFail code
    (blockName .col (ps.headD 0)) 0

/-- A Col descriptor issues: its wait is satisfied, the previous one has completed, and no window fetch runs (R153,
R178). -/
def Dev.colIssue (d : Dev) (op : Nat) : Dev :=
  if !d.issuing then d
  else match d.colHead op with
  | none => d
  | some q =>
    match d.headCode q.bytes (d.placeCheck q.bytes) with
    | some c => d.colFail q c
    | none =>
      if d.waitOk q.bytes && d.col.run.isNone && !d.fetching then
        ({ d with col := { d.col with queue := d.col.queue.drop 1, run := some q } }).countIssue
      else d

/-- PLACE (R150-R153): it issues; its bytes are in place at COL_DESC_COMPLETE. -/
def execPlace (s : State) : Host.Outcome State Fault Refusal := onBeat (·.colIssue 1) s

/-- DUAL (R150-R153). -/
def execDual (s : State) : Host.Outcome State Fault Refusal := onBeat (·.colIssue 2) s

/-! ### Placement (R149, R151, R152) -/

/-- The raw element (u, v) of the stored matrix. -/
def Dev.storedRaw (d : Dev) (b : List Byte) (u v : Nat) : Nat :=
  let f := pSfmt b
  let lo := fmtBits f * v / 8
  let hi := ceilDiv (fmtBits f * (v + 1)) 8
  let n := leNat (d.mem.dram.readN (pSrc b + u * pSpitch b + lo) (hi - lo))
  field n (fmtBits f * v - 8 * lo + fmtBits f - 1) (fmtBits f * v - 8 * lo)

/-- Address of the scale byte of element (u, v). -/
def scaleAt (b : List Byte) (u v : Nat) : Nat :=
  if pSquare b then pSaddr b + u / 32 * pSmp b + 32 * (v / 32) else pSaddr b + u * pSmp b + v / 32

/-- The value of the stored element (u, v). -/
def Dev.storedVal (d : Dev) (b : List Byte) (u v : Nat) : FVal :=
  let x := decodeElem (pSfmt b) (d.storedRaw b u v)
  if fmtIsMx (pSfmt b) then scaled x (leNat (d.mem.dram.readN (scaleAt b u v) 1)) else x

/-- The 32 values of block `j` of operand row `mn` of a set, those at or beyond K as 0 (R152). -/
def Dev.blockVals (d : Dev) (b : List Byte) (i mn j : Nat) : List FVal :=
  tabulate 32 (fun t =>
    let k := 32 * j + t
    if k < setK b i then let p := storedAt b i mn k; d.storedVal b p.1 p.2 else .zero false)

/-- The element (mn, k) of a set as it is placed, with CVT. -/
def Dev.placedElem (d : Dev) (b : List Byte) (i mn k : Nat) : Nat × Bool :=
  let p := storedAt b i mn k
  if pDfmt b = pSfmt b then (d.storedRaw b p.1 p.2, false)
  else if fmtIsMx (pDfmt b) then
    let c := convertMx (pDfmt b) (d.blockVals b i mn (k / 32))
    (c.2.1.getD (k % 32) 0, c.2.2)
  else convertTo (pDfmt b) (d.storedVal b p.1 p.2) (pSat b)

/-- The scale byte of block `j` of row `mn` of a set. -/
def Dev.placedScale (d : Dev) (b : List Byte) (i mn j : Nat) : Nat :=
  if pDfmt b = pSfmt b then
    let p := storedAt b i mn (32 * j)
    leNat (d.mem.dram.readN (scaleAt b p.1 p.2) 1)
  else (convertMx (pDfmt b) (d.blockVals b i mn j)).1

/-- The buffer that places element (u, v) under SET[0]. -/
def bufOfStored (b : List Byte) (u v : Nat) : Nat :=
  let g := setGeo b 0
  let mk := if alongK b 0 then (u, v) else (v, u)
  bufOf (if setRole b 0 = 0 then (g.placeA (mk.1 / 32) mk.2).1 else (g.placeB mk.2 (mk.1 / 32)).1)

/-- Bytes read, each by exactly one buffer (R148): the buffer and how many. -/
def bytesRead (b : List Byte) : List (Nat × Nat) :=
  let s := storedShape b 0
  let el := (List.range s.1).flatMap (fun u =>
    (List.range (fmtBytes (pSfmt b) s.2)).map (fun o => (bufOfStored b u (8 * o / fmtBits (pSfmt b)), 1)))
  let sc := if !fmtIsMx (pSfmt b) then []
    else if pSquare b then
      (List.range (ceilDiv s.1 32)).flatMap (fun u =>
        (List.range (ceilDiv s.2 32)).map (fun v => (bufOfStored b (32 * u) (32 * v), 32)))
    else (List.range s.1).flatMap (fun u => (List.range (ceilDiv s.2 32)).map (fun v => (bufOfStored b u (32 * v), 1)))
  el ++ sc

/-- SQUARE groups whose 32 bytes differ: the buffers that read them (R149). -/
def Dev.mixedGroups (d : Dev) (b : List Byte) : List Nat :=
  let s := storedShape b 0
  if !(fmtIsMx (pSfmt b) && pSquare b) then []
  else (List.range (ceilDiv s.1 32)).flatMap (fun u =>
    (List.range (ceilDiv s.2 32)).filterMap (fun v =>
      let g := d.mem.dram.readN (scaleAt b (32 * u) (32 * v)) 32
      if g.any (fun x => x != g.headD 0#8) then some (bufOfStored b (32 * u) (32 * v)) else none))

/-- Device memory that a descriptor reads. -/
def placeReads (b : List Byte) : List (Nat × Nat) :=
  let s := storedShape b 0
  (List.range s.1).map (fun u => (pSrc b + u * pSpitch b, fmtBytes (pSfmt b) s.2)) ++
  (if !fmtIsMx (pSfmt b) then []
   else (List.range (if pSquare b then ceilDiv s.1 32 else s.1)).map (fun u =>
    (pSaddr b + u * pSmp b, if pSquare b then 32 * ceilDiv s.2 32 else ceilDiv s.2 32)))

/-- Buffers whose elements a conversion marks CVT (R152). -/
def Dev.cvtBufs (d : Dev) (b : List Byte) (i : Nat) : List Nat :=
  if pDfmt b = pSfmt b then []
  else
    let g := setGeo b i
    (List.range (setMn b i)).flatMap (fun mn => (List.range (setK b i)).filterMap (fun k =>
      if (d.placedElem b i mn k).2 then
        some (bufOf (if setRole b i = 0 then (g.placeA (mn / 32) k).1 else (g.placeB k (mn / 32)).1))
      else none))

/-- One set's placement, from the memory of `src`. -/
def Dev.placeSet (d src : Dev) (b : List Byte) (i : Nat) : Dev :=
  let g := setGeo b i
  let isA := setRole b i == 0
  let d1 := d.placeOperand g isA (pDfmt b) (setBase b i) (fun mn k => (src.placedElem b i mn k).1)
  let d2 := if fmtIsMx (pDfmt b) then d1.placeScales g isA (setScbase b i) (src.placedScale b i) else d1
  (src.cvtBufs b i).foldl (fun d x => d.err (COL.page x) 11) d2

def Dev.colDescComplete (d : Dev) : Dev :=
  if !d.running then d
  else match d.col.run with
  | none => d
  | some q =>
    let b := q.bytes
    let d0 := (d.touchAll (placeReads b)).stageCheck (placeBufs b)
    let d1 := (bytesRead b).foldl (fun (d : Dev) (r : Nat × Nat) => d.count64 (COL.BYTESREAD r.1) r.2) d0
    let d2 := (d.mixedGroups b).foldl (fun d i => (d.err (COL.page i) 9).countSat (COL.SCALEMIXCNT i) 1) d1
    let d3 := (setsOf b).foldl (fun e i => e.placeSet d b i) d2
    let took := (List.range 16).filter (fun i =>
      d3.num64 (COL.BYTESREAD i) != d.num64 (COL.BYTESREAD i) || d3.num64 (COL.BYTESPLACED i) != d.num64 (COL.BYTESPLACED i))
    let d4 := took.foldl (fun d i =>
      (((d.countSat (COL.DESCCOUNT i) 1).setNum (COL.LASTDESC i) (opcodeOf b)).lastCode (COL.page i) 0).countFree64
        (COL.BUSYCYC i)) d3
    ({ d4 with col := { d4.col with run := none } }).applySignal b

/-- COL_DESC_COMPLETE (R153): every byte is in its cell store; the signal is applied. -/
def execColDescComplete (s : State) : Host.Outcome State Fault Refusal := onBeat Dev.colDescComplete s

end Sys2Proof.Machine
end

