-- ==== Sys2Proof/Machine/Hive.lean ====
section
/-!
DEFINITION. The Hive (12): table entries and commands (R260, R261), frames (R262), the update of served entries and the
work list (R263-R266), tenancies, switches and context images (R252-R259).
-/
namespace Sys2Proof.Machine

/-! ### Entries (R260) -/

/-- A field of entry `e`: `n` bytes at offset `o`. -/
def Dev.ent (d : Dev) (e o n : Nat) : Nat := leNat (SMap.getRange zeroByte d.hive.ents (32 * e + o) n)
def Dev.setEnt (d : Dev) (e o n v : Nat) : Dev :=
  { d with hive := { d.hive with ents := SMap.setRange zeroByte d.hive.ents (32 * e + o) (leBytes n v) } }

def Dev.entSeq (d : Dev) (e : Nat) : Nat := d.ent e 0 4
def Dev.entState (d : Dev) (e : Nat) : Nat := d.ent e 4 1
def Dev.entFlags (d : Dev) (e : Nat) : Nat := d.ent e 5 1
def Dev.entPrio (d : Dev) (e : Nat) : Nat := field (d.entFlags e) 2 0
def Dev.entPos (d : Dev) (e : Nat) : Nat := d.ent e 8 4
def Dev.entPfrem (d : Dev) (e : Nat) : Nat := d.ent e 0xC 4
def Dev.entGen (d : Dev) (e : Nat) : Nat := d.ent e 0x10 4
def Dev.entLast (d : Dev) (e : Nat) : Nat := d.ent e 0x14 4
def Dev.entDir (d : Dev) (e : Nat) : Nat := d.ent e 0x18 8
def Dev.setEntState (d : Dev) (e v : Nat) : Dev := d.setEnt e 4 1 v
/-- Set or clear a bit of FLAGS: 3 KVWAIT, 4 STOPPED, 5 AUTORETIRE, 6 WASDECODE. -/
def Dev.setEntFlag (d : Dev) (e i : Nat) (v : Bool) : Dev := d.setEnt e 5 1 (withField (d.entFlags e) i i v.toNat)

/-- The entries of a tenancy's range (R268). -/
def Dev.entRange (d : Dev) (t : Nat) : List Nat :=
  let b := d.fld (TEN.ENTRY t) 11 0
  ((List.range (d.fld (TEN.ENTRY t) 28 16)).map (fun i => b + i)).filter (fun e => decide (e < 4096))

/-- Entries that are not IDLE, of every tenancy (R268 ACTIVE). -/
def Dev.activeEnts (d : Dev) : Nat :=
  (d.hive.ents.filter (fun (p : Nat × Byte) => p.1 % 32 == 4)).length

/-! ### Frames (R262) -/

def Dev.poolFree (d : Dev) (t : Nat) : Nat := fieldAt (d.pool t) 0 8
def Dev.poolRef (d : Dev) (t : Nat) : Nat := fieldAt (d.pool t) 8 8
def Dev.poolLayers (d : Dev) (t : Nat) : Nat := fieldAt (d.pool t) 0x14 4
def Dev.poolPitch (d : Dev) (t : Nat) : Nat := fieldAt (d.pool t) 0x18 4

/-- The Hive reads `n` bytes; an uncorrectable error is counted and fails no beat (log entry 15). -/
def Dev.hiveRead (d : Dev) (a n : Nat) : Nat × Dev :=
  let r := d.quietRead a n
  (leNat r.2.1, r.2.2)

/-- A Hive write is bound by the tenancy's region; outside it nothing is written. -/
def Dev.hiveWrite (d : Dev) (t a : Nat) (bs : List Byte) : Dev := if d.inRegion t a bs.length then d.memWrite a bs else d

/-- The directory entry of a sequence's directory `dir` for a layer and a logical page (R186). -/
def Dev.dirSlot (d : Dev) (t dir layer lp : Nat) : Nat := dir + layer * d.poolPitch t + 4 * lp

def noFrame : Nat := 0xFFFFFFFF

/-- A frame leaves the top of the stack: the word at FREEFRAMES - 1 (log entry 15). -/
def Dev.popFrame (d : Dev) (t : Nat) : Nat × Dev :=
  let k := d.num (TEN.FREEFRAMES t) - 1
  let r := d.hiveRead (d.poolFree t + 4 * k) 4
  (r.1, r.2.setNum (TEN.FREEFRAMES t) k)

/-- A frame goes on top of the stack. -/
def Dev.pushFrame (d : Dev) (t f : Nat) : Dev :=
  let k := d.num (TEN.FREEFRAMES t)
  (d.hiveWrite t (d.poolFree t + 4 * k) (leBytes 4 f)).setNum (TEN.FREEFRAMES t) (k + 1)

def Dev.frameCount (d : Dev) (t f : Nat) : Nat × Dev := d.hiveRead (d.poolRef t + 2 * f) 2
def Dev.setFrameCount (d : Dev) (t f c : Nat) : Dev := d.hiveWrite t (d.poolRef t + 2 * f) (leBytes 2 c)

/-- One directory entry of a RETIRE: its frame loses one count and is freed at 0; the entry reads 0xFFFF_FFFF. A count
that is already 0 has no stated successor: free. -/
def Dev.retireSlot (t : Nat) (d : Dev) (a : Nat) : Dev :=
  let r := d.hiveRead a 4
  if r.1 = noFrame then r.2
  else
    let c := r.2.frameCount t r.1
    let d1 := if c.1 = 0 then c.2.freshNat.2.setFrameCount t r.1 (c.2.freshNat.1 % 2 ^ 16)
      else c.2.setFrameCount t r.1 (c.1 - 1)
    (if c.1 = 1 then d1.pushFrame t r.1 else d1).hiveWrite t a (leBytes 4 noFrame)

/-- The directory entries of every layer for logical pages below `n`, layer by layer. -/
def Dev.dirSlots (d : Dev) (t dir n : Nat) : List Nat :=
  (List.range (d.poolLayers t)).flatMap (fun l => (List.range n).map (fun lp => d.dirSlot t dir l lp))

/-- RETIRE of entry `e` (R261). -/
def Dev.retire (d : Dev) (t e : Nat) : Dev :=
  ((d.dirSlots t (d.entDir e) (ceilDiv (d.entPos e) 256)).foldl (Dev.retireSlot t) d).setEntState e 0

/-! ### Commands (R261) -/

def hPrio (b : List Byte) : Nat := byteAt b 0x21
def hFlags (b : List Byte) : Nat := byteAt b 0x22
def hEntry (b : List Byte) : Nat := fieldAt b 0x24 2
def hSeq (b : List Byte) : Nat := fieldAt b 0x28 4
def hPos (b : List Byte) : Nat := fieldAt b 0x2C 4
def hPfrem (b : List Byte) : Nat := fieldAt b 0x30 4
def hGen (b : List Byte) : Nat := fieldAt b 0x34 4
def hDir (b : List Byte) : Nat := fieldAt b 0x38 8

/-- POS an ADD or FORK starts from. -/
def Dev.startPos (d : Dev) (b : List Byte) : Nat := if jOp b = 1 then hPos b else d.entPos (hEntry b) / 256 * 256

/-- The frames a FORK shares, with repeats. -/
def Dev.forkFrames (d : Dev) (t : Nat) (b : List Byte) : List Nat :=
  ((d.dirSlots t (d.entDir (hEntry b)) (d.entPos (hEntry b) / 256)).map (fun a => leNat (d.mem.dram.readN a 4))).filter
    (fun f => f != noFrame)

/-- Some frame's count would pass 65,535. -/
def Dev.countsPass (d : Dev) (t : Nat) (fs : List Nat) : Bool :=
  fs.any (fun f => decide (65535 < leNat (d.mem.dram.readN (d.poolRef t + 2 * f) 2) + (fs.filter (fun g => g == f)).length))

/-- The first row of R261's table of codes. -/
def Dev.hiveBad (d : Dev) (t : Nat) (b : List Byte) : Bool :=
  let op := jOp b
  let adds := op == 1 || op == 5
  let names := (op == 2 || op == 3 || op == 4) && decide (hEntry b < 4096)
  jobReservedBad t b || byteAt b 0x23 != 0 || fieldAt b 0x26 2 != 0 ||
  (op == 1 && hEntry b != 0) || (op == 5 && hPos b != 0) ||
  field (hPrio b) 7 3 != 0 || field (hFlags b) 7 1 != 0 ||
  (names && (d.entState (hEntry b) == 0 || (op == 4 && d.entState (hEntry b) != 3))) ||
  (adds && decide (d.num (TEN.MAXCTX t) < d.startPos b + hPfrem b + hGen b)) ||
  (op == 5 && decide (hEntry b < 4096) && d.countsPass t (d.forkFrames t b))

/-- The directory of an ADD or FORK lies in the tenancy's region. -/
def Dev.dirInside (d : Dev) (t : Nat) (b : List Byte) : Bool :=
  d.inRegion t (hDir b) ((d.poolLayers t - 1) * d.poolPitch t + 4 * ceilDiv (d.num (TEN.MAXCTX t)) 256)

/-- The lowest IDLE entry of the tenancy's range. -/
def Dev.idleEnt (d : Dev) (t : Nat) : Option Nat := (d.entRange t).find? (fun e => d.entState e == 0)

/-- The code of a Hive command (R261), none where it is performed. -/
def Dev.hiveCheck (d : Dev) (t : Nat) (b : List Byte) : Option Nat :=
  let adds := jOp b == 1 || jOp b == 5
  if d.hiveBad t b then some 0x10
  else if adds && hPfrem b == 0 then some 0x13
  else if adds && hDir b % 64 != 0 then some 0x11
  else if adds && !d.dirInside t b then some 0x12
  else if jOp b != 1 && !(d.entRange t).contains (hEntry b) then some 0x19
  else if adds && (d.idleEnt t).isNone then some 0x82
  else none

/-- A new entry in PREFILL (R261). -/
def Dev.newEntry (d : Dev) (e : Nat) (b : List Byte) (pos : Nat) : Dev :=
  let bs := leBytes 4 (hSeq b) ++ leBytes 1 1 ++ leBytes 1 (field (hPrio b) 2 0 + 32 * field (hFlags b) 0 0) ++
    leBytes 2 0 ++ leBytes 4 pos ++ leBytes 4 (hPfrem b) ++ leBytes 4 (hGen b) ++ leBytes 4 d.beatNum ++ leBytes 8 (hDir b)
  { d with hive := { d.hive with ents := SMap.setRange zeroByte d.hive.ents (32 * e) bs } }

/-- One directory entry of a FORK: copied, and its frame counted once more. -/
def Dev.forkSlot (t : Nat) (d : Dev) (p : Nat × Nat) : Dev :=
  let r := d.hiveRead p.1 4
  let d1 := r.2.hiveWrite t p.2 (leBytes 4 r.1)
  if r.1 = noFrame then d1
  else
    let c := d1.frameCount t r.1
    c.2.setFrameCount t r.1 (c.1 + 1)

/-- FORK copies the parent's directory below its partly filled page. -/
def Dev.forkDir (d : Dev) (t : Nat) (b : List Byte) : Dev :=
  let n := d.entPos (hEntry b) / 256
  ((d.dirSlots t (d.entDir (hEntry b)) n).zip (d.dirSlots t (hDir b) n)).foldl (Dev.forkSlot t) d

/-- What the command does, and the entry its completion names. -/
def Dev.hiveApply (d : Dev) (t : Nat) (b : List Byte) : Nat × Dev :=
  let e := hEntry b
  match jOp b with
  | 1 => ((d.idleEnt t).getD 0, d.newEntry ((d.idleEnt t).getD 0) b (hPos b))
  | 5 => ((d.idleEnt t).getD 0, (d.forkDir t b).newEntry ((d.idleEnt t).getD 0) b (d.startPos b))
  | 2 => (e, d.retire t e)
  | 3 =>
    let d1 := if d.entState e = 1 ∨ d.entState e = 2 then d.setEntFlag e 6 (d.entState e == 2) else d
    (e, d1.setEntState e 3)
  | _ => (e, d.setEntState e (if bit (d.entFlags e) 6 then 2 else 1))

/-- A Hive command of OP `op` at the head of the function's fetched descriptors. -/
def Dev.hiveCommand (d : Dev) (t op : Nat) : Dev :=
  d.jobCommand t (fun b => jType b == 5 && jOp b == op) (fun d b =>
    match d.hiveCheck t b with
    | some code => d.refuseJob t b code
    | none =>
      let r := d.hiveApply t b
      r.2.answerJob t b 0 r.1 (if jOp b = 1 ∨ jOp b = 5 then hSeq b else d.entSeq r.1))

/-- HIVE_ADD (R261). -/
def execHiveAdd (fn : Fin 16) (s : State) : Host.Outcome State Fault Refusal := onDev (·.hiveCommand fn 1) s
/-- HIVE_RETIRE (R261). -/
def execHiveRetire (fn : Fin 16) (s : State) : Host.Outcome State Fault Refusal := onDev (·.hiveCommand fn 2) s
/-- HIVE_PAUSE (R261). -/
def execHivePause (fn : Fin 16) (s : State) : Host.Outcome State Fault Refusal := onDev (·.hiveCommand fn 3) s
/-- HIVE_RESUME (R261). -/
def execHiveResume (fn : Fin 16) (s : State) : Host.Outcome State Fault Refusal := onDev (·.hiveCommand fn 4) s
/-- HIVE_FORK (R261). -/
def execHiveFork (fn : Fin 16) (s : State) : Host.Outcome State Fault Refusal := onDev (·.hiveCommand fn 5) s

/-! ### Served entries (R263, step 1) -/

/-- Row `i` of the list that beat `n` served: entry `e` with `nq` tokens. -/
def Dev.serveRow (t n : Nat) (d : Dev) (row : Nat × Nat × Nat) : Dev :=
  let i := row.1
  let e := row.2.1
  let nq := row.2.2
  let stop := d.hiveRead (d.num64 (TEN.LISTADDR t) + 196608 + i) 1
  let d0 := stop.2
  let pre := d0.entState e == 1
  let pf := if pre then d0.entPfrem e - nq else d0.entPfrem e
  let gens := !pre || pf == 0
  let gl := if gens then d0.entGen e - 1 else d0.entGen e
  let done := (gens && gl == 0) || stop.1 != 0
  let d1 := (((d0.setEnt e 8 4 (d0.entPos e + nq)).setEnt e 0xC 4 pf).setEnt e 0x10 4 gl).setEnt e 0x14 4 n
  let d2 := (d1.setEntState e (if done then 4 else if gens then 2 else 1)).setEntFlag e 4 (stop.1 != 0)
  if done then
    let d3 := d2.notifySeq t 0 (d2.entSeq e)
    if bit (d3.entFlags e) 5 then d3.retire t e else d3
  else d2

/-- The list of the beat just closed updates its entries, where the beat's code lies between 0x00 and 0x0F. -/
def Dev.serveUpdate (d : Dev) (t n code : Nat) : Dev :=
  let rows := (List.range d.hive.rows.length).zip d.hive.rows
  let d1 := { d with hive := { d.hive with rows := [] } }
  if code < 0x10 then (rows.filter (fun (r : Nat × Nat × Nat) => r.2.2 != 0)).foldl (Dev.serveRow t n) d1 else d1

/-! ### The work list (R264-R266) -/

/-- `a` comes before `b` among the candidates of beat `n` + 1 (R264). -/
def Dev.rowBefore (d : Dev) (n a b : Nat) : Bool :=
  let da := d.entState a == 2
  let db := d.entState b == 2
  let age := fun e => (n + 2 ^ 32 - d.entLast e) % 2 ^ 32
  if da != db then da
  else if d.entPrio a ≠ d.entPrio b then decide (d.entPrio b < d.entPrio a)
  else if age a ≠ age b then decide (age b < age a)
  else decide (a < b)

/-- Insert into a list in order. -/
def insertRow (before : Nat → Nat → Bool) (e : Nat) : List Nat → List Nat
  | [] => [e]
  | x :: l => if before e x then e :: x :: l else x :: insertRow before e l

/-- The candidates in their order. -/
def Dev.candidates (d : Dev) (t n : Nat) : List Nat :=
  ((d.entRange t).filter (fun e => d.entState e == 1 || d.entState e == 2)).foldr (insertRow (d.rowBefore n)) []

/-- The list as it is placed: the device, tokens and sequences left, rows in order of placement. -/
structure Placing where
  dev : Dev
  tok : Nat
  seq : Nat
  rows : List (Nat × Nat)
  deriving DecidableEq, Repr

/-- Logical pages without a frame that positions `pos` to `pos + nq - 1` reach. -/
def Dev.missingPages (d : Dev) (t e nq : Nat) : List Nat :=
  ((List.range ((d.entPos e + nq - 1) / 256 - d.entPos e / 256 + 1)).map (fun i => d.entPos e / 256 + i)).filter
    (fun lp => leNat (d.mem.dram.readN (d.dirSlot t (d.entDir e) 0 lp) 4) == noFrame)

/-- One directory entry receives a frame from the stack, with a count of 1. -/
def Dev.assignFrame (t : Nat) (d : Dev) (a : Nat) : Dev :=
  let r := d.popFrame t
  (r.2.setFrameCount t r.1 1).hiveWrite t a (leBytes 4 r.1)

/-- The frames of a row, page by page, layers ascending. -/
def Dev.assignPages (d : Dev) (t e : Nat) (lps : List Nat) : Dev :=
  (lps.flatMap (fun lp => (List.range (d.poolLayers t)).map (fun l => d.dirSlot t (d.entDir e) l lp))).foldl
    (Dev.assignFrame t) d

/-- A row that finds too few frames (R262): KVWAIT, and KV_POOL_EXHAUSTED where it was 0. -/
def Dev.kvShort (d : Dev) (t e : Nat) : Dev :=
  let d1 := if d.flag HIV.ERRSUM 11 then d else (d.err HIV.page 11).irq HIV.page 2
  if bit (d1.entFlags e) 3 then d1 else (d1.setEntFlag e 3 true).notifySeq t 0x83 (d1.entSeq e)

/-- NQ of a candidate under the budgets left; 0 where it is not placed (R264). -/
def Dev.rowTokens (d : Dev) (t e tok : Nat) : Nat :=
  let pf := d.entPfrem e
  if d.entState e = 2 then min 1 tok
  else if d.flag (TEN.TENCFG t) 1 then
    (if min (d.num (TEN.CHUNK t)) pf ≤ tok then min (d.num (TEN.CHUNK t)) pf else 0)
  else min pf tok

/-- One candidate (R264, R262). A row that is dropped consumes no budget (log entry 15). -/
def placeRow (t : Nat) (p : Placing) (e : Nat) : Placing :=
  let nq := p.dev.rowTokens t e p.tok
  if p.seq = 0 ∨ nq = 0 then p
  else
    let lps := p.dev.missingPages t e nq
    if p.dev.num (TEN.FREEFRAMES t) < lps.length * p.dev.poolLayers t then { p with dev := p.dev.kvShort t e }
    else ⟨(p.dev.assignPages t e lps).setEntFlag e 3 false, p.tok - nq, p.seq - 1, p.rows ++ [(e, nq)]⟩

/-- Rows in list order with their QROW: in CHUNKED mode prefill rows first, each at a multiple of CHUNK (R265). -/
def Dev.listRows (d : Dev) (t : Nat) (rows : List (Nat × Nat)) : List (Nat × Nat × Nat) :=
  if d.flag (TEN.TENCFG t) 1 then
    let pre := rows.filter (fun (r : Nat × Nat) => d.entState r.1 == 1)
    let dec := rows.filter (fun (r : Nat × Nat) => d.entState r.1 != 1)
    let ch := d.num (TEN.CHUNK t)
    (List.range pre.length).map (fun i => (i * ch, pre.getD i (0, 0))) ++
    (List.range dec.length).map (fun i => (pre.length * ch + i, dec.getD i (0, 0)))
  else
    (List.range rows.length).map (fun i =>
      (((rows.take i).map (fun (r : Nat × Nat) => r.2)).foldl (· + ·) 0, rows.getD i (0, 0)))

/-- The list entry of a row (R265) and its auxiliary record (R266). -/
def Dev.listEntry (d : Dev) (r : Nat × Nat × Nat) : List Byte :=
  leBytes 4 r.2.2 ++ leBytes 4 r.1 ++ leBytes 4 (d.entPos r.2.1) ++ leBytes 4 (d.entPos r.2.1 + r.2.2) ++ leBytes 8 0 ++
    leBytes 8 (d.entDir r.2.1)

def Dev.auxRecord (d : Dev) (r : Nat × Nat × Nat) : List Byte :=
  let e := r.2.1
  let kind := if d.entState e = 2 then 1 else if r.2.2 = d.entPfrem e then 3 else 2
  leBytes 2 e ++ leBytes 1 kind ++ leBytes 1 0 ++ leBytes 4 (d.entSeq e) ++ leBytes 4 (d.entGen e) ++ leBytes 4 0

/-- Bytes of device memory become indeterminate, within the tenancy's region. -/
def Dev.hiveOpen (d : Dev) (t lo n : Nat) : Dev :=
  if d.inRegion t lo n then
    { d with mem := { d.mem with dram := d.mem.dram.openUp lo (lo + n) d.freeCtr }, freeCtr := d.freeCtr + 1 }
  else d

/-- The three areas of the work list (R265, R266). What the spec states no value for in an unused record stays
indeterminate. -/
def Dev.writeList (d : Dev) (t : Nat) (rows : List (Nat × Nat × Nat)) : Dev :=
  let a := d.num64 (TEN.LISTADDR t)
  let n := d.num (TEN.SEQBUDGET t)
  let d1 := (d.hiveOpen t a (32 * n)).hiveOpen t (a + 131072) (16 * n)
  let d2 := (List.range n).foldl (fun (d' : Dev) i =>
    match rows[i]? with
    | some r => (d'.hiveWrite t (a + 32 * i) (d.listEntry r)).hiveWrite t (a + 131072 + 16 * i) (d.auxRecord r)
    | none => ((d'.hiveWrite t (a + 32 * i) (leBytes 4 0)).hiveWrite t (a + 131072 + 16 * i)
        (leBytes 2 0xFFFF ++ leBytes 2 0)).hiveWrite t (a + 131072 + 16 * i + 12) (leBytes 4 0)) d1
  d2.hiveWrite t (a + 196608) (leBytes n 0)

/-- Step 3 of R263 for the serving beat after beat `n`, with `shed` tokens withheld by the power manager (R335). -/
def Dev.buildList (d : Dev) (t n shed : Nat) : Dev :=
  let tok := d.num (TEN.TOKBUDGET t) - shed
  let seq := min (d.num (TEN.SEQBUDGET t)) tok
  let p := (d.candidates t n).foldl (placeRow t) ⟨d, tok, if shed = 0 then d.num (TEN.SEQBUDGET t) else seq, []⟩
  let rows := p.dev.listRows t p.rows
  let tokens := (p.rows.map (fun (r : Nat × Nat) => r.2)).foldl (· + ·) 0
  let d1 := p.dev.writeList t rows
  let d2 := (d1.setFld HIV.LISTSTAT 16 0 tokens).setFld HIV.LISTSTAT 29 17 rows.length
  { d2 with hive := { d2.hive with nextRows := rows.map (fun (r : Nat × Nat × Nat) => r.2) } }

/-! ### Tenancies (R252-R256) -/

def Dev.resident (d : Dev) : Nat := d.fld HIV.RESIDENT 3 0
def Dev.switchingNow (d : Dev) : Bool := d.hive.switching.isSome

/-- The TSCHED entry that beat `n` belongs to (R253). -/
def schedPick : List (Nat × Nat) → Nat → Option Nat
  | [], _ => none
  | (t, c) :: l, k => if k < c then some t else schedPick l (k - c)

def Dev.schedule (d : Dev) : List (Nat × Nat) :=
  (List.range (d.fld HIV.SCHEDCTRL 6 1 + 1)).map (fun i => (d.fld (HIV.TSCHED i) 3 0, d.fld (HIV.TSCHED i) 19 4))

/-- What the next beat's tenancy is (R253, R255): the tenancy, and whether the schedule gives an empty beat. -/
def Dev.nextTenancy (d : Dev) (n : Nat) : Nat × Bool :=
  if d.flag HIV.SCHEDCTRL 0 then
    let l := ((d.schedule.map (fun (p : Nat × Nat) => p.2)).foldl (· + ·) 0)
    match schedPick d.schedule (if l = 0 then 0 else n % l) with
    | some t => if d.tenEnabled t then (t, false) else (d.resident, true)
    | none => (d.resident, true)
  else
    match d.hive.request with
    | some t => (t, false)
    | none => (d.resident, false)

/-- The PREEMPT request is taken or discarded at C(n) (R255). -/
def Dev.capturePreempt (d : Dev) : Dev :=
  if !d.flag HIV.PREEMPT 4 then d
  else
    let t := d.fld HIV.PREEMPT 3 0
    let d1 := d.drop HIV.PREEMPT 4
    if d.tenEnabled t || t == d.resident then { d1 with hive := { d1.hive with request := some t } }
    else d1.err HIV.page 8

/-- PREEMPT is written (R255): with a schedule, or a write of GO = 0 while one waits, see log entry 26. -/
def Dev.writePreempt (d : Dev) (v : Word) : Dev :=
  if d.flag HIV.SCHEDCTRL 0 then d.err HIV.page 8
  else
    let d1 := d.setFld HIV.PREEMPT 3 0 (field v.toNat 3 0)
    if bit v.toNat 4 then d1.raise HIV.PREEMPT 4 else d1

/-- PREEMPT_GO (R255): the write sets GO. -/
def execPreemptGo (r : Requester) (v : Word) (s : State) : Host.Outcome State Fault Refusal :=
  onDev (onPf r (·.writePreempt (v ||| 0x10#32))) s

/-- The tenancy's jobs that have admitted beats and have not ended. -/
def Dev.runningJobs (d : Dev) (t : Nat) : List Job := d.host.jobs.filter (fun (j : Job) => j.fn == t && j.admitted)

/-- The notifications of a tenancy that leaves (R256). -/
def Dev.notifyPreempted (d : Dev) (t : Nat) : Dev :=
  (d.runningJobs t).foldl (fun (d : Dev) (j : Job) => d.postDone t ⟨j.job, 0x80, 0, 0, d.beatNum, 0⟩) d

/-! ### Context images (R257-R259) -/

/-- The span of a context image. -/
def contextBytes : Nat := 966791168

/-- Bytes moved always. -/
def contextAlways : Nat := 27267072

/-- Talus pages that entries hold, of 4 KiB. -/
def pagesHeld (m : SMap Tls) : Nat :=
  (m.map (fun (c : Nat × Tls) => ((c.2.ents.filter (fun (e : Nat × TlsEnt) => e.2.state != .free)).map
    (fun (e : Nat × TlsEnt) => e.2.pages)).foldl (· + ·) 0)).foldl (· + ·) 0

/-- Bytes of an image: what is moved always, cell stores up to CSHWM, and the Talus pages held. -/
def contextMoved (cshwm pages : Nat) : Nat := contextAlways + 4096 * (cshwm * 4096) + 4096 * pages

def Dev.cshwm (d : Dev) (t : Nat) : Nat := min 40 (d.fld (TEN.TENCFG t) 13 8)

/-- The offsets in a context image of the statistics, the tile registers, the instruction memories, the PWL tables, the
cell stores and the Talus pages (R257). -/
def imgStat : Nat := 921600
def imgTreg : Nat := 17698816
def imgImem : Nat := 26087424
def imgPwl : Nat := 27136000
def imgCells : Nat := 27267072
def imgTalus : Nat := 698355712

/-- Entries with the offset, in their cluster's part of the image, of the pages each holds, and the bytes of those pages:
in the order of the entries (log entry 26). -/
def pageSpans : Nat → List (Nat × TlsEnt) → List (Nat × Nat × Nat)
  | _, [] => []
  | o, (e, x) :: l => (e, o, 4096 * x.pages) :: pageSpans (o + 4096 * x.pages) l

def Tls.heldSpans (t : Tls) : List (Nat × Nat × Nat) :=
  pageSpans 0 (t.ents.filter (fun (e : Nat × TlsEnt) => e.2.state != .free))

/-- The on-die state of one cluster as its bytes in the image. -/
def Dev.clusterImage (d : Dev) (m : ByteMem) (k : Nat) : ByteMem :=
  let words := fun (l : SMap Word) => l.map (fun (p : Nat × Word) => (p.1, p.2.toNat))
  let dwords := fun (l : SMap DWord) => l.map (fun (p : Nat × DWord) => (p.1, p.2.toNat))
  let m1 := (((m.blit (packWords 8 (dwords (d.scb k).stat)) 0 0x40000 (imgStat + 0x40000 * k)).blit
    (packWords 4 (words (d.wvl k).treg)) 0 0x20000 (imgTreg + 0x20000 * k)).blit
    (packWords 8 (dwords (d.wvl k).imem)) 0 0x4000 (imgImem + 0x4000 * k)).blit
    (packWords 8 (dwords (d.wvl k).pwl)) 0 0x800 (imgPwl + 0x800 * k)
  (d.tls k).heldSpans.foldl (fun m s => m.blit (d.tls k).data (entKey s.1 0) s.2.2 (imgTalus + 0x400000 * k + s.2.1)) m1

/-- The context image of the on-die state (R257); the header and the control records are indeterminate bytes. -/
def Dev.contextImage (d : Dev) (seed : Nat) : ByteMem :=
  (List.range 64).foldl d.clusterImage
    ((ByteMem.openUp ⟨[], []⟩ 0 imgStat seed).blit d.massif.store 0 (4096 * storeSize) imgCells)

/-- The parts of an image that are moved, as offset and length: what is moved always, cell stores up to CSHWM, the pages
held in each Talus. -/
def contextParts (cshwm : Nat) (cl : SMap Tls) : List (Nat × Nat) :=
  (0, contextAlways) ::
    ((List.range 4096).map (fun x => (imgCells + storeKey x 0, 4096 * cshwm)) ++
      (List.range 64).map (fun k => (imgTalus + 0x400000 * k,
        (((cl.get tls0 k).heldSpans.map (fun s => s.2.2)).foldl (· + ·) 0))))

/-- The mover writes the parts of an image, or reads them; `true` where it met an uncorrectable error. -/
def Dev.moverWrite (d : Dev) (area : Nat) (img : ByteMem) (parts : List (Nat × Nat)) : Dev :=
  parts.foldl (fun (d : Dev) p => d.memBlit img p.1 p.2 (area + p.1)) d
def Dev.moverRead (d : Dev) (area : Nat) (parts : List (Nat × Nat)) : Bool × Dev :=
  parts.foldl (fun (r : Bool × Dev) p => let q := r.2.quietTouch (area + p.1) p.2; (r.1 || q.1, q.2)) (false, d)

/-- Header and control records in device memory are the bytes that the save wrote. -/
def controlKept (m : ByteMem) (area seed : Nat) : Bool :=
  ((m.cells.filter (fun c => decide (area ≤ c.1 ∧ c.1 < area + imgStat))).isEmpty &&
    (match m.opens.find? (fun o => rangesMeet o.lo (o.hi - o.lo) area imgStat) with
    | some o => o.seed == seed && o.part.isNone && decide (o.shift = -(area : Int) ∧ o.lo ≤ area ∧ area + imgStat ≤ o.hi)
    | none => false)) ||
  (List.range imgStat).all (fun i => m.read (area + i) == Config.freeByte seed i)

/-- The Talus entry that a control record of other bytes describes: free. -/
def freeEnt (w : Nat → Nat) : TlsEnt :=
  let state := match w 0 % 6 with
    | 0 => EntState.free | 1 => .opened | 2 => .resident | 3 => .spilling | 4 => .spilled | _ => .released
  ⟨state, bit (w 1) 0, bit (w 2) 0, w 3, w 4, w 5 % 1025, w 6, w 7 + 2 ^ 32 * w 8⟩

/-- What the control records hold (R257): what the save put there, or what other bytes mean, which is free. -/
def Context.read (c : Context) (m : ByteMem) (area : Nat) : Context :=
  if controlKept m area c.seed then c
  else
    let b := m.readN area imgStat
    let w := fun i => Config.contextWord b i
    let ents := fun (k : Nat) => (List.range 4096).foldl (fun (l : SMap TlsEnt) e =>
      l.set ent0 e (freeEnt (fun i => (w (1024 + 16 * (4096 * k + e) + i)).toNat))) []
    { c with
      weevil := [], scarab := []
      talus := (List.range 64).foldl (fun (l : SMap Tls) k => l.set tls0 k { tls0 k with ents := ents k }) []
      regs := (List.range contextWords.length).foldl (fun (l : SMap Word) i =>
        l.set resetWord (contextWords.getD i 0) (w i)) [] }

/-- The tenancy's own image, if it has one. -/
def noContext (_ : Nat) : Option Context := none
def Dev.context (d : Dev) (t : Nat) : Option Context :=
  if d.flag (TEN.TENSTAT t) 0 then
    (d.hive.saved.get noContext t).map (fun c => c.read d.mem.dram (d.num64 (TEN.SAVEADDR t)))
  else none

/-- One cluster's memories as an image holds them. -/
def Dev.loadCluster (img : ByteMem) (d : Dev) (k : Nat) : Dev :=
  let part := fun (lo n : Nat) => ByteMem.blit ⟨[], []⟩ img lo n 0
  let t := d.tls k
  (((d.setScb k { d.scb k with stat := unpackWords zeroDWord (BitVec.ofNat 64) 8 (part (imgStat + 0x40000 * k) 0x40000) }).setWvl
    k { d.wvl k with
      treg := unpackWords zeroWord (BitVec.ofNat 32) 4 (part (imgTreg + 0x20000 * k) 0x20000)
      imem := unpackWords zeroDWord (BitVec.ofNat 64) 8 (part (imgImem + 0x4000 * k) 0x4000)
      pwl := unpackWords zeroDWord (BitVec.ofNat 64) 8 (part (imgPwl + 0x800 * k) 0x800) })).setTls
    k { t with data := t.heldSpans.foldl (fun (m : ByteMem) s =>
      m.blit img (imgTalus + 0x400000 * k + s.2.1) s.2.2 (entKey s.1 0)) ⟨[], []⟩ }

/-- The on-die state of an image in device memory (R257, R258): bytes that the image does not hold are 0. -/
def Dev.loadImage (d : Dev) (c : Context) (area cshwm : Nat) : Dev :=
  let img := (contextParts cshwm c.talus).foldl (fun (m : ByteMem) p => m.blit d.mem.dram (area + p.1) p.2 p.1) ⟨[], []⟩
  let d1 := d.clearOnDie
  (List.range 64).foldl (Dev.loadCluster img)
    { d1 with
      massif := { d1.massif with store := ByteMem.blit ⟨[], []⟩ img imgCells (4096 * storeSize) 0 }
      weevil := { d1.weevil with cl := c.weevil }
      scarab := { d1.scarab with cl := c.scarab }
      talus := { d1.talus with cl := c.talus }
      regs := c.regs.foldl (fun (m : SMap Word) (p : Nat × Word) => m.set resetWord p.1 p.2) d1.regs }

def Dev.saveBytes (d : Dev) (t : Nat) : Nat := contextMoved (d.cshwm t) (pagesHeld d.talus.cl)
def Dev.loadBytes (d : Dev) (t : Nat) : Nat :=
  match d.context t with
  | some c => contextMoved (d.cshwm t) (pagesHeld c.talus)
  | none => 0

/-- Tsw and the number of switch beats (R258): the least s with ceil(Tsw / 18) <= s x PERIOD - 300. -/
def switchCycles (bsave bload : Nat) : Nat := 45000 + ceilDiv bsave 2560 + ceilDiv bload 2560
def switchBeats (cycles period : Nat) : Nat := max 1 (ceilDiv (ceilDiv cycles 18 + 300) period)

/-- A switch has ended (R258, R268). -/
def Dev.switchEnd (d : Dev) (w : Switch) : Dev :=
  let d1 := { d with hive := { d.hive with switching := some { w with stage := 2 } } }
  let d2 := (((d1.setBusy HIV.page false).countSat HIV.SWITCHCNT 1).setNum HIV.LASTSWITCH w.cycles).setNum HIV.MAXSWITCH
    (max w.cycles (d1.num HIV.MAXSWITCH))
  ((d2.setFlag (TEN.TENSTAT w.incoming) 1 true).drop HIV.RESIDENT 4).irq HIV.page 1

/-- After the save: the load of the incoming image begins, or its on-die state is cleared (R258). -/
def Dev.switchLoad (d : Dev) (w : Switch) : Dev :=
  if (d.context w.incoming).isSome then
    ({ d with hive := { d.hive with switching := some { w with stage := 1 } } }).startLong HIV.page
      (d.loadBytes w.incoming / 4096)
  else (d.clearOnDie.setFld (TEN.TENSTAT w.incoming) 15 8 0).switchEnd w

/-- A switch begins at B(n) (R258). -/
def Dev.switchStart (d : Dev) (n t : Nat) : Dev :=
  let out := d.resident
  let ever := d.flag (TEN.TENSTAT out) 1
  let bs := if ever then d.saveBytes out else 0
  let cyc := switchCycles bs (d.loadBytes t)
  let w : Switch := ⟨0, out, t, cyc, n + switchBeats cyc d.period - 1⟩
  let d1 := (d.setFld HIV.RESIDENT 3 0 t).raise HIV.RESIDENT 4
  if ever then
    ({ d1 with hive := { d1.hive with switching := some w } }).startLong HIV.page (bs / 4096)
  else d1.switchLoad w

/-- The registers of a context image. -/
def Dev.contextRegs (d : Dev) : SMap Word := d.regs.filter (fun (p : Nat × Word) => contextWords.contains p.1)

/-- An uncorrectable error stands in the on-die state that a save moves (R259). -/
def Dev.onDieBad (d : Dev) (t : Nat) : Bool :=
  d.massif.storeUE.any (fun k => decide (k % storeSize < 4096 * d.cshwm t)) ||
  d.weevil.cl.any (fun (c : Nat × Wvl) => !c.2.tregUE.isEmpty || c.2.imemErr) ||
  d.scarab.cl.any (fun (c : Nat × Scb) => !c.2.statUE.isEmpty) || d.talus.cl.any (fun (c : Nat × Tls) => !c.2.ue.isEmpty)

/-- The jobs of a tenancy fail with a code. -/
def Dev.failJobs (d : Dev) (t code : Nat) : Dev := (d.runningJobs t).foldl (fun (d : Dev) (j : Job) => d.endJob j code) d

/-- What the header and the control records of the save hold: everything of R257 that the image's bytes do not. -/
def Dev.contextOf (d : Dev) (seed : Nat) : Context :=
  ⟨(d.weevil.cl.map (fun (c : Nat × Wvl) => (c.1, { c.2 with treg := [], imem := [], pwl := [] }))).filter
      (fun (c : Nat × Wvl) => c.2 != wvl0 c.1),
    (d.scarab.cl.map (fun (c : Nat × Scb) => (c.1, { c.2 with stat := [] }))).filter
      (fun (c : Nat × Scb) => c.2 != scb0 c.1),
    (d.talus.cl.map (fun (c : Nat × Tls) => (c.1, { c.2 with data := ⟨[], []⟩ }))).filter
      (fun (c : Nat × Tls) => c.2 != tls0 c.1),
    d.contextRegs, d.beatNum, seed⟩

/-- A step of a switch ends: POSITION comes to TOTAL, also where the save or the load failed (log entry 26), unless ABORT
has ended it (R41). -/
def Dev.endMove (d : Dev) (code : Nat) : Dev :=
  if d.busy HIV.page then (d.position HIV.page (d.num64 HIV.TOTAL)).endLong HIV.page code else d

/-- The save has ended (R257, R259). What a save that failed wrote in the save area is indeterminate. -/
def Dev.contextSaveDone (d : Dev) (ok : Bool) : Dev :=
  match d.hive.switching with
  | some w =>
    if w.stage ≠ 0 then d
    else
      let t := w.outgoing
      let area := d.num64 (TEN.SAVEADDR t)
      let inside := d.inRegion t area contextBytes
      let good := ok && d.busy HIV.page && !d.onDieBad t && inside
      let seed := d.freeCtr
      let parts := contextParts (d.cshwm t) d.talus.cl
      let d1 := { d.endMove (if good then 0 else 0x81) with freeCtr := seed + 1 }
      let d2 := if good then
          let d3 := ({ d1 with hive := { d1.hive with
            saved := d1.hive.saved.set noContext t (some (d1.contextOf seed)) } }).moverWrite area (d1.contextImage seed) parts
          (d3.setFlag (TEN.TENSTAT t) 0 true).setFld (TEN.TENSTAT t) 15 8 0
        else
          let d3 := if inside then d1.moverWrite area (ByteMem.openUp ⟨[], []⟩ 0 contextBytes seed) parts else d1
          (((d3.setFlag (TEN.TENSTAT t) 0 false).setFld (TEN.TENSTAT t) 15 8 0x81).err HIV.page 9).failJobs t 0x81
      d2.switchLoad w
  | none => d

/-- CONTEXT_SAVE_DONE (R258, R259). -/
def execContextSaveDone (ok : Bool) (s : State) : Host.Outcome State Fault Refusal := onDev (·.contextSaveDone ok) s

/-- The load has ended (R258, R259). -/
def Dev.contextLoadDone (d : Dev) (ok : Bool) : Dev :=
  match d.hive.switching with
  | some w =>
    if w.stage ≠ 1 then d
    else
      let t := w.incoming
      let area := d.num64 (TEN.SAVEADDR t)
      let c := d.context t
      let r := d.moverRead area (contextParts (d.cshwm t) ((c.map (fun c => c.talus)).getD []))
      let good := ok && d.busy HIV.page && !r.1
      let d1 := r.2.endMove (if good then 0 else 0x31)
      let d2 := match good, c with
        | true, some c => (d1.loadImage c area (d.cshwm t)).setFld (TEN.TENSTAT t) 15 8 0
        | _, _ =>
          let d3 := ((d1.clearOnDie).err HIV.page 10).setFld (TEN.TENSTAT t) 15 8 0x31
          { d3 with hive := { d3.hive with badLoad := t :: d3.hive.badLoad } }
      d2.switchEnd w
  | none => d

/-- CONTEXT_LOAD_DONE (R258, R259). -/
def execContextLoadDone (ok : Bool) (s : State) : Host.Outcome State Fault Refusal := onDev (·.contextLoadDone ok) s

/-! ### TENCFG.ENABLED (R268, R269) -/

/-- A pending write of ENABLED takes effect (R262, R269): enabling reads the pool block, disabling clears SAVED. -/
def Dev.applyEnabled (d : Dev) (p : Nat × Bool) : Dev :=
  let d1 := { d with hive := { d.hive with enPend := d.hive.enPend.filter (fun (q : Nat × Bool) => q.1 != p.1) } }
  if p.2 then d1.readPool p.1 else d1.drop (TEN.TENSTAT p.1) 0

/-- ENABLED of tenancy `t` is written (R269): 0 is discarded while the tenancy is resident or holds an entry; the value
takes effect at the next boundary, at once where the Cricket runs no beats (log entry 15). -/
def Dev.writeEnabled (d : Dev) (t : Nat) (on : Bool) : Dev :=
  let held := (d.entRange t).any (fun e => d.entState e != 0)
  if !on && (d.resident == t || held) then d
  else
    let was := d.tenEnabled t
    let d1 := { d.setFlag (TEN.TENCFG t) 0 on with
      hive := { d.hive with enPend := d.hive.enPend.filter (fun (q : Nat × Bool) => q.1 != t) } }
    if was = on then d1
    else if d.cricket.phase == .off then d1.applyEnabled (t, on)
    else { d1 with hive := { d1.hive with enPend := d1.hive.enPend ++ [(t, on)] } }

/-- TENCFG is written: CHUNKED and CSHWM only while ENABLED = 0 in effect, a CSHWM above 40 alone discarded (R269). -/
def Dev.writeTencfg (d : Dev) (t : Nat) (v : Word) : Dev :=
  let opened := !d.tenEnabled t && !d.flag (TEN.TENCFG t) 0
  let d1 := if opened then d.setFld (TEN.TENCFG t) 1 1 (field v.toNat 1 1) else d
  let d2 := if opened && decide (field v.toNat 13 8 ≤ 40) then d1.setFld (TEN.TENCFG t) 13 8 (field v.toNat 13 8) else d1
  d2.writeEnabled t (bit v.toNat 0)

/-- TENCFG_ENABLED (R269): a write of TENCFG. -/
def execTencfgEnabled (r : Requester) (t : Fin 16) (v : Word) (s : State) : Host.Outcome State Fault Refusal :=
  onDev (onPf r (·.writeTencfg t v)) s

end Sys2Proof.Machine
end

