-- ==== Sys2Proof/Machine/Images.lean ====
section
/-!
DEFINITION. Beat program images (03 R59, R60): the sizes and pass kinds of every descriptor (R83, R144, R150, R159, R166,
R171, R189, R214, R239, R290), the checks of registration, and what registration records.
-/
namespace Sys2Proof.Machine

/-- Size in bytes and accepted pass kinds of a descriptor, by engine code and opcode; none where either is invalid. -/
def descKind (engine op : Nat) : Option (Nat × List Nat) :=
  match engine with
  | 0x0F => match op with
    | 0x01 => some (128, [0, 1, 3])
    | 0x02 => some (256, [1])
    | 0x04 => some (64, [0, 1, 2, 3])
    | 0x10 => some (192, [0, 1, 3])
    | 0x11 => some (192, [0, 3])
    | 0x12 => some (192, [0, 3])
    | 0x20 => some (192, [0, 3])
    | 0x21 => some (128, [0, 3])
    | _ => none
  | 0x11 => if op = 1 ∨ op = 2 then some (64, [0, 1, 2, 3]) else none
  | 0x10 => match op with
    | 1 => some (128, [0, 1, 2, 3])
    | 2 => some (128, [1])
    | _ => none
  | 0x12 => match op with
    | 0x01 => some (128, [0, 3])
    | 0x02 => some (128, [0, 3])
    | 0x03 => some (128, [0, 3])
    | 0x11 => some (128, [1])
    | 0x12 => some (128, [1])
    | 0x13 => some (128, [1])
    | 0x20 => some (128, [1, 2])
    | 0x21 => some (128, [0, 1, 2])
    | 0x22 => some (128, [0, 1, 2])
    | _ => none
  | 0x13 => match op with
    | 1 => some (64, [0])
    | 2 => some (64, [0])
    | 3 => some (64, [1, 2])
    | _ => none
  | 0x0C => if op = 1 then some (64, [0, 1, 2, 3]) else none
  | 0x0E => match op with
    | 1 => some (64, [1, 2])
    | 2 => some (128, [1, 2])
    | 3 => some (128, [1, 2])
    | _ => none
  | 0x0A => if op = 1 then some (64, [0, 1, 2, 3]) else none
  | _ => none

/-- Bytes of the descriptor that begins with `bs`; 64 where no engine knows it. -/
def descSize (bs : List Byte) : Nat := ((descKind (engineOf bs) (opcodeOf bs)).map (fun (k : Nat × List Nat) => k.1)).getD 64

/-- The descriptors of a stream, each accepted by the pass kind; none where they do not fill it exactly (R60). -/
def parseStream (kind : Nat) : Nat → List Byte → Option (List (List Byte))
  | _, [] => some []
  | 0, _ :: _ => none
  | n + 1, b :: bs =>
    let l := b :: bs
    match descKind (engineOf l) (opcodeOf l) with
    | none => none
    | some k =>
      if k.2.contains kind && decide (k.1 ≤ l.length) then
        (parseStream kind n (l.drop k.1)).map (fun (ds : List (List Byte)) => l.take k.1 :: ds)
      else none

/-- Two windows of an image share a byte. -/
def windowsMeet : List (Nat × Nat) → Bool
  | [] => false
  | w :: ws => ws.any (fun (v : Nat × Nat) => rangesMeet w.1 w.2 v.1 v.2) || windowsMeet ws

/-- A window entry keeps R59 and R60. -/
def windowOk (i : Image) (w : Nat) : Bool :=
  if w < i.winCount then
    i.winBase w % 4096 == 0 && i.winLen w % 4096 == 0 && decide (i.winBase w + i.winLen w ≤ memTop)
  else i.winBase w == 0 && i.winLen w == 0

/-- The header's fields keep R59, its mode flags and windows R60. -/
def headerOk (i : Image) : Bool :=
  let h := i.header
  fieldAt h 0 4 == 0x5A374250 && fieldAt h 4 2 == 1 && fieldAt h 6 2 == 0x100 &&
  decide (i.passKind ≤ 3) && i.stashFb != 3 && field i.flags 7 4 == 0 && (i.bedrockOk || i.scrambleOk) &&
  field (byteAt h 0x0B) 7 4 == 0 && decide (1 ≤ i.wcet ∧ i.wcet ≤ 99999700) && i.envelope != 0 &&
  (i.stashFb != 1 || decide (i.recompImg ≤ 255)) && decide (i.winCount ≤ 8) &&
  (List.range 24).all (fun p => decide (i.linkWidth p ≤ 4)) &&
  i.descAddr % 256 == 0 && i.descBytes % 64 == 0 && decide (i.descBytes ≤ 0x4000000 ∧ i.descCount ≤ 1048576) &&
  fieldAt h 0x38 8 == 0 && fieldAt h 0xF0 16 == 0 &&
  (List.range 8).all (windowOk i) && !windowsMeet i.windows

/-- The feed of an ASSEMBLE, and whether a REDUCE asks for FLOAT (R290, R238). -/
def feedOfDesc (b : List Byte) : List Nat := if engineOf b = 0x0A then [field (byteAt b 3) 3 0] else []
def floatDesc (b : List Byte) : Bool := engineOf b == 0x0E && opcodeOf b == 2 && bit (byteAt b 2) 0

/-- What the checks of registration answer (R60, R370): the image, or a code, and the device that has read it. An image
outside device memory or the region, and an uncorrectable error, have their own codes. -/
def Dev.checkImage (d : Dev) (r : ImgReg) : Except Nat Image × Dev :=
  let h := d.quietRead r.addr 256
  let d1 := h.2.2
  let i0 : Image := ⟨r.index, r.addr, h.2.1, r.fn, r.shared, [], false, none, [], d.host.seq⟩
  if h.1 then (.error 0x31, d1)
  else if !d.inRegion r.fn i0.descAddr i0.descBytes then (.error 0x12, d1)
  else if !headerOk i0 then (.error 0x17, d1)
  else
    let s := d1.quietRead i0.descAddr i0.descBytes
    let d2 := s.2.2
    if s.1 then (.error 0x31, d2)
    else if sha3_384 (h.2.1.take 0xC0 ++ s.2.1) ≠ (h.2.1.drop 0xC0).take 48 then (.error 0x17, d2)
    else
      match parseStream i0.passKind (i0.descBytes / 64) s.2.1 with
      | none => (.error 0x17, d2)
      | some ds =>
        let fs := ds.flatMap feedOfDesc
        if ds.length ≠ i0.descCount ∨ fs.eraseDups.length ≠ fs.length then (.error 0x17, d2)
        else (.ok { i0 with engines := (ds.map engineOf).eraseDups, float := ds.any floatDesc, feeds := fs }, d2)

/-- The image at an index. -/
def Dev.imageAt (d : Dev) (k : Nat) : Option Image := d.cricket.images.find? (fun (i : Image) => i.index == k)

/-- IMGCOUNT follows the table (R71). -/
def Dev.countImages (d : Dev) : Dev := d.setNum CKT.IMGCOUNT d.cricket.images.length

/-- An image enters the table. -/
def Dev.enterImage (d : Dev) (i : Image) : Dev :=
  ({ d with cricket := { d.cricket with images := d.cricket.images ++ [i] } }).countImages

/-- An image leaves it, and the substitution marks that name it clear (R165). -/
def Dev.removeImage (d : Dev) (k : Nat) : Dev :=
  let l := (d.cricket.images.filter (fun (i : Image) => i.index != k)).map (fun (i : Image) =>
    if i.subst = some k then { i with subst := none } else i)
  ({ d with cricket := { d.cricket with images := l } }).countImages

end Sys2Proof.Machine
end

