-- ==== Sys2Proof/Machine/Power.lean ====
section
/-!
DEFINITION. Power (15 R328-R340): telemetry and throttling, and the budget, the effective envelope and the serving
allowance that admission uses.
-/
namespace Sys2Proof.Machine

/-! ### The budget of a beat (R331-R335) -/

/-- BUDGET in hundredths of a microjoule: LIMIT x PERIOD (R331). -/
def budget100 (limit period : Nat) : Nat := limit * period

/-- EFF = ENVELOPE + ceil(IDLEPWR x (PERIOD - 300 - WCET) / 100) (R332). -/
def effOf (envelope wcet idle period : Nat) : Nat := envelope + ceilDiv (idle * (period - 300 - wcet)) 100

/-- An envelope fits the budget (R333). -/
def fitsBudget (eff limit period : Nat) : Bool := decide (100 * eff ≤ budget100 limit period)

/-- SHED of R335 for the smallest EFF `e0`, the tokens' bound `c` and TOKBUDGET; `none` where the job fails with
ENVELOPE_OVER. -/
def shedOf (e0 c tok limit period : Nat) : Option Nat :=
  let excess := 100 * e0 - budget100 limit period
  if c = 0 ∨ 100 * c * tok ≤ excess then none else some (ceilDiv excess (100 * c))

/-! ### Telemetry and throttling (R329, R330, R336) -/

/-- Cycles of `[0, x)` that fall in the first `q` cycles of their 256-cycle window (R336). -/
def withheldUpTo (q x : Nat) : Nat := x / 256 * q + min (x % 256) q

/-- The level after a sample: 16 up to 192 above the limit or with a hot die, 8 down at or below 97 % with every die
cooler than DIETHR - 2 (R336). -/
def nextQ (q sum count limit : Nat) (hot cool : Bool) : Nat :=
  if limit * 1000 * count < sum ∨ hot then min 192 (q + 16)
  else if sum * 100 ≤ 97 * limit * 1000 * count ∧ cool then q - 8
  else q

/-- Registers that show the last sample (R339). -/
def Dev.showTelemetry (d : Dev) (t : Telemetry) (avgMw : Nat) : Dev :=
  let d1 := d.setNum PWR.INPUT (t.inputMv / 10 % 2 ^ 16 + 2 ^ 16 * (t.inputMa / 10 % 2 ^ 16))
  let d2 := d1.setNum PWR.INPUTPWR (avgMw / 100 % 2 ^ 16)
  (List.range 3).foldl (fun d i => d.setNum (PWR.DIETEMP i) (ofSigned 16 (t.dies.getD i 0))) d2

def Dev.powerSample (d : Dev) (t : Telemetry) : Dev :=
  if !d.module.conv then d
  else
    let win := (t.inputMw :: d.power.samples).take 10
    let sum := win.foldl (· + ·) 0
    let q := d.fld PWR.THROTTLE 7 0
    let thr : Int := 8 * (d.fld PWR.DIETHR 7 0 : Int)
    let hot := t.dies.any (fun x => decide (thr ≤ x))
    let cool := t.dies.all (fun x => decide (x < thr - 16))
    let q' := nextQ q sum win.length (d.fld PWR.LIMIT 11 0) hot cool
    let nj := d.power.energyFrac + t.inputMw
    let held := withheldUpTo q (d.power.winPos + 1800) - withheldUpTo q d.power.winPos
    let d1 := { d with power := { d.power with
      samples := win
      last := t
      thrown := d.power.thrown || q' != 0
      energyFrac := nj % 1000
      winPos := (d.power.winPos + 1800) % 256 } }
    let d2 := (d1.count64 PWR.ENERGY (nj / 1000)).count64 PWR.WITHHELD held
    let d3 := d2.showTelemetry t (sum / win.length)
    let d4 := (d3.setFld PWR.THROTTLE 7 0 q').setFld PWR.THROTTLE 15 8 (max q' (d3.fld PWR.THROTTLE 15 8))
    let d5 := if q = 0 ∧ q' ≠ 0 then d4.irq PWR.page 1 else d4
    let d6 := if hot then
        (if d5.flag PWR.ERRSUM 10 then d5 else d5.irq PWR.page 2).err PWR.page 10
      else d5
    if t.inputMv < 60000 ∨ 80000 < t.inputMv then d6.err PWR.page 11 else d6

/-- POWER_SAMPLE (R329, R330, R336). -/
def execPowerSample (t : Telemetry) (s : State) : Host.Outcome State Fault Refusal := onDev (·.powerSample t) s

end Sys2Proof.Machine
end

