-- ==== Sys2Proof/Machine/Talus.lean ====
section
/-!
DEFINITION. The Talus (07 R161-R166, R169, R170): entries and their images, the stash rounding, spills, and the three
descriptors.
-/
namespace Sys2Proof.Machine

/-! ### Entries -/

def Tls.ent (t : Tls) (e : Nat) : TlsEnt := t.ents.get ent0 e
def Tls.setEnt (t : Tls) (e : Nat) (v : TlsEnt) : Tls := { t with ents := t.ents.set ent0 e v }

/-- Pages of `n` bytes. -/
def pagesFor (n : Nat) : Nat := ceilDiv n 4096

/-- Stored bytes of a narrowed or spilled entry (R163). -/
def spillBytes (fmt size : Nat) : Nat :=
  if fmt = 0x10 then 33 * size / 64 else if fmt = 0x20 then size / 2 else size

/-- Entries in a state. -/
def Tls.count (t : Tls) (p : EntState → Bool) : Nat := (t.ents.filter (fun e => p e.2.state)).length

/-- Pages in use. -/
def Tls.usedPages (t : Tls) : Nat := (t.ents.map (fun e => e.2.pages)).foldl (· + ·) 0

/-- FREEPAGES and the entry counts follow the entries (R169). -/
def Dev.refreshTls (d : Dev) (k : Nat) : Dev :=
  let t := d.tls k
  (((d.setNum (TLS.FREEPAGES k) (1024 - t.usedPages)).setNum (TLS.OPENCNT k) (t.count (· == .opened))).setNum
    (TLS.RESIDENTCNT k) (t.count (fun s => s == .resident || s == .spilling))).setNum
    (TLS.SPILLEDCNT k) (t.count (fun s => s == .spilled || s == .released))

/-- The entries of Talus `k` change. -/
def Dev.putTls (d : Dev) (k : Nat) (t : Tls) : Dev := (d.setTls k t).refreshTls k

/-! ### The stash rounding (R163) -/

/-- Cut a list into pieces of `n`. -/
def pieces {α : Type} (n : Nat) : Nat → List α → List (List α)
  | 0, _ => []
  | fuel + 1, l => if l.isEmpty then [] else l.take n :: pieces n fuel (l.drop n)

/-- A 64-byte block of BF16 elements as MXFP8-E4M3: 32 elements, then their scale byte. The order of the 33 bytes, and that
the blocks follow one another, are the model's (DESIGN CHOICE, log 24). -/
def packBlock (bs : List Byte) : List Byte :=
  let r := convertMx 4 (tabulate 32 (fun i => decodeElem 0x10 (fieldAt bs (2 * i) 2)))
  r.2.1.map (BitVec.ofNat 8) ++ [BitVec.ofNat 8 r.1]

/-- The 64 bytes of a block read back. -/
def unpackBlock (bs : List Byte) : List Byte :=
  (bs.take 32).flatMap (fun x => leBytes 2 (convertTo 0x10 (scaled (decodeElem 4 x.toNat) (byteAt bs 32)) true).1)

/-- The spill image and the narrowed image of an entry's bytes (R163). -/
def spillImage (fmt : Nat) (bs : List Byte) : List Byte :=
  if fmt = 0x10 then (pieces 64 bs.length bs).flatMap packBlock
  else if fmt = 0x20 then (pieces 4 bs.length bs).flatMap (fun b => leBytes 2 (convertTo 0x10 (val32 (leNat b)) true).1)
  else bs

/-- Where the bytes `[o, o + n)` of an entry stand in its image: start, length, and the bytes to skip once they are
reconstructed. -/
def imageSpan (fmt o n : Nat) : Nat × Nat × Nat :=
  if fmt = 0x10 then (33 * (o / 64), 33 * (ceilDiv (o + n) 64 - o / 64), o % 64)
  else if fmt = 0x20 then (2 * (o / 4), 2 * (ceilDiv (o + n) 4 - o / 4), o % 4)
  else (o, n, 0)

/-- Bytes of an image reconstructed (R163). -/
def unspill (fmt : Nat) (bs : List Byte) : List Byte :=
  if fmt = 0x10 then (pieces 33 bs.length bs).flatMap unpackBlock
  else if fmt = 0x20 then (pieces 2 bs.length bs).flatMap (fun b => leBytes 4 (enc32 (decodeElem 0x10 (leNat b))))
  else bs

/-! ### Access (R161, R162) -/

/-- A Talus access fails (R161): ACCESSFAULT and the beat. -/
def Dev.talusFault (d : Dev) (k addr : Nat) : Dev := (d.err (TLS.page k) 10).beatFail 0x12 (blockName .tls k) addr

/-- Entry and offset of a Talus address; `none` where another bit is set. -/
def talusAddr (addr : Nat) : Option (Nat × Nat) :=
  if field addr 31 22 = 0 ∧ addr < 2 ^ 44 then some (field addr 43 32, field addr 21 0) else none

/-- Bytes `[o, o + n)` of an entry in its declared format (R161-R163): of a SPILLED entry from its image in the stash region,
of a narrowed one from its image in the pages, otherwise the bytes as written. -/
def Dev.entryRead (d : Dev) (k e o n : Nat) : List Byte × Dev :=
  let t := d.tls k
  let v := t.ent e
  let s := imageSpan v.fmt o n
  let whole := fun (bs : List Byte) => ((unspill v.fmt bs).drop s.2.2).take n
  if v.state = .spilled ∨ v.state = .released then
    let r := d.engRead (d.num64 (TLS.STASHBASE k) + v.stash + s.1) s.2.1
    (whole r.1, r.2)
  else if v.narrowed then (whole (t.data.readN (entKey e s.1) s.2.1), d)
  else (t.data.readN (entKey e o) n, d)

/-- The image of entry `e` as a spill writes it: a narrowed entry's pages hold it already. -/
def Tls.image (t : Tls) (e : Nat) : List Byte :=
  let v := t.ent e
  if v.narrowed then t.data.readN (entKey e 0) (spillBytes v.fmt v.size)
  else spillImage v.fmt (t.data.readN (entKey e 0) v.size)

/-- A read of a Talus page with an uncorrectable error fails the beat (R166). -/
def Dev.pageCheck (d : Dev) (k e addr : Nat) : Dev :=
  if (d.tls k).ue.contains e then (d.errData (TLS.page k) 9).beatFail 0x30 (blockName .tls k) addr else d

/-- A read of `n` bytes at a Talus address; `none` where it fails. -/
def Dev.talusRead (d : Dev) (k addr n : Nat) : Option (List Byte) × Dev :=
  match talusAddr addr with
  | none => (none, d.talusFault k addr)
  | some p =>
    let v := (d.tls k).ent p.1
    if v.state = .free ∨ v.size < p.2 + n then (none, d.talusFault k addr)
    else
      let r := (d.pageCheck k p.1 addr).entryRead k p.1 p.2 n
      (some r.1, r.2)

/-- Whether a write of `n` bytes may be performed: an OPEN entry, inside its SIZE. -/
def Dev.talusWritable (d : Dev) (k addr n : Nat) : Bool :=
  match talusAddr addr with
  | none => false
  | some p => decide (((d.tls k).ent p.1).state = .opened ∧ p.2 + n ≤ ((d.tls k).ent p.1).size)

/-- A write at a Talus address. -/
def Dev.talusWrite (d : Dev) (k addr : Nat) (bs : List Byte) : Dev :=
  if d.talusWritable k addr bs.length then
    let t := d.tls k
    d.setTls k { t with data := t.data.write (entKey (field addr 43 32) (field addr 21 0)) bs }
  else d.talusFault k addr

/-! ### Descriptors (R166) -/

def tSpillable (b : List Byte) : Bool := bit (byteAt b 2) 0
def tFmt (b : List Byte) : Nat := byteAt b 3
def tEntry (b : List Byte) : Nat := fieldAt b 4 2
def tSize (b : List Byte) : Nat := fieldAt b 0x10 4

/-- A field out of range. -/
def talusBad (b : List Byte) : Bool :=
  let op := opcodeOf b
  let open_ := op == 1
  field (byteAt b 2) 7 1 != 0 || (!open_ && (tSpillable b || tFmt b != 0 || tSize b != 0)) ||
  (open_ && (!fmtValid (tFmt b) || decide (tSize b % 64 ≠ 0 ∨ tSize b < 64 ∨ 4194304 < tSize b))) ||
  decide (4095 < tEntry b) || fieldAt b 6 2 != 0 || dClmask b == 0 || fieldAt b 0x14 4 != 0 || !syncReservedOk b ||
  fieldAt b 0x28 24 != 0

/-- The head of Talus `k`'s queue, if it carries an opcode. -/
def Dev.talusHead (d : Dev) (k op : Nat) : Option QDesc :=
  match (d.tls k).queue with
  | q :: _ => if opcodeOf q.bytes = op ∧ !(d.tls k).stuck then some q else none
  | [] => none

/-- Clusters left to a descriptor: one fewer. -/
def oneFewer (fin : List (QDesc × Nat)) (q : QDesc) : List (QDesc × Nat) :=
  fin.map (fun (e : QDesc × Nat) => if e.1.idx = q.idx then (e.1, e.2 - 1) else e)

/-- The head of Talus `k` has done its work there. -/
def Dev.talusDone (d : Dev) (k : Nat) (q : QDesc) : Dev :=
  let t := d.tls k
  let d1 := (d.setTls k { t with queue := t.queue.drop 1 }).lastCode (TLS.page k) 0
  { d1 with talus := { d1.talus with fin := oneFewer d1.talus.fin q } }

/-- The first cluster that begins a descriptor issues it. -/
def Dev.countFirst (d : Dev) (fin : List (QDesc × Nat)) (q : QDesc) : Dev :=
  match fin.find? (fun e => e.1.idx == q.idx) with
  | some e => if e.2 = max 1 (clustersIn (dClmask q.bytes)).length then d.countIssue else d
  | none => d

/-- The head of Talus `k` fails its checks. -/
def Dev.talusFail (d : Dev) (k : Nat) (q : QDesc) (code : Nat) : Dev :=
  let d1 := d.talusDone k q
  (({ d1 with talus := { d1.talus with fin := d1.talus.fin.filter (fun e => e.1.idx != q.idx) } }.err
    (TLS.page k) 11).lastCode (TLS.page k) code).beatFail code (blockName .tls k) 0

/-- What the three descriptors share: the head, its checks and its wait. `bad` is the state's own refusal. -/
def Dev.talusStep (d : Dev) (k op : Nat) (bad : TlsEnt → Bool) (act : Dev → QDesc → Dev) : Dev :=
  if !d.issuing then d
  else match d.talusHead k op with
  | none => d
  | some q =>
    if talusBad q.bytes || !d.grantsOk q.bytes then
      d.talusFail k q (if talusBad q.bytes then 0x10 else 0x19)
    else if !d.waitOk q.bytes then d
    else if bad ((d.tls k).ent (tEntry q.bytes)) then d.talusFail k q 0x10
    else act d q

/-- OPEN with pages free: they are allocated; what they hold is indeterminate. -/
def Dev.openEntry (d : Dev) (k : Nat) (q : QDesc) : Dev :=
  let t := d.tls k
  let e := tEntry q.bytes
  let v : TlsEnt := ⟨.opened, tSpillable q.bytes, false, tFmt q.bytes, tSize q.bytes, pagesFor (tSize q.bytes), 0, 0⟩
  let t1 := { t.setEnt e v with
    data := t.data.openUp (entKey e 0) (entKey e (tSize q.bytes)) d.freeCtr
    ue := t.ue.filter (fun x => x != e) }
  (((d.countFirst d.talus.fin q).putTls k t1).talusDone k q) |> fun d => { d with freeCtr := d.freeCtr + 1 }

/-- The RESIDENT and SPILLABLE entry with the oldest CLOSE. -/
def Tls.oldest (t : Tls) : Option Nat :=
  (t.ents.filter (fun e => e.2.state == .resident && e.2.spillable)).foldl (fun (best : Option Nat) (e : Nat × TlsEnt) =>
    match best with
    | none => some e.1
    | some b => if e.2.order < (t.ent b).order then some e.1 else best) none

/-- Spills begin, oldest CLOSE first, until `p` pages are free or will be (R164); a spill image that would pass the end of
the stash region stops the queue (R165). -/
def Dev.beginSpills (d : Dev) (k p : Nat) : Nat → Dev
  | 0 => d
  | fuel + 1 =>
    let t := d.tls k
    let soon := (t.ents.map (fun e => if e.2.state == .spilling then e.2.pages else 0)).foldl (· + ·) 0
    if p ≤ 1024 - t.usedPages + soon then d
    else match t.oldest with
    | none => d
    | some e =>
      let v := t.ent e
      let top := d.num64 (TLS.STASHTOP k)
      let n := 4096 * pagesFor (spillBytes v.fmt v.size)
      if d.num64 (TLS.STASHSIZE k) < top + n then
        let d1 := if d.flag (oErrsum (TLS.page k)) 8 then d else d.irq (TLS.page k) 1
        (d1.err (TLS.page k) 8).setTls k { t with stuck := true }
      else
        let t1 := { t.setEnt e { v with state := .spilling, stash := top } with spilling := t.spilling ++ [e], stack := e :: t.stack }
        ((d.setNum64 (TLS.STASHTOP k) (top + n)).putTls k t1).beginSpills k p fuel

/-- Pages that stay taken however many entries spill. -/
def Tls.firmPages (t : Tls) : Nat :=
  (t.ents.map (fun e => if e.2.state == .opened || (e.2.state == .resident && !e.2.spillable) then e.2.pages else 0)).foldl (· + ·) 0

def Dev.talusOpenAct (k : Nat) (d : Dev) (q : QDesc) : Dev :=
  let t := d.tls k
  let p := pagesFor (tSize q.bytes)
  if 1024 < t.firmPages + p then d.talusFail k q 0x10
  else if t.usedPages + p ≤ 1024 then d.openEntry k q
  else d.beginSpills k p 4096

/-- TALUS_OPEN in cluster `k` (R162, R164): with too few pages free it begins the spills it needs, and opens when they
have ended. -/
def execTalusOpen (k : Fin 64) (s : State) : Host.Outcome State Fault Refusal :=
  onBeat (·.talusStep k 1 (fun v => v.state != .free) (Dev.talusOpenAct k)) s

/-- The action of CLOSE: in BEDROCK the entry's pages take its narrowed image. -/
def Dev.talusCloseAct (k : Nat) (d : Dev) (q : QDesc) : Dev :=
  let t := d.tls k
  let e := tEntry q.bytes
  let v := t.ent e
  let t1 := { t with seq := t.seq + 1 }
  let t2 := if d.bedrock then
      { t1.setEnt e { v with state := .resident, narrowed := true, order := t.seq, pages := pagesFor (spillBytes v.fmt v.size) } with
        data := (t.data.zero (entKey e 0) (entKey (e + 1) 0)).write (entKey e 0) (t.image e) }
    else t1.setEnt e { v with state := .resident, order := t.seq }
  let d1 := if d.bedrock then d.pageCheck k e (2 ^ 32 * e) else d
  ((d1.countFirst d1.talus.fin q).putTls k t2).talusDone k q

/-- TALUS_CLOSE in cluster `k` (R162, R163). -/
def execTalusClose (k : Fin 64) (s : State) : Host.Outcome State Fault Refusal :=
  onBeat (·.talusStep k 2 (fun v => v.state != .opened) (Dev.talusCloseAct k)) s

/-- While the topmost spilled entry is released, STASHTOP falls by its size (R164). -/
def Dev.popStash (d : Dev) (k : Nat) : Nat → Dev
  | 0 => d
  | fuel + 1 =>
    let t := d.tls k
    match t.stack with
    | [] => d
    | e :: rest =>
      let v := t.ent e
      if v.state = .released then
        ((d.setNum64 (TLS.STASHTOP k) v.stash).putTls k { t.setEnt e (ent0 0) with stack := rest, data := t.data.zero (entKey e 0) (entKey (e + 1) 0) }).popStash k fuel
      else d

def Dev.talusReleaseAct (k : Nat) (d : Dev) (q : QDesc) : Dev :=
  let t := d.tls k
  let e := tEntry q.bytes
  let v := t.ent e
  if v.state = .spilling then d
  else
    let d1 := d.countFirst d.talus.fin q
    if v.state = .spilled ∨ v.state = .released then
      ((d1.putTls k (t.setEnt e { v with state := .released })).popStash k 4096).talusDone k q
    else (d1.putTls k { t.setEnt e (ent0 0) with data := t.data.zero (entKey e 0) (entKey (e + 1) 0) }).talusDone k q

/-- TALUS_RELEASE in cluster `k` (R162, R164): of a SPILLING entry it waits for the spill to end. -/
def execTalusRelease (k : Fin 64) (s : State) : Host.Outcome State Fault Refusal :=
  onBeat (·.talusStep k 3 (fun v => v.state == .free) (Dev.talusReleaseAct k)) s

def Dev.spillEnd (d : Dev) (k : Nat) : Dev :=
  let t := d.tls k
  if !d.running then d
  else match t.spilling with
  | [] => d
  | e :: rest =>
    let v := t.ent e
    let d1 := (d.pageCheck k e (2 ^ 32 * e)).engWrite (d.num64 (TLS.STASHBASE k) + v.stash) (t.image e) (blockName .tls k)
    let t1 := { t.setEnt e { v with state := .spilled, pages := 0 } with
      spilling := rest
      data := t.data.zero (entKey e 0) (entKey (e + 1) 0)
      ue := t.ue.filter (fun x => x != e) }
    ((d1.putTls k t1).countSat (TLS.SPILLCNT k) 1).count64 (TLS.SPILLBYTES k) (spillBytes v.fmt v.size)

/-- SPILL_END in cluster `k` (R162): the spill's last byte is written and its pages are free. -/
def execSpillEnd (k : Fin 64) (s : State) : Host.Outcome State Fault Refusal := onBeat (·.spillEnd k) s

def Dev.talusDescComplete (d : Dev) : Dev :=
  if !d.running then d
  else match d.talus.fin.find? (fun e => e.2 == 0) with
  | none => d
  | some e =>
    ({ d with talus := { d.talus with fin := d.talus.fin.filter (fun x => x.1.idx != e.1.idx) } }).applySignal e.1.bytes

/-- TALUS_DESC_COMPLETE (R166): done in every selected cluster; the signal is applied. -/
def execTalusDescComplete (s : State) : Host.Outcome State Fault Refusal := onBeat Dev.talusDescComplete s

end Sys2Proof.Machine
end

