-- ==== Sys2Proof/Machine/Weevil.lean ====
section
/-!
DEFINITION. The Weevil (06 R133-R147): descriptors, instruction fields, operands, the arithmetic, memory and control
instructions, and the PWL and tile-register windows. `k` is the cluster.
-/
namespace Sys2Proof.Machine

/-! ### Descriptors (R144, R145) -/

def wNinstr (b : List Byte) : Nat := fieldAt b 4 2
def wPaddr (b : List Byte) : Nat := fieldAt b 0x10 8

/-- The head of the Weevil queue, if it carries an opcode. -/
def Dev.weevilHead (d : Dev) (op : Nat) : Option QDesc :=
  match d.weevil.queue with
  | q :: _ => if opcodeOf q.bytes = op then some q else none
  | [] => none

def Dev.weevilPop (d : Dev) : Dev := { d with weevil := { d.weevil with queue := d.weevil.queue.drop 1 } }

/-- A Weevil descriptor's own checks; `n` is how many bytes of device memory it reads. -/
def Dev.weevilBad (d : Dev) (b : List Byte) (n : Nat) : Option Nat :=
  firstFail [
    (fieldAt b 2 2 != 0 || dClmask b == 0 || !syncReservedOk b ||
      (if opcodeOf b = 1 then decide (wNinstr b = 0 ∨ 2048 < wNinstr b) || fieldAt b 6 2 != 0
       else fieldAt b 4 4 != 0 || fieldAt b 0x28 24 != 0), 0x10),
    (wPaddr b % 64 != 0, 0x11),
    (!d.inRegion d.tenancy (wPaddr b) n, 0x12)]

/-- Every selected cluster is idle. -/
def Dev.clustersIdle (d : Dev) (mask : Nat) : Bool := (clustersIn mask).all (fun k => (d.wvl k).run == .idle)

/-- A Weevil descriptor fails: ILLEGAL on the pages of its clusters (WVL[0] where it selects none). -/
def Dev.weevilFail (d : Dev) (q : QDesc) (code : Nat) : Dev :=
  let ks := if dClmask q.bytes = 0 then [0] else clustersIn (dClmask q.bytes)
  (ks.foldl (fun d k => (d.err (WVL.page k) 8).lastCode (WVL.page k) code) d.weevilPop).beatFail code (blockName .wvl (ks.headD 0)) 0

/-- Cluster `k` starts a program (R133, R145). -/
def startProgram (w : Wvl) (b : List Byte) (prog : List DWord) : Wvl :=
  { w with
    areg := SMap.setRange zeroDWord [] 0 [BitVec.ofNat 64 (fieldAt b 0x28 8), BitVec.ofNat 64 (fieldAt b 0x30 8), BitVec.ofNat 64 (fieldAt b 0x38 8)]
    loops := []
    pc := 0
    run := .running
    ovf := false
    imem := w.imem.setRange zeroDWord 0 prog
    imemErr := false }

/-- 64-bit words of bytes. -/
def dwordsOf (bs : List Byte) (n : Nat) : List DWord := tabulate n (fun i => BitVec.ofNat 64 (fieldAt bs (8 * i) 8))

def Dev.weevilRun (d : Dev) : Dev :=
  if !d.issuing then d
  else match d.weevilHead 1 with
  | none => d
  | some q =>
    let b := q.bytes
    match d.headCode b (d.weevilBad b (8 * wNinstr b)) with
    | some c => d.weevilFail q c
    | none =>
      if d.waitOk b && d.clustersIdle (dClmask b) then
        let r := d.engRead (wPaddr b) (8 * wNinstr b)
        let prog := dwordsOf r.1 (wNinstr b)
        let d1 := (clustersIn (dClmask b)).foldl (fun d k => d.setWvl k (startProgram (d.wvl k) b prog)) r.2
        ({ d1 with weevil := { d1.weevil with queue := d1.weevil.queue.drop 1, run := d1.weevil.run ++ [(q, dClmask b)] } }).countIssue
      else d

/-- WEEVIL_RUN (R144, R145): every selected cluster starts at instruction 0. -/
def execWeevilRun (s : State) : Host.Outcome State Fault Refusal := onBeat Dev.weevilRun s

def Dev.pwlload (d : Dev) : Dev :=
  if !d.issuing then d
  else match d.weevilHead 2 with
  | none => d
  | some q =>
    let b := q.bytes
    match d.headCode b (d.weevilBad b 2048) with
    | some c => d.weevilFail q c
    | none =>
      if d.waitOk b && d.clustersIdle (dClmask b) then
        let r := d.engRead (wPaddr b) 2048
        let tab := dwordsOf r.1 256
        let d1 := (clustersIn (dClmask b)).foldl
          (fun d k => d.setWvl k { d.wvl k with pwl := (d.wvl k).pwl.setRange zeroDWord 0 tab }) r.2
        ({ d1 with weevil := { d1.weevil with queue := d1.weevil.queue.drop 1, run := d1.weevil.run ++ [(q, 0)] } }).countIssue
      else d

/-- PWLLOAD (R144, R145). -/
def execPwlload (s : State) : Host.Outcome State Fault Refusal := onBeat Dev.pwlload s

def Dev.weevilDescComplete (d : Dev) : Dev :=
  if !d.running then d
  else match d.weevil.run.find? (fun e => e.2 == 0) with
  | none => d
  | some e =>
    let d1 := { d with weevil := { d.weevil with run := d.weevil.run.filter (fun x => x.1.idx != e.1.idx) } }
    let run := decide (opcodeOf e.1.bytes = 1)
    let d2 := (clustersIn (dClmask e.1.bytes)).foldl (fun (d : Dev) k =>
      (if run then d.countSat (WVL.RUNCOUNT k) 1 else d).lastCode (WVL.page k) (if run && (d.wvl k).ovf then 3 else 0)) d1
    d2.applySignal e.1.bytes

/-- WEEVIL_DESC_COMPLETE (R145). -/
def execWeevilDescComplete (s : State) : Host.Outcome State Fault Refusal := onBeat Dev.weevilDescComplete s

/-! ### Instruction fields (R135); `i` is the 64-bit word -/

def iOp (i : Nat) : Nat := field i 7 0
def iD (i : Nat) : Nat := field i 12 8
def iA (i : Nat) : Nat := field i 17 13
def iB (i : Nat) : Nat := field i 22 18
def iC (i : Nat) : Nat := field i 27 23
def iAmode (i : Nat) : Nat := field i 29 28
def iBmode (i : Nat) : Nat := field i 31 30
def iCmode (i : Nat) : Nat := field i 33 32
def iAidx (i : Nat) : Nat := field i 38 34
def iBidx (i : Nat) : Nat := field i 43 39
def iCidx (i : Nat) : Nat := field i 48 44
def iMsel (i : Nat) : Nat := field i 50 49
def iMasken (i : Nat) : Bool := bit i 51
def iSub (i : Nat) : Nat := field i 55 52
def iImm8 (i : Nat) : Nat := field i 63 56
def iAreg (i : Nat) : Nat := field i 15 13
def iPreg (i : Nat) : Nat := field i 18 16
def iSpace (i : Nat) : Nat := field i 20 19
def iTagrel (i : Nat) : Bool := bit i 21
def iSat (i : Nat) : Bool := bit i 22
def iFmt (i : Nat) : Nat := field i 31 24
def iOffset (i : Nat) : Int := toSigned 32 (field i 63 32)
def iImm16 (i : Nat) : Nat := field i 31 16

/-- Opcodes of the arithmetic layout, of the memory layout and of the control layout (R136). -/
def arithOps : List Nat :=
  [0x01, 0x02, 0x03, 0x04, 0x05, 0x06, 0x07, 0x08, 0x09, 0x0A, 0x0B, 0x0C, 0x0D, 0x0E, 0x10, 0x11, 0x12, 0x13, 0x14,
   0x15, 0x16, 0x18, 0x19]
def memOps : List Nat := [0x20, 0x21, 0x22]
def ctrlOps : List Nat := [0x00, 0x28, 0x29, 0x30, 0x31, 0x38, 0x39, 0x3F]

/-- Formats that an image in a tile register can have: a register holds 4 KiB, which FP64 exceeds (DEDUCED, log 23). -/
def imageFmt (f : Nat) : Bool := fmtValid f && f != 0x21

/-- An instruction that R143 refuses by its word alone: an illegal OP, a reserved bit, an ACT code above 8, and a SUB,
IMM8 or AMODE outside what R136 lists. -/
def illegalWord (i : Nat) : Bool :=
  let op := iOp i
  if memOps.contains op then bit i 23
  else if ctrlOps.contains op then field i 15 13 != 0
  else if arithOps.contains op then
    (op == 0x0E && decide (8 < iImm8 i)) || (op == 0x10 && decide (3 < iSub i)) || (op == 0x13 && iAmode i != 0) ||
    ((op == 0x14 || op == 0x15) && decide (2 < iSub i)) || (op == 0x16 && decide (3 < iSub i)) ||
    ((op == 0x18 || op == 0x19) && !imageFmt (iImm8 i))
  else true

/-! ### Registers (R133, R134) -/

def Wvl.word (w : Wvl) (r i j : Nat) : Nat := (w.treg.get zeroWord (1024 * r + 32 * i + j)).toNat
def Wvl.addr (w : Wvl) (k a : Nat) : Nat := if a = 7 then k else (w.areg.get zeroDWord a).toNat
def Wvl.setAddr (w : Wvl) (a : Nat) (v : Nat) : Wvl :=
  if a = 7 then w else { w with areg := w.areg.set zeroDWord a (BitVec.ofNat 64 v) }

/-- What an unlisted mask bit reads as. -/
def maskOpen (seed i : Nat) : Bool := if seed = 0 then false else (Config.freeByte seed i).getLsbD 0
def Wvl.mask (w : Wvl) (m i j : Nat) : Bool := w.masks.get (maskOpen w.maskSeed) (1024 * m + 32 * i + j)

/-- An operand's element position for (i, j) (R134). -/
def elemAt (mode idx i j : Nat) : Nat × Nat :=
  if mode = 0 then (i, j) else if mode = 1 then (idx, j) else if mode = 2 then (i, idx) else (0, idx)

/-- Operands A, B and C of an instruction at (i, j), as bits. -/
def opndBits (w : Wvl) (ins : Nat) (which i j : Nat) : Nat :=
  let f := if which = 0 then (iA ins, iAmode ins, iAidx ins) else if which = 1 then (iB ins, iBmode ins, iBidx ins)
    else (iC ins, iCmode ins, iCidx ins)
  let p := elemAt f.2.1 f.2.2 i j
  w.word f.1 p.1 p.2
def opnd (w : Wvl) (ins which i j : Nat) : FVal := val32 (opndBits w ins which i j)

/-- Registers that an instruction reads. -/
def readsOf (i : Nat) : List Nat :=
  let op := iOp i
  if [0x01, 0x02, 0x03, 0x05, 0x06, 0x10, 0x11].contains op then [iA i, iB i]
  else if op = 0x04 then [iA i, iB i, iC i]
  else if op = 0x0E then (if iImm8 i = 7 ∨ iImm8 i = 8 then [iA i, iB i, iC i] else [iA i])
  else if arithOps.contains op then [iA i]
  else if op = 0x21 ∨ op = 0x22 then [iD i] else []

/-- The register that an instruction writes. -/
def writesOf (i : Nat) : Option Nat :=
  if iOp i = 0x20 ∨ (arithOps.contains (iOp i) ∧ iOp i ≠ 0x10) then some (iD i) else none

/-! ### Failures (R139, R140, R143) -/

/-- The program of cluster `k` stops and the beat fails; bit `e` of ERRSUM names the cause, where it has one. -/
def Dev.wvlFail (d : Dev) (k : Nat) (e : Option Nat) (code addr : Nat) : Dev :=
  let d1 := (d.setWvl k { d.wvl k with run := .idle }).lastCode (WVL.page k) code
  (match e with | some b => d1.err (WVL.page k) b | none => d1).beatFail code (blockName .wvl k) addr

/-- A write to register `r` meets the active ring (R140): its slot is not HELD. -/
def Dev.ringHazard (d : Dev) (k r : Nat) : Bool :=
  let w := d.wvl k
  d.ringActive k && decide (w.ringBase ≤ r ∧ r < w.ringBase + w.ring.length) &&
  (match w.ring[r - w.ringBase]? with | some s => s.state != .held | none => false)

/-- A register that an instruction reads holds an uncorrectable error. -/
def badTreg (w : Wvl) (i : Nat) : Bool := w.tregUE.any (fun a => (readsOf i).contains (a / 1024))

/-- Cycles of an instruction on LANES (R136). -/
def laneCycles (i : Nat) : Nat :=
  let op := iOp i
  if op = 0x0E then (if iImm8 i = 0 ∨ iImm8 i = 1 ∨ iImm8 i = 7 then 8 else 16)
  else if [0x09, 0x0A, 0x0B, 0x0C, 0x0D, 0x13, 0x14, 0x15].contains op then 16
  else if arithOps.contains op then 8 else 0

/-- Tag fields (R141). -/
def tagTi (t : DWord) : Nat := field t.toNat 19 0
def tagTj (t : DWord) : Nat := field t.toNat 39 20
def tagVr (t : DWord) : Nat := field t.toNat 44 40 + 1
def tagVc (t : DWord) : Nat := field t.toNat 49 45 + 1

/-- Rows that a memory instruction reads or writes (R139). -/
def memRows (w : Wvl) (i : Nat) : Nat := if iTagrel i && iOp i != 0x20 then tagVr w.tag else 32

/-- Cycles of a memory instruction on PORT (R136): bytes of the rows read or written, and of the scales. -/
def portCycles (w : Wvl) (i : Nat) : Nat :=
  if memOps.contains (iOp i) then
    ceilDiv (memRows w i * fmtBytes (iFmt i) 32 + (if fmtIsMx (iFmt i) then 32 else 0)) 512
  else 0

/-- An instruction has issued: counters, and the next one. -/
def Dev.wvlNext (d : Dev) (k i : Nat) : Dev :=
  let w := d.wvl k
  (((d.setWvl k { w with pc := (w.pc + 1) % 2048, run := .running }).count64 (WVL.INSTRCNT k) 1).count64
    (WVL.LANECYC k) (laneCycles i)).count64 (WVL.PORTCYC k) (portCycles w i)

/-- The instruction of opcode `op` of cluster `k` executes if it is the next one of a running program. An instruction
that the word itself, the ring or an error refuses fails the beat, whatever its opcode. -/
def Dev.wvlStep (d : Dev) (k op : Nat) (act : Dev → Nat → Dev) : Dev :=
  let w := d.wvl k
  let i := (w.imem.get zeroDWord w.pc).toNat
  if !d.running || w.run == .idle then d
  else if w.imemErr then d.wvlFail k (some 11) 0x32 0
  else if illegalWord i then d.wvlFail k (some 8) 0x10 0
  else if iOp i ≠ op then d
  else if (match writesOf i with | some r => d.ringHazard k r | none => false) then d.wvlFail k (some 9) 0x10 0
  else if badTreg w i then (d.err (WVL.page k) 1).wvlFail k (some 10) 0x30 0
  else act d i

/-! ### Arithmetic (R136, R137) -/

/-- Register `r` takes 1,024 words where the mask lets it (R134). -/
def writeTreg (w : Wvl) (i r : Nat) (vals : List Word) : Wvl :=
  let vs := if iMasken i then
      tabulate 1024 (fun e => if w.mask (iMsel i) (e / 32) (e % 32) then vals.getD e 0#32 else w.treg.get zeroWord (1024 * r + e))
    else vals
  { w with
    treg := w.treg.setRange zeroWord (1024 * r) vs
    tregUE := if iMasken i then w.tregUE else w.tregUE.filter (fun a => a / 1024 != r) }

/-- Positions whose result counts: those that are written. -/
def written (w : Wvl) (i e : Nat) : Bool := !iMasken i || w.mask (iMsel i) (e / 32) (e % 32)

/-- An elementwise instruction: `f` gives the value and its flags at (i, j). -/
def arith (k : Nat) (f : Wvl → Nat → Nat → Nat → FVal × Nat) (d : Dev) (i : Nat) : Dev :=
  let w := d.wvl k
  let r := tabulate 1024 (fun e => f w i (e / 32) (e % 32))
  let fl := orAll ((List.range 1024).map (fun e => if written w i e then (r.getD e (.nan, 0)).2 else 0))
  ((d.setWvl k (writeTreg w i (iD i) (r.map (fun x => BitVec.ofNat 32 (enc32 x.1))))).weevilFlags k fl).wvlNext k i

/-- A bit copy: its results, too, set INF and NAN (R137). -/
def bitCopy (k : Nat) (f : Wvl → Nat → Nat → Nat → Nat) (d : Dev) (i : Nat) : Dev :=
  let w := d.wvl k
  let r := tabulate 1024 (fun e => f w i (e / 32) (e % 32))
  let fl := orAll ((List.range 1024).map (fun e => if written w i e then infNan (val32 (r.getD e 0)) else 0))
  ((d.setWvl k (writeTreg w i (iD i) (r.map (BitVec.ofNat 32)))).weevilFlags k fl).wvlNext k i

/-- One operand, two operands, three operands. -/
def un (f : FVal → FVal × Bool) (w : Wvl) (ins i j : Nat) : FVal × Nat := judged (f (opnd w ins 0 i j))
def bin (f : FVal → FVal → FVal × Bool) (w : Wvl) (ins i j : Nat) : FVal × Nat :=
  judged (f (opnd w ins 0 i j) (opnd w ins 1 i j))
def exact (v : FVal) : FVal × Bool := (v, false)

/-- NOP (R136). -/
def execWvlNop (k : Fin 64) (s : State) : Host.Outcome State Fault Refusal :=
  onBeat (·.wvlStep k 0x00 (fun d i => d.wvlNext k i)) s
/-- ADD (R136). -/
def execWvlAdd (k : Fin 64) (s : State) : Host.Outcome State Fault Refusal :=
  onBeat (·.wvlStep k 0x01 (arith k (bin (fAdd grid32)))) s
/-- SUB (R136). -/
def execWvlSub (k : Fin 64) (s : State) : Host.Outcome State Fault Refusal :=
  onBeat (·.wvlStep k 0x02 (arith k (bin (fun a b => fAdd grid32 a b.negate)))) s
/-- MUL (R136). -/
def execWvlMul (k : Fin 64) (s : State) : Host.Outcome State Fault Refusal :=
  onBeat (·.wvlStep k 0x03 (arith k (bin (fMul grid32)))) s
/-- FMA (R136): one rounding. -/
def execWvlFma (k : Fin 64) (s : State) : Host.Outcome State Fault Refusal :=
  onBeat (·.wvlStep k 0x04 (arith k (fun w ins i j =>
    judged (fFma grid32 (opnd w ins 0 i j) (opnd w ins 1 i j) (opnd w ins 2 i j))))) s
/-- MIN (R136). -/
def execWvlMin (k : Fin 64) (s : State) : Host.Outcome State Fault Refusal :=
  onBeat (·.wvlStep k 0x05 (arith k (bin (fun a b => exact (fMin a b))))) s
/-- MAX (R136). -/
def execWvlMax (k : Fin 64) (s : State) : Host.Outcome State Fault Refusal :=
  onBeat (·.wvlStep k 0x06 (arith k (bin (fun a b => exact (fMax a b))))) s
/-- ABS (R136). -/
def execWvlAbs (k : Fin 64) (s : State) : Host.Outcome State Fault Refusal :=
  onBeat (·.wvlStep k 0x07 (arith k (un (fun a => exact a.abs)))) s
/-- NEG (R136). -/
def execWvlNeg (k : Fin 64) (s : State) : Host.Outcome State Fault Refusal :=
  onBeat (·.wvlStep k 0x08 (arith k (un (fun a => exact a.negate)))) s
/-- RCP (R136, R137). -/
def execWvlRcp (k : Fin 64) (s : State) : Host.Outcome State Fault Refusal :=
  onBeat (·.wvlStep k 0x09 (arith k (un crRcp))) s
/-- RSQRT (R136, R137). -/
def execWvlRsqrt (k : Fin 64) (s : State) : Host.Outcome State Fault Refusal :=
  onBeat (·.wvlStep k 0x0A (arith k (un crRsqrt))) s
/-- SQRT (R136, R137). -/
def execWvlSqrt (k : Fin 64) (s : State) : Host.Outcome State Fault Refusal :=
  onBeat (·.wvlStep k 0x0B (arith k (un crSqrt))) s
/-- EXP (R136, R137). -/
def execWvlExp (k : Fin 64) (s : State) : Host.Outcome State Fault Refusal :=
  onBeat (·.wvlStep k 0x0C (arith k (un crExp))) s
/-- LOG (R136, R137). -/
def execWvlLog (k : Fin 64) (s : State) : Host.Outcome State Fault Refusal :=
  onBeat (·.wvlStep k 0x0D (arith k (un crLog))) s

/-- An activation's result: ACTP0 and ACTP1 are single elements (R136), and steps inside set no flag (R131). -/
def actResult (k : Nat) (d : Dev) (w : Wvl) (ins i j : Nat) : FVal × Nat :=
  let p0 := val32 (w.word (iB ins) 0 (iBidx ins))
  let p1 := val32 (w.word (iC ins) 0 (iCidx ins))
  judged (activation (d.pwlOf k) (iImm8 ins) p0 p1 (opnd w ins 0 i j), false)

/-- ACT (R131, R132, R136). -/
def execWvlAct (k : Fin 64) (s : State) : Host.Outcome State Fault Refusal :=
  onBeat (·.wvlStep k 0x0E (fun d i => arith k (actResult k d) d i)) s

/-- a SUB b of CMP. -/
def compare (sub : Nat) (a b : FVal) : Bool :=
  if a.isNan || b.isNan then sub == 3
  else if sub = 0 then a.eq b else if sub = 1 then a.lt b else if sub = 2 then a.lt b || a.eq b else !a.eq b

/-- A mask register takes 1,024 bits where the mask lets it. -/
def writeMask (w : Wvl) (i m : Nat) (bits : List Bool) : Wvl :=
  let bs := tabulate 1024 (fun e => if written w i e then bits.getD e false else w.mask m (e / 32) (e % 32))
  { w with masks := w.masks.setRange (maskOpen w.maskSeed) (1024 * m) bs }

/-- CMP (R136). -/
def execWvlCmp (k : Fin 64) (s : State) : Host.Outcome State Fault Refusal :=
  onBeat (·.wvlStep k 0x10 (fun d i =>
    let w := d.wvl k
    (d.setWvl k (writeMask w i (iD i % 4) (tabulate 1024 (fun e =>
      compare (iSub i) (opnd w i 0 (e / 32) (e % 32)) (opnd w i 1 (e / 32) (e % 32)))))).wvlNext k i)) s
/-- SEL (R136). -/
def execWvlSel (k : Fin 64) (s : State) : Host.Outcome State Fault Refusal :=
  onBeat (·.wvlStep k 0x11 (bitCopy k (fun w ins i j => opndBits w ins (if w.mask (iMsel ins) i j then 0 else 1) i j))) s
/-- MOV (R136). -/
def execWvlMov (k : Fin 64) (s : State) : Host.Outcome State Fault Refusal :=
  onBeat (·.wvlStep k 0x12 (bitCopy k (fun w ins i j => opndBits w ins 0 i j))) s
/-- TRN (R136). -/
def execWvlTrn (k : Fin 64) (s : State) : Host.Outcome State Fault Refusal :=
  onBeat (·.wvlStep k 0x13 (arith k (fun w ins i j => judged (exact (val32 (w.word (iA ins) j i)))))) s

/-- A reduction of 32 values (R137): SUB 0 sum by the fixed tree, 1 maximum, 2 minimum. -/
def reduce32 (sub : Nat) (vs : List FVal) : JVal :=
  if sub = 0 then tree32 jAdd (vs.map jOf)
  else
    let f := if sub = 1 then fMax else fMin
    judged (exact ((vs.drop 1).foldl f (vs.headD .nan)))

/-- RRED (R136, R137). -/
def execWvlRred (k : Fin 64) (s : State) : Host.Outcome State Fault Refusal :=
  onBeat (·.wvlStep k 0x14 (arith k (fun w ins i _ => reduce32 (iSub ins) (tabulate 32 (fun j => opnd w ins 0 i j))))) s
/-- CRED (R136, R137). -/
def execWvlCred (k : Fin 64) (s : State) : Host.Outcome State Fault Refusal :=
  onBeat (·.wvlStep k 0x15 (arith k (fun w ins _ j => reduce32 (iSub ins) (tabulate 32 (fun i => opnd w ins 0 i j))))) s

/-- A value rounded to an integral one: SUB 0 nearest even, 1 toward 0, 2 floor, 3 ceiling. A zero keeps its sign. -/
def roundInt (sub : Nat) (v : FVal) : FVal :=
  match v with
  | .fin m e =>
    let fl := floorAt m e 0
    let up := -(floorAt (-m) e 0)
    let z := if sub = 0 then rneInt m e else if sub = 1 then (if m < 0 then up else fl) else if sub = 2 then fl else up
    if z = 0 then .zero (decide (m < 0)) else .fin z 0
  | x => x

/-- RINT (R136). -/
def execWvlRint (k : Fin 64) (s : State) : Host.Outcome State Fault Refusal :=
  onBeat (·.wvlStep k 0x16 (arith k (fun w ins i j => judged (exact (roundInt (iSub ins) (opnd w ins 0 i j)))))) s

/-! ### Images (R138) -/

/-- Bytes of a tile register. -/
def Wvl.regBytes (w : Wvl) (r : Nat) : List Byte := (tabulate 1024 (fun e => leBytes 4 (w.word r (e / 32) (e % 32)))).flatMap id

/-- Words of 4,096 bytes. -/
def wordsOf (bs : List Byte) : List Word := tabulate 1024 (fun e => BitVec.ofNat 32 (fieldAt bs (4 * e) 4))

/-- CVTW (R136, R138). -/
def execWvlCvtw (k : Fin 64) (s : State) : Host.Outcome State Fault Refusal :=
  onBeat (·.wvlStep k 0x18 (fun d i =>
    let bs := (d.wvl k).regBytes (iA i)
    arith k (fun _ ins i j => judged ((imageVal (iImm8 ins) bs i j).round grid32)) d i)) s

/-- The packed image of 32 rows of values: bytes, CVT and the flags of the converted values. -/
def packImage (f : Nat) (sat : Bool) (rows : List (List FVal)) : List Byte × Bool × Nat :=
  let r := rows.map (convRow f sat)
  let bs := r.flatMap (fun x => packElems f x.1) ++ (if fmtIsMx f then r.map (fun x => BitVec.ofNat 8 x.2.1) else [])
  let fl := orAll (tabulate 1024 (fun e => infNan (imageVal f bs (e / 32) (e % 32))))
  (bs, r.any (fun x => x.2.2), fl)

/-- CVTN (R136, R138): bytes beyond the image are 0. -/
def execWvlCvtn (k : Fin 64) (s : State) : Host.Outcome State Fault Refusal :=
  onBeat (·.wvlStep k 0x19 (fun d i =>
    let w := d.wvl k
    let p := packImage (iImm8 i) (bit (iSub i) 0) (tabulate 32 (fun r => tabulate 32 (fun j => opnd w i 0 r j)))
    ((d.setWvl k (writeTreg w i (iD i) (wordsOf (padTo 4096 0#8 p.1)))).weevilFlags k
      (p.2.2 ||| (if p.2.1 then fCVT else 0))).wvlNext k i)) s

/-! ### Memory (R139) -/

/-- Base address of a memory instruction, modulo 2^64. -/
def memBase (w : Wvl) (k i : Nat) : Nat :=
  let b : Int := (w.addr k (iAreg i) : Int) + iOffset i
  let t : Nat := if iTagrel i then 32 * tagTi w.tag * w.addr k (iPreg i) + fmtBytes (iFmt i) 32 * tagTj w.tag else 0
  ofSigned 64 (b + t)

/-- Address of row `r`. -/
def memRow (w : Wvl) (k i r : Nat) : Nat := (memBase w k i + r * w.addr k (iPreg i)) % 2 ^ 64

/-- Address of the scale bytes. -/
def memScale (w : Wvl) (k i : Nat) : Nat := w.addr k (iAreg i + 1)

/-- Bytes of a row that an instruction reads or writes. -/
def memRowBytes (w : Wvl) (i : Nat) : Nat :=
  if iTagrel i && iOp i != 0x20 then fmtBytes (iFmt i) (tagVc w.tag) else fmtBytes (iFmt i) 32

/-- The ranges that an instruction reads or writes: address and length. -/
def memRanges (w : Wvl) (k i : Nat) : List (Nat × Nat) :=
  (List.range (memRows w i)).map (fun r => (memRow w k i r, memRowBytes w i)) ++
  (if fmtIsMx (iFmt i) then [(memScale w k i, 32)] else [])

/-- The array cell and offset of a SPACE 2 address of cluster `k`; `none` where another bit is set. -/
def cellAddr (k a : Nat) : Option (Nat × Nat) :=
  if field a 31 18 = 0 ∧ a < 2 ^ 38 then
    some (64 * (8 * (k / 8) + field a 37 32 / 8) + 8 * (k % 8) + field a 37 32 % 8, field a 17 0)
  else none

/-- An access lies in its space (R139): for writes to device memory, in the write windows (R64). -/
def Dev.memOk (d : Dev) (k space : Nat) (wr : Bool) (a n : Nat) : Bool :=
  if space = 0 then d.inRegion d.tenancy a n && (!wr || d.windowed a n)
  else if space = 1 then
    if wr then d.talusWritable k a n
    else match talusAddr a with
      | none => false
      | some p => decide (((d.tls k).ent p.1).state ≠ .free ∧ p.2 + n ≤ ((d.tls k).ent p.1).size)
  else match cellAddr k a with
    | none => false
    | some p => decide (p.2 + n ≤ storeSize)

/-- A format that a memory instruction can have: LD and ST move an image, STN converts from FP32 to any format (R136). -/
def memFmt (i : Nat) : Bool := if iOp i = 0x22 then fmtValid (iFmt i) else imageFmt (iFmt i)

/-- What R139 refuses: code and address. -/
def Dev.memBad (d : Dev) (k i : Nat) : Option (Nat × Nat) :=
  let w := d.wvl k
  let wr := iOp i != 0x20
  if iSpace i = 3 || !memFmt i || (fmtIsMx (iFmt i) && (iTagrel i || decide (5 < iAreg i))) then some (0x10, 0)
  else if memBase w k i % 8 ≠ 0 ∨ w.addr k (iPreg i) % 8 ≠ 0 then some (0x11, memBase w k i)
  else ((memRanges w k i).find? (fun r => !d.memOk k (iSpace i) wr r.1 r.2)).map (fun r => (0x12, r.1))

/-- A memory instruction that R139 refuses fails the beat; one that reaches outside the Talus sets ACCESSFAULT. ERRSUM.ILLEGAL
is for R143 and R145 alone (R146). -/
def Dev.memFail (d : Dev) (k i : Nat) (c : Nat × Nat) : Dev :=
  let d1 := if c.1 = 0x12 ∧ iSpace i = 1 then d.err (TLS.page k) 10 else d
  d1.wvlFail k none c.1 c.2

def Dev.memGet (d : Dev) (k space a n : Nat) : List Byte × Dev :=
  if space = 0 then d.engRead a n
  else if space = 1 then let r := d.talusRead k a n; (r.1.getD [], r.2)
  else match cellAddr k a with
    | some p => d.csRead p.1 p.2 n
    | none => ([], d)

def Dev.memPut (d : Dev) (k space a : Nat) (bs : List Byte) : Dev :=
  if space = 0 then d.engWrite a bs (blockName .wvl k)
  else if space = 1 then d.talusWrite k a bs
  else match cellAddr k a with
    | some p => d.csWrite p.1 p.2 bs
    | none => d

def Dev.wvlLd (k : Nat) (d : Dev) (i : Nat) : Dev :=
  match d.memBad k i with
  | some c => d.memFail k i c
  | none =>
    let w := d.wvl k
    let r := (memRanges w k i).foldl (fun (acc : List Byte × Dev) (p : Nat × Nat) =>
      let g := acc.2.memGet k (iSpace i) p.1 p.2
      (acc.1 ++ g.1, g.2)) ([], d)
    let n := imageBytes (iFmt i)
    let free := tabulate (4096 - n) (fun j => Config.freeByte r.2.freeCtr j)
    let d1 := { r.2 with freeCtr := r.2.freeCtr + 1 }
    (d1.setWvl k { d1.wvl k with
      treg := (d1.wvl k).treg.setRange zeroWord (1024 * iD i) (wordsOf (r.1.take n ++ free))
      tregUE := (d1.wvl k).tregUE.filter (fun a => a / 1024 != iD i) }).wvlNext k i

/-- LD (R136, R138, R139): what the register holds beyond the image is not stated. -/
def execWvlLd (k : Fin 64) (s : State) : Host.Outcome State Fault Refusal := onBeat (·.wvlStep k 0x20 (Dev.wvlLd k)) s

/-- Rows of an image written to memory, and its scale bytes; a row's last byte that holds elements beyond VC has them as
0 (R127, R139). -/
def Dev.putImage (d : Dev) (k i : Nat) (rows : List (List Nat)) (scales : List Byte) : Dev :=
  let w := d.wvl k
  let vc := if iTagrel i then tagVc w.tag else 32
  let d1 := (List.range (memRows w i)).foldl (fun d r =>
    d.memPut k (iSpace i) (memRow w k i r) (packElems (iFmt i) ((rows.getD r []).take vc))) d
  if fmtIsMx (iFmt i) then d1.memPut k (iSpace i) (memScale w k i) scales else d1

def Dev.wvlSt (k : Nat) (d : Dev) (i : Nat) : Dev :=
  match d.memBad k i with
  | some c => d.memFail k i c
  | none =>
    let f := iFmt i
    let bs := (d.wvl k).regBytes (iD i)
    let rb := fmtBytes f 32
    let rows := tabulate 32 (fun r => tabulate 32 (fun j => unpackElem f ((bs.drop (rb * r)).take rb) j))
    (d.putImage k i rows ((bs.drop (imageElems f)).take 32)).wvlNext k i

/-- ST (R136, R139). -/
def execWvlSt (k : Fin 64) (s : State) : Host.Outcome State Fault Refusal := onBeat (·.wvlStep k 0x21 (Dev.wvlSt k)) s

def Dev.wvlStn (k : Nat) (d : Dev) (i : Nat) : Dev :=
  match d.memBad k i with
  | some c => d.memFail k i c
  | none =>
    let w := d.wvl k
    let r := tabulate 32 (fun a => convRow (iFmt i) (iSat i) (tabulate 32 (fun j => val32 (w.word (iD i) a j))))
    let vr := memRows w i
    let vc := if iTagrel i then tagVc w.tag else 32
    let cvt := (List.range vr).any (fun a =>
      if fmtIsMx (iFmt i) then (r.getD a ([], 0, false)).2.2
      else (List.range vc).any (fun j => (convertTo (iFmt i) (val32 (w.word (iD i) a j)) (iSat i)).2))
    let fl := orAll ((List.range vr).map (fun a => orAll ((List.range vc).map (fun j =>
      let x := r.getD a ([], 0, false)
      let v := decodeElem (iFmt i) (x.1.getD j 0)
      infNan (if fmtIsMx (iFmt i) then scaled v x.2.1 else v)))))
    ((d.putImage k i (r.map (fun x => x.1)) (r.map (fun x => BitVec.ofNat 8 x.2.1))).weevilFlags k
      (fl ||| (if cvt then fCVT else 0))).wvlNext k i

/-- STN (R136, R137, R139): the elements that it writes are its results. -/
def execWvlStn (k : Fin 64) (s : State) : Host.Outcome State Fault Refusal := onBeat (·.wvlStep k 0x22 (Dev.wvlStn k)) s

/-! ### Control (R136, R140) -/

def Dev.wvlTwait (k : Nat) (d : Dev) (i : Nat) : Dev :=
  let w := d.wvl k
  match w.ringFill with
  | [] => if w.run = .blocked then d else d.setWvl k { w with run := .blocked }
  | j :: rest =>
    let slot := w.ring.getD j slotFree
    let d1 := if w.run = .blocked then d.countFree64 (WVL.WAITCYC k) else d
    (d1.setWvl k { w with
      tag := slot.tag
      ring := setAt w.ring j { slot with state := .held }
      ringFill := rest
      ringHeld := w.ringHeld ++ [j] }).wvlNext k i

/-- TWAIT (R140): it blocks while the next slot is not FILLED. -/
def execWvlTwait (k : Fin 64) (s : State) : Host.Outcome State Fault Refusal :=
  onBeat (·.wvlStep k 0x28 (Dev.wvlTwait k)) s

/-- TREL (R140): the oldest HELD slot becomes FREE; with none HELD nothing changes. -/
def execWvlTrel (k : Fin 64) (s : State) : Host.Outcome State Fault Refusal :=
  onBeat (·.wvlStep k 0x29 (fun d i =>
    let w := d.wvl k
    (match w.ringHeld with
      | [] => d
      | j :: rest => d.setWvl k { w with ring := setAt w.ring j slotFree, ringHeld := rest }).wvlNext k i)) s

/-- SETA (R136). -/
def execWvlSeta (k : Fin 64) (s : State) : Host.Outcome State Fault Refusal :=
  onBeat (·.wvlStep k 0x30 (fun d i =>
    (d.setWvl k ((d.wvl k).setAddr (iD i % 8) (ofSigned 64 (iOffset i)))).wvlNext k i)) s

/-- ADDA (R136). -/
def execWvlAdda (k : Fin 64) (s : State) : Host.Outcome State Fault Refusal :=
  onBeat (·.wvlStep k 0x31 (fun d i =>
    let w := d.wvl k
    (d.setWvl k (w.setAddr (iD i % 8) (ofSigned 64 ((w.addr k (iD i % 8) : Int) + iOffset i)))).wvlNext k i)) s

/-- LOOP (R136, R143): a fifth nested one fails the beat. -/
def execWvlLoop (k : Fin 64) (s : State) : Host.Outcome State Fault Refusal :=
  onBeat (·.wvlStep k 0x38 (fun d i =>
    let w := d.wvl k
    if 4 ≤ w.loops.length then d.wvlFail k (some 8) 0x10 0
    else (d.setWvl k { w with loops := ⟨(w.pc + 1) % 2048, iImm16 i⟩ :: w.loops }).wvlNext k i)) s

def Dev.wvlEndl (k : Nat) (d : Dev) (i : Nat) : Dev :=
  let w := d.wvl k
  match w.loops with
  | [] => d.wvlFail k (some 8) 0x10 0
  | l :: rest =>
    if l.left = 0 then (d.setWvl k { w with loops := rest }).wvlNext k i
    else
      let d1 := d.wvlNext k i
      d1.setWvl k { d1.wvl k with loops := { l with left := l.left - 1 } :: rest, pc := l.start }

/-- ENDL (R136, R143): with no open loop it fails the beat. -/
def execWvlEndl (k : Fin 64) (s : State) : Host.Outcome State Fault Refusal :=
  onBeat (·.wvlStep k 0x39 (Dev.wvlEndl k)) s

/-- Cluster `k` has ended the descriptor that runs in it. -/
def clearMaskBit (k : Nat) : List (QDesc × Nat) → List (QDesc × Nat)
  | [] => []
  | e :: l => if bit e.2 k then (e.1, e.2 - 2 ^ k) :: l else e :: clearMaskBit k l

/-- END (R136, R143): with a loop open it fails the beat. -/
def execWvlEnd (k : Fin 64) (s : State) : Host.Outcome State Fault Refusal :=
  onBeat (·.wvlStep k 0x3F (fun d i =>
    if (d.wvl k).loops != [] then d.wvlFail k (some 8) 0x10 0
    else
      let d1 := d.wvlNext k i
      let d2 := d1.setWvl k { d1.wvl k with run := .idle }
      { d2 with weevil := { d2.weevil with run := clearMaskBit k d2.weevil.run } })) s

/-! ### The windows (R147) -/

/-- PWLDATA and TRDATA are accessed only while CTRL.ENABLE = 0. -/
def Dev.wvlWinOk (d : Dev) (k : Nat) : Bool := !d.enableInEffect (WVL.page k)

def Dev.pwldata (d : Dev) (r : Requester) (k : Nat) (a : WinAccess) : Dev :=
  let idx := d.fld (WVL.PWLINDEX k) 7 0
  let next := fun (d : Dev) => d.setFld (WVL.PWLINDEX k) 7 0 (idx + 1)
  let cur := ((d.wvl k).pwl.get zeroDWord idx).toNat
  match a with
  | .read a => if isVf r then d.noWindow a else d.winRead r (WVL.PWLDATA k) a (d.wvlWinOk k) cur next
  | .write a =>
    if isVf r then d
    else d.winWrite r (WVL.PWLDATA k) a (d.wvlWinOk k) cur
      (fun v d => d.setWvl k { d.wvl k with pwl := (d.wvl k).pwl.set zeroDWord idx (BitVec.ofNat 64 v) }) next

/-- PWLDATA_ACCESS (R147). -/
def execPwldataAccess (r : Requester) (k : Fin 64) (a : WinAccess) (s : State) : Host.Outcome State Fault Refusal :=
  onDev (·.pwldata r k a) s

/-- The 8-byte word that TRADDR names: 512 x TREG + WORD. -/
def Dev.trWord (d : Dev) (k : Nat) : Nat := d.fld (WVL.TRADDR k) 16 3

def Dev.trdata (d : Dev) (r : Requester) (k : Nat) (a : WinAccess) : Dev :=
  let n := d.trWord k
  let next := fun (d : Dev) => d.setFld (WVL.TRADDR k) 16 3 (n + 1)
  let w := d.wvl k
  let cur := (w.treg.get zeroWord (2 * n)).toNat + 2 ^ 32 * (w.treg.get zeroWord (2 * n + 1)).toNat
  match a with
  | .read a =>
    if isVf r then d.noWindow a
    else
      let bad := d.wvlWinOk k && d.goesThrough r (WVL.TRDATA k) a && w.tregUE.contains (2 * n)
      let d1 := if bad then d.err (WVL.page k) 10 else d
      d1.winRead r (WVL.TRDATA k) a (d.wvlWinOk k) (if bad then 0 else cur) next
  | .write a =>
    if isVf r then d
    else d.winWrite r (WVL.TRDATA k) a (d.wvlWinOk k) cur
      (fun v d => d.setWvl k { d.wvl k with
        treg := (d.wvl k).treg.setRange zeroWord (2 * n) [loWord v, hiWord v]
        tregUE := (d.wvl k).tregUE.filter (fun a => a != 2 * n) }) next

/-- TRDATA_ACCESS (R147). -/
def execTrdataAccess (r : Requester) (k : Fin 64) (a : WinAccess) (s : State) : Host.Outcome State Fault Refusal :=
  onDev (·.trdata r k a) s

end Sys2Proof.Machine
end

