-- ==== Sys2Proof/Machine/Scarab.lean ====
section
/-!
DEFINITION. The Scarab (07 R155-R160, R168): the checks, the row arithmetic, band partials, statistics, and the window.
`k` is the cluster; each cluster has its own queue, and a descriptor of several clusters completes when all have finished.
-/
namespace Sys2Proof.Machine

/-! ### Fields (R159) -/

def sAffine (b : List Byte) : Bool := bit (byteAt b 2) 0
def sStaten (b : List Byte) : Bool := bit (byteAt b 2) 1
def sMask (b : List Byte) : Nat := field (byteAt b 2) 3 2
def sTalus (b : List Byte) : Bool := bit (byteAt b 2) 4
def sXfmt (b : List Byte) : Nat := byteAt b 3
def sDyfmt (b : List Byte) : Nat := byteAt b 4
def sDest (b : List Byte) : Nat := byteAt b 5
def sRbase (b : List Byte) : Nat := byteAt b 6
def sRlen (b : List Byte) : Nat := byteAt b 7
def sRows (b : List Byte) : Nat := fieldAt b 0x10 4
def sD (b : List Byte) : Nat := fieldAt b 0x14 4
def sXaddr (b : List Byte) : Nat := fieldAt b 0x28 8
def sXpitch (b : List Byte) : Nat := fieldAt b 0x30 4
def sStatbase (b : List Byte) : Nat := fieldAt b 0x34 4
def sDyaddr (b : List Byte) : Nat := fieldAt b 0x38 8
def sDypitch (b : List Byte) : Nat := fieldAt b 0x40 4
def sEps (b : List Byte) : FVal := val32 (fieldAt b 0x44 4)
def sGaddr (b : List Byte) : Nat := fieldAt b 0x48 8
def sBaddr (b : List Byte) : Nat := fieldAt b 0x50 8
def sOaddr (b : List Byte) : Nat := fieldAt b 0x58 8
def sOpitch (b : List Byte) : Nat := fieldAt b 0x60 4
def sScale (b : List Byte) : FVal := val32 (fieldAt b 0x64 4)
def sPaddr (b : List Byte) : Nat := fieldAt b 0x68 8
def sOffset (b : List Byte) : Int := toSigned 32 (fieldAt b 0x70 4)
def sCount (b : List Byte) : Nat := fieldAt b 0x74 4

/-- Row operations, forward and backward. -/
def sForward (b : List Byte) : Bool := decide (1 ≤ opcodeOf b ∧ opcodeOf b ≤ 3)
def sBackward (b : List Byte) : Bool := decide (0x11 ≤ opcodeOf b ∧ opcodeOf b ≤ 0x13)
def sRowOp (b : List Byte) : Bool := sForward b || sBackward b
/-- Layer norm or RMS norm. -/
def sNorm (b : List Byte) : Bool := [0x01, 0x02, 0x11, 0x12].contains (opcodeOf b)
def sRms (b : List Byte) : Bool := opcodeOf b == 0x02 || opcodeOf b == 0x12

/-- Clusters of a descriptor, ascending; cluster 0 holds one that selects none. -/
def sClusters (b : List Byte) : List Nat := if dClmask b = 0 then [0] else clustersIn (dClmask b)
/-- NC, and the position of cluster `k` among the selected ones. -/
def sNc (b : List Byte) : Nat := (sClusters b).length
def sPos (b : List Byte) (k : Nat) : Nat := ((sClusters b).filter (fun c => decide (c < k))).length

/-- Bands of a descriptor, and those of cluster `k` (R155). -/
def sBands (b : List Byte) : Nat := ceilDiv (sRows b) 32
def bandsFor (b : List Byte) (k : Nat) : List Nat := (List.range (sBands b)).filter (fun x => x % sNc b == sPos b k)
/-- Rows of a band. -/
def bandRows (b : List Byte) (x : Nat) : List Nat := (List.range (min 32 (sRows b - 32 * x))).map (fun i => 32 * x + i)
/-- The local index of row `r` (R155). -/
def localIdx (b : List Byte) (r : Nat) : Nat := 32 * (r / 32 / sNc b) + r % 32

/-! ### Checks (R155, R159) -/

def scbFmt (f : Nat) : Bool := f == 0x20 || f == 0x10 || f == 0x11

/-- A field out of range. The ranges of R159's table hold for a field whichever operation it belongs to, but where the
table itself names the operations. -/
def scbBad1 (b : List Byte) : Bool :=
  field (byteAt b 2) 7 5 != 0 || decide (1 < sMask b) || !scbFmt (sXfmt b) ||
  (if sForward b then sDyfmt b != 0 else !scbFmt (sDyfmt b)) || !(sDest b == 0 || sDest b == 2) ||
  (if sDest b = 2 then decide (sRlen b = 0 ∨ 16 < sRlen b ∨ 32 < sRbase b + sRlen b) else sRlen b != 0 || sRbase b != 0) ||
  dClmask b == 0 || decide (sRows b = 0 ∨ 2097152 < sRows b ∨ sD b = 0 ∨ 32768 < sD b) ||
  !syncReservedOk b ||
  decide (32768 ≤ sStatbase b) || (sEps b).isNan || (sEps b).isInf || (sEps b).neg? || fieldAt b 0x78 8 != 0

/-- Statistics entries that a descriptor reaches: one past the highest. -/
def statTop (b : List Byte) : Nat :=
  if sRowOp b then
    (((sClusters b).map (fun k =>
      ((bandsFor b k).flatMap (bandRows b)).foldl (fun m r => max m (sStatbase b + localIdx b r + 1)) 0)).foldl max 0)
  else if opcodeOf b = 0x20 then 0 else sStatbase b + sCount b

/-- Element size of XFMT. -/
def sE (b : List Byte) : Nat := fmtBits (sXfmt b) / 8

/-- Device ranges of a descriptor: base and bytes. -/
def scbRanges (b : List Byte) : List (Nat × Nat) :=
  let rows := fun (a pitch n : Nat) => (a, (sRows b - 1) * pitch + n)
  if sRowOp b then
    (if sTalus b then [] else [rows (sXaddr b) (sXpitch b) (sE b * sD b)]) ++
    (if sBackward b then [rows (sDyaddr b) (sDypitch b) (fmtBits (sDyfmt b) / 8 * sD b)] else []) ++
    (if sAffine b && sNorm b then [(sGaddr b, sE b * sD b)] else []) ++
    (if sAffine b && (opcodeOf b == 1 || opcodeOf b == 2) then [(sBaddr b, sE b * sD b)] else []) ++
    (if sDest b = 0 then [rows (sOaddr b) (sOpitch b) (4 * sD b)] else []) ++
    (if sAffine b && (opcodeOf b == 0x11 || opcodeOf b == 0x12) then [(sPaddr b, 8 * sD b * sBands b)] else [])
  else if opcodeOf b = 0x20 then
    (if sCount b = 0 then [] else [(sXaddr b, (sCount b - 1) * sXpitch b + 4 * sD b)]) ++ [(sOaddr b, 4 * sD b)]
  else (sClusters b).map (fun k => (sXaddr b + k * sXpitch b, 8 * sCount b))

def Dev.scbCheck (d : Dev) (b : List Byte) : Option Nat :=
  firstFail [
    (scbBad1 b, 0x10),
    ([sXaddr b, sXpitch b, sDyaddr b, sDypitch b, sGaddr b, sBaddr b, sOaddr b, sOpitch b, sPaddr b].any (fun a => a % 64 != 0), 0x11),
    (decide (32768 < statTop b) || (scbRanges b).any (fun r => !d.inRegion d.tenancy r.1 r.2), 0x12)]

/-! ### Row arithmetic (R156, R157) -/

/-- Values of FP32, BF16 or FP16 elements, widened exactly. -/
def widen (f n : Nat) (bs : List Byte) : List JVal :=
  let e := fmtBits f / 8
  tabulate n (fun j => jOf (decodeElem f (fieldAt bs (e * j) e)))

/-- Flags of a list of values. -/
def jFlags (l : List JVal) : Nat := orAll (l.map (fun v => v.2))

def jAt (l : List JVal) (j : Nat) : JVal := l.getD j (.nan, 0)
def jOne : JVal := jOf (.fin 1 0)
def jZero : JVal := jOf (.zero false)

/-- lnfwd and rmsfwd: outputs, statistics. -/
def lnfwd (rms : Bool) (eps : FVal) (x g : List JVal) (be : Option (List JVal)) : List JVal × JVal × JVal :=
  let n := x.length
  let mean := if rms then jZero else jDiv (rowsum x) n
  let d := if rms then x else x.map (fun v => jSub v mean)
  let var := jDiv (rowdot d d) n
  let rstd := jCr crRsqrt (jAdd var (jOf eps))
  (tabulate n (fun j =>
    let t := jMul (jAt d j) rstd
    match be with
    | some b => jFma t (jAt g j) (jAt b j)
    | none => jFma t (jAt g j) jZero), mean, rstd)

/-- Whether column j of row r is kept by the mask. -/
def keepCol (b : List Byte) (r j : Nat) : Bool := sMask b != 1 || decide ((j : Int) ≤ (r : Int) + sOffset b)

/-- smfwd: outputs, (m, lse). z is formed for every column, masked or not, and its flags count (R156, R157); the constants
of a fully masked row set none. -/
def smfwd (b : List Byte) (r : Nat) (x : List JVal) : List JVal × JVal × JVal :=
  let n := x.length
  let z := x.map (fun v => jMul v (jOf (sScale b)))
  let live := fun (j : Nat) => keepCol b r j
  match (List.range n).filter live with
  | [] => (List.replicate n jZero, (.inf true, jFlags z), jOf (.inf true))
  | j0 :: rest =>
    let m : JVal := (rest.foldl (fun m j => fMax m (jAt z j).1) (jAt z j0).1, jFlags z)
    let s := rowsum (tabulate n (fun j => if live j then jCr crExp (jSub (jAt z j) m) else jZero))
    let lse := jAdd m (jCr crLog s)
    (tabulate n (fun j => if live j then jCr crExp (jSub (jAt z j) lse) else jZero), m, lse)

/-- lnbwd and rmsbwd: dx, and n for the band partials. -/
def lnbwd (rms : Bool) (x dy g : List JVal) (mean rstd : FVal) : List JVal × List JVal :=
  let k := x.length
  let n := x.map (fun v => jMul (if rms then v else jSub v (jOf mean)) (jOf rstd))
  let gd := tabulate k (fun j => jMul (jAt dy j) (jAt g j))
  let a := if rms then jZero else jDiv (rowsum gd) k
  let c := jDiv (rowdot gd n) k
  (tabulate k (fun j =>
    let u := jSub (jAt gd j) a
    let w := jFma ((jAt n j).1.negate, (jAt n j).2) c u
    jMul (jOf rstd) w), n)

/-- smbwd: dx, and the flags of z in every column. -/
def smbwd (b : List Byte) (r : Nat) (x dy : List JVal) (lse : FVal) : List JVal × Nat :=
  let k := x.length
  let z := x.map (fun v => jMul v (jOf (sScale b)))
  let live := fun (j : Nat) => keepCol b r j
  if (List.range k).all (fun j => !live j) then (List.replicate k jZero, jFlags z)
  else
    let p := tabulate k (fun j => if live j then jCr crExp (jSub (jAt z j) (jOf lse)) else jZero)
    let c := rowdot dy p
    (tabulate k (fun j =>
      if live j then jMul (jOf (sScale b)) (jMul (jAt p j) (jSub (jAt dy j) c)) else jZero), jFlags z)

/-! ### What a cluster reads -/

/-- The input row `r`: from device memory, or the cluster's Talus (`none` where that fails). -/
def Dev.scbRow (d : Dev) (b : List Byte) (k r : Nat) : Option (List JVal) × Dev :=
  let n := sE b * sD b
  if sTalus b then
    let t := d.talusRead k (sXaddr b + localIdx b r * sXpitch b) n
    (t.1.map (widen (sXfmt b) (sD b)), t.2)
  else
    let t := d.engRead (sXaddr b + r * sXpitch b) n
    (some (widen (sXfmt b) (sD b) t.1), t.2)

/-- The gradient row. -/
def Dev.scbDy (d : Dev) (b : List Byte) (r : Nat) : List JVal × Dev :=
  let t := d.engRead (sDyaddr b + r * sDypitch b) (fmtBits (sDyfmt b) / 8 * sD b)
  (widen (sDyfmt b) (sD b) t.1, t.2)

/-- A gamma or beta vector: `dflt` where AFFINE = 0. -/
def Dev.scbVec (d : Dev) (b : List Byte) (a : Nat) (dflt : JVal) : List JVal × Dev :=
  if sAffine b then let t := d.engRead a (sE b * sD b); (widen (sXfmt b) (sD b) t.1, t.2)
  else (List.replicate (sD b) dflt, d)

/-- A statistics entry; an uncorrectable error fails the beat (R159). -/
def Dev.statGet (d : Dev) (k e : Nat) : Nat × Dev :=
  let s := d.scb k
  let v := (s.stat.get zeroDWord e).toNat
  (v, if s.statUE.contains e then (d.errData (SCB.page k) 8).beatFail 0x30 (blockName .scb k) 0 else d)

def Dev.statPut (d : Dev) (k e : Nat) (v : DWord) : Dev :=
  let s := d.scb k
  d.setScb k { s with stat := s.stat.set zeroDWord e v, statUE := s.statUE.filter (fun x => x != e) }

/-- Two FP32 values as an entry. -/
def statWord (a c : FVal) : DWord := BitVec.ofNat 64 (enc32 a + 2 ^ 32 * enc32 c)

/-! ### One row -/

/-- A row's outputs, and for a backward norm the n of its partials and its dy. -/
structure RowOut where
  y : List JVal
  n : List JVal
  dy : List JVal
  deriving DecidableEq, Repr

/-- Flags that a row set besides those of its outputs, kept with its first output. -/
def orFirst (f : Nat) : List JVal → List JVal
  | [] => []
  | a :: l => (a.1, a.2 ||| f) :: l

/-- One row computed; statistics are written where `stats` says so. -/
def Dev.scbCompute (d : Dev) (b : List Byte) (k r : Nat) (g be : List JVal) (stats : Bool) : Option RowOut × Dev :=
  let x := d.scbRow b k r
  match x.1 with
  | none => (none, x.2)
  | some xs =>
    let e := sStatbase b + localIdx b r
    if sForward b then
      let v := if opcodeOf b = 3 then smfwd b r xs
        else lnfwd (sRms b) (sEps b) xs g (if sAffine b then some be else none)
      let fl := (v.2.1.2 ||| v.2.2.2)
      (some ⟨orFirst fl v.1, [], []⟩, if stats && sStaten b then x.2.statPut k e (statWord v.2.1.1 v.2.2.1) else x.2)
    else
      let dy := x.2.scbDy b r
      let st := dy.2.statGet k e
      let lo := val32 (st.1 % 2 ^ 32)
      let hi := val32 (st.1 / 2 ^ 32)
      if opcodeOf b = 0x13 then let v := smbwd b r xs dy.1 hi; (some ⟨orFirst v.2 v.1, [], dy.1⟩, st.2)
      else let v := lnbwd (sRms b) xs dy.1 g lo hi; (some ⟨v.1, v.2, dy.1⟩, st.2)

/-- Flags enter SFLAGS; an OVF makes the beat report OK_OVERFLOW (R156). -/
def Dev.scbFlags (d : Dev) (k f : Nat) : Dev :=
  let d1 := d.orFlags (SCB.page k) (SCB.SFLAGS k) f
  if bit f 0 then
    let d2 := d1.success 3
    d2.setScb k { d2.scb k with ovf := true }
  else d1

/-- FP32 bytes of values. -/
def jBytes (l : List JVal) : List Byte := l.flatMap (fun v => leBytes 4 (enc32 v.1))

/-- The band partials of R158 over a band's rows in ascending r. -/
def partials (n : Nat) (rows : List RowOut) : List JVal × List JVal :=
  rows.foldl (fun (p : List JVal × List JVal) r =>
    (tabulate n (fun j => jFma (jAt r.dy j) (jAt r.n j) (jAt p.1 j)), tabulate n (fun j => jAdd (jAt p.2 j) (jAt r.dy j))))
    (List.replicate n jZero, List.replicate n jZero)

/-- One band of cluster `k`: its rows, its partials (R158). -/
def Dev.scbBand (d : Dev) (b : List Byte) (k x : Nat) (g be : List JVal) (stats : Bool) : List RowOut × Dev :=
  (bandRows b x).foldl (fun (acc : List RowOut × Dev) r =>
    let o := acc.2.scbCompute b k r g be stats
    match o.1 with
    | some v => (acc.1 ++ [v], o.2)
    | none => (acc.1, o.2)) ([], d)

/-- A band's results go to device memory: rows where DEST = 0, partials where AFFINE = 1 (R158, R159). -/
def Dev.scbStore (d : Dev) (b : List Byte) (k x : Nat) (rows : List RowOut) : Dev :=
  let blk := blockName .scb k
  let d1 := if sDest b = 0 then
      (List.range rows.length).foldl (fun d i =>
        match rows[i]? with
        | some r => d.engWrite (sOaddr b + (32 * x + i) * sOpitch b) (jBytes r.y) blk
        | none => d) d
    else d
  let d2 := d1.scbFlags k (orAll (rows.map (fun r => jFlags r.y ||| jFlags r.n)))
  let d3 := d2.countSat (SCB.ROWCOUNT k) rows.length
  if sAffine b && (opcodeOf b == 0x11 || opcodeOf b == 0x12) then
    let p := partials (sD b) rows
    let d4 := (d3.engWrite (sPaddr b + 8 * sD b * x) (jBytes p.1) blk).scbFlags k (jFlags p.1)
    if opcodeOf b = 0x11 then (d4.engWrite (sPaddr b + 8 * sD b * x + 4 * sD b) (jBytes p.2) blk).scbFlags k (jFlags p.2) else d4
  else d3

/-! ### Ring delivery (R140, R159) -/

/-- Tiles of a band, and all tiles of cluster `k` in delivery order: (band, tile column). -/
def scbTiles (b : List Byte) (k : Nat) : List (Nat × Nat) :=
  (bandsFor b k).flatMap (fun x => (List.range (ceilDiv (sD b) 32)).map (fun t => (x, t)))

/-- The ring of cluster `k` as a Scarab delivery has it: its own, or an inactive one. -/
def Dev.scbRing (d : Dev) (b : List Byte) (k : Nat) : Option Wvl :=
  let w := d.wvl k
  if scarabRing ≤ w.ringOp then some w
  else if d.ringActive k then none
  else some (freshRing w (scarabRing + w.ringOp) (sRbase b) (sRlen b))

/-- Tiles are delivered while the next slot is FREE; the operation's sequence number in the tag is not stated. -/
def Dev.scbDeliver (d : Dev) (b : List Byte) (k : Nat) (g be : List JVal) : Nat → Dev
  | 0 => d
  | fuel + 1 =>
    let w := d.wvl k
    match (scbTiles b k)[w.ringNext]? with
    | none => d
    | some t =>
      if !slotReady w then d
      else
        let rows := (d.scbBand b k t.1 g be false).1
        let vals := tabulate 1024 (fun e => BitVec.ofNat 32 (enc32
          ((((rows.map (fun r => r.y)).getD (e / 32) []).getD (32 * t.2 + e % 32) (.zero false, 0)).1)))
        let fl := orAll (rows.map (fun r => jFlags ((r.y.drop (32 * t.2)).take 32)))
        let tag := ringTag t.1 t.2 (min 32 (sRows b - 32 * t.1)) (min 32 (sD b - 32 * t.2)) (fl % 8)
          (Config.freeNat d.freeCtr) 0
        (({ d with freeCtr := d.freeCtr + 1 }).setWvl k (deliverTile w tag vals)).scbDeliver b k g be fuel

/-- Every tile of the operation has been delivered to cluster `k`. -/
def Dev.scbDelivered (d : Dev) (b : List Byte) (k : Nat) : Bool := decide ((scbTiles b k).length ≤ (d.wvl k).ringNext)

/-- The ring is no longer the Scarab's to fill. -/
def Dev.scbRingEnd (d : Dev) (k : Nat) : Dev :=
  let w := d.wvl k
  d.setWvl k { w with ringOp := w.ringOp - scarabRing, ringNext := scarabRing }

/-! ### The commands -/

/-- The head of Scarab `k`'s queue, if it carries an opcode. -/
def Dev.scbHead (d : Dev) (k op : Nat) : Option QDesc :=
  match (d.scb k).queue with
  | q :: _ => if opcodeOf q.bytes = op then some q else none
  | [] => none

/-- The first cluster that begins a descriptor issues it. -/
def Dev.scbBegin (d : Dev) (q : QDesc) : Dev :=
  if d.scarab.begun.contains q.idx then d
  else let d1 := d.countIssue
       { d1 with scarab := { d1.scarab with begun := q.idx :: d1.scarab.begun } }

/-- The head of Scarab `k` has been done there. -/
def Dev.scbDone (d : Dev) (k : Nat) (q : QDesc) : Dev :=
  let s := d.scb k
  let code := if s.ovf then 3 else 0
  let d1 := ((((d.scbBegin q).setScb k { s with queue := s.queue.drop 1, ovf := false }).setNum (SCB.LASTOP k)
    (opcodeOf q.bytes + 256 * code)).countFree64 (SCB.BUSYCYC k)).lastCode (SCB.page k) code
  { d1 with scarab := { d1.scarab with fin := oneFewer d1.scarab.fin q } }

/-- The head of Scarab `k` fails its checks. -/
def Dev.scbFail (d : Dev) (k : Nat) (q : QDesc) (code : Nat) : Dev :=
  let s := d.scb k
  let d1 := ((d.setScb k { s with queue := s.queue.drop 1, ovf := false }).setNum (SCB.LASTOP k)
    (opcodeOf q.bytes + 256 * code)).lastCode (SCB.page k) code
  ({ d1 with scarab := { d1.scarab with fin := d1.scarab.fin.filter (fun e => e.1.idx != q.idx) } }.err
    (SCB.page k) 10).beatFail code (blockName .scb k) 0

/-- Cluster `k` delivers the tiles of its head to the ring. -/
def Dev.scbFilling (d : Dev) (k : Nat) : Bool := decide (scarabRing ≤ (d.wvl k).ringOp)

/-- What every Scarab command shares: the head, its checks and its wait. A descriptor that some cluster has begun is issued, and
runs on in a beat that has failed (R67). -/
def Dev.scbStep (d : Dev) (k op : Nat) (act : Dev → QDesc → Dev) : Dev :=
  match d.scbHead k op with
  | none => d
  | some q =>
    if !(d.issuing || (d.running && d.scarab.begun.contains q.idx)) then d
    else if d.scbFilling k then act d q
    else match d.headCode q.bytes (d.scbCheck q.bytes) with
    | some c => d.scbFail k q c
    | none => if d.waitOk q.bytes then act d q else d

/-- The bands of cluster `k` computed and stored. -/
def Dev.scbBands (d : Dev) (b : List Byte) (k : Nat) (g be : List JVal) : Dev :=
  (bandsFor b k).foldl (fun (d : Dev) x => let r := d.scbBand b k x g be true; r.2.scbStore b k x r.1) d

/-- The row buffer is used: an uncorrectable error in it fails the beat (R68, R168). -/
def Dev.rowBuffer (d : Dev) (k : Nat) : Dev :=
  let s := d.scb k
  if s.bufUE then ((d.setScb k { s with bufUE := false }).errData (SCB.page k) 9).beatFail 0x30 (blockName .scb k) 0 else d

/-- A row operation in cluster `k`: with DEST = 2 it delivers what the ring takes and ends when all is delivered. -/
def scbRows (k : Nat) (d : Dev) (q : QDesc) : Dev :=
  let b := q.bytes
  let d0 := d.rowBuffer k
  let g := if sNorm b then d0.scbVec b (sGaddr b) jOne else ([], d0)
  let be := if opcodeOf b = 1 ∨ opcodeOf b = 2 then g.2.scbVec b (sBaddr b) jZero else ([], g.2)
  if sDest b = 2 then
    match be.2.scbRing b k with
    | none => d
    | some w =>
      let d1 := ((be.2.scbBegin q).setWvl k w).scbDeliver b k g.1 be.1 (scbTiles b k).length
      if d1.scbDelivered b k then ((d1.scbBands b k g.1 be.1).scbRingEnd k).scbDone k q else d1
  else (be.2.scbBands b k g.1 be.1).scbDone k q

/-- LNFWD in cluster `k` (R157). -/
def execLnfwd (k : Fin 64) (s : State) : Host.Outcome State Fault Refusal := onBeat (·.scbStep k 0x01 (scbRows k)) s
/-- RMSFWD in cluster `k` (R157). -/
def execRmsfwd (k : Fin 64) (s : State) : Host.Outcome State Fault Refusal := onBeat (·.scbStep k 0x02 (scbRows k)) s
/-- SMFWD in cluster `k` (R157). -/
def execSmfwd (k : Fin 64) (s : State) : Host.Outcome State Fault Refusal := onBeat (·.scbStep k 0x03 (scbRows k)) s
/-- LNBWD in cluster `k` (R157, R158). -/
def execLnbwd (k : Fin 64) (s : State) : Host.Outcome State Fault Refusal := onBeat (·.scbStep k 0x11 (scbRows k)) s
/-- RMSBWD in cluster `k` (R157, R158). -/
def execRmsbwd (k : Fin 64) (s : State) : Host.Outcome State Fault Refusal := onBeat (·.scbStep k 0x12 (scbRows k)) s
/-- SMBWD in cluster `k` (R157). -/
def execSmbwd (k : Fin 64) (s : State) : Host.Outcome State Fault Refusal := onBeat (·.scbStep k 0x13 (scbRows k)) s

/-- One column block of BANDSUM (R158). -/
def Dev.bandBlock (d : Dev) (b : List Byte) (k q : Nat) : Dev :=
  let n := min 32 (sD b - 32 * q)
  let r := (List.range (sCount b)).foldl (fun (acc : List JVal × Dev) i =>
    let t := acc.2.engRead (sXaddr b + i * sXpitch b + 128 * q) (4 * n)
    let v := widen 0x20 n t.1
    (tabulate n (fun j => jAdd (jAt acc.1 j) (jAt v j)), t.2)) (List.replicate n jZero, d)
  (r.2.engWrite (sOaddr b + 128 * q) (jBytes r.1) (blockName .scb k)).scbFlags k (jFlags r.1)

def bandsumAct (k : Nat) (d : Dev) (q : QDesc) : Dev :=
  let b := q.bytes
  let mine := (List.range (ceilDiv (sD b) 32)).filter (fun x => x % sNc b == sPos b k)
  (mine.foldl (fun d x => d.bandBlock b k x) (d.rowBuffer k)).scbDone k q

/-- BANDSUM in cluster `k` (R158). -/
def execBandsum (k : Fin 64) (s : State) : Host.Outcome State Fault Refusal := onBeat (·.scbStep k 0x20 (bandsumAct k)) s

def statsaveAct (k : Nat) (d : Dev) (q : QDesc) : Dev :=
  let b := q.bytes
  let r := (List.range (sCount b)).foldl (fun (acc : List Byte × Dev) i =>
    let t := acc.2.statGet k (sStatbase b + i)
    (acc.1 ++ leBytes 8 t.1, t.2)) ([], d)
  (r.2.engWrite (sXaddr b + k * sXpitch b) r.1 (blockName .scb k)).scbDone k q

/-- STATSAVE in cluster `k` (R159). -/
def execStatsave (k : Fin 64) (s : State) : Host.Outcome State Fault Refusal := onBeat (·.scbStep k 0x21 (statsaveAct k)) s

def statloadAct (k : Nat) (d : Dev) (q : QDesc) : Dev :=
  let b := q.bytes
  let r := d.engRead (sXaddr b + k * sXpitch b) (8 * sCount b)
  ((List.range (sCount b)).foldl (fun d i =>
    d.statPut k (sStatbase b + i) (BitVec.ofNat 64 (fieldAt r.1 (8 * i) 8))) r.2).scbDone k q

/-- STATLOAD in cluster `k` (R159). -/
def execStatload (k : Fin 64) (s : State) : Host.Outcome State Fault Refusal := onBeat (·.scbStep k 0x22 (statloadAct k)) s

def Dev.scarabDescComplete (d : Dev) : Dev :=
  if !d.running then d
  else match d.scarab.fin.find? (fun e => e.2 == 0) with
  | none => d
  | some e =>
    ({ d with scarab := { d.scarab with fin := d.scarab.fin.filter (fun x => x.1.idx != e.1.idx) } }).applySignal e.1.bytes

/-- SCARAB_DESC_COMPLETE (R159): done in every selected cluster; the signal is applied. -/
def execScarabDescComplete (s : State) : Host.Outcome State Fault Refusal := onBeat Dev.scarabDescComplete s

/-! ### The statistics window (R168) -/

def Dev.statdata (d : Dev) (r : Requester) (k : Nat) (a : WinAccess) : Dev :=
  let e := d.fld (SCB.STATINDEX k) 14 0
  let next := fun (d : Dev) => d.setFld (SCB.STATINDEX k) 14 0 (e + 1)
  let ok := !d.enableInEffect (SCB.page k)
  let cur := ((d.scb k).stat.get zeroDWord e).toNat
  match a with
  | .read a =>
    if isVf r then d.noWindow a
    else
      let bad := ok && d.goesThrough r (SCB.STATDATA k) a && (d.scb k).statUE.contains e
      let d1 := if bad then d.err (SCB.page k) 8 else d
      d1.winRead r (SCB.STATDATA k) a ok (if bad then 0 else cur) next
  | .write a =>
    if isVf r then d
    else d.winWrite r (SCB.STATDATA k) a ok cur (fun v d => d.statPut k e (BitVec.ofNat 64 v)) next

/-- STATDATA_ACCESS (R168). -/
def execStatdataAccess (r : Requester) (k : Fin 64) (a : WinAccess) (s : State) : Host.Outcome State Fault Refusal :=
  onDev (·.statdata r k a) s

end Sys2Proof.Machine
end

