-- ==== Sys2Proof/Machine/Time.lean ====
section
/-!
DEFINITION. System time as it moves on (03 R54): SYSTIME, the ages of outstanding requests (14 R317) and the cycle counters
of the control processors (02 R47).
-/
namespace Sys2Proof.Machine

/-- The clocks run (R342). -/
def Dev.clocked (d : Dev) : Bool := d.apex.phase == .running

/-- A request waits for flit credits, or for an earlier SYNC (R317, R315). -/
def Dev.unsent (d : Dev) (q : Port) (o : Outst) : Bool := q.sendQ.contains o.txn || d.link.syncWait.any (fun w => w.2 == o.txn)

/-- Requests `n` ticks older, but for those that have not been sent (R317). -/
def Dev.aged (d : Dev) (n : Nat) (q : Port) (l : List Outst) : List Outst :=
  l.map (fun (o : Outst) => if d.unsent q o then o else { o with age := o.age + n })

/-- The ages of a port's requests move on by `n` ticks (R317). -/
def Dev.agePortBy (n : Nat) (d : Dev) (p : Nat) : Dev :=
  let q := d.port p
  if d.portActive p && q.replaying == 0 && !q.table.isEmpty then d.setPort p { q with table := d.aged n q q.table }
  else d

/-- Cycles of a 1.44 GHz clock between the ticks `t` and `t + n`: 14.4 a tick (R47). -/
def cpCyclesIn (t n : Nat) : Nat := 144 * (t + n) / 10 - 144 * t / 10

/-- CYCLES of a control processor that is not in reset. -/
def Dev.cpClock (t n : Nat) (d : Dev) (c : Nat) : Dev :=
  if d.fld (CPU.CPSTATE c) 1 0 = 0 then d else d.count64 (CPU.CYCLES c) (cpCyclesIn t n)

/-- SYSTIME over `n` ticks of the clock, at the rate it is steered to (R324). -/
def Dev.advance (d : Dev) (n : Nat) : Dev :=
  let f := d.link.time.frac + n * d.link.time.rate
  ({ d with link := { d.link with time := { d.link.time with frac := f % 1000000000 } } }).setNow
    ((d.now + n : Int) + f / 1000000000).toNat

/-- `n` ticks pass. -/
def Dev.elapse (d : Dev) (n : Nat) : Dev :=
  if !d.clocked then d
  else
    let t := d.now
    let d1 := (List.range 24).foldl (Dev.agePortBy n) d
    let d2 := { d1 with link := { d1.link with
      localTable := d1.aged n (port0 0) d1.link.localTable } }
    ((List.range 4).foldl (Dev.cpClock t n) d2).advance n

/-- Time reaches tick `t`, if it lies ahead. -/
def Dev.elapseTo (d : Dev) (t : Nat) : Dev := if d.clocked && decide (d.now < t) then (d.elapse (t - d.now)).setNow t else d

end Sys2Proof.Machine
end

