-- ==== Sys2Proof/Machine/Grid.lean ====
section
/-!
DEFINITION. The beat grid and its close window (03 R54-R70, R410): dispatch, the close of a beat and its flush, the status
record, and the start of a beat.
-/
namespace Sys2Proof.Machine

/-! ### Dispatch (R410) -/

/-- Room in an engine's queue (R88, R145, R153, R159, R166, R214, R241, R290). -/
def queueRoom (l : List QDesc) : Bool := decide (l.length < 16)

/-- The clusters whose queues a Scarab or TLS descriptor enters; an empty CLMASK, which the engine refuses, enters
cluster 0's. -/
def queueClusters (b : List Byte) : List Nat := if dClmask b = 0 then [0] else clustersIn (dClmask b)

/-- Every queue that descriptor `b` enters has room. -/
def Dev.roomFor (d : Dev) (b : List Byte) : Bool :=
  match engineOf b with
  | 0x0F => queueRoom d.massif.queue
  | 0x11 => queueRoom d.weevil.queue
  | 0x10 => queueRoom d.col.queue
  | 0x12 => (queueClusters b).all (fun k => queueRoom (d.scb k).queue)
  | 0x13 => (queueClusters b).all (fun k => queueRoom (d.tls k).queue)
  | 0x0E => queueRoom d.stag.queue
  | 0x0C => queueRoom d.mem.copyQ
  | _ => queueRoom d.forager.queue

/-- The descriptor enters its queue or queues. -/
def Dev.enqueue (d : Dev) (q : QDesc) : Dev :=
  let b := q.bytes
  match engineOf b with
  | 0x0F => { d with massif := { d.massif with queue := d.massif.queue ++ [q] } }
  | 0x11 => { d with weevil := { d.weevil with queue := d.weevil.queue ++ [q] } }
  | 0x10 => { d with col := { d.col with queue := d.col.queue ++ [q] } }
  | 0x12 =>
    let ks := queueClusters b
    let d1 := ks.foldl (fun (d : Dev) k => d.setScb k { d.scb k with queue := (d.scb k).queue ++ [q] }) d
    { d1 with scarab := { d1.scarab with fin := d1.scarab.fin ++ [(q, ks.length)] } }
  | 0x13 =>
    let ks := queueClusters b
    let d1 := ks.foldl (fun (d : Dev) k => d.setTls k { d.tls k with queue := (d.tls k).queue ++ [q] }) d
    { d1 with talus := { d1.talus with fin := d1.talus.fin ++ [(q, ks.length)] } }
  | 0x0E => { d with stag := { d.stag with queue := d.stag.queue ++ [q] } }
  | 0x0C => { d with mem := { d.mem with copyQ := d.mem.copyQ ++ [q] } }
  | _ => { d with forager := { d.forager with queue := d.forager.queue ++ [q] } }

/-- The next descriptor of the running stream: its bytes, where it is read from. -/
def Dev.nextDesc (d : Dev) : Option (List Byte × Nat) :=
  match d.cricket.cur with
  | some b =>
    match b.image with
    | some i =>
      if b.dispatched < i.descCount then
        let a := i.descAddr + b.pos
        some (d.mem.dram.readN a (descSize (d.mem.dram.readN a 64)), a)
      else none
    | none => none
  | none => none

/-- The next descriptor is dispatched. -/
def Dev.dispatch (d : Dev) : Dev :=
  if !d.issuing then d
  else match d.nextDesc with
  | none => d
  | some x =>
    if !d.roomFor x.1 then d
    else
      let d1 := (d.engRead x.2 x.1.length).2
      if !d1.issuing then d1
      else match d1.cricket.cur with
      | none => d1
      | some b =>
        let d2 := d1.enqueue ⟨x.1, b.dispatched⟩
        { d2 with cricket := { d2.cricket with
            cur := some { b with dispatched := b.dispatched + 1, pos := b.pos + x.1.length } } }

/-- DESCRIPTOR_DISPATCH (R410). -/
def execDescriptorDispatch (s : State) : Host.Outcome State Fault Refusal := onDev Dev.dispatch s

/-! ### What is left at C(n) (R65, R66, R70, R71) -/

/-- The block and instance that a descriptor belongs to, as FAULTBLOCK names them. -/
def descBlock (b : List Byte) : Nat :=
  match engineOf b with
  | 0x0F => blockName .msf ((if opcodeOf b = 4 then [0] else if !isFlank b && decide (8 < mGrid b) then [0] else descParts b).headD 0)
  | 0x11 => blockName .wvl ((clustersIn (dClmask b)).headD 0)
  | 0x10 => blockName .col ((placeBufs b).headD 0)
  | 0x12 => blockName .scb ((queueClusters b).headD 0)
  | 0x13 => blockName .tls ((queueClusters b).headD 0)
  | 0x0E => blockName .stg 0
  | 0x0C => blockName .stk 0
  | 0x0A => blockName .forager 0
  | e => e

/-- A descriptor's number and block. -/
def leftOf (q : QDesc) : Nat × Nat := (q.idx, descBlock q.bytes)

/-- Every descriptor dispatched and not complete. -/
def Dev.leftDescs (d : Dev) : List (Nat × Nat) :=
  let scb := d.scarab.cl.flatMap (fun (c : Nat × Scb) =>
    c.2.queue.map (fun (q : QDesc) => ((q.idx, blockName .scb c.1) : Nat × Nat)))
  let tls := d.talus.cl.flatMap (fun (c : Nat × Tls) =>
    c.2.queue.map (fun (q : QDesc) => ((q.idx, blockName .tls c.1) : Nat × Nat)))
  let wvl := d.weevil.run.map (fun (r : QDesc × Nat) =>
    ((r.1.idx, if r.2 = 0 then descBlock r.1.bytes else blockName .wvl ((clustersIn r.2).headD 0)) : Nat × Nat))
  (d.massif.queue.map leftOf) ++ (d.massif.op.toList.map (fun (o : MassifOp) => leftOf o.desc)) ++
  (d.massif.unwritten.map (fun (o : MassifOp) => leftOf o.desc)) ++
  (d.massif.chain.toList.map (fun (o : MassifOp) => leftOf o.desc)) ++
  (d.weevil.queue.map leftOf) ++ wvl ++ (d.col.queue.map leftOf) ++ (d.col.run.toList.map leftOf) ++
  scb ++ (d.scarab.fin.map (fun (r : QDesc × Nat) => leftOf r.1)) ++
  tls ++ (d.talus.fin.map (fun (r : QDesc × Nat) => leftOf r.1)) ++
  (d.stag.queue.map leftOf) ++ (d.stag.act.map (fun (a : StagAct) => leftOf a.desc)) ++
  (d.mem.copyQ.map leftOf) ++ (d.mem.copyRun.toList.map leftOf) ++
  (d.forager.queue.map leftOf) ++ (d.forager.run.toList.map (fun (r : QDesc × Nat) => leftOf r.1))

/-- The first of the entries with the least number. -/
def earliest : List (Nat × Nat) → Option (Nat × Nat)
  | [] => none
  | x :: l => match earliest l with
    | none => some x
    | some y => if y.1 < x.1 then some y else some x

/-- The engine instance that holds the earliest descriptor left incomplete (R66); where none is left, the port with an
outstanding request, or the partition that still holds banks. -/
def Dev.holder (d : Dev) : Nat :=
  let next := match d.nextDesc, d.cricket.cur with
    | some x, some b => [((b.dispatched, descBlock x.1) : Nat × Nat)]
    | _, _ => []
  match earliest (d.leftDescs ++ next) with
  | some x => x.2
  | none =>
    match (List.range 24).find? (fun p => !(d.port p).table.isEmpty) with
    | some p => blockName .lnk p
    | none =>
      if !d.link.localTable.isEmpty then blockName .lnk 0
      else match List.find? (fun (b : Nat × Bank) => b.2.state != .free) d.massif.banks with
        | some b => blockName .msf (partOfCell (b.1 / 2))
        | none => blockName .wvl (((d.weevil.cl.filter (fun (w : Nat × Wvl) => ringBusy w.2)).map
            (fun (w : Nat × Wvl) => w.1)).headD 0)

/-- The heads of the queues. -/
def Dev.heads (d : Dev) : List QDesc :=
  d.massif.queue.take 1 ++ d.weevil.queue.take 1 ++ d.col.queue.take 1 ++ d.stag.queue.take 1 ++ d.mem.copyQ.take 1 ++
  d.forager.queue.take 1 ++ d.scarab.cl.flatMap (fun (c : Nat × Scb) => c.2.queue.take 1) ++
  d.talus.cl.flatMap (fun (c : Nat × Tls) => c.2.queue.take 1)

/-- Queue classes that are not empty, as CKT.DRAINSTAT (R71). The work-list updates of the Hive run in the close window
itself. -/
def Dev.drainNow (d : Dev) : Nat :=
  let bits : List (Bool × Nat) := [
    (!d.mem.copyQ.isEmpty || d.mem.copyRun.isSome, 0),
    (!d.col.queue.isEmpty || d.col.run.isSome || d.fetching, 1),
    (!d.massif.queue.isEmpty || d.massif.op.isSome, 2),
    (!d.massif.unwritten.isEmpty || d.massif.chain.isSome || d.massif.banks.any (fun (b : Nat × Bank) => b.2.state != .free), 3),
    (!d.weevil.queue.isEmpty || !d.weevil.run.isEmpty || d.weevil.cl.any (fun (w : Nat × Wvl) => ringBusy w.2), 4),
    (d.scarab.cl.any (fun (c : Nat × Scb) => !c.2.queue.isEmpty) || !d.scarab.fin.isEmpty, 5),
    (d.talus.cl.any (fun (c : Nat × Tls) => !c.2.queue.isEmpty || !c.2.spilling.isEmpty) || !d.talus.fin.isEmpty, 6),
    (!d.stag.queue.isEmpty || !d.stag.act.isEmpty || d.stag.micro.running || decide (0 < d.slotsOpen), 7),
    (!d.link.localTable.isEmpty || d.link.ports.any (fun (p : Nat × Port) => !p.2.table.isEmpty), 8),
    (!d.link.localQ.isEmpty || d.link.ports.any (fun (p : Nat × Port) => !p.2.received.isEmpty), 9),
    (!d.forager.queue.isEmpty || d.forager.run.isSome, 10),
    (d.heads.any (fun (q : QDesc) => syncValid (dWait q.bytes) && !d.waitOk q.bytes), 11)]
  (bits.map (fun (x : Bool × Nat) => if x.1 then 2 ^ x.2 else 0)).foldl (· + ·) 0

/-! ### The code of the beat (R53, R65, R242) -/

/-- The running beat, where it runs a program. -/
def Dev.program (d : Dev) : Option (Beat × Image) :=
  match d.cricket.cur with
  | some b => if b.switchBeat then none else b.image.map (fun (i : Image) => (b, i))
  | none => none

/-- Some descriptor has not been issued: undispatched, or queued in some cluster. -/
def Dev.unissued (d : Dev) (b : Beat) (i : Image) : Bool :=
  decide (b.issued < i.descCount) ||
  d.scarab.cl.any (fun (c : Nat × Scb) => c.2.queue.any (fun (q : QDesc) => !d.scarab.begun.contains q.idx)) ||
  d.talus.cl.any (fun (c : Nat × Tls) => !c.2.queue.isEmpty)

/-- The lowest STG unit that holds an ARMED slot. -/
def Dev.armedUnit (d : Dev) : Option Nat :=
  (List.range 12).find? (fun u => d.stag.slots.any (fun (s : Nat × StagSlot) => s.2.units.getD u .idle == .armed))

/-- A Talus whose queue has stopped (R165). -/
def Dev.stuckTalus (d : Dev) : Option Nat :=
  (List.find? (fun (c : Nat × Tls) => c.2.stuck) d.talus.cl).map (fun (c : Nat × Tls) => c.1)

/-- The image is marked for substitution (R165). -/
def Dev.markSubst (d : Dev) (i : Image) : Dev :=
  if i.stashFb = 1 then
    { d with cricket := { d.cricket with images := d.cricket.images.map (fun (x : Image) =>
        if x.index = i.index then { x with subst := some i.recompImg } else x) } }
  else d

/-- A program that is not complete and has not failed fails at C(n) with one code. -/
def Dev.closeCode (d : Dev) : Dev :=
  match d.program with
  | none => d
  | some (b, i) =>
    if b.complete.isSome || b.code.isSome then d
    else match d.stuckTalus with
    | some k => (d.beatFail 0x22 (blockName .tls k) (d.num64 (TLS.STASHBASE k) + d.num64 (TLS.STASHTOP k))).markSubst i
    | none =>
      match d.armedUnit with
      | some u => d.beatFail 0x60 (blockName .stg u) 0
      | none => d.beatFail (if d.unissued b i then 0x20 else 0x21) d.holder 0

/-- A device used by the image runs with reduced capacity (R52; log entry 22). -/
def Dev.ranDegraded (d : Dev) (i : Image) : Bool :=
  (pagesOf .stk).any d.degraded || (List.range 24).any (fun p => i.linkWidth p != 0 && d.degraded (LNK.page p)) ||
  (List.range 4).any (fun p => bit i.partMask p && d.degraded (MSF.page p))

/-- Markers of other ranks stop their jobs (R69): the beat that ends fails with the origin code. -/
def Dev.stopBeat (d : Dev) (m : StopMark) : Dev :=
  match d.program with
  | none => d
  | some (b, _) =>
    if b.job = m.job ∧ b.code = none then
      let d1 := d.beatFail m.code 0 0
      { d1 with cricket := { d1.cricket with cur := d1.cricket.cur.map (fun (x : Beat) => { x with origin := m.origin }) } }
    else d

/-- CODE of the beat that closes (R53). -/
def Beat.finalCode (b : Beat) : Nat :=
  if b.image.isNone then 1 else b.code.getD (b.successes.foldl max 0)

/-! ### The flush (R57, R66) -/

/-- Scopes and pages of the instances that were executing an operation of the beat at C(n) (R66). -/
def Dev.residue (d : Dev) (code : Option Nat) : List (ResetScope × Nat) :=
  let cells := (d.massif.banks.filter (fun (b : Nat × Bank) => b.2.state == .active || b.2.state == .exiting)).map
    (fun (b : Nat × Bank) => partOfCell (b.1 / 2))
  let msf := ((List.range 4).filter cells.contains).map (fun p => ((ResetScope.partition (Fin.ofNat 4 p), MSF.page p) : ResetScope × Nat))
  let page := fun (a : Nat) => ((ResetScope.page (a / 0x1000), a) : ResetScope × Nat)
  let wvl := (d.weevil.cl.filter (fun (w : Nat × Wvl) => w.2.run != .idle)).map (fun (w : Nat × Wvl) => page (WVL.page w.1))
  let tls := (d.talus.cl.filter (fun (c : Nat × Tls) => !c.2.spilling.isEmpty)).map (fun (c : Nat × Tls) => page (TLS.page c.1))
  let scb := (d.weevil.cl.filter (fun (w : Nat × Wvl) => decide (scarabRing ≤ w.2.ringOp))).map
    (fun (w : Nat × Wvl) => page (SCB.page w.1))
  let col := match d.col.run with
    | some q => (placeBufs q.bytes).map (fun i => page (COL.page i))
    | none => []
  let stg := if (!d.stag.act.isEmpty || d.stag.micro.running) && code != some 0x60 then [page (STG.page 0)] else []
  msf ++ wvl ++ scb ++ tls ++ col ++ stg

/-- A cluster's Weevil at the boundary: no program, loops or addresses, an inactive ring, masks and tag indeterminate (R57,
R133). -/
def boundaryWvl (seed : Nat) (w : Wvl) : Wvl :=
  { wvl0 0 with
    treg := w.treg
    imem := w.imem
    pwl := w.pwl
    tregUE := w.tregUE
    imemErr := w.imemErr
    maskSeed := seed
    tag := BitVec.ofNat 64 (Config.freeNat seed) }

/-- A request that belongs to a beat: no completion, marker or TIME (R312, R313). -/
def beatRequest (t : Txn) : Bool := decide (t.kindN < 5)

/-- A port at the boundary (R57, R58, R65, R66): outstanding requests are abandoned, the device's own unsent ones dropped; the
inbound queue empties of the requests and completions of the beat, and a transaction received in part is dropped with the slots
that still come. -/
def Dev.boundaryPort (d : Dev) (p : Nat) : Dev :=
  let q0 := d.port p
  let q := (q0.received.filter (fun (t : Txn) => beatRequest t || t.isCpl)).foldl Port.freed q0
  d.setPort p { q with
    table := []
    received := q.received.filter (fun (t : Txn) => !(beatRequest t || t.isCpl))
    dropFirst := q.dropFirst || (!q.partialRx.isEmpty && decide (byteAt q.partialRx 0 < 6))
    sendQ := q.sendQ.filter (fun (t : Txn) => !(t.srcRank == d.rank && beatRequest t)) }

/-- Queues empty, banks are FREE, chains end, rings are inactive, operations in progress are dropped (R57, R66). -/
def Dev.flush (d : Dev) (code : Option Nat) : Dev :=
  let d0 := d.closeSlots (code == some 0x60)
  let m : MassifSt := { d0.massif with
    queue := [], op := none, unwritten := [], chain := none, banks := [], nextBank := [], seq := 0, tileOvf := false }
  let d1 : Dev := { d0 with
    massif := m
    weevil := { d0.weevil with
      queue := []
      run := []
      cl := (List.range 64).map (fun k => ((k, boundaryWvl (d0.freeCtr + 1 + k) (d0.wvl k)) : Nat × Wvl)) }
    col := { d0.col with queue := [], run := none }
    scarab := { d0.scarab with
      fin := []
      begun := []
      cl := (d0.scarab.cl.map (fun (c : Nat × Scb) => ((c.1, { c.2 with queue := [], ovf := false }) : Nat × Scb))).filter
        (fun (c : Nat × Scb) => decide (c.2 ≠ scb0 c.1)) }
    talus := { d0.talus with
      fin := []
      cl := (d0.talus.cl.map (fun (c : Nat × Tls) =>
        ((c.1, { c.2 with queue := [], stuck := false, spilling := [] }) : Nat × Tls))).filter
        (fun (c : Nat × Tls) => decide (c.2 ≠ tls0 c.1)) }
    stag := { d0.stag with queue := [], act := [], tree := [], micro := StagSt.reset.micro }
    mem := { d0.mem with copyQ := [], copyRun := none }
    forager := { d0.forager with queue := [], run := none }
    link := { d0.link with localQ := [], localTable := [], syncRec := [], syncWait := [] }
    freeCtr := d0.freeCtr + 65 }
  (List.range 24).foldl Dev.boundaryPort d1

/-! ### Jobs at the close (R67, R369) -/

/-- The job that ran the beat goes on: one beat fewer of its step, the next step, or its end. -/
def Dev.jobRan (d : Dev) (j : Job) (n code : Nat) : Dev :=
  let j1 := { j with lastBeat := n }
  let put := fun (d : Dev) (x : Job) =>
    { d with host := { d.host with jobs := d.host.jobs.map (fun (y : Job) => if y.seq = x.seq then x else y) } }
  if 0x10 ≤ code then d.endJob j1 code
  else if j.left = 0xFFFFFFFF then put d j1
  else if 1 < j.left then put d { j1 with left := j.left - 1 }
  else match j.script[j.step + 1]? with
  | some st => put d { j1 with step := j.step + 1, left := st.count }
  | none => d.endJob j1 0

/-- The job of the beat that closes. -/
def Dev.accountJob (d : Dev) (b : Beat) : Dev :=
  match d.host.jobs.find? (fun (j : Job) => j.fn == b.fn && j.job == b.job) with
  | some j => ({ d with cricket := { d.cricket with lastJob := d.cricket.lastJob.set zeroNat b.fn (j.seq + 1) } }).jobRan j b.n
      b.finalCode
  | none => d

/-- Jobs that markers stop, besides the beat's own. -/
def Dev.stopJobs (d : Dev) (l : List StopMark) : Dev :=
  l.foldl (fun (d : Dev) (m : StopMark) =>
    (d.host.jobs.filter (fun (j : Job) => j.job == m.job)).foldl (fun (d : Dev) (j : Job) => d.endJob j m.code) d) d

/-- Beats of a stopped job that ran after the one that failed elsewhere are failed too (R69, R67): their write windows become
indeterminate and FAILCNT counts them. Their records were written before (log entry 35). -/
def Dev.stopRan (d : Dev) (m : StopMark) : Dev :=
  let hit := d.cricket.ran.filter (fun (r : RanBeat) => r.job == m.job && decide (m.beat < r.n))
  (hit.foldl (fun (d : Dev) (r : RanBeat) => d.openRanges r.windows) d).countSat CKT.FAILCNT hit.length

/-- A beat that failed after C(n), in its close window, stops its job too (R67, R68): the job still runs, or the completion
formed at C(n) carries the failure. -/
def Dev.lateStop (d : Dev) (b : Beat) : Dev :=
  if b.image.isNone || decide (b.finalCode < 0x10) then d
  else match d.host.jobs.find? (fun (j : Job) => j.fn == b.fn && j.job == b.job) with
  | some j => d.endJob j b.finalCode
  | none => { d with host := { d.host with done := d.host.done.map (fun (p : Nat × Completion) =>
      if p.1 = b.fn ∧ p.2.job = b.job ∧ p.2.type = 1 ∧ p.2.code = 0 ∧ p.2.info = b.n then (p.1, { p.2 with code := b.finalCode })
      else p) } }

/-- The beat enters the list of those its job has run, which holds the jobs that still run (R69). -/
def Dev.noteRan (d : Dev) (b : Beat) : Dev :=
  let new := match b.image with
    | some i => [(⟨b.fn, b.job, b.n, i.windows⟩ : RanBeat)]
    | none => []
  { d with cricket := { d.cricket with ran := (d.cricket.ran ++ new).filter (fun (r : RanBeat) =>
      d.host.jobs.any (fun (j : Job) => j.fn == r.fn && j.job == r.job)) } }

/-! ### Sampling (R62, R65, R331) -/

/-- A partition is READY and not DEGRADED. -/
def Dev.partitionOk (d : Dev) (p : Nat) : Bool := d.ready (MSF.page p) && !d.degraded (MSF.page p)

/-- The width code of a trained port. -/
def Dev.trainedWidth (d : Dev) (p : Nat) : Option Nat :=
  if d.portState p = 4 ∨ d.portState p = 5 then some (d.fld (LNK.PORTSTAT p) 4 3) else none

/-- Pages whose READY admission asks for. -/
def admissionPages : List Nat :=
  pagesOf .ckt ++ pagesOf .stk ++ pagesOf .col ++ pagesOf .stg ++ pagesOf .forager ++ pagesOf .wvl ++ pagesOf .scb ++
    pagesOf .tls

/-- The state that admission will use. -/
def Dev.sampled (d : Dev) : Sample where
  timeGood := d.flag CKT.TIMESTAT 1
  down := admissionPages.filter (fun b => !d.ready b)
  partitions := tabulate 4 d.partitionOk
  ports := tabulate 24 d.trainedWidth
  limit := d.fld PWR.LIMIT 11 0
  idle := d.fld PWR.IDLEPWR 9 0

/-! ### Issue closes (R65, tick 0) -/

/-- C(n) of the beat that runs, from the next beat's B: before the first beat none runs (R56). -/
def Dev.closeTick (d : Dev) : Nat := d.beatStartAt ((d.beatNum + 1) % 2 ^ 64) - 300

/-- ENVEXCEED and THROTOVR (R337, R338). -/
def Dev.closePower (d : Dev) (code : Option Nat) : Dev :=
  if d.power.thrown && (code == some 0x20 || code == some 0x21) then d.err PWR.page 9 else d

/-- The beat that closes: its code, what was left, its jobs, the flush and the resets of residue. -/
def Dev.closeBeat (d : Dev) : Dev :=
  let drain := d.drainNow
  let stops := d.cricket.stops
  let d1 := (stops.foldl Dev.stopBeat d).closeCode
  let d2 := match d1.program with
    | some (b, i) => if b.code.isNone && d1.ranDegraded i then d1.success 2 else d1
    | none => d1
  let d3 := { d2 with cricket := { d2.cricket with
    phase := .closed
    stops := []
    cur := d2.cricket.cur.map (fun (b : Beat) => { b with drain := drain }) } }
  let res := match d3.program with
    | some (b, _) => if b.complete.isNone then d3.residue b.code else []
    | none => []
  let code := d3.cricket.cur.bind (fun (b : Beat) => b.code)
  let d4 := match d3.program with
    | some (b, i) =>
      let a := (d3.accountJob b).closePower code
      if b.code.isSome then a.openWindows i else a
    | none => d3
  let d5 := ((stops.foldl Dev.stopRan d4).stopJobs stops).flush code
  res.foldl (fun (d : Dev) (r : ResetScope × Nat) => d.residueReset r.1 r.2) d5

def Dev.issueClose (d : Dev) : Dev :=
  if d.cricket.phase != .run then d
  else
    let d1 := ((d.elapseTo d.closeTick).closeBeat).quiesceWaiting
    let d2 := { d1 with cricket := { d1.cricket with sample := d1.sampled } }
    (d2.routeSelect.applyPins).capturePreempt

/-- ISSUE_CLOSE (R65). -/
def execIssueClose (s : State) : Host.Outcome State Fault Refusal := onDev Dev.issueClose s

/-! ### The status record and the marker (R65, R70, tick 20) -/

/-- RUNTICKS (R70). DESIGN CHOICE (log entry 35): the record of an empty beat holds 0 here and in JOB; the spec gives no value. -/
def Dev.runTicks (d : Dev) (b : Beat) : Nat :=
  if b.image.isNone then 0
  else match b.complete with
  | some t => t - d.beatStartAt b.n
  | none => d.period - 300

/-- KIND of the record. -/
def Beat.kindByte (b : Beat) : Nat :=
  match b.image with
  | some i => field i.passKind 3 0 + 16 * b.fn
  | none => 15 + 16 * b.fn

/-- SUCCESSES of the record. -/
def Beat.successBits (b : Beat) : Nat :=
  (((List.range 8).filter (fun k => decide (0 < k) && b.successes.contains k && k != b.finalCode)).map (fun k => 2 ^ k)).foldl
    (· + ·) 0

/-- The 64 bytes of a record. -/
def Dev.record (d : Dev) (b : Beat) (energy : Nat) : List Byte :=
  let failed := decide (0x10 ≤ b.finalCode)
  leBytes 8 b.n ++ leBytes 1 b.finalCode ++ leBytes 1 (b.kindByte) ++
  leBytes 1 ((b.image.map Image.variant).getD 0) ++ leBytes 1 (if b.image.isSome then b.scramble.toNat else 0) ++
  leBytes 2 ((b.image.map (fun (i : Image) => i.index)).getD 0xFFFF) ++ leBytes 2 (b.origin % 2 ^ 14) ++
  leBytes 4 (if b.image.isSome then b.job.toNat else 0) ++ leBytes 4 (d.runTicks b) ++ leBytes 4 energy ++
  leBytes 2 (if failed then b.faultBlock else 0) ++ leBytes 2 b.successBits ++ leBytes 8 (if failed then b.faultAddr else 0) ++
  leBytes 4 b.drain ++ leBytes 20 0

/-- The record enters the ring (R70, R72): STATWRAP where it overwrites one that is unread. DESIGN CHOICE (log entry 35): where
the ring and its tail word do not fit in device memory no record is written and STATHEAD stays; the spec says nothing of such
a ring. -/
def Dev.writeRecord (d : Dev) (bytes : List Byte) : Dev :=
  let base := d.num64 CKT.STATRING
  let size := d.num CKT.STATSIZE
  let head := d.num CKT.STATHEAD % max 1 size
  let tail := leNat (d.mem.dram.readN (base + 64 * size) 4) % max 1 size
  let next := (head + 1) % max 1 size
  if base + 64 * size + 4 ≤ memTop then
    let d1 := (d.memWrite (base + 64 * head) bytes).setNum CKT.STATHEAD next
    let d2 := if head = tail ∧ d.cricket.full then d1.irq CKT.page 2 else d1
    { d2 with cricket := { d2.cricket with full := decide (next = tail) } }
  else d

/-- Registers and counters that follow a record (R71, R72). DESIGN CHOICE (log entry 35): an empty beat leaves MINSLACK as it
is; the spec does not say whether it enters it. -/
def Dev.countBeat (d : Dev) (b : Beat) : Dev :=
  let code := b.finalCode
  let d1 := (d.setNum CKT.LASTSTAT (code + 256 * b.kindByte + 65536 * (b.image.map Image.variant).getD 0)).setNum
    CKT.RUNTICKS (d.runTicks b)
  let d2 := (d1.setNum CKT.DRAINSTAT b.drain).lastCode CKT.page code
  let d3 := if b.image.isNone then d2.countSat CKT.EMPTYCNT 1
    else d2.setNum CKT.MINSLACK (min (d2.num CKT.MINSLACK) (d2.period - 300 - d2.runTicks b))
  if code < 0x10 then d3
  else
    let d4 := (d3.countSat CKT.FAILCNT 1).irq CKT.page 0
    if code = 0x20 then (d4.countSat CKT.OVERRUNCNT 1).err CKT.page 8
    else if code = 0x21 then (d4.countSat CKT.DRAINCNT 1).err CKT.page 9
    else d4

/-- The beat's measured energy against its envelope (R338). -/
def Dev.judgeEnergy (d : Dev) (b : Beat) (energy : Nat) : Dev :=
  if b.image.isSome && decide (103 * d.num PWR.LASTEFF < 100 * energy) then (d.countSat PWR.ENVEXCNT 1).err PWR.page 8 else d

/-- The functions whose rings are read at this boundary (R368). -/
def Dev.ringsOn (d : Dev) : List Nat := (List.range 16).filter d.ringOn

/-- The record, the marker and the Hive's update of the beat that has closed. ENERGY is measured from B(n) to here (log
entry 17). -/
def Dev.finishBeat (d : Dev) (b : Beat) : Dev :=
  let energy := (d.num64 PWR.ENERGY + 2 ^ 64 - d.power.energyB) % 2 ^ 64
  let code := b.finalCode
  let bad := decide (0x10 ≤ code)
  let d1 := ((((d.writeRecord (d.record b energy)).countBeat b).judgeEnergy b energy).lateStop b).noteRan b
  let d2 := d1.sendMarker (d1.marker b.n (if b.image.isSome then b.job else 0#32) code false bad
    (if bad then b.origin else d1.rank))
  d2.serveUpdate b.fn b.n code

def Dev.beatMarker (d : Dev) : Dev :=
  if d.cricket.phase != .closed then d
  else
    let d1 := d.elapseTo (d.closeTick + 20)
    let d2 := match d1.cricket.cur with
      | some b => d1.finishBeat b
      | none => d1
    { d2 with
      cricket := { d2.cricket with phase := .marked }
      host := { d2.host with fetching := d2.ringsOn } }

/-- BEAT_MARKER (R65). -/
def execBeatMarker (s : State) : Host.Outcome State Fault Refusal := onDev Dev.beatMarker s

/-! ### The ring fetch (R368) -/

/-- Host address of a function's control block (R367). -/
def Dev.controlBlock (d : Dev) (fn : Nat) : Nat := d.sqBase fn + 64 * d.sqSize fn

/-- The device writes host memory. -/
def Dev.hostWrite (d : Dev) (fn a : Nat) (bs : List Byte) : Dev :=
  { d with host := { d.host with out := d.host.out ++ [⟨fn, a, bs⟩] } }

/-- A PCIe error stops the function's rings. -/
def Dev.ringFault (d : Dev) (fn : Nat) : Dev :=
  let d1 := d.setFlag (ringReg fn 0x58) 0 false
  (if d1.flag HST.ERRSUM 8 then d1 else d1.irq HST.page 1).err HST.page 8

def Dev.ringFetch (d : Dev) (fn : Nat) (rsp : RingReply) : Dev :=
  if !d.host.fetching.contains fn then d
  else
    let d1 := { d with host := { d.host with fetching := d.host.fetching.filter (fun x => x != fn) } }
    match rsp with
    | .error => d1.ringFault fn
    | .fetched sqTail cqHead descs =>
      let d2 := { d1 with host := { d1.host with cqHead := d1.host.cqHead.set zeroWord fn cqHead } }
      if d2.host.held.any (fun (h : Nat × Completion) => h.1 == fn) then d2
      else
        let head := d2.host.sqHead.get zeroWord fn
        let n := min (min ((sqTail - head).toNat) 64) descs.length
        let new := (descs.take n).map (fun (b : List Byte) => ((fn, padTo 64 0#8 b) : Nat × List Byte))
        let head' := head + BitVec.ofNat 32 n
        let d3 := { d2 with host := { d2.host with
          sqHead := d2.host.sqHead.set zeroWord fn head'
          fetched := d2.host.fetched ++ new } }
        let d4 := (d3.countSat HST.FETCHCNT n).hostWrite fn (d3.controlBlock fn + 4) (leBytes 4 head'.toNat)
        if d4.cricket.phase == .marked then Dev.settleJobs d4.host.fetched.length d4 else d4

/-- RING_FETCH_RETURN (R368). -/
def execRingFetchReturn (fn : Fin 16) (rsp : RingReply) (s : State) : Host.Outcome State Fault Refusal :=
  onDev (·.ringFetch fn rsp) s

/-! ### Completions are posted (R368, R372) -/

/-- The bytes of a completion entry. -/
def Completion.bytes (c : Completion) : List Byte :=
  leBytes 4 c.job.toNat ++ leBytes 1 c.code ++ leBytes 1 c.type ++ leBytes 2 c.aux ++ leBytes 8 c.beat ++ leBytes 8 c.info ++
    leBytes 8 0

/-- MSI-X entry 0 of a function, past Firefly (R359, R368). -/
def Dev.ringMessage (d : Dev) (fn : Nat) : Dev :=
  if d.msixMasked fn 0 then
    (if d.host.msixPend.contains (fn, 0) then d
     else { d with host := { d.host with msixPend := d.host.msixPend ++ [(fn, 0)] } })
  else d.sendMsix fn 0

/-- Entries written at the function's tail, one after the other. -/
def Dev.writeEntries (fn : Nat) : List Completion → Dev → Dev
  | [], d => d
  | c :: l, d =>
    let t := d.host.cqTail.get zeroWord fn
    let d1 := d.hostWrite fn (d.cqBase fn + 32 * (t.toNat % max 1 (d.cqSize fn))) c.bytes
    Dev.writeEntries fn l { d1 with host := { d1.host with cqTail := d1.host.cqTail.set zeroWord fn (t + 1#32) } }

/-- A function's completions: as many as its ring has room for; the rest are held. -/
def Dev.postFn (d : Dev) (fn : Nat) : Dev :=
  let mine := fun (l : List (Nat × Completion)) => l.filter (fun (p : Nat × Completion) => p.1 == fn)
  let others := fun (l : List (Nat × Completion)) => l.filter (fun (p : Nat × Completion) => p.1 != fn)
  let all := (mine d.host.held ++ mine d.host.done).map (fun (p : Nat × Completion) => p.2)
  let used := (d.host.cqTail.get zeroWord fn - d.host.cqHead.get zeroWord fn).toNat
  let k := if d.ringOn fn then min all.length (d.cqSize fn - used) else 0
  let rest := all.drop k
  let d1 := Dev.writeEntries fn (all.take k) { d with host := { d.host with
    done := others d.host.done
    held := others d.host.held ++ rest.map (fun (c : Completion) => ((fn, c) : Nat × Completion)) } }
  let d2 := if d1.ringOn fn && !rest.isEmpty then d1.err HST.page 9 else d1
  if k = 0 then d2
  else
    let d3 := (d2.hostWrite fn (d2.controlBlock fn + 8) (leBytes 4 (d2.host.cqTail.get zeroWord fn).toNat)).countSat HST.CPLCNT k
    d3.ringMessage fn

def Dev.completionPost (d : Dev) : Dev :=
  if d.cricket.phase != .voted then d
  else
    let d1 := (List.range 16).foldl Dev.postFn d
    { d1 with
      cricket := { d1.cricket with phase := .posted }
      host := { d1.host with ended := [] } }

/-- COMPLETION_POST (R368). -/
def execCompletionPost (s : State) : Host.Outcome State Fault Refusal := onDev Dev.completionPost s

/-! ### A beat begins (R54, R41, R63) -/

/-- The clears of CTRL.ENABLE that waited for the boundary take effect (R41, R304), except on pages under reset, where they
wait for its end (R42). -/
def Dev.applyEnables (d : Dev) : Dev :=
  let waits := fun (e : Nat × Bool) => d.inReset e.1
  let now := d.enPend.filter (fun (e : Nat × Bool) => !waits e)
  (List.range 24).foldl (fun (d : Dev) p =>
    if now.any (fun (e : Nat × Bool) => e.1 == LNK.page p) then d.lnkEnable p false else d)
    { d with enPend := d.enPend.filter waits }

/-- Requests held for this beat are delivered (R63). -/
def Dev.deliverHeld (d : Dev) (p : Nat) : Dev :=
  let q := d.port p
  if q.held.isEmpty then d else d.setPort p { q with received := q.received ++ q.held, held := [] }

/-- Everything that waited for a boundary. -/
def Dev.boundary (d : Dev) : Dev :=
  let d1 := d.applyEnables
  let d2 := d1.hive.enPend.foldl Dev.applyEnabled d1
  let d3 := (List.range 4).foldl Dev.reopenStream d2
  (List.range 24).foldl Dev.deliverHeld d3

/-- The beat record of beat `n` (R53). -/
def Dev.newBeat (d : Dev) (n : Nat) : Beat :=
  let sw := d.hive.switching.isSome
  match d.cricket.next with
  | some x =>
    if sw then ⟨n, none, 0#32, d.resident, false, true, 0, 0, 0, none, 0, 0, d.rank, [], none, 0, 0⟩
    else ⟨n, some x.image, x.job, x.fn, x.scramble, false, 0, 0, 0, none, 0, 0, d.rank, [], none, 0,
      if x.image.passKind = 3 then d.num (TEN.TOKBUDGET x.fn) - x.shed else 0⟩
  | none => ⟨n, none, 0#32, d.resident, false, sw, 0, 0, 0, none, 0, 0, d.rank, [], none, 0, 0⟩

/-- The power registers of the current beat (R339). -/
def Dev.startPower (d : Dev) : Dev :=
  let d1 := ((d.setNum PWR.LASTBUDGET (budget100 d.cricket.sample.limit d.period / 100)).setNum PWR.LASTEFF
    ((d.cricket.next.map (fun (x : NextBeat) => x.eff)).getD 0)).setNum PWR.SRVSHED
    ((d.cricket.next.map (fun (x : NextBeat) => x.shed)).getD 0)
  { d1 with power := { d1.power with energyB := d1.num64 PWR.ENERGY, thrown := d1.fld PWR.THROTTLE 7 0 != 0 } }

/-- The tenancy of a beat that is no switch beat (R268). -/
def Dev.countTenancy (d : Dev) : Dev :=
  if d.hive.switching.isSome then d
  else (d.setFlag (TEN.TENSTAT d.resident) 1 true).count64 (TEN.BEATS d.resident) 1

/-- A tenancy switch begins with this beat (R256, R258). -/
def Dev.beginSwitch (d : Dev) (n : Nat) : Dev :=
  match d.hive.switchTo with
  | some t => ({ d with hive := { d.hive with switchTo := none } }).switchStart n t
  | none => d

/-- Beat `n` is the current one. -/
def Dev.runBeat (d : Dev) (n : Nat) : Dev :=
  let d1 := ((d.setNum64 CKT.BEATNUM n).beginSwitch n).startPower
  let d2 := d1.countTenancy
  let late := (d2.cricket.next.map (fun (x : NextBeat) => x.late)).getD false
  let d3 := { d2 with
    cricket := { d2.cricket with
      phase := .run
      cur := some (d2.newBeat n)
      next := none
      holds := d2.cricket.holds.filter (fun (h : Word × Nat) => decide (n < h.2)) }
    hive := { d2.hive with rows := d2.hive.nextRows, nextRows := [] } }
  (if late then d3.beatFail 0x50 (blockName .forager 0) 0 else d3).noteDone

def Dev.beatStart (d : Dev) : Dev :=
  if d.cricket.phase != .posted then d
  else
    let n := (d.beatNum + 1) % 2 ^ 64
    let d0 := d.elapseTo (d.beatStartAt n)
    let stop := d0.gridStops
    let d1 := match d0.hive.switchTo with
      | some _ => d0.notifyPreempted d0.resident
      | none => d0
    let d2 := (if stop then d0 else d1).boundary
    if stop then { d2 with cricket := { d2.cricket with phase := .off, cur := none, next := none } }
    else d2.runBeat n

/-- BEAT_START (R54). -/
def execBeatStart (s : State) : Host.Outcome State Fault Refusal := onDev Dev.beatStart s

end Sys2Proof.Machine
end

