-- ==== Sys2Proof/Machine/Admission.lean ====
section
/-!
DEFINITION. Admission at the boundary (03 R61, R62): the tenancy (12 R252-R255), the candidates (18 R371), the seven
checks, the choice of variant and the serving allowance (15 R331-R335).
-/
namespace Sys2Proof.Machine

/-! ### The checks of R61 -/

/-- Step 1: function `fn` may use the image (R370). -/
def Image.usableBy (i : Image) (fn : Nat) : Bool := i.owner == fn || (i.owner == 0 && i.shared)

/-- Step 2: the mode's flag is missing, or a FLOAT reduction meets BEDROCK (R3, R238). -/
def Image.modeBad (i : Image) (scramble : Bool) : Bool := if scramble then !i.scrambleOk else !i.bedrockOk || i.float

/-- Step 4: a required partition is not READY or is DEGRADED; so are the engines inside it that the image uses (R66). -/
def Sample.partsUnmet (s : Sample) (i : Image) : Bool :=
  let downIn := fun (code : Nat) (page : Nat → Nat) (p : Nat) =>
    i.engines.contains code && (clustersOf p).any (fun k => s.down.contains (page k))
  (List.range 4).any (fun p => bit i.partMask p &&
    (!s.partitions.getD p false || downIn 0x11 WVL.page p || downIn 0x12 SCB.page p || downIn 0x13 TLS.page p))

/-- Step 5: CKT, a stack, or an engine outside the partitions that the image uses is not READY; or TIMEGOOD is 0 and the
image names a port (R55). -/
def Sample.notReady (s : Sample) (i : Image) : Bool :=
  let off := fun (b : Blk) => (pagesOf b).any s.down.contains
  off .ckt || off .stk || (i.engines.contains 0x10 && off .col) || (i.engines.contains 0x0E && off .stg) ||
  (i.engines.contains 0x0A && off .forager) || (i.usesLinks && !s.timeGood)

/-- Step 6, for one port: its code. -/
def Sample.portCode (s : Sample) (i : Image) (p : Nat) : Option Nat :=
  if i.linkWidth p = 0 then none
  else match s.ports.getD p none with
  | none => some 0x51
  | some c => if 8 / 2 ^ c < 2 ^ (i.linkWidth p - 1) then some 0x15 else none

/-- Step 6: among ports that fail in different ways the numerically lowest code (R53). -/
def Sample.linkCode (s : Sample) (i : Image) : Option Nat :=
  let codes := (List.range 24).filterMap (s.portCode i)
  if codes.contains 0x15 then some 0x15 else codes.head?

/-- Steps 1 to 6 of R61: the first code. -/
def Dev.imageCheck (d : Dev) (fn : Nat) (scramble : Bool) (i : Image) : Option Nat :=
  let s := d.cricket.sample
  firstFail [(!i.usableBy fn, 0x19), (i.modeBad scramble, 0x14), (decide (d.period - 300 < i.wcet), 0x17),
    (s.partsUnmet i, 0x16), (s.notReady i, 0xA5), ((s.linkCode i).isSome, (s.linkCode i).getD 0)]

/-! ### Images in place of others (R165), and variants (R333) -/

/-- The image that an admission of `i` admits. -/
def Dev.resolve (d : Dev) (i : Image) : Option Image :=
  match i.subst with
  | some k => d.imageAt k
  | none => some i

/-- `a` comes before `b`: the lower VARIANT, then the lower index. -/
def variantBefore (a b : Image) : Bool := decide (a.variant < b.variant) || (a.variant == b.variant && decide (a.index < b.index))

/-- The first image of a list in that order. -/
def firstVariant : List Image → Option Image
  | [] => none
  | i :: l => match firstVariant l with
    | none => some i
    | some j => if variantBefore j i then some j else some i

/-- EFF of an image with the sampled IDLEPWR (R332). -/
def Dev.eff (d : Dev) (i : Image) : Nat := effOf i.envelope i.wcet d.cricket.sample.idle d.period

/-- The serving allowance of R335: the image, the envelope admitted, SHED. -/
def Dev.allowance (d : Dev) (fn : Nat) (l : List Image) : Option (Image × Nat × Nat) :=
  match l with
  | [] => none
  | x :: xs =>
    let e0 := (xs.map d.eff).foldl min (d.eff x)
    let c := d.fld (PWR.SRVTOKEN fn) 19 0
    match firstVariant (l.filter (fun (i : Image) => d.eff i == e0)), shedOf e0 c (d.num (TEN.TOKBUDGET fn)) d.cricket.sample.limit d.period with
    | some i, some shed => some (i, e0 - shed * c, shed)
    | _, _ => none

/-- Step 7: the candidate of lowest VARIANT that fits, or the serving allowance. -/
def Dev.pickVariant (d : Dev) (fn : Nat) (l : List Image) : Option (Image × Nat × Nat) :=
  match firstVariant (l.filter (fun (i : Image) => fitsBudget (d.eff i) d.cricket.sample.limit d.period)) with
  | some i => some (i, d.eff i, 0)
  | none => if l.all (fun (i : Image) => i.passKind == 3) then d.allowance fn l else none

/-- A HOLD keeps the job's ASSEMBLE images out of beat `n` (R293). -/
def Dev.heldOut (d : Dev) (j : Job) (n : Nat) (i : Image) : Bool := i.assembles && d.cricket.holds.contains (j.job, n)

/-- The job's next image (R369). -/
def Dev.jobImage (d : Dev) (j : Job) : Option Image :=
  ((j.script[j.step]?).bind (fun (st : ScriptStep) => d.imageAt st.image)).bind d.resolve

/-- What admission finds for one job: a code, or what beat `n` runs. A BEDROCK job in whose FAMILY a FLOAT image was registered
after it was accepted fails (R238). -/
def Dev.judgeJob (d : Dev) (j : Job) (n : Nat) : Except Nat NextBeat :=
  match d.jobImage j with
  | none => .error 0x19
  | some i =>
    match (if d.heldOut j n i then none else d.imageCheck j.fn j.scramble i) with
    | some c => .error c
    | none =>
      let all := d.cricket.images.filter (fun (x : Image) => x.family == i.family)
      if all.any (fun (x : Image) => x.float && !j.scramble && x.usableBy j.fn && decide (j.seq < x.born)) then .error 0x14 else
      let fam := all.filterMap d.resolve
      let ok := (fam.eraseDups).filter (fun (x : Image) => (d.imageCheck j.fn j.scramble x).isNone && !d.heldOut j n x)
      match d.pickVariant j.fn ok with
      | some r => .ok ⟨r.1, j.job, j.fn, j.scramble, r.2.1, r.2.2, false⟩
      | none => .error 0x18

/-- A job is refused: it fails with the code (R61). -/
def Dev.refuse (d : Dev) (j : Job) (code : Nat) : Dev := (d.endJob j code).err CKT.page 11

/-- The job has had a beat admitted. -/
def Dev.markAdmitted (d : Dev) (j : Job) : Dev :=
  { d with host := { d.host with jobs := d.host.jobs.map (fun (x : Job) =>
      if x.seq = j.seq then { x with admitted := true } else x) } }

/-- A HOLD leaves the job no candidate for beat `n`: its image and every other image of the family that could run (R293). -/
def Dev.heldBack (d : Dev) (j : Job) (n : Nat) : Bool :=
  match d.jobImage j with
  | none => false
  | some i =>
    d.heldOut j n i &&
    ((d.cricket.images.filter (fun (x : Image) => x.family == i.family)).filterMap d.resolve).all (fun (x : Image) =>
      d.heldOut j n x || (d.imageCheck j.fn j.scramble x).isSome)

/-- The candidates in order until one is admitted for beat `n`. -/
def Dev.admitFrom (n : Nat) : List Job → Dev → Dev
  | [], d => d
  | j :: l, d =>
    if d.heldBack j n then Dev.admitFrom n l d
    else match d.judgeJob j n with
    | .error c => Dev.admitFrom n l (d.refuse j c)
    | .ok x => (({ d with cricket := { d.cricket with next := some x } }).markAdmitted j)

/-- The resident tenancy's active jobs, cyclically from the one after the job that ran its last beat (R371). -/
def Dev.jobOrder (d : Dev) (fn : Nat) : List Job :=
  let l := d.host.jobs.filter (fun (j : Job) => j.fn == fn)
  let k := d.cricket.lastJob.get zeroNat fn
  l.filter (fun (j : Job) => decide (k ≤ j.seq)) ++ l.filter (fun (j : Job) => decide (j.seq < k))

/-- The jobs of a tenancy whose load failed fail at its first beat (R259). -/
def Dev.failLoaded (d : Dev) (t : Nat) : Dev :=
  if d.hive.badLoad.contains t then
    let d1 := d.failJobs t 0x31
    { d1 with hive := { d1.hive with badLoad := d1.hive.badLoad.filter (fun x => x != t) } }
  else d

/-- The jobs of tenancy `t` are considered for beat `n`; a serving image has its work list built (R263, R335). -/
def Dev.admitTenancy (d : Dev) (t n : Nat) : Dev :=
  let d0 := d.failLoaded t
  let d1 := Dev.admitFrom n (d0.jobOrder t) d0
  match d1.cricket.next with
  | some x => if x.image.passKind = 3 then d1.buildList t d1.beatNum x.shed else d1
  | none => d1

/-- A running switch goes on into beat `n`. -/
def Dev.switchGoesOn (d : Dev) (n : Nat) : Bool :=
  match d.hive.switching with
  | some w => decide (n ≤ w.lastBeat) || w.stage != 2
  | none => false

/-- The tenancy of beat `n` (R252-R255), and its jobs. -/
def Dev.chooseTenancy (d : Dev) (n : Nat) : Dev :=
  let d0 := { d with hive := { d.hive with switching := none } }
  let r := d0.nextTenancy n
  let d1 := { d0 with hive := { d0.hive with request := none } }
  if r.1 ≠ d1.resident then { d1 with hive := { d1.hive with switchTo := some r.1 } }
  else if r.2 then d1
  else d1.admitTenancy r.1 n

def Dev.admission (d : Dev) : Dev :=
  if d.cricket.phase != .marked || !d.host.fetched.isEmpty then d
  else
    let n := (d.beatNum + 1) % 2 ^ 64
    let d0 := (d.elapseTo (d.closeTick + 250)).promoteAll
    let d1 := { d0 with
      cricket := { d0.cricket with next := none }
      hive := { d0.hive with nextRows := [], switchTo := none } }
    let stop := d1.gridStops
    let d2 := if stop || d1.switchGoesOn n then d1 else d1.chooseTenancy n
    { d2 with cricket := { d2.cricket with phase := .admitted } }

/-- ADMISSION (R61). -/
def execAdmission (s : State) : Host.Outcome State Fault Refusal := onDev Dev.admission s

end Sys2Proof.Machine
end

