-- ==== Sys2Proof/Machine/Attention.lean ====
section
/-!
DEFINITION. Fused attention and the paged KV cache (09 R185-R207). A command that passes its checks computes everything
at once: its order of reads inside the command is not observable, and its end is MASSIF_OP_COMPLETE.
-/
namespace Sys2Proof.Machine

/-! ### Fields (R190, R191) -/
def aKvfmt (b : List Byte) : Nat := byteAt b 4
def aNseq (b : List Byte) : Nat := fieldAt b 0x08 4
def aDh (b : List Byte) : Nat := fieldAt b 0x0C 2
def aHkv (b : List Byte) : Nat := fieldAt b 0x0E 2
def aLayer (b : List Byte) : Nat := if opcodeOf b = 0x20 then fieldAt b 0x12 2 else fieldAt b 0x10 2
def aList (b : List Byte) : Nat := fieldAt b 0x28 8
def aHg (b : List Byte) : Nat := fieldAt b 0x10 2
def aHq (b : List Byte) : Nat := aHkv b * aHg b
def aPartial (b : List Byte) : Bool := bit (byteAt b 2) 1
def aMask (b : List Byte) : Nat := field (byteAt b 2) 3 2
def aSeglog (b : List Byte) : Nat := byteAt b 6
def aWindow (b : List Byte) : Nat := fieldAt b 0x14 4
def aQaddr (b : List Byte) : Nat := fieldAt b 0x30 8
def aQpitch (b : List Byte) : Nat := fieldAt b 0x38 4
def aScale (b : List Byte) : FVal := val32 (fieldAt b 0x3C 4)
def aQsaddr (b : List Byte) : Nat := fieldAt b 0x40 8
def aQspitch (b : List Byte) : Nat := fieldAt b 0x48 4
def aPfmt (b : List Byte) : Nat := byteAt b 0x60
def aOffset (b : List Byte) : Int := toSigned 32 (fieldAt b 0x64 4)
def aPaddr (b : List Byte) : Nat := fieldAt b 0x68 8
def aPpitch (b : List Byte) : Nat := fieldAt b 0x70 4
def aAbase (b : List Byte) : Nat := fieldAt b 0x74 4
def aExit (b : List Byte) : List Byte := (b.drop 0x80).take 64
def kPitch (b : List Byte) : Nat := fieldAt b 0x14 4
def kAddr (b : List Byte) : Nat := fieldAt b 0x30 8
def kVaddr (b : List Byte) : Nat := fieldAt b 0x38 8

/-- DIRPITCH, POOLBASE, FRAMEBYTES and POOLFRAMES of either descriptor. -/
def aDirpitch (b : List Byte) : Nat := if opcodeOf b = 0x20 then fieldAt b 0x4C 4 else fieldAt b 0x40 4
def aPoolbase (b : List Byte) : Nat := if opcodeOf b = 0x20 then fieldAt b 0x50 8 else fieldAt b 0x48 8
def aFrame (b : List Byte) : Nat := if opcodeOf b = 0x20 then fieldAt b 0x58 4 else fieldAt b 0x44 4
def aFrames (b : List Byte) : Nat := if opcodeOf b = 0x20 then fieldAt b 0x5C 4 else fieldAt b 0x50 4

/-- Bytes of a token's row of one head, and HEADBYTES (R185). -/
def aRow (b : List Byte) : Nat := fmtBytes (aKvfmt b) (aDh b)
def aHeadBytes (b : List Byte) : Nat := 512 * aRow b + 16 * aDh b

/-- WA of R205. -/
def aWork (b : List Byte) : Nat :=
  fmtBytes (mAfmt b) (32 * aDh b) + aDh b + 2 * (256 * aRow b + 8 * aDh b) + 32768 + 8448 + 128 * aDh b + 256

/-! ### Checks (R192) -/

/-- Check 1, shared. -/
def kvBadShared (b : List Byte) : Bool :=
  !(aKvfmt b == 4 || aKvfmt b == 8) || decide (8 < mGrid b ∨ 4096 < aNseq b ∨ aDh b % 32 ≠ 0 ∨ 256 < aDh b) ||
  decide (aHkv b = 0 ∨ 256 < aHkv b ∨ 1023 < aLayer b ∨ aFrames b = 0 ∨ aFrames b = 0xFFFFFFFF) ||
  !syncReservedOk b || decide (aFrame b < aHkv b * aHeadBytes b) || aFrame b % 4096 != 0

/-- Check 1, ATTN. -/
def attnBad1 (b : List Byte) : Bool :=
  let mx := fmtIsMx (mAfmt b)
  let x := aExit b
  kvBadShared b || field (byteAt b 2) 7 4 != 0 || decide (1 < aMask b) ||
  !(mAfmt b == 2 || mAfmt b == 4 || mAfmt b == 8) || !pairValid (mAfmt b) (aKvfmt b) ||
  decide (12 < aSeglog b ∨ aHg b = 0 ∨ 32 < aHg b ∨ 16777216 < aWindow b) || (aWindow b != 0 && aMask b != 1) ||
  (aScale b).isNan || (aScale b).isInf || (!mx && decide (aQsaddr b ≠ 0 ∨ aQspitch b ≠ 0)) ||
  !(aPfmt b == 2 || aPfmt b == 4) || fieldAt b 0x61 3 != 0 || fieldAt b 0x78 8 != 0 ||
  decide (aOffset b < -16777216 ∨ 16777216 < aOffset b) ||
  (if aPartial b then decide (aPpitch b < 4 * aHq b * aDh b + 8 * aHq b) || x != List.replicate 64 0#8
   else decide (aPaddr b ≠ 0 ∨ aPpitch b ≠ 0) || exitBad1 x false 0 || xDest x != 0 || decide (1 < xScaleMode x) ||
     xBiasMode x != 0 || xPmode x != 0)

/-- Check 1, KVAPPEND. -/
def kvBad1 (b : List Byte) : Bool :=
  kvBadShared b || field (byteAt b 2) 7 2 != 0 || !(mAfmt b == 0x20 || mAfmt b == 0x10 || mAfmt b == 0x11) ||
  byteAt b 6 != 0 || fieldAt b 0x12 2 != 0 || fieldAt b 0x54 44 != 0

/-- Check 3. -/
def kvBad3 (b : List Byte) : Bool :=
  let al := fun (l : List Nat) => l.any (fun a => a % 64 != 0)
  aPoolbase b % 4096 != 0 || al [aList b, aDirpitch b] ||
  (if opcodeOf b = 0x20 then
     al [aQaddr b, aQpitch b, aQsaddr b, aQspitch b, aPaddr b, aPpitch b, aAbase b] ||
       (!aPartial b && exitBad3 (aExit b) 0)
   else al [kPitch b, kAddr b, kVaddr b])

/-- R192. -/
def Dev.kvCheck (d : Dev) (b : List Byte) : Option Nat :=
  let attn := opcodeOf b == 0x20
  let r := regionOf (mGrid b)
  let mask := match d.curImage with | some i => i.partMask | none => 0
  firstFail [
    (if attn then attnBad1 b else kvBad1 b, 0x10),
    (aNseq b == 0 || aDh b == 0, 0x13),
    (kvBad3 b, 0x11),
    (!d.inRegion d.tenancy (aList b) (32 * aNseq b) ||
      !d.inRegion d.tenancy (aPoolbase b) (aFrames b * aFrame b) ||
      (attn && (decide (storeSize < aAbase b + aWork b) || (!aPartial b && exitBad4 (aExit b) 0 1 1))), 0x12),
    (r.parts.any (fun p => !bit mask p) || (d.heldCells r).any (fun x => decide (d.heldIn x = 2)), 0x10),
    (d.partsOff r.parts, 0xA5)]

/-! ### The sequence list (R187, R188) -/

/-- An entry of the list. -/
structure AttEntry where
  nq : Nat
  qrow : Nat
  pos : Nat
  ctx : Nat
  lp0 : Nat
  lp1 : Nat
  dir : Nat
  deriving DecidableEq, Repr

def attEntry (l : List Byte) (i : Nat) : AttEntry :=
  let e := (l.drop (32 * i)).take 32
  ⟨fieldAt e 0 4, fieldAt e 4 4, fieldAt e 8 4, fieldAt e 0xC 4, fieldAt e 0x10 4, fieldAt e 0x14 4, fieldAt e 0x18 8⟩

/-- Pages that hold visible keys. -/
def AttEntry.pages (e : AttEntry) : Nat := ceilDiv e.ctx 256

/-- Query rows of a KV head, and query tiles (R193). -/
def AttEntry.rows (e : AttEntry) (b : List Byte) : Nat := e.nq * aHg b
def AttEntry.tiles (e : AttEntry) (b : List Byte) : Nat := ceilDiv (e.rows b) 32

/-- Whether the Massif skips page `lp` for query tile `qt` (R196). -/
def AttEntry.skips (e : AttEntry) (b : List Byte) (qt lp : Nat) : Bool :=
  let pmin : Int := e.pos + 32 * qt / aHg b
  let pmax : Int := e.pos + (min (32 * qt + 31) (e.rows b - 1)) / aHg b
  decide (lp < e.lp0) || (e.lp1 != 0 && decide (e.lp1 ≤ lp)) || decide (e.ctx ≤ 256 * lp) ||
  (aMask b == 1 && decide ((256 * lp : Nat) > pmax + aOffset b)) ||
  (aWindow b != 0 && decide ((256 * lp + 255 : Nat) ≤ pmin + aOffset b - aWindow b))

/-- Pages that an ATTN entry uses, ascending. -/
def AttEntry.used (e : AttEntry) (b : List Byte) : List Nat :=
  (List.range e.pages).filter (fun lp => (List.range (e.tiles b)).any (fun qt => !e.skips b qt lp))

/-- Pages that an entry of either command uses. -/
def AttEntry.needs (e : AttEntry) (b : List Byte) : List Nat :=
  if e.nq = 0 then []
  else if opcodeOf b = 0x20 then e.used b
  else (List.range ((e.pos + e.nq - 1) / 256 - e.pos / 256 + 1)).map (fun i => e.pos / 256 + i)

/-- Address of the directory entry of page `lp` (R186). -/
def AttEntry.dirAt (e : AttEntry) (b : List Byte) (lp : Nat) : Nat := e.dir + aLayer b * aDirpitch b + 4 * lp

/-- Rows of a matrix that an entry uses lie in the region: base, pitch and bytes of one row. -/
def Dev.rowsIn (d : Dev) (e : AttEntry) (base pitch n : Nat) : Bool :=
  d.inRegion d.tenancy (base + e.qrow * pitch) ((e.nq - 1) * pitch + n)

/-- Ranges of one entry lie in the region (R188). -/
def Dev.entryIn (d : Dev) (b : List Byte) (e : AttEntry) : Bool :=
  let ps := e.needs b
  let w := aHq b * aDh b
  e.nq == 0 ||
  ((match ps.head?, ps.getLast? with
    | some lo, some hi => d.inRegion d.tenancy (e.dirAt b lo) (4 * (hi - lo + 1))
    | _, _ => true) &&
   (if opcodeOf b = 0x20 then
      d.rowsIn e (aQaddr b) (aQpitch b) (fmtBytes (mAfmt b) w) &&
      (!fmtIsMx (mAfmt b) || d.rowsIn e (aQsaddr b) (aQspitch b) (w / 32)) &&
      (if aPartial b then d.rowsIn e (aPaddr b) (aPpitch b) (4 * w + 8 * aHq b)
       else
        let x := aExit b
        d.rowsIn e (xOaddr x) (xOpitch x) (fmtBytes (xOut x) w) &&
          (!fmtIsMx (xOut x) || d.rowsIn e (xOscale x) (xOspitch x) (w / 32)))
    else
      let n := fmtBits (mAfmt b) / 8 * (aHkv b * aDh b)
      d.rowsIn e (kAddr b) (kPitch b) n && d.rowsIn e (kVaddr b) (kPitch b) n))

/-- R188 for one entry; `next` is the first query row that it may take. -/
def Dev.entryCheck (d : Dev) (b : List Byte) (e : AttEntry) (next : Nat) : Option Nat :=
  firstFail [
    (decide (65536 < e.nq ∨ 16777215 < e.pos ∨ 16777216 < e.pos + e.nq ∨ 16777216 < e.ctx) ||
      (e.lp1 != 0 && decide (e.lp1 ≤ e.lp0)) || (opcodeOf b == 0x20 && decide (e.qrow < next)), 0x10),
    (e.dir % 64 != 0, 0x11),
    (!d.entryIn b e, 0x12)]

/-- The first entry that fails: its index and code. -/
def Dev.listCheck (d : Dev) (b : List Byte) (l : List Byte) : Nat → Nat → Nat → Option (Nat × Nat)
  | 0, _, _ => none
  | n + 1, i, next =>
    let e := attEntry l i
    match d.entryCheck b e next with
    | some c => some (i, c)
    | none => d.listCheck b l n (i + 1) (if e.nq = 0 then next else e.qrow + e.nq)

/-- A directory entry that names no frame (R186): its address. -/
def Dev.badFrame (d : Dev) (b : List Byte) (es : List AttEntry) : Option Nat :=
  ((es.flatMap (fun e => (e.needs b).map (e.dirAt b))).find? (fun a =>
    decide (aFrames b ≤ leNat (d.mem.dram.readN a 4))))

/-- Base of the head block of KV head `h` on page `lp` (R185, R186). -/
def Dev.headAt (d : Dev) (b : List Byte) (e : AttEntry) (lp h : Nat) : Nat :=
  aPoolbase b + leNat (d.mem.dram.readN (e.dirAt b lp) 4) * aFrame b + h * aHeadBytes b

/-! ### The arithmetic (R197-R199) -/

/-- A row's state. -/
inductive AttSt where
  | empty
  | nan
  | st (m l : FVal) (o : List FVal)
  deriving DecidableEq, Repr

/-- A row's state with OVF of what every column shares and of each column. -/
structure AttRow where
  st : AttSt
  ovf : Bool
  cols : List Bool
  deriving DecidableEq, Repr

def attEmpty : AttRow := ⟨.empty, false, []⟩

/-- Column-wise or. -/
def orCols (a b : List Bool) : List Bool := tabulate (max a.length b.length) (fun i => a.getD i false || b.getD i false)

/-- A row of `n` elements of a format from packed bytes and scale bytes. -/
def rowVals (f n : Nat) (bs scales : List Byte) : List FVal :=
  tabulate n (fun j =>
    let v := decodeElem f (unpackElem f bs j)
    if fmtIsMx f then scaled v (byteAt scales (j / 32)) else v)

/-- K (`v` = 0) or V (`v` = 1) of token `t` in a head block (R185). -/
def Dev.kvRow (d : Dev) (b : List Byte) (head v t : Nat) : List FVal :=
  rowVals (aKvfmt b) (aDh b) (d.mem.dram.readN (head + v * 256 * aRow b + t * aRow b) (aRow b))
    (d.mem.dram.readN (head + 512 * aRow b + v * 8 * aDh b + t * (aDh b / 32)) (aDh b / 32))

/-- Query head `hq` of row `row` (R193). -/
def Dev.qRow (d : Dev) (b : List Byte) (row hq : Nat) : List FVal :=
  rowVals (mAfmt b) (aDh b)
    (d.mem.dram.readN (aQaddr b + row * aQpitch b + fmtBytes (mAfmt b) (hq * aDh b)) (fmtBytes (mAfmt b) (aDh b)))
    (if fmtIsMx (mAfmt b) then d.mem.dram.readN (aQsaddr b + row * aQspitch b + hq * aDh b / 32) (aDh b / 32) else [])

/-- Whether key position `k` is live for a query at position `p` (R195). -/
def liveKey (b : List Byte) (e : AttEntry) (p k : Nat) : Bool :=
  decide (k < e.ctx) && (aMask b == 0 || decide ((k : Int) ≤ p + aOffset b)) &&
  (aWindow b == 0 || decide ((k : Int) > p + aOffset b - aWindow b))

/-- fold_dot of R197. -/
def foldDot (grp : Nat) (prods : List (Option (FVal × FVal))) : FVal × Bool := foldElem grp grid32 false prods (.zero false)

/-- convert_p of R197: exact values of the converted probabilities. -/
def convertP (f : Nat) (p : List FVal) : List FVal :=
  if f = 4 then
    (chunks 32 p.length p).flatMap (fun c => let r := convertMx 4 c; r.2.1.map (fun x => scaled (decodeElem 4 x) r.1))
  else p.map (fun v => decodeElem f (convertTo f v true).1)

/-- block_state of R197: `z` are the scores of live keys with OVF, `vr t` the V row of token t. -/
def blockState (b : List Byte) (z : List (Option (FVal × Bool))) (vr : List (List FVal)) : AttRow :=
  let zs := z.filterMap id
  match zs with
  | [] => attEmpty
  | z0 :: rest =>
    let ovz := zs.any (fun x => x.2)
    if zs.any (fun x => x.1.isNan || x.1.isInf) then ⟨.nan, ovz, []⟩
    else
      let mb := rest.foldl (fun m x => fMax m x.1) z0.1
      let diffs := z.map (fun o => o.map (fun x => fAdd grid32 x.1 mb.negate))
      let ps := diffs.map (fun o => match o with | some x => crExp x.1 | none => (.zero false, false))
      let pq := convertP (aPfmt b) (ps.map (fun x => x.1))
      let lb := rowsum (pq.map jOf)
      let grp := groupSize (aPfmt b) (aKvfmt b)
      let o := tabulate (aDh b) (fun j =>
        foldDot grp (tabulate 256 (fun t =>
          if (z.getD t none).isSome then some (pq.getD t .nan, (vr.getD t []).getD j .nan) else none)))
      ⟨.st mb lb.1 (o.map (fun x => x.1)),
        ovz || bit lb.2 0 || ps.any (fun x => x.2) || diffs.any (fun o => match o with | some x => x.2 | none => false),
        o.map (fun x => x.2)⟩

/-- merge of R198: `a` covers the earlier pages. -/
def attMerge (a b : AttRow) : AttRow :=
  let ovf := a.ovf || b.ovf
  let cols := orCols a.cols b.cols
  match a.st, b.st with
  | .empty, s => ⟨s, ovf, cols⟩
  | s, .empty => ⟨s, ovf, cols⟩
  | .nan, _ => ⟨.nan, ovf, cols⟩
  | _, .nan => ⟨.nan, ovf, cols⟩
  | .st ma la oa, .st mb lb ob =>
    let m := fMax ma mb
    let da := fAdd grid32 ma m.negate
    let db := fAdd grid32 mb m.negate
    let ca := crExp da.1
    let cb := crExp db.1
    let step := fun (x y : FVal) =>
      let u := fMul grid32 x ca.1
      let v := fFma grid32 y cb.1 u.1
      (v.1, u.2 || v.2)
    let l := step la lb
    let o := tabulate oa.length (fun j => step (oa.getD j .nan) (ob.getD j .nan))
    ⟨.st m l.1 (o.map (fun x => x.1)), ovf || da.2 || db.2 || ca.2 || cb.2 || l.2, orCols cols (o.map (fun x => x.2))⟩

/-- finalise of R199: DH values with OVF of each column. -/
def attFinal (dh : Nat) (r : AttRow) : List (FVal × Bool) :=
  match r.st with
  | .empty => tabulate dh (fun j => (.zero false, r.ovf || r.cols.getD j false))
  | .nan => tabulate dh (fun j => (.nan, r.ovf || r.cols.getD j false))
  | .st _ l o =>
    let c := crRcp l
    tabulate dh (fun j =>
      let v := fMul grid32 (o.getD j .nan) c.1
      (v.1, v.2 || c.2 || r.ovf || r.cols.getD j false))

/-- The root state of row `r` of KV head `h` of an entry (R199). -/
def Dev.attRoot (d : Dev) (b : List Byte) (e : AttEntry) (h r : Nat) : AttRow :=
  let q := d.qRow b (e.qrow + r / aHg b) (h * aHg b + r % aHg b)
  let p := e.pos + r / aHg b
  let grp := groupSize (mAfmt b) (aKvfmt b)
  let block := fun (lp : Nat) =>
    if e.skips b (r / 32) lp then attEmpty
    else
      let head := d.headAt b e lp h
      let z := tabulate 256 (fun t =>
        if liveKey b e p (256 * lp + t) then
          let k := d.kvRow b head 0 t
          let s := foldDot grp (tabulate (aDh b) (fun j => some (q.getD j .nan, k.getD j .nan)))
          let v := fMul grid32 s.1 (aScale b)
          some (v.1, s.2 || v.2)
        else none)
      blockState b z (tabulate 256 (fun t => d.kvRow b head 1 t))
  let seg := 2 ^ aSeglog b
  let segs := tabulate (ceilDiv e.pages seg) (fun s =>
    (List.range (min seg (e.pages - s * seg))).foldl (fun a i => attMerge a (block (s * seg + i))) attEmpty)
  (treeOf attMerge segs.length segs).headD attEmpty

/-! ### Writing results (R193, R194, R201) -/

/-- Flags of a tile recorded in cluster `k`. -/
def Dev.recordIn (d : Dev) (k f : Nat) : Dev := (d.exitFlags k f).tileOverflow (partOfCluster k) f

/-- FP32 bits of a value in four bytes. -/
def bytes32 (v : FVal) : List Byte := leBytes 4 (enc32 v)

/-- PARTIAL = 1: row `r` of KV head `h` (R194). -/
def Dev.writePartial (d : Dev) (b : List Byte) (blk : Nat) (e : AttEntry) (h r : Nat) (s : AttRow) : Dev :=
  let hq := h * aHg b + r % aHg b
  let base := aPaddr b + (e.qrow + r / aHg b) * aPpitch b
  let v : FVal × FVal × List FVal := match s.st with
    | .empty => (.inf true, .zero false, List.replicate (aDh b) (.zero false))
    | .nan => (.nan, .nan, List.replicate (aDh b) .nan)
    | .st m l o => (m, l, o)
  (d.engWrite (base + 4 * (hq * aDh b)) (v.2.2.flatMap bytes32) blk).engWrite
    (base + 4 * aHq b * aDh b + 8 * hq) (bytes32 v.1 ++ bytes32 v.2.1) blk

/-- Output tile column `c` of query tile `qt`: exit and flags, in cluster `k` (R126, R193, R201). -/
def Dev.writeAttTile (d : Dev) (b : List Byte) (blk k : Nat) (e : AttEntry) (h qt c : Nat)
    (rows : List (List (FVal × Bool))) : Dev :=
  let x := aExit b
  let tab := d.pwlOf k
  let n := min 32 (e.rows b - 32 * qt)
  let res := tabulate n (fun i =>
    let vs := tabulate 32 (fun j => (rows.getD i []).getD (32 * c + j) (.nan, false))
    let ex := vs.map (fun v => exitValue x grid32 (fun _ _ => []) tab 0 0 0 0 v.1)
    let row := convRow (xOut x) (xSat x) (ex.map (fun v => v.1))
    let fl := orAll (vs.map (fun v => ovfOf v.2 ||| (if v.1.isNan then fNAN else 0))) ||| orAll (ex.map (fun v => v.2)) |||
      (if row.2.2 then fCVT else 0)
    (row, fl))
  let d1 := (List.range n).foldl (fun (d : Dev) i =>
    let r := 32 * qt + i
    let m := e.qrow + r / aHg b
    let col := (h * aHg b + r % aHg b) * aDh b + 32 * c
    let v := res.getD i (([], 0, false), 0)
    let d2 := d.engWrite (xOaddr x + m * xOpitch x + fmtBits (xOut x) * col / 8) (packElems (xOut x) v.1.1) blk
    if fmtIsMx (xOut x) then d2.engWrite (xOscale x + m * xOspitch x + col / 32) [BitVec.ofNat 8 v.1.2.1] blk else d2) d
  d1.recordIn k (orAll (res.map (fun v => v.2)))

/-- Flags of a root state in the 32 output columns of tile column `c` (R201). -/
def rootFlags (c : Nat) (s : AttRow) : Nat :=
  ovfOf (s.ovf || ((s.cols.drop (32 * c)).take 32).any id) ||| (match s.st with
    | .nan => fNAN
    | .st _ _ o => if ((o.drop (32 * c)).take 32).any FVal.isNan then fNAN else 0
    | .empty => 0)

/-- One (entry, KV head, query tile): its rows, in cluster `k`. -/
def Dev.attTile (d src : Dev) (b : List Byte) (blk k : Nat) (e : AttEntry) (h qt : Nat) : Dev :=
  let n := min 32 (e.rows b - 32 * qt)
  let roots := tabulate n (fun i => src.attRoot b e h (32 * qt + i))
  if aPartial b then
    let d1 := (List.range n).foldl (fun (d : Dev) i => d.writePartial b blk e h (32 * qt + i) (roots.getD i attEmpty)) d
    (List.range (aDh b / 32)).foldl (fun d c => d.recordIn k (orAll (roots.map (rootFlags c)))) d1
  else
    let rows := roots.map (attFinal (aDh b))
    (List.range (aDh b / 32)).foldl (fun d c => d.writeAttTile b blk k e h qt c rows) d

/-- What the command reads of device memory. -/
def Dev.attReads (d : Dev) (b : List Byte) (es : List AttEntry) : List (Nat × Nat) :=
  es.flatMap (fun e =>
    if e.nq = 0 then []
    else
      let ps := e.needs b
      let w := aHq b * aDh b
      ps.map (fun lp => (e.dirAt b lp, 4)) ++
      (List.range e.nq).flatMap (fun q =>
        if opcodeOf b = 0x20 then
          (aQaddr b + (e.qrow + q) * aQpitch b, fmtBytes (mAfmt b) w) ::
            (if fmtIsMx (mAfmt b) then [(aQsaddr b + (e.qrow + q) * aQspitch b, w / 32)] else [])
        else
          let n := fmtBits (mAfmt b) / 8 * (aHkv b * aDh b)
          [(kAddr b + (e.qrow + q) * kPitch b, n), (kVaddr b + (e.qrow + q) * kPitch b, n)]) ++
      (if opcodeOf b = 0x20 then
        ps.flatMap (fun lp => (List.range (aHkv b)).map (fun h => (d.headAt b e lp h, aHeadBytes b)))
       else []))

/-- Units (entry, KV head, query tile) in listing order (R204). -/
def attUnits (b : List Byte) (es : List AttEntry) : List (AttEntry × Nat × Nat) :=
  es.flatMap (fun e => (List.range (aHkv b)).flatMap (fun h => (List.range (e.tiles b)).map (fun qt => (e, h, qt))))

/-- Segments of an entry (R199). -/
def AttEntry.segs (e : AttEntry) (b : List Byte) : Nat := ceilDiv e.pages (2 ^ aSeglog b)

/-- Units of work (entry, KV head, segment, query tile) in listing order (R204). -/
def attWork (b : List Byte) (es : List AttEntry) : List (AttEntry × Nat × Nat) :=
  es.flatMap (fun e => (List.range (aHkv b)).flatMap (fun _ =>
    (List.range (e.segs b)).flatMap (fun s => (List.range (e.tiles b)).map (fun qt => (e, s, qt)))))

/-- The pages travel through the Col buffers (R178, R204): each block that a unit does not skip enters the store of the cell
that the unit is dealt to. -/
def Dev.attPages (d : Dev) (b : List Byte) (es : List AttEntry) : Dev :=
  let reg := regionOf (mGrid b)
  let units := attWork b es
  let seg := 2 ^ aSeglog b
  (List.range units.length).foldl (fun (d : Dev) i =>
    match units[i]? with
    | some u =>
      let n := ((List.range seg).filter (fun j =>
        decide (u.2.1 * seg + j < u.1.pages) && !u.1.skips b u.2.2 (u.2.1 * seg + j))).length
      let g := i % (reg.ra * reg.ca)
      d.countPlaced (reg.cell (g / reg.ca) (g % reg.ca)) (n * aHeadBytes b)
    | none => d) d

/-- ATTN's results. -/
def Dev.attRun (d : Dev) (b : List Byte) (es : List AttEntry) : Dev :=
  let reg := regionOf (mGrid b)
  let ks := reg.clusters
  let units := attUnits b es
  let blk := blockName .msf (reg.parts.headD 0)
  let d0 := (List.range (reg.ra * reg.ca)).foldl (fun d i => d.csOpen (reg.cell (i / reg.ca) (i % reg.ca)) (aAbase b) (aWork b)) d
  (List.range units.length).foldl (fun (d1 : Dev) g =>
    match units[g]? with
    | some u => d1.attTile d b blk (ks.getD (g % ks.length) 0) u.1 u.2.1 u.2.2
    | none => d1) d0

/-! ### KVAPPEND (R202) -/

/-- One row of `n` source values in KVFMT: packed elements, scale bytes, flags. -/
def kvConvert (f : Nat) (sat : Bool) (vs : List FVal) : List Byte × List Byte × Nat :=
  let r := (chunks 32 vs.length vs).map (fun c => (convRow f sat c))
  (packElems f (r.flatMap (fun c => c.1)), r.map (fun c => BitVec.ofNat 8 c.2.1),
    orAll (vs.map infNan) ||| (if r.any (fun c => c.2.2) then fCVT else 0))

/-- K or V of token `q`, head `h` of an entry; which cell's exit it leaves by is open (a free cluster of the region). -/
def Dev.appendRow (d : Dev) (b : List Byte) (blk : Nat) (e : AttEntry) (q h v : Nat) : Dev :=
  let es := fmtBits (mAfmt b) / 8
  let base := (if v = 0 then kAddr b else kVaddr b) + (e.qrow + q) * kPitch b + es * (h * aDh b)
  let bytes := d.mem.dram.readN base (es * aDh b)
  let r := kvConvert (aKvfmt b) (bit (byteAt b 2) 1) (tabulate (aDh b) (fun j => decodeElem (mAfmt b) (fieldAt bytes (es * j) es)))
  let p := e.pos + q
  let head := d.headAt b e (p / 256) h
  let t := p % 256
  let d1 := d.engWrite (head + v * 256 * aRow b + t * aRow b) r.1 blk
  let d2 := d1.engWrite (head + 512 * aRow b + v * 8 * aDh b + t * (aDh b / 32)) r.2.1 blk
  let ks := (regionOf (mGrid b)).clusters
  let n := d2.freshNat
  n.2.recordIn (ks.getD (n.1 % ks.length) 0) r.2.2

def Dev.appendRun (d : Dev) (b : List Byte) (es : List AttEntry) : Dev :=
  let blk := blockName .msf ((regionOf (mGrid b)).parts.headD 0)
  es.foldl (fun d e =>
    (List.range e.nq).foldl (fun d q =>
      (List.range (aHkv b)).foldl (fun d h => (d.appendRow b blk e q h 0).appendRow b blk e q h 1) d) d) d

/-! ### The commands -/

/-- A list command at the head of the queue: checks, list, directory, results; then it waits for MASSIF_OP_COMPLETE.
An ATTN's pages travel through the Col buffers: a Col descriptor that runs completes first (R178, R204). -/
def Dev.kvCommand (d : Dev) (op : Nat) : Dev :=
  if !d.issuing then d
  else match d.massifHead op with
  | none => d
  | some q =>
    let b := q.bytes
    match d.headCode b (d.kvCheck b) with
    | some c => d.massifFail q c 0
    | none =>
      if !(d.waitOk b && d.mayStart (mFence b)) || (op == 0x20 && d.col.run.isSome) then d
      else
        let r := d.engRead (aList b) (32 * aNseq b)
        match r.2.listCheck b r.1 (aNseq b) 0 0 with
        | some f => r.2.listFail q f.2 (aList b + 32 * f.1)
        | none =>
          let es := (List.range (aNseq b)).map (attEntry r.1)
          match r.2.badFrame b es with
          | some a => r.2.listFail q 0x12 a
          | none =>
            let d0 := (r.2.touchAll (r.2.attReads b es)).niCheck (regionOf (mGrid b))
            let d1 := { d0 with massif := { d0.massif with tileOvf := false } }
            let d2 := if op = 0x20 then (((d1.stageCheck (regionOf (mGrid b)).bufs).attPages b es).colBusy d1).attRun b es
              else d1.appendRun b es
            let d3 := (descParts b).foldl (fun d p =>
              ({ d with freeCtr := d.freeCtr + 1 }).countFold p (Config.freeNat d.freeCtr) (mPace b)) d2
            let o : MassifOp := ⟨q, d3.massif.seq, [], [], 0, 0, 0, d3.massif.tileOvf⟩
            let d4 := d3.massifPop
            ({ d4 with massif := { d4.massif with
              unwritten := d4.massif.unwritten ++ [o], seq := d3.massif.seq + 1 } }).countIssue

/-- ATTN (R190-R201). -/
def execAttn (s : State) : Host.Outcome State Fault Refusal := onBeat (·.kvCommand 0x20) s

/-- KVAPPEND (R191, R202). -/
def execKvappend (s : State) : Host.Outcome State Fault Refusal := onBeat (·.kvCommand 0x21) s

end Sys2Proof.Machine
end

