-- ==== Sys2Proof/Machine/Trust.lean ====
section
/-!
DEFINITION. Firmware verification, recovery and the fuse counter (18 R373-R376).
-/
namespace Sys2Proof.Machine

/-- Largest body and header sizes (R373). -/
def maxBody : Nat := 0x2000000
def hdrSize : Nat := 0x4000

/-- Fields of the firmware header (R373). -/
def fwMagicOk (h : List Byte) : Bool :=
  fieldAt h 0 4 == 0x5A374657 && fieldAt h 4 2 == 1 && fieldAt h 6 2 == 0 &&
  decide (fieldAt h 0xC 4 % 4096 = 0 ∧ fieldAt h 0xC 4 ≤ maxBody) && (h.drop 0x1C7B).all (fun b => b == 0#8)
def fwSvn (h : List Byte) : Nat := fieldAt h 8 4
/-- Length of the body; 0 where the header fails step 2, so that no body is read. -/
def fwBodyLen (h : List Byte) : Nat := if fwMagicOk h then fieldAt h 0xC 4 else 0
def fwEntry (h : List Byte) : Nat := fieldAt h 0x10 8
def fwPubkey (h : List Byte) : List Byte := (h.drop 0x18).take 2592
def fwDigest (h : List Byte) : List Byte := (h.drop 0xA38).take 48
def fwSignature (h : List Byte) : List Byte := (h.drop 0xA68).take 4627
/-- The signed part of the header. -/
def fwSigned (h : List Byte) : List Byte := h.take 0xA68

/-- The key slot that step 3 finds: the first that holds the digest and is not revoked. -/
def Dev.keySlotOf (d : Dev) (h : List Byte) : Option Nat :=
  (List.range 4).find? (fun i => !d.trust.revoked.getLsbD i && d.trust.keySlots[i]? == some (sha3_384 (fwPubkey h)))

/-- Steps 2 to 6 of R374 on a header and a body: the code of the first step that fails, or the key slot. -/
def Dev.verifyImage (d : Dev) (h body : List Byte) : Except Nat Nat :=
  if !fwMagicOk h then .error 0xA0
  else match d.keySlotOf h with
  | none => .error 0xA0
  | some k =>
    if sha3_384 body ≠ fwDigest h then .error 0xA0
    else if !Config.mldsaVerify (fwPubkey h) (sha3_384 (fwSigned h)) (fwSignature h) then .error 0xA0
    else if fwSvn h < d.trust.fuseCtr then .error 0xA1
    else .ok k

/-- `n` bytes of a byte store. -/
def bytesOf (f : Nat → Byte) (m : SMap Byte) (a n : Nat) : List Byte := SMap.getRange f m a n
def zeroB (_ : Nat) : Byte := 0#8

/-- Words of a digest register block. -/
def Dev.setDigest (d : Dev) (a : Nat → Nat) (bs : List Byte) : Dev :=
  (List.range 12).foldl (fun d i => d.setNum (a i) (fieldAt bs (4 * i) 4)) d

/-- Recovery is entered (R374, R375, R383). -/
def Dev.enterRecovery18 (d : Dev) (code : Nat) (failed : Bool) : Dev :=
  let d1 := { d with trust := { d.trust with boot := .recovery } }
  let d2 := ((d1.raise HST.RECOVERY 0).irq HST.page 2).setNum ASC.SVCSTATE 3
  let d3 := (d2.setNum TRU.BOOTSTAT code).setDigest TRU.FWDIGEST []
  let d4 := if failed then d3.err TRU.page 9 else d3
  d4.setReady TRU.page true

/-- Step 7 of R374: measurements are recorded and CP[0] jumps to ENTRY. -/
def Dev.runFirmware (d : Dev) (h : List Byte) (slot : Nat) (pushed : Bool) : Dev :=
  let d1 := { d with trust := { d.trust with boot := .running, entry := fwEntry h, fromPush := pushed } }
  let d2 := (d1.setFld TRU.SVN 7 0 (fwSvn h)).setFld TRU.KEYSLOT 1 0 slot
  let d3 := (d2.setNum TRU.BOOTSTAT (if pushed then 2 ^ 9 else 2 ^ 8)).setDigest TRU.FWDIGEST (sha3_384 (fwSigned h))
  ((d3.drop HST.RECOVERY 0).drop HST.RECOVERY 1).setReady TRU.page true

def Dev.firmwareVerifyDone (d : Dev) : Dev :=
  match d.trust.boot with
  | .verifyFlash =>
    let sel := d.module.bootsel.toNat
    if sel = 1 then d.enterRecovery18 0 false
    else if 2 ≤ sel then d.enterRecovery18 0xA2 false
    else
      let h := bytesOf ffByte d.trust.flash 0 hdrSize
      let body := bytesOf ffByte d.trust.flash hdrSize (fwBodyLen h)
      let d1 := if fwMagicOk h && (d.keySlotOf h).isSome then
          { d with trust := { d.trust with fwMem := d.trust.fwMem.setRange zeroB 0 body, hdrBuf := SMap.seg zeroB 0 h } }
        else d
      match d1.verifyImage h body with
      | .error c => d1.enterRecovery18 c true
      | .ok k => d1.runFirmware h k false
  | _ => d

/-- FIRMWARE_VERIFY_DONE (R374). -/
def execFirmwareVerifyDone (s : State) : Host.Outcome State Fault Refusal := onDev Dev.firmwareVerifyDone s

/-- A write of HST.RECOVERY (R375, R379): PERSIST is RW; GO counts in recovery while it reads 0. -/
def Dev.writeRecovery (d : Dev) (v : Word) : Dev :=
  let d1 := d.setFlag HST.RECOVERY 2 (bit v.toNat 2)
  if bit v.toNat 1 && d1.trust.boot == .recovery && !d1.flag HST.RECOVERY 1 then
    { d1 with trust := { d1.trust with boot := .verifyPush } }.raise HST.RECOVERY 1
  else d1

/-- RECOVERY_GO (R375). -/
def execRecoveryGo (r : Requester) (v : Word) (s : State) : Host.Outcome State Fault Refusal :=
  onDev (onPf r (·.writeRecovery (v ||| 2#32))) s

def Dev.pushVerifyDone (d : Dev) : Dev :=
  match d.trust.boot with
  | .verifyPush =>
    let h := bytesOf zeroB d.trust.hdrBuf 0 hdrSize
    let body := bytesOf zeroB d.trust.fwMem 0 (fwBodyLen h)
    match d.verifyImage h body with
    | .error c =>
      ((({ d with trust := { d.trust with boot := .recovery } }.setFld TRU.BOOTSTAT 7 0 c).drop HST.RECOVERY 1).err
        TRU.page 9)
    | .ok k =>
      if d.flag HST.RECOVERY 2 then
        { d with trust := { d.trust with boot := .programming, flash := d.trust.flash.clear 0 (hdrSize + maxBody) } }
      else d.runFirmware h k true
  | _ => d

/-- PUSH_VERIFY_DONE (R375): programming with PERSIST begins by erasing, so an interrupted one leaves no valid image. -/
def execPushVerifyDone (s : State) : Host.Outcome State Fault Refusal := onDev Dev.pushVerifyDone s

/-- Free bytes for a flash range whose read-back mismatched. -/
def freeBytes (seed n : Nat) : List Byte := tabulate n (fun i => Config.freeByte seed i)

def Dev.flashProgramDone (d : Dev) (ok : Bool) : Dev :=
  match d.trust.boot with
  | .programming =>
    let h := bytesOf zeroB d.trust.hdrBuf 0 hdrSize
    let n := d.num HST.IMGLEN
    let img := h ++ bytesOf zeroB d.trust.fwMem 0 (n - hdrSize)
    let d1 := { d with trust := { d.trust with
      flash := d.trust.flash.setRange ffByte 0 (if ok then img else freeBytes d.freeCtr n) }, freeCtr := d.freeCtr + 1 }
    let d2 := if ok then d1 else d1.err HST.page 10
    d2.runFirmware h ((d2.keySlotOf h).getD 0) true
  | _ => d

/-- FLASH_PROGRAM_DONE (R375): the verified pushed image runs in either case. -/
def execFlashProgramDone (readBackOk : Bool) (s : State) : Host.Outcome State Fault Refusal :=
  onDev (·.flashProgramDone readBackOk) s

/-- The requesters whose SVNCOMMIT may be performed (R376): the PF and CP[0]. -/
def maySvnCommit : Requester → Bool
  | .host => true
  | .cp c => c == 0
  | .vf _ => false

/-- A write of TRU.SVNCOMMIT (R376). -/
def Dev.writeSvncommit (d : Dev) (r : Requester) (v : Word) : Dev :=
  let n := field v.toNat 7 0
  if maySvnCommit r && decide (d.trust.fuseCtr < n ∧ n ≤ d.fld TRU.SVN 7 0 ∧ n ≤ 64) then
    { d with trust := { d.trust with svnTarget := max d.trust.svnTarget n } }
  else d.err TRU.page 8

/-- SVNCOMMIT (R376). -/
def execSvncommit (r : Requester) (v : Word) (s : State) : Host.Outcome State Fault Refusal :=
  onDev (onPf r (·.writeSvncommit r v)) s

def Dev.fuseBlown (d : Dev) : Dev :=
  if d.trust.fuseCtr < d.trust.svnTarget then
    { d with trust := { d.trust with fuseCtr := d.trust.fuseCtr + 1 } }.setFld TRU.SVN 15 8 (d.trust.fuseCtr + 1)
  else d

/-- FUSE_BLOWN (R376). -/
def execFuseBlown (s : State) : Host.Outcome State Fault Refusal := onDev Dev.fuseBlown s

end Sys2Proof.Machine
end

