-- ==== Sys2Proof/Machine/Bar2.lean ====
section
/-!
DEFINITION. BAR2, the host's window into device memory (02 R49, 10 R218, 18 R365, R375, 19 R382, R394).
-/
namespace Sys2Proof.Machine

/-- BAR2 spans 64 GiB. -/
def bar2Span : Nat := 2 ^ 36

/-- BAR2BASE of function `fn`, in GiB. -/
def Dev.bar2Base (d : Dev) (fn : Nat) : Nat := d.fld (if fn = 0 then HST.BAR2BASE else viewBase fn + 0x60) 9 0

/-- The device address of BAR2 offset `off` of function `fn` (R49, R365). -/
def Dev.bar2Addr (d : Dev) (fn off : Nat) : Nat := (d.region fn).1 + d.bar2Base fn * 2 ^ 30 + off

/-- The request lies in the function's region (R365). -/
def Dev.bar2Inside (d : Dev) (fn off n : Nat) : Bool :=
  let r := d.region fn
  decide (d.bar2Addr fn off + n ≤ r.1 + r.2)

/-- An access with Unsupported Request. -/
def Dev.unsupported (d : Dev) : Dev := { d with bus := { d.bus with readData := [], resp := .unsupported } }

/-- The device is in recovery: the PF's BAR2 reaches the push window (R375). -/
def Dev.pushOpen (d : Dev) (fn : Nat) : Bool := fn == 0 && d.flag HST.RECOVERY 0

/-- One byte of the push window: the header buffer, then the firmware memory; 0 beyond. -/
def Dev.pushByte (d : Dev) (off : Nat) : Byte :=
  if off < hdrSize then d.trust.hdrBuf.get zeroB off
  else if off < hdrSize + maxBody then d.trust.fwMem.get zeroB (off - hdrSize)
  else 0#8

/-- Bytes written to the push window. -/
def Dev.pushWrite (d : Dev) (off : Nat) (bs : List Byte) : Dev :=
  let inHdr := bs.take (hdrSize - off)
  let rest := bs.drop (hdrSize - off)
  let at_ := max off hdrSize - hdrSize
  { d with trust := { d.trust with
      hdrBuf := d.trust.hdrBuf.setRange zeroB off inHdr
      fwMem := d.trust.fwMem.setRange zeroB at_ (rest.take (maxBody - at_)) } }

/-- The stack of a block is READY (R382). -/
def Dev.blockReady (d : Dev) (blk : Nat) : Bool := d.ready (STK.page (blk % 12))

/-- Requests that a reset of the stack or of its slice absorbs (R393, R396). -/
def Dev.blockAbsorbed (d : Dev) (blk : Nat) : Bool := d.inReset (STK.page (blk % 12)) || d.inReset (MSC.page (blk % 12))

/-- A part of a host read inside one block: all ones where the stack is not READY, a reset absorbs it, or the block has an
uncorrectable error, which is counted and fails no beat (R218, R382). -/
def Dev.hostReadPart (d : Dev) (a n : Nat) : List Byte × Dev :=
  let ones := List.replicate n 0xFF#8
  let blk := a / 256
  if d.blockAbsorbed blk then (ones, d.absorb)
  else if !d.blockReady blk then (ones, d)
  else
    let r := d.quietRead a n
    (if r.1 then ones else r.2.1, r.2.2)

/-- A range cut at the boundaries of 256-byte blocks: address and length of each part. -/
def blockParts (a n : Nat) : List (Nat × Nat) :=
  (blocksOf a n).map (fun b => (max a (256 * b), min (a + n) (256 * b + 256) - max a (256 * b)))

/-- A host read of device memory. -/
def Dev.hostRead (d : Dev) (a n : Nat) : List Byte × Dev :=
  (blockParts a n).foldl (fun (acc : List Byte × Dev) (p : Nat × Nat) =>
    (acc.1 ++ (acc.2.hostReadPart p.1 p.2).1, (acc.2.hostReadPart p.1 p.2).2)) ([], d)

def Dev.bar2Read (d : Dev) (fn off len : Nat) : Dev :=
  if bar2Span < off + len then d
  else if d.deviceInReset then d.absorb.answer (List.replicate len 0xFF#8)
  else if d.pushOpen fn then d.answer (tabulate len (fun i => d.pushByte (off + i)))
  else if !d.bar2Inside fn off len then d.unsupported
  else (d.hostRead (d.bar2Addr fn off) len).2.answer (d.hostRead (d.bar2Addr fn off) len).1

/-- BAR2_READ (R49). -/
def execBar2Read (fn : Fin 16) (off len : Nat) (s : State) : Host.Outcome State Fault Refusal := onDev (·.bar2Read fn off len) s

/-- A part of a host write inside one block: discarded where the stack is not READY or a reset absorbs it. -/
def Dev.hostWritePart (d : Dev) (a : Nat) (bs : List Byte) : Dev :=
  let blk := a / 256
  if d.blockAbsorbed blk then d.absorb
  else if !d.blockReady blk then d
  else d.memWrite a bs

/-- A host write of device memory. -/
def Dev.hostStore (d : Dev) (a : Nat) (bs : List Byte) : Dev :=
  (blockParts a bs.length).foldl (fun (d : Dev) (p : Nat × Nat) => d.hostWritePart p.1 ((bs.drop (p.1 - a)).take p.2)) d

def Dev.bar2Write (d : Dev) (fn off : Nat) (bs : List Byte) : Dev :=
  if bar2Span < off + bs.length then d
  else if d.deviceInReset then d.absorb
  else if d.pushOpen fn then d.pushWrite off bs
  else if !d.bar2Inside fn off bs.length then d.unsupported
  else d.hostStore (d.bar2Addr fn off) bs

/-- BAR2_WRITE (R49). -/
def execBar2Write (fn : Fin 16) (off : Nat) (bytes : List Byte) (s : State) : Host.Outcome State Fault Refusal :=
  onDev (·.bar2Write fn off bytes) s

end Sys2Proof.Machine
end

