-- ==== Sys2Proof/Machine/Control.lean ====
section
/-!
DEFINITION. CTRL of every page (02 R41, R42), run control and mailboxes of the control processors (02 R47, R48), and the
two APX registers with rows of their own (16 R347, R348).
-/
namespace Sys2Proof.Machine

/-! ### CTRL (R41, R42) -/

/-- ABORT on any page: the port of a training that is stopped falls to DARK (log entry 16), a warm-up is no longer counted; a
context save or load that is stopped has failed when the mover's CONTEXT_SAVE_DONE or CONTEXT_LOAD_DONE finds HIV not BUSY
(log entry 26). -/
def Dev.abortPage (d : Dev) (p : Page) : Dev :=
  let b := p.base
  if d.flag (oCtrl b) 1 || d.inReset b || !d.busy b then d
  else match p.blk with
  | .lnk => ((d.endLong b 0x24).fallDark p.inst).lastCode b 0x24
  | .forager => { d with forager := { d.forager with warm := none } }.endLong b 0x24
  | _ => d.ctrlAbortPage p

/-- A write of CTRL on page `p` of slot `slot`: ENABLE takes the written value; RESET written with ABORT, or ABORT while RESET
reads 1, drops the ABORT. A RESET while RESET reads 1 is merged (R397). -/
def Dev.writeCtrl (d : Dev) (slot : Nat) (p : Page) (enable reset abort : Bool) : Dev :=
  let d1 := if d.enable p.base == enable then d else d.ctrlEnablePage p enable
  if reset then (if d1.flag (oCtrl p.base) 1 then d1 else d1.ctrlResetPage slot p)
  else if abort then d1.abortPage p
  else d1

/-- Whether requester `r` reaches page `p` (R365): a VF reaches the SYN pages of its grant and no other. -/
def Dev.pageReach (d : Dev) (r : Requester) (p : Page) : Bool :=
  match r with
  | .vf _ => p.blk == .syn && d.synReach r p.inst
  | _ => true

/-- CTRL of BAR0 slot `slot` is written by `r`; an unassigned slot discards it (R33). -/
def Dev.ctrlWrite (d : Dev) (r : Requester) (slot : Nat) (enable reset abort : Bool) : Dev :=
  match pageAt slot with
  | some p => if d.pageReach r p then d.writeCtrl slot p enable reset abort else d
  | none => d

/-- CTRL_RESET (R41, R42): RESET is written 1, with ENABLE and ABORT as given. -/
def execCtrlReset (r : Requester) (slot : Nat) (enable abort : Bool) (s : State) : Host.Outcome State Fault Refusal :=
  onDev (·.ctrlWrite r slot enable true abort) s

/-- CTRL_ENABLE (R41): RESET and ABORT are written 0. -/
def execCtrlEnable (r : Requester) (slot : Nat) (on : Bool) (s : State) : Host.Outcome State Fault Refusal :=
  onDev (·.ctrlWrite r slot on false false) s

/-- CTRL_ABORT (R41): ABORT is written 1, with ENABLE as given. -/
def execCtrlAbort (r : Requester) (slot : Nat) (enable : Bool) (s : State) : Host.Outcome State Fault Refusal :=
  onDev (·.ctrlWrite r slot enable false true) s

/-! ### Control processors (R47, R48) -/

/-- CPSTATE.STATE: 0 reset, 1 running, 2 halted, 3 waiting for interrupt. -/
def Dev.cpState (d : Dev) (c : Nat) : Nat := d.fld (CPU.CPSTATE c) 1 0

/-- RUN takes effect (R48): from STATE 0 the CP starts at BOOTADDR, from 2 it resumes at HALTPC; RUN = 0 halts it, at a
program counter that is the program's own (a free value). -/
def Dev.cpRun (d : Dev) (c : Nat) (run : Bool) : Dev :=
  if run then
    if d.cpState c = 0 then d.cpStart c
    else if d.cpState c = 2 then (d.setFld (CPU.CPSTATE c) 1 0 1).setNum64 (CPU.HALTPC c) 0
    else d
  else if d.cpState c = 1 ∨ d.cpState c = 3 then
    (d.freshNat.2.setFld (CPU.CPSTATE c) 1 0 2).setNum64 (CPU.HALTPC c) (d.freshNat.1 % 2 ^ 64)
  else d

/-- A write of CPCTRL: CPRESET holds the CP in STATE 0 until the reset ends. -/
def Dev.writeCpctrl (d : Dev) (c : Nat) (run reset : Bool) : Dev :=
  let d1 := d.setFlag (CPU.CPCTRL c) 0 run
  if reset then (d1.cpReset c).raise (CPU.CPCTRL c) 1
  else if d1.flag (CPU.CPCTRL c) 1 || d1.inReset (CPU.page c) then d1
  else d1.cpRun c run

/-- CPCTRL_RUN (R48). -/
def execCpctrlRun (r : Requester) (c : Fin 4) (run : Bool) (s : State) : Host.Outcome State Fault Refusal :=
  onDev (onPf r (·.writeCpctrl c run false)) s

/-- CPRESET (R48): RUN as written with it. -/
def execCpreset (r : Requester) (c : Fin 4) (run : Bool) (s : State) : Host.Outcome State Fault Refusal :=
  onDev (onPf r (·.writeCpctrl c run true)) s

def Dev.cpResetEnd (d : Dev) (c : Nat) : Dev :=
  if d.flag (CPU.CPCTRL c) 1 then (d.drop (CPU.CPCTRL c) 1).cpStart c else d

/-- CP_RESET_END (R48): the CP starts at BOOTADDR if RUN is set. -/
def execCpResetEnd (c : Fin 4) (s : State) : Host.Outcome State Fault Refusal := onDev (·.cpResetEnd c) s

/-- MBOXIN takes a value (R48): a write of its high half sets IRQSUM[0]. A page under reset absorbs mailbox writes (R396). -/
def Dev.putMboxin (d : Dev) (c v : Nat) : Dev :=
  if d.inReset (CPU.page c) then d.absorb else (d.setNum64 (CPU.MBOXIN c) v).irq (CPU.page c) 0

/-- MBOXOUT takes a value (R48): IRQSUM[1] where CP[c] itself writes it. -/
def Dev.putMboxout (d : Dev) (r : Requester) (c v : Nat) : Dev :=
  if d.inReset (CPU.page c) then d.absorb
  else
    let d1 := d.setNum64 (CPU.MBOXOUT c) v
    match r with
    | .cp k => if k.val = c then d1.irq (CPU.page c) 1 else d1
    | _ => d1

/-! ### CLKOUT and the frequency counters (R347, R348) -/

/-- CLKOUTCTRL_WRITE (R347). -/
def execClkoutctrlWrite (r : Requester) (v : Word) (s : State) : Host.Outcome State Fault Refusal :=
  onDev (onPf r (·.writeClkout v)) s

/-- FC_GO (R348): the write sets GO. -/
def execFcGo (r : Requester) (v : Word) (s : State) : Host.Outcome State Fault Refusal :=
  onDev (onPf r (·.writeFcctrl (v ||| 0x10000#32))) s

end Sys2Proof.Machine
end

