-- ==== Sys2Proof/Machine/HostIf.lean ====
section
/-!
DEFINITION. The job descriptors of the host (18 R369, R370) that act on jobs and images, the end of a registration, and the
function-level reset of a VF (18 R364).
-/
namespace Sys2Proof.Machine

/-! ### RUN (R369, R370) -/

/-- The steps of a script. -/
def scriptSteps (bs : List Byte) (n : Nat) : List ScriptStep :=
  (List.range n).map (fun i => (⟨fieldAt bs (8 * i) 2, fieldAt bs (8 * i + 4) 4⟩ : ScriptStep))

/-- A step is out of range: a reserved field, a COUNT of 0, an index that no image has (log entry 9). -/
def scriptBad (bs : List Byte) (n : Nat) : Bool :=
  (List.range n).any (fun i => fieldAt bs (8 * i + 2) 2 != 0 || fieldAt bs (8 * i + 4) 4 == 0 || decide (255 < fieldAt bs (8 * i) 2))

/-- An active or waiting RUN has this JOB (log entry 9). -/
def Dev.jobNamed (d : Dev) (job : Word) : Bool :=
  d.host.jobs.any (fun (j : Job) => j.job == job) || d.host.waiting.any (fun (j : Job) => j.job == job)

/-- The mode check of a script over the images registered now (R3, R370). -/
def Dev.scriptMode (d : Dev) (scramble : Bool) (steps : List ScriptStep) : Bool :=
  steps.any (fun (st : ScriptStep) => match d.imageAt st.image with
    | some i => if scramble then !i.scrambleOk else !i.bedrockOk || i.float
    | none => false)

/-- A RUN: its code, or the job. The script is read once; an uncorrectable error in it is STACK_UNCORRECTABLE (log 9). -/
def Dev.runJob (fn : Nat) (d : Dev) (b : List Byte) : Dev :=
  let a := jAddr b
  let n := jArg b
  let job := BitVec.ofNat 32 (jJob b)
  let inside := d.inRegion fn a (8 * n)
  if jobReservedBad fn b || d.jobNamed job then d.refuseJob fn b 0x10
  else
    let r := if inside then d.quietRead a (8 * n) else (false, [], d)
    let d1 := r.2.2
    if inside && !r.1 && scriptBad r.2.1 n then d1.refuseJob fn b 0x10
    else if a % 64 ≠ 0 then d1.refuseJob fn b 0x11
    else if !inside then d1.refuseJob fn b 0x12
    else if r.1 then d1.refuseJob fn b 0x31
    else
      let steps := scriptSteps r.2.1 n
      let scr := bit (jdFlags b) 0
      if d1.scriptMode scr steps then d1.refuseJob fn b 0x14
      else
        let left := (steps.head?.map (fun (st : ScriptStep) => st.count)).getD 0
        let j : Job := ⟨d1.host.seq, fn, scr, job, steps, 0, left, d1.noLastBeat.1, false⟩
        let d2 := d1.noLastBeat.2
        let d3 := { d2 with host := { d2.host with seq := d2.host.seq + 1 } }
        if activeOf d3.host.jobs fn < 16 && activeOf d3.host.waiting fn == 0 then
          { d3 with host := { d3.host with jobs := d3.host.jobs ++ [j] } }
        else { d3 with host := { d3.host with waiting := d3.host.waiting ++ [j] } }

/-- RUN (R370). -/
def execRun (fn : Fin 16) (s : State) : Host.Outcome State Fault Refusal :=
  onDev (·.jobCommand fn (fun b => jType b == 1) (Dev.runJob fn)) s

/-! ### CANCEL (R370) -/

def Dev.cancelJob (fn : Nat) (d : Dev) (b : List Byte) : Dev :=
  let job := BitVec.ofNat 32 (jArg b)
  let mine := fun (j : Job) => j.fn == fn && j.job == job
  match (d.host.jobs ++ d.host.waiting).find? mine with
  | some j => if jobReservedBad fn b then d.refuseJob fn b 0x10 else (d.endJob j 0x24).answerJob fn b 0 0 0
  | none =>
    if jobReservedBad fn b || !d.host.ended.contains (fn, job) then d.refuseJob fn b 0x10 else d.answerJob fn b 0 0 0

/-- CANCEL (R370): a job that has ended in this window keeps its own code. -/
def execCancel (fn : Fin 16) (s : State) : Host.Outcome State Fault Refusal :=
  onDev (·.jobCommand fn (fun b => jType b == 2) (Dev.cancelJob fn)) s

/-! ### Images (R60, R370) -/

/-- The index is registered or its registration runs. -/
def Dev.indexUsed (d : Dev) (k : Nat) : Bool := (d.imageAt k).isSome || d.host.regs.any (fun (r : ImgReg) => r.index == k)

def Dev.imgReg (fn : Nat) (d : Dev) (b : List Byte) : Dev :=
  let k := jImage b
  if jobReservedBad fn b || d.indexUsed k then d.refuseJob fn b 0x10
  else if jAddr b % 64 ≠ 0 then d.refuseJob fn b 0x11
  else if !d.inRegion fn (jAddr b) 256 then d.refuseJob fn b 0x12
  else { d with host := { d.host with
    regs := d.host.regs ++ [⟨fn, k, bit (jdFlags b) 1, BitVec.ofNat 32 (jJob b), jAddr b⟩] } }

/-- IMGREG (R370): the checks run in the background. -/
def execImgreg (fn : Fin 16) (s : State) : Host.Outcome State Fault Refusal :=
  onDev (·.jobCommand fn (fun b => jType b == 3) (Dev.imgReg fn)) s

/-- The oldest registration ends (R60, R370). -/
def Dev.registrationDone (d : Dev) : Dev :=
  match d.host.regs with
  | [] => d
  | r :: rest =>
    let d0 := { d with host := { d.host with regs := rest } }
    let c := d0.checkImage r
    let done := fun (d : Dev) code => d.postDone r.fn ⟨r.job, code, 3, r.index, d.beatNum, 0⟩
    match c.1 with
    | .ok i => done (c.2.enterImage i) 0
    | .error code => done (c.2.err CKT.page 11) code

/-- IMAGE_REGISTRATION_DONE (R60). -/
def execImageRegistrationDone (s : State) : Host.Outcome State Fault Refusal := onDev Dev.registrationDone s

def Dev.imgDereg (fn : Nat) (d : Dev) (b : List Byte) : Dev :=
  let owned := match d.imageAt (jImage b) with
    | some i => i.owner == fn
    | none => false
  if jobReservedBad fn b || !owned then d.refuseJob fn b 0x10 else (d.removeImage (jImage b)).answerJob fn b 0 (jImage b) 0

/-- IMGDEREG (R370, R165). -/
def execImgdereg (fn : Fin 16) (s : State) : Host.Outcome State Fault Refusal :=
  onDev (·.jobCommand fn (fun b => jType b == 4) (Dev.imgDereg fn)) s

/-! ### The reset of one VF (R364) -/

/-- What the device holds for function `fn` of its rings: jobs end, encodes and an admitted beat among them, and their
completions are discarded. -/
def Dev.dropFunction (d : Dev) (fn : Nat) : Dev :=
  let keepJob := fun (j : Job) => j.fn != fn
  let keep := fun (p : Nat × Completion) => p.1 != fn
  { d with
    cricket := { d.cricket with next := d.cricket.next.filter (fun (x : NextBeat) => x.fn != fn) }
    forager := { d.forager with enc := d.forager.enc.filter (fun (e : Enc) => e.fn != fn) }
    host := { d.host with
      fetching := d.host.fetching.filter (fun x => x != fn)
      fetched := d.host.fetched.filter (fun (p : Nat × List Byte) => p.1 != fn)
      done := d.host.done.filter keep
      held := d.host.held.filter keep
      waiting := d.host.waiting.filter keepJob
      jobs := d.host.jobs.filter keepJob
      regs := d.host.regs.filter (fun (r : ImgReg) => r.fn != fn) } }

def Dev.vfFlr (d : Dev) (v : Nat) : Dev :=
  if v = 0 then d
  else
    let d1 := ((d.dropFunction v).setFlag (ringReg v 0x58) 0 false).setFlag (TEN.TENSTAT v) 0 false
    let running := match d1.cricket.cur with
      | some b => b.fn == v && b.image.isSome
      | none => false
    if d1.fld HIV.RESIDENT 3 0 = v then
      (if running then d1.beatFail 0xB0 (blockName .asc 0) 0 else d1).clearOnDie
    else d1

/-- VF_FLR (R364): VFs are 1 to 15. -/
def execVfFlr (v : Fin 16) (s : State) : Host.Outcome State Fault Refusal := onDev (·.vfFlr v) s

end Sys2Proof.Machine
end

