-- ==== Sys2Proof/Machine/Reduce.lean ====
section
/-!
DEFINITION. REDUCE and UPDATE (11 R234-R247): their checks, the steps of R241, the FLOAT tree, the update microprogram
and the completion of a Stag descriptor.
-/
namespace Sys2Proof.Machine

/-! ### Checks (R240) -/

/-- The update block as it stands in device memory. -/
def Dev.updBlock (d : Dev) (b : List Byte) : List Byte := d.mem.dram.readN (sgUpdaddr b) 128

/-- The block is judged where it lies, aligned, within the region. -/
def Dev.updInside (d : Dev) (b : List Byte) : Bool := sgUpdaddr b % 64 == 0 && d.inRegion d.tenancy (sgUpdaddr b) 128

/-- What a REDUCE reads, and writes on this device by itself. -/
def Dev.redReads (d : Dev) (b g : List Byte) (u : List Byte) : List (Nat × Nat) :=
  let k := (d.mySources g).length
  let isUpd := opcodeOf b == 3
  (if k = 0 ∨ isUpd then [] else [(sgGaddr b, (k - 1) * sgGpitch b + 4 * sgNval b)]) ++
  (if isUpd then [] else [accRange b g (sgAcc b), expRange b g (sgExp b)]) ++
  (if isUpd ∨ sgFmt b = 1 ∨ k = 0 then [] else [(sgEaddr b, 4 * bucketBlocks (sgNval b))]) ++
  (if sgUpd b then (sgUpdaddr b, 128) :: ubReads u else [])
def redWrites (b g u : List Byte) : List (Nat × Nat) :=
  (sgGacc b, 4 * myValues b g) ::
  (if sgUpd b then ubWrites u (4096 * myFirst b g) (myValues b g) else [])

/-- The slot is ARMED or COMPLETE from the ARM that this REDUCE goes with, and no REDUCE has named it since. -/
def Dev.armMatches (d : Dev) (b : List Byte) : Bool :=
  let s := d.slot (sgSlot b)
  match s.arm with
  | none => false
  | some q =>
    !s.named && sgBtag q.bytes == sgBtag b && sgFmt q.bytes == sgFmt b && sgNval q.bytes == sgNval b &&
      armAcc q.bytes == sgAcc b && armExp q.bytes == sgExp b

/-- Reserved fields and ranges of a REDUCE or UPDATE (R239). -/
def redFieldsOk (b : List Byte) : Bool :=
  field (byteAt b 2) 7 4 == 0 && field (byteAt b 3) 7 4 == 0 && fieldAt b 6 2 == 0 && syncReservedOk b &&
  field (sgEsync b) 30 17 == 0 && field (sgDsync b) 30 17 == 0 && fieldAt b 0x64 28 == 0 &&
  decide (sgNval b ≤ 67108864) && (sgUpd b || sgUpdaddr b == 0) &&
  (if opcodeOf b = 3 then
    sgFmt b == 0 && !sgAccStart b && sgUpd b && byteAt b 3 == 0 && sgBtag b == 0 && sgGpitch b == 0 && sgGaddr b == 0 &&
      sgAcc b == 0 && sgExp b == 0
   else sgFmt b == 0 || (sgEaddr b == 0 && sgEsync b == 0))

/-- R240 for a REDUCE or an UPDATE. -/
def Dev.redCheck (d : Dev) (b : List Byte) : Option Nat :=
  let inside := d.grpInside (sgGroup b)
  let valid := d.grpValid b
  let g := if valid then d.grpTable (sgGroup b) else []
  let u := if sgUpd b && d.updInside b then d.updBlock b else []
  let ubBad := sgUpd b && d.updInside b && valid && !ubOk u (sgNval b) (grpNown g)
  firstFail [
    (!redFieldsOk b || (inside && !valid) || (opcodeOf b == 2 && !d.armMatches b) || ubBad, 0x10),
    (sgNval b == 0, 0x13),
    ([sgEaddr b, sgAcc b, sgExp b, sgGacc b].any (fun a => a % 256 != 0) ||
      [sgGroup b, sgGaddr b, sgGpitch b, sgUpdaddr b].any (fun a => a % 64 != 0), 0x11),
    (!inside || (sgUpd b && !d.updInside b) || (d.redReads b g u).any (fun r => !d.rangeOk r.1 r.2) ||
      (redWrites b g u).any (fun r => !d.rangeOk r.1 r.2), 0x12),
    (opcodeOf b == 2 && sgFmt b == 0 &&
      !(d.allPinned (sgAcc b) (accRange b g (sgAcc b)).2 && d.allPinned (sgExp b) (expRange b g (sgExp b)).2), 0x42),
    ((redWrites b g u).any (fun r => !d.writeOk r.1 r.2), 0x12)]

/-! ### Active descriptors and what they send -/

/-- Change the active descriptor with number `n`. -/
def Dev.setAct (d : Dev) (n : Nat) (f : StagAct → StagAct) : Dev :=
  { d with stag := { d.stag with act := d.stag.act.map (fun a => if a.desc.idx = n then f a else a) } }

/-- The active REDUCE of a slot. -/
def Dev.actOf (d : Dev) (slot : Nat) : Option StagAct := d.stag.act.find? (fun a => a.slot == slot)

/-- The active descriptor with number `n`. -/
def Dev.actNo (d : Dev) (n : Nat) : Option StagAct := d.stag.act.find? (fun a => a.desc.idx == n)

/-- STG unit `unit` sends a request for step `step` of descriptor `n` (R248); its table entry is remembered until it
completes. -/
def Dev.stagSend (n step unit : Nat) (d : Dev) (t : Txn) : Dev :=
  let ip := if t.dstRank = d.rank then 31 else d.routePort t.dstRank
  let before := (d.table ip).length
  let d1 := d.issueRequest unit t
  match (d1.table ip).getLast? with
  | some o =>
    if before < (d1.table ip).length then d1.setAct n (fun a => { a with sent := a.sent ++ [(step, ip, o.tag, o.gen)] }) else d1
  | none => d1

/-- Every request of the given steps has completed. -/
def Dev.sentDone (d : Dev) (a : StagAct) (ok : Nat → Bool) : Bool :=
  a.sent.all (fun (e : Nat × Nat × Nat × Nat) =>
    !ok e.1 || !(d.table e.2.1).any (fun o => o.tag == e.2.2.1 && o.gen == e.2.2.2))

/-- A reduction line (R230, R313) that the unit of the stack of `from_` sends (R248), where LINESOUT counts it. -/
def Dev.sendLine (n step slot btag dst op src seq addr elems from_ : Nat) (payload : List Byte) (d : Dev) : Dev :=
  let t := d.mkReq 3 dst (ceilDiv payload.length 32) seq addr
    (op + 2 ^ 8 * src + 2 ^ 22 * slot + 2 ^ 32 * btag + 2 ^ 48 * (elems - 1)) (padTo (32 * ceilDiv payload.length 32) 0#8 payload)
  Dev.stagSend n step (stackOf from_) (d.count64 (STG.LINESOUT (stackOf from_)) 1) t

/-- An RWRITE of bytes, cut at 256-byte boundaries (R313); `unit` gives the unit that sends the piece at an address. -/
def Dev.sendWrite (n step dst : Nat) (unit : Nat → Nat) : Nat → Dev → Nat → List Byte → Dev
  | 0, d, _, _ => d
  | fuel + 1, d, a, bs =>
    if bs = [] then d
    else
      let k := min bs.length (256 - a % 256)
      let t := d.mkReq 1 dst (ceilDiv k 32) k a 0 (padTo (32 * ceilDiv k 32) 0#8 (bs.take k))
      Dev.sendWrite n step dst unit fuel (Dev.stagSend n step (unit a) d t) (a + k) (bs.drop k)

/-- A SYNC that signals an object by 1. -/
def Dev.sendSync (n step unit dst obj : Nat) (d : Dev) : Dev := Dev.stagSend n step unit d (d.mkReq 4 dst 0 1 obj 0 [])

/-! ### EXACT (R234, R235) -/

/-- Value `i` of this device's `k`-th source; padding is +0. -/
def Dev.gradient (d : Dev) (b : List Byte) (k i : Nat) : FVal :=
  if i < sgNval b then d.f32At (sgGaddr b + k * sgGpitch b) i else .zero false

/-- The exponent word of one block. -/
def expWord (vs : List FVal) : Nat :=
  if vs.any (fun v => v.isNan || v.isInf) then 0x7FFFFFFF
  else match maxLog2 vs with
  | none => 0
  | some l => (256 + l).toNat

/-- exact_source. -/
def exactSource (v : FVal) (w : Nat) : Int :=
  match v with
  | .fin m e => rneInt m (e + 285 - w)
  | _ => 0

/-- exact_owner: the value, RFLAGS bits. -/
def exactOwner (s : Int) (w : Nat) : FVal × Nat :=
  if w = 0 then (.zero false, 0)
  else if w = 0x7FFFFFFF then (.nan, 2)
  else
    let r := (FVal.ofInt s ((w : Int) - 285)).round grid32
    (r.1, if r.2 then 1 else 0)

/-- Addresses of the values of this device's sources with one lane-cycle each (R248). -/
def Dev.sourceLanes (d : Dev) (b g : List Byte) : List (Nat × Nat) :=
  (List.range (d.mySources g).length).flatMap (fun k =>
    (List.range (sgNval b)).map (fun i => (sgGaddr b + k * sgGpitch b + 4 * i, 1)))

/-- Step 1: exponent words of every block to each owner. -/
def Dev.stepOne (d : Dev) (q : QDesc) (g : List Byte) : Dev :=
  let b := q.bytes
  let src := d.mySources g
  let p := grpNown g
  let d0 := (d.touchAll (tabulate src.length (fun k => (sgGaddr b + k * sgGpitch b, 4 * sgNval b)))).laneBusy (d.sourceLanes b g)
  (List.range src.length).foldl (fun (d : Dev) k =>
    (List.range p).foldl (fun (d : Dev) j =>
      let fb := firstBlock j (sgNval b) p
      let nb := shardBlocks j (sgNval b) p
      (List.range (expLines nb)).foldl (fun (d : Dev) e =>
        let ws := tabulate (min 64 (nb - 64 * e)) (fun i =>
          expWord (tabulate 4096 (fun t => d.gradient b k (4096 * (fb + 64 * e + i) + t))))
        d.sendLine q.idx 1 (sgSlot b) (sgBtag b) ((grpOwners g).getD j 0) 0x04 (src.getD k 0) e (sgExp b + 256 * e) ws.length
          (sgGaddr b + k * sgGpitch b + 16384 * (fb + 64 * e)) (ws.flatMap (leBytes 4))) d) d) d0

/-- Step 2: the agreed words of the shard to every distinct source device, ESYNC on each; the unit of the shard's first GACC
entry sends them (log entry 25). -/
def Dev.stepTwo (d : Dev) (q : QDesc) (g : List Byte) (words : List Nat) : Dev :=
  let b := q.bytes
  (grpSrcdev g).eraseDups.foldl (fun (d : Dev) r =>
    let bs := words.flatMap (leBytes 4)
    let unit := stackOf (sgGacc b)
    let d1 := Dev.sendWrite q.idx 2 r (fun _ => unit) (bs.length + 1) d (sgEaddr b + 4 * myFirst b g) bs
    if syncValid (sgEsync b) then d1.sendSync q.idx 2 unit r (syncObj (sgEsync b)) else d1) d

/-- Step 3: the integers of R235 to each owner. -/
def Dev.stepThree (d : Dev) (q : QDesc) (g : List Byte) : Dev :=
  let b := q.bytes
  let src := d.mySources g
  let p := grpNown g
  let d0 := (d.touchAll [(sgEaddr b, 4 * bucketBlocks (sgNval b))]).laneBusy (d.sourceLanes b g)
  (List.range src.length).foldl (fun (d : Dev) k =>
    (List.range p).foldl (fun (d : Dev) j =>
      let fb := firstBlock j (sgNval b) p
      let nb := shardBlocks j (sgNval b) p
      (List.range (128 * nb)).foldl (fun (d : Dev) x =>
        let w := leNat (d.mem.dram.readN (sgEaddr b + 4 * (fb + x / 128)) 4)
        if w = 0 ∨ w = 0x7FFFFFFF then d
        else
          let qs := tabulate 32 (fun t => ofSigned 32 (exactSource (d.gradient b k (4096 * fb + 32 * x + t)) w))
          d.sendLine q.idx 3 (sgSlot b) (sgBtag b) ((grpOwners g).getD j 0) 0x03 (src.getD k 0) (expLines nb + x)
            (sgAcc b + 256 * x) 32 (sgGaddr b + k * sgGpitch b + 4 * (4096 * fb + 32 * x)) (qs.flatMap (leBytes 4))) d) d) d0

/-! ### FLOAT (R237) -/

/-- The partial sums of bucket line `x` that this device holds: its own gradients at level 0. -/
def treeKey (slot x : Nat) : Nat := 2 ^ 21 * slot + x
def noLine (_ : Nat) : List Word := []
def Dev.treeLine (d : Dev) (b : List Byte) (x : Nat) : List Word :=
  match d.stag.tree.get noLine (treeKey (sgSlot b) x) with
  | [] => tabulate (min 64 (sgNval b - 64 * x)) (fun i => BitVec.ofNat 32 (leNat (d.mem.dram.readN (sgGaddr b + 4 * (64 * x + i)) 4)))
  | l => l

/-- A shard's role on this device has ended: the level after the last. -/
def shardOver (p : Nat) : Nat := treeLevels p + 1

/-- A node passes up while it has no child, sends when it is a right child, and stops at the root or where it waits
(R237). -/
def Dev.treeWalk (q : QDesc) (g : List Byte) (self j : Nat) : Nat → Dev → Nat → Dev × Nat
  | 0, d, v => (d, v)
  | fuel + 1, d, v =>
    let p := grpNown g
    let u := (self + p - j) % p
    if treeLevels p ≤ v then (d, v)
    else if u % 2 ^ (v + 1) ≠ 0 then
      let up := (u - 2 ^ v + j) % p
      let dst := (grpOwners g).getD up 0
      let b := q.bytes
      let d1 := (shardLines j (sgNval b) p).foldl (fun (d : Dev) x =>
        let ws := d.treeLine b x
        d.sendLine q.idx 1 (sgSlot b) (sgBtag b) dst 0x20 self (x - 64 * firstBlock j (sgNval b) p)
          (stagingLine (sgAcc b) (sgNval b) p up v x) ws.length (sgGaddr b + 256 * x) (ws.flatMap (fun w => leBytes 4 w.toNat))) d
      (d1, shardOver p)
    else if u + 2 ^ v < p ∧ shardLines j (sgNval q.bytes) p ≠ [] then (d, v)
    else Dev.treeWalk q g self j fuel d (v + 1)

/-- The level of shard `j` is recorded. -/
def Dev.setLevel (d : Dev) (n j v : Nat) : Dev := d.setAct n (fun a => { a with levels := setAt a.levels j v })

/-- Every shard's node walks from its level. -/
def Dev.treeStart (d : Dev) (q : QDesc) (g : List Byte) : Dev :=
  match ownerIdx g with
  | none => d
  | some self =>
    (List.range (grpNown g)).foldl (fun (d : Dev) j =>
      let r := Dev.treeWalk q g self j (treeLevels (grpNown g) + 1) d 0
      r.1.setLevel q.idx j r.2) d

/-- The child's delivery of shard `j` at level `v` has arrived whole. -/
def Dev.childHere (d : Dev) (a : StagAct) (self j v : Nat) : Bool :=
  let p := grpNown a.group
  let s := d.slot a.slot
  (shardLines j (sgNval a.desc.bytes) p).all (fun x => s.arrived.contains (treeSender self v p, x))

/-- One line's addition: sums, RFLAGS bits. -/
def addLines (x y : List Word) : List Word × Nat :=
  let r := tabulate x.length (fun i => jAdd (jOf (val32 (x.getD i 0#32).toNat)) (jOf (val32 (y.getD i 0#32).toNat)))
  let f := orAll (r.map (fun e => e.2))
  (r.map (fun e => BitVec.ofNat 32 (enc32 e.1)), (if bit f 0 then 1 else 0) + (if bit f 2 then 2 else 0))

/-- The node of shard `j` adds its child's delivery at level `v` and walks on. -/
def Dev.treeAdd (d : Dev) (a : StagAct) (self j v : Nat) : Dev :=
  let b := a.desc.bytes
  let p := grpNown a.group
  let lines := shardLines j (sgNval b) p
  let d1 := lines.foldl (fun (d : Dev) x =>
    let at_ := stagingLine (sgAcc b) (sgNval b) p self v x
    let own := d.treeLine b x
    let kid := tabulate own.length (fun i => BitVec.ofNat 32 (leNat (d.mem.dram.readN (at_ + 4 * i) 4)))
    let r := addLines own kid
    ({ d with stag := { d.stag with tree := d.stag.tree.set noLine (treeKey a.slot x) r.1 } }).stagFlags (stackOf at_) r.2) d
  let d2 := d1.laneBusy (lines.map (fun x =>
    (stagingLine (sgAcc b) (sgNval b) p self v x, min 64 (sgNval b - 64 * x))))
  let r := Dev.treeWalk a.desc a.group self j (treeLevels p + 1) d2 (v + 1)
  r.1.setLevel a.desc.idx j r.2

def Dev.floatTreeAdd (d : Dev) (slot : Nat) : Dev :=
  if !d.running then d
  else match d.actOf slot with
  | none => d
  | some a =>
    match ownerIdx a.group with
    | none => d
    | some self =>
      if sgFmt a.desc.bytes = 0 then d
      else (List.range (grpNown a.group)).foldl (fun (d : Dev) j =>
        let v := a.levels.getD j 0
        if v < treeLevels (grpNown a.group) && d.childHere a self j v then d.treeAdd a self j v else d) d

/-- FLOAT_TREE_ADD (R237). -/
def execFloatTreeAdd (slot : Fin 16) (s : State) : Host.Outcome State Fault Refusal := onBeat (·.floatTreeAdd slot) s

/-! ### Step 5 (R241, R244-R247) -/

/-- After the weights of a shard are final: the output conversion, its distribution and DSYNC; the step is done. -/
def Dev.finishUpdate (d : Dev) (a : StagAct) : Dev :=
  let b := a.desc.bytes
  let u := d.updBlock b
  let n := myValues b a.group
  let first := 4096 * myFirst b a.group
  let o := d.outBytes u n
  let rs := ubOutRanges u first n
  let outs := (rs.zip [o.1, o.2]).map (fun (e : (Nat × Nat) × List Byte) => (e.1.1, e.2))
  let unit := fun (base len x : Nat) => stackOf (sgGacc b + 4 * (n * (x - base) / max 1 len))
  let d1 := if sgDist b then
      (grpReplicas a.group).foldl (fun (d : Dev) r =>
        let d1 := outs.foldl (fun (d : Dev) (e : Nat × List Byte) =>
          Dev.sendWrite a.desc.idx 5 r (unit e.1 e.2.length) (e.2.length + 1) d e.1 e.2) d
        if syncValid (sgDsync b) then d1.sendSync a.desc.idx 5 (stackOf (sgGacc b)) r (syncObj (sgDsync b)) else d1) d
    else outs.foldl (fun (d : Dev) (e : Nat × List Byte) => d.engWrite e.1 e.2 (blockName .stg 0)) d
  d1.setAct a.desc.idx (fun a => { a with updated := true })

/-- The opcode of instruction `i` of a microprogram, and its operand codes (R246). -/
def Dev.microWord (d : Dev) (u : List Byte) (i : Nat) : Nat := leNat (d.mem.dram.readN (ubProgaddr u + 4 * i) 4)
def microOps : List Nat := [1, 2, 3, 4, 5, 6, 7, 8, 9, 0xA, 0xB, 0xC, 0xD, 0xE, 0xF, 0x3F]
/-- The length of a legal program, with its END: the checks that the Stag makes once (R246). -/
def Dev.microLength (d : Dev) (u : List Byte) : Nat → Nat → Option Nat
  | 0, _ => none
  | fuel + 1, i =>
    let w := d.microWord u i
    if !microOps.contains (field w 7 0) || decide (16 ≤ field w 12 8) || field w 31 28 != 0 then none
    else if field w 7 0 = 0x3F then some (i + 1)
    else d.microLength u fuel (i + 1)

/-- Every instruction of the list is checked, those after END too. -/
def Dev.microLegal (d : Dev) (u : List Byte) : Bool :=
  ((List.range (ubNprog u)).all (fun i =>
    let w := d.microWord u i
    microOps.contains (field w 7 0) && decide (field w 12 8 < 16) && field w 31 28 == 0)) && (d.microLength u (ubNprog u) 0).isSome

/-- Lane-cycles of an instruction (R246). -/
def microCost (op : Nat) : Nat := if op = 0x3F then 0 else if [5, 6, 7, 0xE, 0xF].contains op then 4 else 1
def Dev.progCost (d : Dev) (u : List Byte) : Nat :=
  (List.range ((d.microLength u (ubNprog u) 0).getD 0)).foldl (fun s i => s + microCost (field (d.microWord u i) 7 0)) 0

/-- Registers before value `i`: g, w, the state streams, +0; g's own flags count (R246). -/
def Dev.microLoad (d : Dev) (a : StagAct) (i : Nat) : Dev :=
  let b := a.desc.bytes
  let u := d.updBlock b
  let g := jMul (jOf (d.f32At (sgGacc b) i)) (jOf (ubConst u 7))
  let regs := enc32 g.1 :: enc32 (d.f32At (ubWaddr u) i) ::
    tabulate (ubNstate u) (fun k => enc32 (d.f32At (ubSaddr u + k * ubSpitch u) i))
  let x : SMap Word := SMap.seg zeroWord 0 (regs.map (fun r => BitVec.ofNat 32 r))
  ({ d with stag := { d.stag with micro := { d.stag.micro with x := x, pc := 0, idx := i, running := true } } }).stagFlags
    (stackOf (sgGacc b + 4 * i)) (updFlags g.2)

/-- Units that hold a part of the shard's GACC. -/
def gaccUnits (b g : List Byte) : List Nat :=
  (List.range 12).filter (fun s => (List.range (ceilDiv (4 * myValues b g) 256)).any (fun i => stackOf (sgGacc b + 256 * i) == s))

/-- Step 5 begins. -/
def Dev.stepFive (d : Dev) (a : StagAct) : Dev :=
  let b := a.desc.bytes
  let u := d.updBlock b
  let n := myValues b a.group
  let gacc := sgGacc b
  let outLane := if ubWfmt u = 0 then 0 else 1
  let lanes := fun (c : Nat) => (List.range n).map (fun i => (gacc + 4 * i, c + outLane))
  let d0 := d.touchAll ((sgUpdaddr b, 128) :: (ubReads u ++ (gacc, 4 * n) :: (ubWaddr u, 4 * n) :: ubStateRanges u n))
  if ubOpt u = 6 then
    if d0.stag.micro.running then d
    else if !d0.microLegal u then
      (((gaccUnits b a.group).foldl (fun d s => d.err (STG.page s) 10) d0).stagCode 0x61).beatFail 0x61 (blockName .stg 0) (ubProgaddr u)
    else if n = 0 then d0.finishUpdate a
    else
      let d1 := { d0 with stag := { d0.stag with micro := ⟨[], 0, 0, n, true, a.desc.idx⟩ } }
      (d1.laneBusy (lanes (d1.progCost u))).microLoad a 0
  else if ubOpt u = 5 then ((d0.runBands u gacc n).laneBusy (lanes (optCost u) ++ bandLanes u gacc n)).finishUpdate a
  else ((d0.runSimple u gacc n).laneBusy (lanes (optCost u))).finishUpdate a

/-! ### The commands of R241 -/

/-- Every REDUCE before number `n` has finished step 4. -/
def Dev.earlierConverted (d : Dev) (n : Nat) : Bool := d.stag.act.all (fun a => decide (n ≤ a.desc.idx) || a.converted)

def Dev.stagReduce (d : Dev) : Dev :=
  if !d.issuing then d
  else match d.stag.queue with
  | [] => d
  | q :: rest =>
    let b := q.bytes
    if opcodeOf b != 2 then d
    else match d.headCode b (if d.stagGrants b then d.redCheck b else some (min 0x19 ((d.redCheck b).getD 0x19))) with
    | some c => ((d.popStag rest).stagCode c).beatFail c (blockName .stg 0) 0
    | none =>
      if !d.waitOk b then d
      else
        let g := d.grpTable (sgGroup b)
        let owner := (ownerIdx g).isSome
        let k := (d.mySources g).length
        let a : StagAct := ⟨q, g, sgSlot b, [], List.replicate (grpNown g) 0, [], !owner || sgFmt b == 1, k == 0 || sgFmt b == 1,
          !owner, !owner || !sgUpd b⟩
        let d1 := (d.touchAll [(sgGroup b, grpExtent g)]).popStag rest
        let d2 := ({ d1 with stag := { d1.stag with act := d1.stag.act ++ [a] } }).setSlot (sgSlot b)
          { d1.slot (sgSlot b) with named := true }
        (if sgFmt b = 0 then d2.stepOne q g else d2.treeStart q g).countIssue

/-- REDUCE (R239-R241): it issues; in EXACT its exponent words go out, in FLOAT the leaves of the tree. -/
def execReduce (s : State) : Host.Outcome State Fault Refusal := onBeat Dev.stagReduce s

def Dev.stagUpdate (d : Dev) : Dev :=
  if !d.issuing then d
  else match d.stag.queue with
  | [] => d
  | q :: rest =>
    let b := q.bytes
    if opcodeOf b != 3 then d
    else match d.headCode b (if d.stagGrants b then d.redCheck b else some (min 0x19 ((d.redCheck b).getD 0x19))) with
    | some c => ((d.popStag rest).stagCode c).beatFail c (blockName .stg 0) 0
    | none =>
      if !d.waitOk b || !d.earlierConverted q.idx || d.stag.micro.running then d
      else
        let g := d.grpTable (sgGroup b)
        let a : StagAct := ⟨q, g, 16, [], [], [], true, true, true, (ownerIdx g).isNone⟩
        let d1 := (d.touchAll [(sgGroup b, grpExtent g)]).popStag rest
        let d2 := ({ d1 with stag := { d1.stag with act := d1.stag.act ++ [a] } }).countIssue
        if (ownerIdx g).isNone then d2 else d2.stepFive a

/-- UPDATE (R241): step 5 alone, on the GACC left by earlier REDUCEs. -/
def execUpdate (s : State) : Host.Outcome State Fault Refusal := onBeat Dev.stagUpdate s

def Dev.agreedWordsSend (d : Dev) (slot : Nat) : Dev :=
  if !d.running then d
  else match d.actOf slot with
  | none => d
  | some a =>
    match (d.slot slot).words with
    | none => d
    | some ws =>
      if a.agreed then d
      else (d.setAct a.desc.idx (fun a => { a with agreed := true })).stepTwo a.desc a.group ws

/-- AGREED_WORDS_SEND (R241 step 2). -/
def execAgreedWordsSend (slot : Fin 16) (s : State) : Host.Outcome State Fault Refusal := onBeat (·.agreedWordsSend slot) s

/-- Step 3 may start: ESYNC satisfies ETARGET, or with ESYNC.VALID = 0 step 1 has completed. -/
def Dev.stepThreeReady (d : Dev) (a : StagAct) : Bool :=
  let b := a.desc.bytes
  if syncValid (sgEsync b) then waitMet (d.obj (syncObj (sgEsync b))) (sgEtarget b) else d.sentDone a (fun s => s == 1)

/-- The words at EADDR of the blocks of this device's own shard, as step 3 reads them. -/
def Dev.ownWords (d : Dev) (a : StagAct) : List Nat :=
  let b := a.desc.bytes
  (List.range (myBlocks b a.group)).map (fun i => leNat (d.mem.dram.readN (sgEaddr b + 4 * (myFirst b a.group + i)) 4))

def Dev.valueLinesSend (d : Dev) (slot : Nat) : Dev :=
  if !d.running then d
  else match d.actOf slot with
  | none => d
  | some a =>
    if a.sentVal || !d.stepThreeReady a then d
    else (d.setAct a.desc.idx (fun a => { a with sentVal := true, wordsRead := d.ownWords a })).stepThree a.desc a.group

/-- VALUE_LINES_SEND (R235, R241 step 3). -/
def execValueLinesSend (slot : Fin 16) (s : State) : Host.Outcome State Fault Refusal := onBeat (·.valueLinesSend slot) s

/-- Step 3 of this device read a word of its own shard that is not the agreed word: the reduction's results are not
defined (R241). -/
def StagAct.misread (a : StagAct) (ws : List Nat) : Bool := !a.wordsRead.isEmpty && a.wordsRead != ws

/-- g of shard value `i` (step 4): from the sums, or the root of the tree; free after a misread word. -/
def Dev.sumOf (d : Dev) (a : StagAct) (ws : List Nat) (i : Nat) : FVal × Nat :=
  let b := a.desc.bytes
  if a.misread ws then (val32 (Config.freeWord (d.freeCtr + i)).toNat, Config.freeNat (d.freeCtr + i) % 2)
  else if sgFmt b = 0 then
    exactOwner (toSigned 64 (leNat (d.mem.dram.readN (sgAcc b + 8 * i) 8))) (ws.getD (i / 4096) 0)
  else
    let v := 4096 * myFirst b a.group + i
    (val32 ((d.treeLine b (v / 64)).getD (v % 64) 0#32).toNat, 0)

/-- Step 4 on the shard: GACC = g with ACCSTART, otherwise round32(GACC + g). -/
def Dev.stepFour (d : Dev) (a : StagAct) : Dev :=
  let b := a.desc.bytes
  let n := myValues b a.group
  let ws := ((d.slot a.slot).words).getD []
  let d0 := d.touchAll [((accRange b a.group (sgAcc b)).1, if sgFmt b = 0 then (accRange b a.group (sgAcc b)).2 else 0), (sgGacc b, 4 * n)]
  let r := tabulate n (fun i =>
    let g := d.sumOf a ws i
    if sgAccStart b then (g.1, g.2)
    else
      let x := jAdd (jOf (d.f32At (sgGacc b) i)) (jOf g.1)
      (x.1, g.2 ||| (if bit x.2 0 then 1 else 0)))
  let d1 := ({ d0 with freeCtr := d0.freeCtr + (if a.misread ws then n else 0) }).engWrite (sgGacc b)
    (f32Bytes (r.map (fun (e : FVal × Nat) => e.1))) (blockName .stg 0)
  let d2 := (List.range n).foldl (fun (d : Dev) i => d.stagFlags (stackOf (sgGacc b + 4 * i)) ((r.getD i (.nan, 0)).2)) d1
  (d2.laneBusy ((List.range n).map (fun i => (sgGacc b + 4 * i, 2)))).setAct a.desc.idx (fun a => { a with converted := true })

/-- The slot is COMPLETE in every unit, and in FLOAT the shard's own tree has reached its root. -/
def Dev.sumReady (d : Dev) (a : StagAct) : Bool :=
  let s := d.slot a.slot
  s.arm.isSome && s.units.all (fun u => u == .complete) &&
  (sgFmt a.desc.bytes == 0 ||
    (match ownerIdx a.group with
     | none => false
     | some j => decide (treeLevels (grpNown a.group) ≤ a.levels.getD j 0)))

def Dev.shardConvert (d : Dev) (slot : Nat) : Dev :=
  if !d.running then d
  else match d.actOf slot with
  | none => d
  | some a => if a.converted || !d.sumReady a || !d.earlierConverted a.desc.idx then d else d.stepFour a

/-- SHARD_CONVERT (R235, R241 step 4). -/
def execShardConvert (slot : Fin 16) (s : State) : Host.Outcome State Fault Refusal := onBeat (·.shardConvert slot) s

def Dev.shardUpdate (d : Dev) (slot : Nat) : Dev :=
  if !d.running then d
  else match d.actOf slot with
  | none => d
  | some a => if !a.converted || a.updated || d.stag.micro.running then d else d.stepFive a

/-- SHARD_UPDATE (R241 step 5, R244-R247). -/
def execShardUpdate (slot : Fin 16) (s : State) : Host.Outcome State Fault Refusal := onBeat (·.shardUpdate slot) s

/-- Everything of an active descriptor has happened (R241). -/
def Dev.actDone (d : Dev) (a : StagAct) : Bool :=
  a.agreed && a.sentVal && a.converted && a.updated && d.sentDone a (fun _ => true) &&
  (sgFmt a.desc.bytes == 0 || (ownerIdx a.group).isNone || a.levels.all (fun v => decide (treeLevels (grpNown a.group) ≤ v))) &&
  !(d.stag.micro.running && d.stag.micro.owner == a.desc.idx)

/-- The slot that a REDUCE named returns to IDLE (R233): bits freed, the tag kept, LASTDONE and BUCKETCNT of every unit;
FLOAT staging is undefined afterwards (R237). -/
def Dev.closeBucket (d : Dev) (a : StagAct) : Dev :=
  let s := d.slot a.slot
  match s.arm with
  | none => d
  | some q =>
    let d1 := d.giveBits (expected q.bytes s.group none)
    let d2 := d1.setSlot a.slot { slot0 a.slot with lastTag := some (sgBtag q.bytes) }
    let d3 := (List.range 12).foldl (fun (d : Dev) u =>
      (d.setNum (STG.LASTDONE u) (sgBtag q.bytes + 2 ^ 16 * a.slot)).countSat (STG.BUCKETCNT u) 1) d2
    if sgFmt q.bytes = 0 then d3
    else
      let r := accRange q.bytes s.group (armAcc q.bytes)
      let used := 256 * (floatSlots (sgNval q.bytes) (grpNown s.group) ((ownerIdx s.group).getD 0)).length
      { d3 with
        mem := { d3.mem with dram := d3.mem.dram.openUp r.1 (r.1 + max r.2 used) d3.freeCtr }
        stag := { d3.stag with tree := d3.stag.tree.clear (treeKey a.slot 0) (treeKey (a.slot + 1) 0) }
        freeCtr := d3.freeCtr + 1 }

def Dev.stagDescComplete (d : Dev) : Dev :=
  if !d.running then d
  else match d.stag.act.find? d.actDone with
  | none => d
  | some a =>
    let d1 := if a.slot < 16 then d.closeBucket a else d
    (({ d1 with stag := { d1.stag with act := d1.stag.act.filter (fun x => x.desc.idx != a.desc.idx) } }).stagCode 0).applySignal
      a.desc.bytes

/-- STAG_DESC_COMPLETE (R233, R241): the oldest active descriptor that is done. -/
def execStagDescComplete (s : State) : Host.Outcome State Fault Refusal := onBeat Dev.stagDescComplete s

end Sys2Proof.Machine
end

