-- ==== Sys2Proof/Machine/Micro.lean ====
section
/-!
DEFINITION. The update microprogram's instructions (11 R246): each command executes the next instruction of the running
program where that instruction has the command's operation.
-/
namespace Sys2Proof.Machine

/-- The active descriptor whose microprogram runs. -/
def Dev.microAct (d : Dev) : Option StagAct := if d.stag.micro.running then d.actNo d.stag.micro.owner else none

/-- An operand code: a register, or a constant (R246). -/
def Dev.microArg (d : Dev) (u : List Byte) (code : Nat) : FVal :=
  if code < 16 then val32 (d.stag.micro.x.get zeroWord code).toNat else ubConst u (code - 16)

/-- Execute one instruction whose operation is `op` (R246): its result is written, its flags enter RFLAGS of the unit of
the value's GACC entry, and the program moves on. -/
def Dev.microOp (d : Dev) (op : Nat) (f : FVal → FVal → FVal → FVal × Bool) : Dev :=
  if !d.running then d
  else match d.microAct with
  | none => d
  | some a =>
    let u := d.updBlock a.desc.bytes
    let m := d.stag.micro
    let w := d.microWord u m.pc
    if field w 7 0 ≠ op then d
    else
      let r := judged (f (d.microArg u (field w 17 13)) (d.microArg u (field w 22 18)) (d.microArg u (field w 27 23)))
      let m1 : Micro := { m with
        x := m.x.set zeroWord (field w 12 8 % 16) (BitVec.ofNat 32 (enc32 r.1))
        pc := m.pc + 1 }
      ({ d with stag := { d.stag with micro := m1 } }).stagFlags (stackOf (sgGacc a.desc.bytes + 4 * m.idx)) (updFlags r.2)

/-- One operand, or two. -/
def micro1 (f : FVal → FVal × Bool) (a _b _c : FVal) : FVal × Bool := f a
def micro2 (f : FVal → FVal → FVal × Bool) (a b _c : FVal) : FVal × Bool := f a b

/-- A quotient (R244): a finite dividend over zero saturates. -/
def divVal (a b : FVal) : FVal × Bool := let r := jQuot (jOf a) (jOf b); (r.1, bit r.2 0)

/-- SEL: a if c > 0, otherwise b. -/
def selVal (a b c : FVal) : FVal × Bool := (if FVal.lt (.zero false) c then a else b, false)

/-- MICRO_ADD (R246). -/
def execMicroAdd (s : State) : Host.Outcome State Fault Refusal := onBeat (·.microOp 0x01 (micro2 (fAdd grid32))) s
/-- MICRO_SUB (R246). -/
def execMicroSub (s : State) : Host.Outcome State Fault Refusal :=
  onBeat (·.microOp 0x02 (micro2 (fun a b => fAdd grid32 a b.negate))) s
/-- MICRO_MUL (R246). -/
def execMicroMul (s : State) : Host.Outcome State Fault Refusal := onBeat (·.microOp 0x03 (micro2 (fMul grid32))) s
/-- MICRO_FMA (R246): one rounding. -/
def execMicroFma (s : State) : Host.Outcome State Fault Refusal := onBeat (·.microOp 0x04 (fFma grid32)) s
/-- MICRO_DIV (R246). -/
def execMicroDiv (s : State) : Host.Outcome State Fault Refusal := onBeat (·.microOp 0x05 (micro2 divVal)) s
/-- MICRO_SQRT (R246). -/
def execMicroSqrt (s : State) : Host.Outcome State Fault Refusal := onBeat (·.microOp 0x06 (micro1 crSqrt)) s
/-- MICRO_RSQRT (R246). -/
def execMicroRsqrt (s : State) : Host.Outcome State Fault Refusal := onBeat (·.microOp 0x07 (micro1 crRsqrt)) s
/-- MICRO_MIN (R136, R246). -/
def execMicroMin (s : State) : Host.Outcome State Fault Refusal :=
  onBeat (·.microOp 0x08 (micro2 (fun a b => (fMin a b, false)))) s
/-- MICRO_MAX (R136, R246). -/
def execMicroMax (s : State) : Host.Outcome State Fault Refusal :=
  onBeat (·.microOp 0x09 (micro2 (fun a b => (fMax a b, false)))) s
/-- MICRO_SIGN (R244, R246). -/
def execMicroSign (s : State) : Host.Outcome State Fault Refusal :=
  onBeat (·.microOp 0x0A (micro1 (fun a => (signVal a, false)))) s
/-- MICRO_ABS (R246). -/
def execMicroAbs (s : State) : Host.Outcome State Fault Refusal :=
  onBeat (·.microOp 0x0B (micro1 (fun a => (a.abs, false)))) s
/-- MICRO_NEG (R246). -/
def execMicroNeg (s : State) : Host.Outcome State Fault Refusal :=
  onBeat (·.microOp 0x0C (micro1 (fun a => (a.negate, false)))) s
/-- MICRO_SEL (R246). -/
def execMicroSel (s : State) : Host.Outcome State Fault Refusal := onBeat (·.microOp 0x0D selVal) s
/-- MICRO_EXP (R137, R246). -/
def execMicroExp (s : State) : Host.Outcome State Fault Refusal := onBeat (·.microOp 0x0E (micro1 crExp)) s
/-- MICRO_LOG (R137, R246). -/
def execMicroLog (s : State) : Host.Outcome State Fault Refusal := onBeat (·.microOp 0x0F (micro1 crLog)) s

/-- END: X1 and the state streams are written back; the next value begins, or the shard's update ends. -/
def Dev.microEnd (d : Dev) : Dev :=
  if !d.running then d
  else match d.microAct with
  | none => d
  | some a =>
    let b := a.desc.bytes
    let u := d.updBlock b
    let m := d.stag.micro
    if field (d.microWord u m.pc) 7 0 ≠ 0x3F then d
    else
      let x := fun (k : Nat) => leBytes 4 (m.x.get zeroWord k).toNat
      let d1 := d.engWrite (ubWaddr u + 4 * m.idx) (x 1) (blockName .stg 0)
      let d2 := (List.range (ubNstate u)).foldl (fun (d : Dev) k =>
        d.engWrite (ubSaddr u + k * ubSpitch u + 4 * m.idx) (x (2 + k)) (blockName .stg 0)) d1
      let d3 := d2.count64 (STG.UPDCNT (stackOf (sgGacc b + 4 * m.idx))) 1
      if m.idx + 1 < m.count then d3.microLoad a (m.idx + 1)
      else
        let m1 : Micro := { m with running := false }
        ({ d3 with stag := { d3.stag with micro := m1 } }).finishUpdate a

/-- MICRO_END (R246). -/
def execMicroEnd (s : State) : Host.Outcome State Fault Refusal := onBeat Dev.microEnd s

end Sys2Proof.Machine
end

