-- ==== Sys2Proof/Machine/RegView.lean ====
section
/-!
DEFINITION. What the registers read as (02 R33, and the page maps): the words kept as they are, and the words that show a
state held elsewhere, which are computed here; what a read of a register does besides (R8, 15 R339, 17 R356).
-/
namespace Sys2Proof.Machine

/-- A number as a register word. -/
def wordOf (n : Nat) : Word := BitVec.ofNat 32 n

/-- The low or the high word of a 64-bit value. -/
def halfOf (v : Nat) (hi : Bool) : Word := if hi then hiWord v else loWord v

/-- The bits of a list, bit 0 first, as a number. -/
def bitsOf : List Bool → Nat
  | [] => 0
  | b :: l => b.toNat + 2 * bitsOf l

/-! ### Computed words, by page -/

/-- RINGSTAT of function `fn` (R379): active RUN jobs, held completions. -/
def Dev.ringStat (d : Dev) (fn : Nat) : Nat :=
  activeOf d.host.jobs fn +
  256 * min 256 (d.host.held.filter (fun (h : Nat × Completion) => h.1 == fn)).length

/-- FWDIGEST is kept; ROMDIGEST is measurement 1 (R380). -/
def Dev.truView (d : Dev) (o : Nat) : Word :=
  if 0x90 ≤ o ∧ o < 0xC0 then wordOf (fieldAt Config.romDigest (o - 0x90) 4) else d.rd (TRU.page + o)

/-- ASC (R398): DEGRADED also while an MSF, STK or LNK page reads DEGRADED or FAULT; SCREEDATA shows a row of the live map. -/
def Dev.ascView (d : Dev) (o : Nat) : Word :=
  if o = 0xC then
    let any := (pagesOf .msf ++ (pagesOf .stk ++ pagesOf .lnk)).any (fun b => d.degraded b || d.isFault b)
    if any then d.rd ASC.STATUS ||| 8#32 else d.rd ASC.STATUS
  else if o = 0x94 then
    let x := d.fld ASC.SCREEIDX 8 0
    wordOf (d.bypass x + 2 ^ 4 * (d.fuseMask x).toNat + 2 ^ 13 * (d.swarmMask x).toNat + 2 ^ 22 * d.uncovered x)
  else d.rd (ASC.page + o)

/-- APX (R348, R349): FCCOUNT and FCEXPECT are 0 before the first measurement. -/
def Dev.apxView (d : Dev) (o : Nat) : Word :=
  if o = 0x58 then wordOf (d.apex.counts.getD (d.fld APX.FCSEL 5 0) 0)
  else if o = 0x5C then
    if d.apex.counts.isEmpty then 0#32 else wordOf (fcExpect d.apex.lastGate (d.fld APX.FCSEL 5 0))
  else if o = 0x64 then wordOf (divisor (d.fld APX.DOMSEL 5 0))
  else d.rd (APX.page + o)

/-- PWR (R339): RAILDATA shows the rail that RAILSEL names. -/
def Dev.pwrView (d : Dev) (o : Nat) : Word :=
  if o = 0x7C then
    let r := d.power.last.rails.getD (d.fld PWR.RAILSEL 2 0) (0, 0)
    wordOf (r.1 % 2 ^ 16 + 2 ^ 16 * (r.2 % 2 ^ 16))
  else d.rd (PWR.page + o)

/-- HIV (R268): ACTIVE counts the entries that are not IDLE, ENTDATA shows the bytes of entry ENTSEL. -/
def Dev.hivView (d : Dev) (o : Nat) : Word :=
  if o = 0x4C then wordOf d.activeEnts
  else if 0x68 ≤ o ∧ o < 0x88 then wordOf (d.ent (d.fld HIV.ENTSEL 11 0) (o - 0x68) 4)
  else d.rd (HIV.page + o)

/-- Sources 32 w to 32 w + 31 in a state (R361). -/
def Dev.irqBits (d : Dev) (w : Nat) (st : IrqState) : Nat := bitsOf (tabulate 32 (fun b => d.irqState (32 * w + b) == st))

/-- STACKDATA: entry STACKIDX counted from the bottom; 0 above DEPTH. -/
def Dev.stackData (d : Dev) (c : Nat) : Nat :=
  match (d.irqStack c).reverse.drop (d.fld (FFYT.STACKIDX c) 3 0) with
  | [] => 0
  | e :: _ => e.1 + 2 ^ 16 * e.2

/-- FFY[i] (R361). CLAIM has a side effect of its own and is read apart. -/
def Dev.ffyView (d : Dev) (i o : Nat) : Word :=
  let c := i - 3
  if i = 2 ∧ 0x100 ≤ o ∧ o < 0x180 then wordOf (d.irqBits ((o - 0x100) / 4) .pending)
  else if i = 2 ∧ 0x200 ≤ o ∧ o < 0x280 then wordOf (d.irqBits ((o - 0x200) / 4) .active)
  else if 3 ≤ i ∧ i ≤ 6 ∧ o = 0x4C then wordOf (d.runPrio c)
  else if 3 ≤ i ∧ i ≤ 6 ∧ o = 0x50 then wordOf (d.irqStack c).length
  else if 3 ≤ i ∧ i ≤ 6 ∧ o = 0x58 then wordOf (d.stackData c)
  else d.rd (FFY.page i + o)

/-- Consecutive ready batches from `b`, at most `n` (R301). -/
def Feed.readyFrom (f : Feed) : Nat → Nat → Nat
  | _, 0 => 0
  | b, n + 1 => if f.batchReady b then 1 + f.readyFrom (b + 1) n else 0

/-- The registers of the feed that FEEDSEL selects (R301). CACHEUSED counts whole MiB, rounded up (log entry 18). -/
def Dev.forView (d : Dev) (i o : Nat) : Word :=
  let f := d.feed (d.fld (FOR.FEEDSEL 0) 3 0)
  if i ≠ 0 then d.rd (FOR.page i + o)
  else if o = 0x84 then
    wordOf (f.state + 4 * (if f.state = 0 then 0 else fbMode f.block % 2) + 2 ^ 8 * f.code + 2 ^ 16 * f.fn)
  else if o = 0x88 ∨ o = 0x8C then halfOf f.next (o == 0x8C)
  else if o = 0x90 then wordOf (if f.state = 1 then f.readyFrom f.next 16 else 0)
  else if o = 0x94 then wordOf f.mean
  else if o = 0x98 then wordOf f.reports
  else if o = 0x9C then wordOf (ceilDiv (cacheBytes f.cache) (2 ^ 20))
  else d.rd (FOR.page 0 + o)

/-- LNK[p] (R325, R326): the completion table, the held transactions, the route of ROUTEIDX as it was last written. -/
def Dev.lnkView (d : Dev) (p o : Nat) : Word :=
  if o = 0x74 then wordOf (d.port p).table.length
  else if o = 0x98 then wordOf (d.port p).held.length
  else if p = 0 ∧ o = 0x108 then
    let i := d.fld (LNK.ROUTEIDX 0) 13 0
    let e := d.link.staged.get route0 i
    wordOf (e.primary + 2 ^ 5 * e.alternate + 2 ^ 10 * (d.route i).inuse.toNat)
  else d.rd (LNK.page p + o)

/-- STK[s] (R223): MGDATA and TGFIRST show what their index registers select. -/
def Dev.stkView (d : Dev) (s o : Nat) : Word :=
  if o = 0x88 then d.mem.margins.get zeroWord (2048 * s + d.fld (STK.MGINDEX s) 10 0)
  else if o = 0xB0 ∨ o = 0xB4 then
    halfOf (d.mem.tgFirst.get zeroNat (32 * s + d.fld (STK.TGFIRSTSEL s) 4 0)) (o == 0xB4)
  else d.rd (STK.page s + o)

/-- MSC[s] (R224): the pin table, its commit and its state stand in MSC[0] and read the same in every page. -/
def Dev.mscView (d : Dev) (s o : Nat) : Word :=
  if 0x40 ≤ o ∧ o < 0xC8 then d.rd (MSC.page 0 + o) else d.rd (MSC.page s + o)

/-- A slot's state in a unit as SLOTSTATE codes it (R250). -/
def slotCode : StagState → Nat
  | .idle => 0
  | .armed => 1
  | .complete => 2

/-- Expected lines of slot `t` that unit `u` misses: live while the slot is armed, then as C(n) left them (R250). -/
def Dev.missCountOf (d : Dev) (u t : Nat) : Nat :=
  if (d.slot t).arm.isSome then (unitLines (d.missing t) u).length else d.stag.missCount.get zeroNat (16 * u + t)
def Dev.missFirstIn (d : Dev) (u t : Nat) : Nat :=
  if (d.slot t).arm.isSome then missFirstOf (unitLines (d.missing t) u) else d.stag.missFirst.get zeroNat (16 * u + t)

/-- STG[u] (R250). -/
def Dev.stgView (d : Dev) (u o : Nat) : Word :=
  let t := d.fld (STG.MISSSEL u) 3 0
  if o = 0x40 then
    wordOf ((List.range 16).foldl (fun n t => n + slotCode ((d.slot t).units.getD u .idle) * 4 ^ t) 0)
  else if o = 0x7C then wordOf (d.missCountOf u t)
  else if o = 0x80 ∨ o = 0x84 then halfOf (d.missFirstIn u t) (o == 0x84)
  else d.rd (STG.page u + o)

/-- WSTATE.STATE (R146): the model's Weevil is idle, running, or blocked in TWAIT. -/
def wvlCode : WvlRun → Nat
  | .idle => 0
  | .running => 1
  | .blocked => 2

/-- Ring slots in a state. -/
def slotsIn (l : List RingSlot) (st : SlotState) : Nat := (l.filter (fun (x : RingSlot) => x.state == st)).length

/-- WVL[k] (R146): RLEN reads 0 while no ring is active. -/
def Dev.wvlView (d : Dev) (k o : Nat) : Word :=
  let w := d.wvl k
  if o = 0x48 then wordOf (wvlCode w.run + 2 ^ 16 * (w.pc % 2 ^ 11))
  else if o = 0x4C then
    wordOf (w.ringBase % 32 + 2 ^ 5 * (if d.ringActive k then w.ring.length % 32 else 0) + 2 ^ 10 * slotsIn w.ring .filled +
      2 ^ 15 * slotsIn w.ring .held)
  else d.rd (WVL.page k + o)

/-- ENTRYSTAT.STATE (R169). -/
def entCode : EntState → Nat
  | .free => 0
  | .opened => 1
  | .resident => 2
  | .spilling => 3
  | .spilled => 4
  | .released => 5

/-- TLS[k] (R169): ENTRYSTAT shows entry ENTRYSEL. -/
def Dev.tlsView (d : Dev) (k o : Nat) : Word :=
  if o = 0x7C then
    let e := (d.tls k).ent (d.fld (TLS.ENTRYSEL k) 11 0)
    wordOf (entCode e.state + 2 ^ 3 * e.spillable.toNat + 2 ^ 4 * e.narrowed.toNat + 2 ^ 8 * (e.fmt % 256) + 2 ^ 16 * (e.pages % 2 ^ 11))
  else d.rd (TLS.page k + o)

/-- An active REDUCE waits on ESYNC for its step 3 (R93, R241). -/
def Dev.esyncWait (d : Dev) (a : StagAct) : Bool :=
  !a.sentVal && syncValid (sgEsync a.desc.bytes) && !waitMet (d.obj (syncObj (sgEsync a.desc.bytes))) (sgEtarget a.desc.bytes)

/-- Objects with a pending wait (R100): those that the heads of the queues wait for, and those of the ESYNC waits of active
REDUCEs. A descriptor that stands behind its queue's head has no wait pending yet (DESIGN CHOICE, log 14). -/
def Dev.waitedObjects (d : Dev) : List Nat :=
  ((d.heads.filter (fun (q : QDesc) => syncValid (dWait q.bytes) && !d.waitOk q.bytes)).map
      (fun (q : QDesc) => syncObj (dWait q.bytes)) ++
    (d.stag.act.filter d.esyncWait).map (fun a => syncObj (sgEsync a.desc.bytes))).eraseDups

/-- SYN[g] (R100). -/
def Dev.synView (d : Dev) (g o : Nat) : Word :=
  if o = 0x48 then wordOf (d.waitedObjects.filter (fun x => x / 512 == g)).length
  else if 0x80 ≤ o ∧ o < 0xC0 then
    let ws := d.waitedObjects
    wordOf (bitsOf (tabulate 32 (fun b => ws.contains (512 * g + 32 * ((o - 0x80) / 4) + b))))
  else d.rd (SYN.page g + o)

/-- Word `o` of page `p`. -/
def Dev.pageView (d : Dev) (p : Page) (o : Nat) : Word :=
  match p.blk with
  | .hst => if o = 0x5C then wordOf (d.ringStat 0) else d.rd o
  | .tru => d.truView o
  | .asc => d.ascView o
  | .apx => d.apxView o
  | .pwr => d.pwrView o
  | .ckt => d.rd (CKT.page + o)
  | .hiv => d.hivView o
  | .cpu => d.rd (CPU.page p.inst + o)
  | .ffy => d.ffyView p.inst o
  | .forager => d.forView p.inst o
  | .lnk => d.lnkView p.inst o
  | .stk => d.stkView p.inst o
  | .msc => d.mscView p.inst o
  | .stg => d.stgView p.inst o
  | .msf => d.rd (MSF.page p.inst + o)
  | .col => d.rd (COL.page p.inst + o)
  | .wvl => d.wvlView p.inst o
  | .scb => d.rd (SCB.page p.inst + o)
  | .tls => d.tlsView p.inst o
  | .syn => d.synView p.inst o

/-- The register word at key `a`, 0 where nothing is defined (R33). Keys from 0x400_0000 up are the views of VFs. -/
def Dev.regView (d : Dev) (a : Nat) : Word :=
  if (regAt a).isNone then 0#32
  else if 0x4000000 ≤ a then
    if a % 0x1000 = 0x5C then wordOf (d.ringStat ((a - 0x4000000) / 0x1000)) else d.rd a
  else match pageAt (a / 0x1000) with
  | some p => d.pageView p (a % 0x1000)
  | none => 0#32

/-! ### What a read does (R8, R339, R356) -/

/-- The target whose CLAIM register stands at key `a`. -/
def claimAt (a : Nat) : Option Nat := (List.range 4).find? (fun c => FFYT.CLAIM c == a)

/-- A read of a 32-bit register at key `a`: RC fields return to their reset value, QMAX clears, CLAIM claims. -/
def Dev.readReg (d : Dev) (a : Nat) : Word × Dev :=
  match claimAt a with
  | some c => (wordOf (leNat (d.claim c).bus.readData), d.claim c)
  | none =>
    let v := d.regView a
    if a = PWR.THROTTLE then (v, d.setFld a 15 8 0)
    else match regAt a with
    | some g => (v, if g.rc = 0 then d else d.wr a (resetWord a))
    | none => (v, d)

end Sys2Proof.Machine
end

