-- ==== Sys2Proof/Machine/RegWrite.lean ====
section
/-!
DEFINITION. What a write to a register does: the access codes of R8 for every register, and the rules that a page map or a
rule of its chapter adds (when it is writable, which values are discarded, what the write starts). A register's rules are
applied once, to a 32-bit value or to the whole 64-bit value (02 R35).
-/
namespace Sys2Proof.Machine

/-! ### Access codes (R8) -/

/-- The value of a word under the access codes: RW bits take the written value, W1C bits written 1 clear, W1S bits
written 1 set; every other bit keeps its value. -/
def coded (g : RegInfo) (old v : Word) : Word :=
  ((old &&& ~~~(wordOf g.rw)) ||| (v &&& wordOf g.rw)) &&& ~~~(v &&& wordOf g.w1c) ||| (v &&& wordOf g.w1s)

/-- A write of the 32-bit register at `a` by its access codes alone. -/
def Dev.putCoded (d : Dev) (a : Nat) (v : Word) : Dev :=
  match regAt a with
  | some g => if g.off = a then d.wr a (coded g (d.rd a) v) else d
  | none => d

/-! ### Conditions -/

/-- CKT.CTRL.ENABLE is 0 in effect. -/
def Dev.cktOff (d : Dev) : Bool := !d.enableInEffect CKT.page

/-- Every LNK page has CTRL.ENABLE = 0 in effect (R327). -/
def Dev.linksOff (d : Dev) : Bool := (pagesOf .lnk).all (fun b => !d.enableInEffect b)

/-- The fields of TEN[t] other than ENABLED are writable (R269). -/
def Dev.tenOpen (d : Dev) (t : Nat) : Bool := !d.tenEnabled t && !d.flag (TEN.TENCFG t) 0

/-- A value in a range. -/
def within (lo hi v : Nat) : Bool := decide (lo ≤ v ∧ v ≤ hi)

/-- A ring size (R379): a power of two, 16 to 4,096. -/
def ringSizeOk (v : Nat) : Bool := isPow2 v && within 16 4096 v

/-! ### 32-bit registers with rules of their own, by page -/

/-- The ring registers of function `fn` and BAR2BASE (R49, R379); `o` is the offset in its HST page or view. -/
def Dev.putRing (d : Dev) (fn o : Nat) (v : Word) : Dev :=
  let a := ringReg fn o
  if o = 0x48 ∨ o = 0x4C then (if !d.ringOn fn && ringSizeOk v.toNat then d.putCoded a v else d)
  else if o = 0x60 then (if within 0 704 (field v.toNat 9 0) then d.putCoded a v else d)
  else d.putCoded a v

/-- REGION[v] and SYNGRANT[v] (R366). -/
def Dev.putGrant (d : Dev) (o : Nat) (v : Word) : Dev :=
  let t := (o - 0x400) / 16
  let n := v.toNat
  let fits := if o % 16 = 0 then within 0 768 (field n 9 0 + field n 25 16)
    else within 0 240 (field n 15 8) && within 0 256 (field n 7 0 + field n 15 8)
  if d.tenOpen t && fits then d.putCoded o v else d

def Dev.putHst (d : Dev) (o : Nat) (v : Word) : Dev :=
  if o = 0x64 then d.writeRecovery v
  else if o = 0x68 then (if within hdrSize (hdrSize + maxBody) v.toNat then d.putCoded o v else d)
  else if 0x410 ≤ o then d.putGrant o v
  else d.putRing 0 o v

/-- ASC (R383, R386, R392, R394, R398, R399). -/
def Dev.putAsc (d : Dev) (o : Nat) (v : Word) : Dev :=
  let a := ASC.page + o
  if o = 0x48 then d.writeSvcstate v
  else if o = 0x4C then (if d.ascWritable && within 0 2 (field v.toNat 1 0) then d.putCoded a v else d)
  else if o = 0x50 then d.writeSurveyctrl v
  else if o = 0x64 then d.writeSwarmctrl v
  else if o = 0x78 then d.writeCellreset v
  else if o = 0x7C then d.writeClreset v
  else if o = 0x84 then (if within 1000 1000000 v.toNat then d.putCoded a v else d)
  else if 0x100 ≤ o then (if d.ascWritable && within 0 23 (field v.toNat 18 14) then d.putCoded a v else d)
  else d.putCoded a v

/-- APX (R347-R349). -/
def Dev.putApx (d : Dev) (o : Nat) (v : Word) : Dev :=
  let a := APX.page + o
  if o = 0x48 then d.writeClkout v
  else if o = 0x4C then d.writeFcctrl v
  else if o = 0x54 then (if within 0 60 (field v.toNat 5 0) then d.putCoded a v else d)
  else if o = 0x60 then (if within 0 59 (field v.toNat 5 0) then d.putCoded a v else d)
  else d.putCoded a v

/-- PWR (R339). -/
def Dev.putPwr (d : Dev) (o : Nat) (v : Word) : Dev :=
  let ok := if o = 0x40 then within 600 3000 (field v.toNat 11 0) else if o = 0x44 then within 0 600 (field v.toNat 9 0)
    else if o = 0x48 then within 80 110 (field v.toNat 7 0) else true
  if ok then d.putCoded (PWR.page + o) v else d

/-- A write of TIMECTRL (R71): GRANDMASTER is taken only while ENABLE = 0. The grandmaster's time is good; a follower that
stays one keeps what its last offset says (R55), one that was grandmaster has no offset yet (log entry 28). -/
def Dev.writeTimectrl (d : Dev) (v : Word) : Dev :=
  if d.cktOff then
    let good := bit v.toNat 0 || (!d.grandmaster && d.flag CKT.TIMESTAT 1)
    ((d.setFlag CKT.TIMECTRL 0 (bit v.toNat 0)).setTimeGood good).refreshTime
  else d

/-- CKT (R56, R71, R72). STATHEAD stays inside a new STATSIZE (log entry 7). -/
def Dev.putCkt (d : Dev) (o : Nat) (v : Word) : Dev :=
  let a := CKT.page + o
  if o = 0x40 then (if d.cktOff && within 5000 100000000 v.toNat then d.putCoded a v else d)
  else if o = 0x64 then d.writeTimectrl v
  else if o = 0x80 then
    if d.cktOff && isPow2 v.toNat && within 64 65536 v.toNat then
      { (d.putCoded a v).setNum CKT.STATHEAD (d.num CKT.STATHEAD % v.toNat) with cricket := { d.cricket with full := false } }
    else d
  else d.putCoded a v

/-- A write of SCHEDCTRL (R253): SCHEDEN = 1 is discarded with an entry in use whose BEATS is 0. -/
def Dev.writeSchedctrl (d : Dev) (v : Word) : Dev :=
  if !d.cktOff then d
  else if bit v.toNat 0 && (List.range (field v.toNat 6 1 + 1)).any (fun i => d.fld (HIV.TSCHED i) 19 4 == 0) then
    d.err HIV.page 13
  else d.putCoded HIV.SCHEDCTRL v

/-- Fields of TEN[t] (R268, R269); `o` is the offset in the block. -/
def Dev.putTen (d : Dev) (t o : Nat) (v : Word) : Dev :=
  let n := v.toNat
  let ok := if o = 4 then within 0 4096 (field n 28 16) && within 0 4096 (field n 11 0 + field n 28 16)
    else if o = 0x20 then within 1 65536 n
    else if o = 0x24 then within 1 4096 n
    else if o = 0x28 then within 1 16777216 n
    else if o = 0x2C then within 512 8192 n && n % 512 == 0
    else true
  if o = 0 then d.writeTencfg t v
  else if d.tenOpen t && ok then d.putCoded (TEN.TENCFG t + o) v
  else d

def Dev.putHiv (d : Dev) (o : Nat) (v : Word) : Dev :=
  if o = 0x40 then d.writeSchedctrl v
  else if o = 0x48 then d.writePreempt v
  else if 0x200 ≤ o ∧ o < 0x300 then
    (if d.cktOff && field v.toNat 19 4 != 0 then d.putCoded (HIV.page + o) v else d)
  else if 0x400 ≤ o then d.putTen ((o - 0x400) / 64) (o % 64) v
  else d.putCoded (HIV.page + o) v

/-- FFY[i] (R352, R361). -/
def Dev.putFfy (d : Dev) (i o : Nat) (v : Word) : Dev :=
  if i < 2 then d.writeSrccfg (512 * i + (o - 0x800) / 4) v
  else if i = 2 then (if o = 0x40 then d.writeSwset v else if o = 0x44 then d.writeSwclr v else d)
  else if i = 7 then (if o = 0x40 then d.writeHosteoi v else d)
  else if o = 0x48 then d.writeEoi (i - 3) v
  else d.putCoded (FFY.page i + o) v

/-- FOR[i] (R301): the stream registers are on FOR[0]. -/
def Dev.putFor (d : Dev) (i o : Nat) (v : Word) : Dev :=
  let a := FOR.page i + o
  let s := (o - 0x100) / 32
  if o < 0x100 then d.putCoded a v
  else if o % 32 = 0x1C then d.writeStrmctrl s v
  else if o % 32 = 8 then (if !d.flag (FOR.STRMCTRL 0 s) 0 && v.toNat % 64 == 0 then d.putCoded a v else d)
  else d.putCoded a v

/-- A write of PORTCFG (R325): a REPLAYMAX of 0 is discarded, REPLAYMAX keeping its value (log entry 7); DEGRADED follows
EXPWIDTH, the time source follows TIMEEN. -/
def Dev.writePortcfg (d : Dev) (p : Nat) (v : Word) : Dev :=
  let n := if field v.toNat 8 5 = 0 then withField v.toNat 8 5 (d.fld (LNK.PORTCFG p) 8 5) else v.toNat
  let d1 := d.putCoded (LNK.PORTCFG p) (wordOf n)
  let b := LNK.page p
  let narrow := (d1.portState p == 4 || d1.portState p == 5) && decide (field n 1 0 < d1.fld (LNK.PORTSTAT p) 4 3)
  let d2 := if narrow && !d1.degraded b then d1.irq b 2 else d1
  (d2.setDegraded b narrow).refreshTime

def Dev.putLnk (d : Dev) (p o : Nat) (v : Word) : Dev :=
  let a := LNK.page p + o
  if o = 0x40 then d.writePortcfg p v
  else if o = 0x54 then (if within 100 1000000 v.toNat then d.putCoded a v else d)
  else if o = 0x100 then (if d.linksOff then d.putCoded a v else d)
  else if o = 0x108 then d.writeRoutedata v
  else d.putCoded a v

/-- STK[s] (R223). -/
def Dev.putStk (d : Dev) (s o : Nat) (v : Word) : Dev :=
  let a := STK.page s + o
  let n := v.toNat
  if o = 0x44 then
    (if decide (field n 7 0 < field n 15 8 ∧ field n 15 8 < field n 23 16 ∧ field n 23 16 ≤ 110) then d.putCoded a v else d)
  else if o = 0x48 then (if d.enableInEffect (STK.page s) then d else d.putCoded a v)
  else if o = 0x68 then d.writeScrubctrl s v
  else if o = 0x80 then d.writeMgctrl s v
  else if o = 0x90 then d.writeTgctrl s v
  else if o = 0x98 then (if n = 0 then d else d.putCoded a v)
  else d.putCoded a v

/-- MSC[s] (R224): writes to the pin table and to PINCTRL in MSC[1] to MSC[11] are discarded. -/
def Dev.putMsc (d : Dev) (s o : Nat) (v : Word) : Dev :=
  if s ≠ 0 then (if o < 0x40 then d.putCoded (MSC.page s + o) v else d)
  else if o = 0xC0 then d.writePinctrl v
  else if o % 16 = 8 ∧ o < 0xC0 then
    (if within 0 88 (field v.toNat 6 0) then d.putCoded (MSC.page 0 + o) v else d)
  else d.putCoded (MSC.page 0 + o) v

/-- A write of the 32-bit register at offset `o` of page `p` in slot `slot`; the header is the same on every page (R37). -/
def Dev.putPage (d : Dev) (r : Requester) (slot : Nat) (p : Page) (o : Nat) (v : Word) : Dev :=
  if o = 0x10 then d.writeCtrl slot p (bit v.toNat 0) (bit v.toNat 1) (bit v.toNat 2)
  else if o < 0x40 then d.putCoded (p.base + o) v
  else match p.blk with
  | .hst => d.putHst o v
  | .tru => if o = 0x48 then d.writeSvncommit r v else d.putCoded (TRU.page + o) v
  | .asc => d.putAsc o v
  | .apx => d.putApx o v
  | .pwr => d.putPwr o v
  | .ckt => d.putCkt o v
  | .hiv => d.putHiv o v
  | .cpu =>
    if o = 0x40 then d.writeCpctrl p.inst (bit v.toNat 0) (bit v.toNat 1) else d.putCoded (p.base + o) v
  | .ffy => d.putFfy p.inst o v
  | .forager => d.putFor p.inst o v
  | .lnk => d.putLnk p.inst o v
  | .stk => d.putStk p.inst o v
  | .msc => d.putMsc p.inst o v
  | .syn => if o = 0x40 then d.writeSigport p.inst v else d.putCoded (p.base + o) v
  | .stg | .msf | .col | .wvl | .scb | .tls => d.putCoded (p.base + o) v

/-- A write of the 32-bit register at key `a` by requester `r`. In a VF's view VFEOI ends the VF's source (R359, R379). -/
def Dev.put32 (d : Dev) (r : Requester) (a : Nat) (v : Word) : Dev :=
  if 0x4000000 ≤ a then
    if a % 0x1000 = 0x6C then d.writeHosteoi v else d.putRing ((a - 0x4000000) / 0x1000) (a % 0x1000) v
  else match pageAt (a / 0x1000) with
  | some p => d.putPage r (a / 0x1000) p (a % 0x1000) v
  | none => d

/-! ### 64-bit registers (R35) -/

/-- The condition under which the 64-bit register at offset `o` of page `p` takes the value `v`. -/
def Dev.wideOk (d : Dev) (p : Page) (o v : Nat) : Bool :=
  match p.blk with
  | .hst => !d.ringOn 0 && v % 4096 == 0
  | .asc => d.ascWritable
  | .ckt => if o = 0x48 then d.cktOff else d.cktOff && v % 4096 == 0
  | .hiv =>
    let t := (o - 0x400) / 64
    decide (0x400 ≤ o) && d.tenOpen t && (v % (if o % 64 = 8 then 4096 else if o % 64 = 0x10 then 65536 else 64) == 0)
  | .cpu => if o = 0x48 then p.inst != 0 || d.cpState 0 == 0 else true
  | .forager => decide (0x100 ≤ o) && !d.flag (FOR.STRMCTRL 0 ((o - 0x100) / 32)) 0 && v % 64 == 0
  | .stk => if o = 0x70 ∨ o = 0x78 then v % 256 == 0 else true
  | .msc => p.inst == 0 && v % 0x300000 == 0
  | .tls => !d.enableInEffect p.base && d.num (TLS.SPILLEDCNT p.inst) == 0 && v % 4096 == 0
  | _ => true

/-- A write of the 64-bit register whose low word is at key `a`; read-only ones discard it. -/
def Dev.put64 (d : Dev) (r : Requester) (a v : Nat) : Dev :=
  match regAt a with
  | none => d
  | some g =>
    if g.rw = 0 then d
    else if 0x4000000 ≤ a then
      (if !d.ringOn ((a - 0x4000000) / 0x1000) && v % 4096 == 0 then d.setNum64 a v else d)
    else match pageAt (a / 0x1000) with
    | none => d
    | some p =>
      if p.blk = .cpu ∧ a % 0x1000 = 0x50 then d.putMboxin p.inst v
      else if p.blk = .cpu ∧ a % 0x1000 = 0x58 then d.putMboxout r p.inst v
      else if d.wideOk p (a % 0x1000) v then
        (if a = CKT.STATRING then { d.setNum64 a v with cricket := { d.cricket with full := false } } else d.setNum64 a v)
      else d

end Sys2Proof.Machine
end

