-- ==== Sys2Proof/Machine/RegAccess.lean ====
section
/-!
DEFINITION. Accesses to BAR0 (02 R33-R36, 18 R365): where an address leads for each requester, the sizes and alignments of
R34, the halves of 64-bit registers (R35), the windows (R99, R147).
-/
namespace Sys2Proof.Machine

/-- Bytes of an access. -/
def sizeOf : AccessSize → Nat
  | .b1 => 1
  | .b2 => 2
  | .b4 => 4
  | .b8 => 8

/-- The key of the word at BAR0 offset `a` for requester `r` (R36, R365): the host's PF and the control processors see the
64 MiB map, a VF its view of HST and its granted SYN pages. -/
def Dev.mapAddr (d : Dev) (r : Requester) (a : Nat) : Option Nat :=
  match r with
  | .vf v =>
    if v.val = 0 then none
    else if 0x40 ≤ a ∧ a < 0x70 then some (viewBase v + a)
    else if 0x10000 ≤ a ∧ (a - 0x10000) / 0x1000 < d.fld (HST.SYNGRANT v) 15 8 then
      some (SYN.page (d.fld (HST.SYNGRANT v) 7 0 + (a - 0x10000) / 0x1000) + a % 0x1000)
    else none
  | _ => if a < 0x4000000 then some a else none

/-- The 64-bit windows (R98, R146, R168). -/
inductive WindowReg where
  | csdata (p : Nat)
  | pwldata (k : Nat)
  | trdata (k : Nat)
  | statdata (k : Nat)
  deriving DecidableEq, Repr

/-- The window whose low word is at key `a`. -/
def windowAt (a : Nat) : Option WindowReg :=
  if a < 0x4000000 then
    match pageAt (a / 0x1000) with
    | some p =>
      let o := a % 0x1000
      match p.blk with
      | .msf => if o = 0x70 then some (.csdata p.inst) else none
      | .wvl => if o = 0x78 then some (.pwldata p.inst) else if o = 0x88 then some (.trdata p.inst) else none
      | .scb => if o = 0x58 then some (.statdata p.inst) else none
      | _ => none
    | none => none
  else none

/-- A read of a window. -/
def Dev.windowRead (d : Dev) (r : Requester) (w : WindowReg) (a : WinRead) : Dev :=
  match w with
  | .csdata p => d.csdataRead r p a
  | .pwldata k => d.pwldata r k (.read a)
  | .trdata k => d.trdata r k (.read a)
  | .statdata k => d.statdata r k (.read a)

/-- A write of a window. -/
def Dev.windowWrite (d : Dev) (r : Requester) (w : WindowReg) (a : WinWrite) : Dev :=
  match w with
  | .csdata p => d.csdataWrite r p a
  | .pwldata k => d.pwldata r k (.write a)
  | .trdata k => d.trdata r k (.write a)
  | .statdata k => d.statdata r k (.write a)

/-! ### Reads -/

/-- A 4-byte read at key `a` (R33-R35): the word and the device after it. -/
def Dev.read4 (d : Dev) (r : Requester) (a : Nat) : Word × Dev :=
  match regAt a with
  | none => (0#32, d)
  | some g =>
    if !g.wide then d.readReg a
    else match windowAt g.off with
    | some w =>
      let d1 := d.windowRead r w (.half (decide (a ≠ g.off)))
      (wordOf (leNat d1.bus.readData), d1)
    | none =>
      if a = g.off then (d.regView a, d.setShadow r g.off (d.regView (a + 4)))
      else ((d.shadowOf r g.off).getD (d.regView a), d.dropShadow r g.off)

/-- A read of the word at BAR0 offset `a`, 0 where it leads nowhere (R33). -/
def Dev.readAt (d : Dev) (r : Requester) (a : Nat) : Word × Dev :=
  match d.mapAddr r a with
  | some k => d.read4 r k
  | none => (0#32, d)

/-- An aligned 8-byte read at BAR0 offset `a`: one value of a 64-bit register, or two words, the lower first (R34, R35). -/
def Dev.read8 (d : Dev) (r : Requester) (a : Nat) : Dev :=
  let two := ((d.readAt r a).2.readAt r (a + 4)).2.answer
    (leBytes 4 (d.readAt r a).1.toNat ++ leBytes 4 ((d.readAt r a).2.readAt r (a + 4)).1.toNat)
  match d.mapAddr r a with
  | none => two
  | some k =>
    match regAt k with
    | none => two
    | some g =>
      if g.wide && g.off == k then
        match windowAt k with
        | some w => d.windowRead r w .whole
        | none => d.answer (leBytes 4 (d.regView k).toNat ++ leBytes 4 (d.regView (k + 4)).toNat)
      else two

/-! ### BAR4 (R50) -/

/-- The read and write commands reach BAR4 from this address up: its offset 0 (log entry 10). -/
def bar4Base : Nat := 0x100000000

/-- The function whose BAR4 a requester reaches; a control processor reaches none (R36). -/
def bar4Fn : Requester → Option Nat
  | .host => some 0
  | .vf v => if v.val = 0 then none else some v.val
  | .cp _ => none

/-- The pending bit of entry `e` of function `fn` (R50, R359, R368). -/
def Dev.msixPending (d : Dev) (fn e : Nat) : Bool :=
  d.host.msixPend.contains (fn, e) ||
  (d.msixMasked fn e && d.hostPending.any (fun n => d.vectorOk n && d.func n == fn && d.vector n == e))

/-- Byte `x` of word `w`. -/
def byteOfWord (w : Word) (x : Nat) : Byte := BitVec.ofNat 8 (w.toNat / 256 ^ x)

/-- The byte at offset `o` of the BAR4 of function `fn`: the table, the pending bits, and 0 elsewhere (R50). -/
def Dev.bar4Byte (d : Dev) (fn o : Nat) : Byte :=
  if o < 0x8000 then
    if o / 16 < tableSize fn then
      let t := d.msixEntry fn (o / 16)
      byteOfWord (if o / 4 % 4 = 0 then t.addrLo else if o / 4 % 4 = 1 then t.addrHi
        else if o / 4 % 4 = 2 then t.data else t.ctrl) (o % 4)
    else 0#8
  else if o < 0x8100 then
    ((List.range 8).filter (fun i => decide (8 * (o - 0x8000) + i < tableSize fn) && d.msixPending fn (8 * (o - 0x8000) + i))).foldl
      (fun (b : Byte) i => b ||| (1#8 <<< i)) 0#8
  else 0#8

/-- A read of `n` bytes of BAR4. -/
def Dev.bar4Read (d : Dev) (r : Requester) (o n : Nat) : Dev :=
  match bar4Fn r with
  | some fn => d.answer ((List.range n).map (fun i => d.bar4Byte fn (o + i)))
  | none => d.answer (List.replicate n 0#8)

/-- A write of one word of BAR4; the pending bits and the rest of the BAR take none. -/
def Dev.bar4Write (d : Dev) (r : Requester) (o : Nat) (v : Word) : Dev :=
  match bar4Fn r with
  | some fn => if o < 0x8000 then d.msixWrite fn (o / 16) (o / 4 % 4) v else d
  | none => d

/-- A read of BAR0 (R33-R35). A read that is not naturally aligned returns 0 and sets HST.ERRSUM.ACCESS; a narrow one reads the
word it lies in with all that word's effects. -/
def Dev.busRead (d : Dev) (r : Requester) (a : Nat) (sz : AccessSize) : Dev :=
  let n := sizeOf sz
  if a % n ≠ 0 then (d.answer (List.replicate n 0#8)).err HST.page 4
  else if bar4Base ≤ a then d.bar4Read r (a - bar4Base) n
  else if n = 8 then d.read8 r a
  else
    let x := d.readAt r (a - a % 4)
    x.2.answer (((leBytes 4 x.1.toNat).drop (a % 4)).take n)

/-! ### Writes -/

/-- A 4-byte write at key `a` (R33-R35): the low half of a 64-bit register is buffered, its high half writes all 8 bytes. -/
def Dev.write4 (d : Dev) (r : Requester) (a : Nat) (v : Word) : Dev :=
  match regAt a with
  | none => d
  | some g =>
    if !g.wide then d.put32 r a v
    else match windowAt g.off with
    | some w => d.windowWrite r w (.half (decide (a ≠ g.off)) v)
    | none =>
      if a = g.off then d.setBuffer r g.off v
      else
        let lo := (d.bufferOf r g.off).getD (d.regView g.off)
        (d.dropBuffer r g.off).put64 r g.off (lo.toNat + 2 ^ 32 * v.toNat)

/-- A write of the word at BAR0 offset `a`. -/
def Dev.writeAt (d : Dev) (r : Requester) (a : Nat) (v : Word) : Dev :=
  match d.mapAddr r a with
  | some k => d.write4 r k v
  | none => d

/-- An aligned 8-byte write. -/
def Dev.write8 (d : Dev) (r : Requester) (a : Nat) (v : DWord) : Dev :=
  let two := (d.writeAt r a (loWord v.toNat)).writeAt r (a + 4) (hiWord v.toNat)
  match d.mapAddr r a with
  | none => two
  | some k =>
    match regAt k with
    | none => two
    | some g =>
      if g.wide && g.off == k then
        match windowAt k with
        | some w => d.windowWrite r w (.whole v)
        | none => d.put64 r k v.toNat
      else two

/-- A write of BAR0: a narrow one, or one that is not naturally aligned, is discarded and sets HST.ERRSUM.ACCESS (R34). -/
def Dev.busWrite (d : Dev) (r : Requester) (a : Nat) (sz : AccessSize) (v : DWord) : Dev :=
  let n := sizeOf sz
  if n < 4 ∨ a % n ≠ 0 then d.err HST.page 4
  else if bar4Base ≤ a then
    if n = 8 then (d.bar4Write r (a - bar4Base) (loWord v.toNat)).bar4Write r (a - bar4Base + 4) (hiWord v.toNat)
    else d.bar4Write r (a - bar4Base) (loWord v.toNat)
  else if n = 8 then d.write8 r a v
  else d.writeAt r a (loWord v.toNat)

/-! ### The commands -/

/-- REGISTER_WRITE (R33-R36): a write of any size and address by any requester. -/
def execRegisterWrite (r : Requester) (addr : Nat) (sz : AccessSize) (data : DWord) (s : State) :
    Host.Outcome State Fault Refusal :=
  onDev (·.busWrite r addr sz data) s

/-- READ_CLEAR (R8): a read, which clears an RC register; the same read of any other register has that one's effects. -/
def execReadClear (r : Requester) (addr : Nat) (sz : AccessSize) (s : State) : Host.Outcome State Fault Refusal :=
  onDev (·.busRead r addr sz) s

/-- LOW_HALF_READ (R35): a 4-byte read, which captures the high half where it reads the low half of a 64-bit register. -/
def execLowHalfRead (r : Requester) (addr : Nat) (s : State) : Host.Outcome State Fault Refusal :=
  onDev (·.busRead r addr .b4) s

/-- UNALIGNED_READ (R34). -/
def execUnalignedRead (r : Requester) (addr : Nat) (sz : AccessSize) (s : State) : Host.Outcome State Fault Refusal :=
  onDev (·.busRead r addr sz) s

/-- MBOXIN_WRITE (R48): a 4-byte write of the high half, with the low half the requester has buffered (R35). -/
def execMboxinWrite (r : Requester) (c : Fin 4) (v : Word) (s : State) : Host.Outcome State Fault Refusal :=
  onDev (fun d => d.writeAt r (CPU.MBOXIN c + 4) v) s

/-- MBOXOUT_WRITE (R48): a 4-byte write of the high half. -/
def execMboxoutWrite (r : Requester) (c : Fin 4) (v : Word) (s : State) : Host.Outcome State Fault Refusal :=
  onDev (fun d => d.writeAt r (CPU.MBOXOUT c + 4) v) s

end Sys2Proof.Machine
end

