-- ==== Sys2Proof/Machine/Spdm.lean ====
section
/-!
DEFINITION. The SPDM 1.3 responder (18 R376-R378). Message layouts are those of DSP0274 1.3 (PRESUMED, log entry 21);
what the standard leaves to a device comes from Config.
-/
namespace Sys2Proof.Machine

def Dev.spdm (d : Dev) : Transport → SpdmConn
  | .doe => d.trust.spdmDoe
  | .mctp => d.trust.spdmMctp

def Dev.setSpdm (d : Dev) (t : Transport) (c : SpdmConn) : Dev :=
  match t with
  | .doe => { d with trust := { d.trust with spdmDoe := c } }
  | .mctp => { d with trust := { d.trust with spdmMctp := c } }

/-- The responder is there: Ascent has reached the boot ROM; DOE needs the PCIe link. -/
def Dev.spdmUp (d : Dev) (t : Transport) : Bool :=
  decide (3 ≤ d.stage) && (t == .mctp || d.module.pcieUp)

/-- A served request: its response is sent and SPDMCNT counts it (R380). -/
def Dev.respond (d : Dev) (bs : List Byte) : Dev :=
  { d with trust := { d.trust with spdmOut := bs } }.countSat TRU.SPDMCNT 1

/-- An ERROR response (R380). -/
def Dev.spdmError (d : Dev) (code : Nat) : Dev :=
  (d.respond [0x13#8, 0x7F#8, BitVec.ofNat 8 code, 0#8]).err TRU.page 10

/-- ERROR codes: InvalidRequest, UnexpectedRequest, VersionMismatch. -/
def errInvalid : Nat := 1
def errUnexpected : Nat := 4
def errVersion : Nat := 0x41

/-- Measurement 2, the digest that FWDIGEST shows (R377, R380): of the firmware header's signed part; all zero in recovery
(DEDUCED, log entry 21: FWDIGEST resets to 0). -/
def Dev.fwDigestNow (d : Dev) : List Byte :=
  if d.trust.boot == .running then sha3_384 (fwSigned (bytesOf zeroB d.trust.hdrBuf 0 hdrSize)) else List.replicate 48 0#8

/-- The seed of the alias key (R376). -/
def Dev.aliasSeed (d : Dev) : List Byte := (sha3_384 (Config.deviceSecret ++ d.fwDigestNow)).take 32
def Dev.certs (d : Dev) : List Byte := Config.certChain (Config.mldsaPublic d.aliasSeed)

/-- The values each measurement covers (R377), as its digest. -/
def Dev.measure (d : Dev) (i : Nat) : List Byte :=
  if i = 1 then Config.romDigest
  else if i = 2 then d.fwDigestNow
  else if i = 3 then Config.measurement 3 [d.fld TRU.SVN 7 0, d.trust.fuseCtr]
  else if i = 4 then Config.measurement 4 [d.module.bootsel.toNat, d.module.i3caddr.toNat, d.fld TRU.BOOTSTAT 9 8]
  else if i = 5 then Config.measurement 5 [d.trust.debugEnable.toNat]
  else Config.measurement 6 (d.trust.revoked.toNat :: (List.range 512).map (fun x => (d.fuseMask x).toNat))

/-- The DMTF value type of a measurement. -/
def valueType (i : Nat) : Nat := if i = 1 then 0 else if i = 2 then 1 else if i = 3 then 7 else if i = 5 then 5 else 2

/-- A measurement block. -/
def Dev.measBlock (d : Dev) (i : Nat) : List Byte :=
  leBytes 1 i ++ leBytes 1 1 ++ leBytes 2 51 ++ leBytes 1 (valueType i) ++ leBytes 2 48 ++ padTo 48 0#8 (d.measure i)

/-- The text "dmtf-spdm-v1.3.*" as bytes. -/
def spdmPrefix : List Byte :=
  [0x64#8, 0x6D#8, 0x74#8, 0x66#8, 0x2D#8, 0x73#8, 0x70#8, 0x64#8, 0x6D#8, 0x2D#8, 0x76#8, 0x31#8, 0x2E#8, 0x33#8, 0x2E#8, 0x2A#8]

/-- The signature by the alias key over a transcript under a context text (as bytes). -/
def Dev.spdmSign (d : Dev) (ctx transcript : List Byte) : List Byte :=
  Config.mldsaSign d.aliasSeed
    (spdmPrefix ++ spdmPrefix ++ spdmPrefix ++ spdmPrefix ++ List.replicate (36 - ctx.length) 0#8 ++ ctx ++
      sha3_384 transcript)

/-- "responder-challenge_auth signing" and "responder-measurements signing" as bytes. -/
def ctxChallenge : List Byte :=
  [0x72#8, 0x65#8, 0x73#8, 0x70#8, 0x6F#8, 0x6E#8, 0x64#8, 0x65#8, 0x72#8, 0x2D#8, 0x63#8, 0x68#8, 0x61#8, 0x6C#8, 0x6C#8, 0x65#8,
   0x6E#8, 0x67#8, 0x65#8, 0x5F#8, 0x61#8, 0x75#8, 0x74#8, 0x68#8, 0x20#8, 0x73#8, 0x69#8, 0x67#8, 0x6E#8, 0x69#8, 0x6E#8, 0x67#8]
def ctxMeasure : List Byte :=
  [0x72#8, 0x65#8, 0x73#8, 0x70#8, 0x6F#8, 0x6E#8, 0x64#8, 0x65#8, 0x72#8, 0x2D#8, 0x6D#8, 0x65#8, 0x61#8, 0x73#8, 0x75#8, 0x72#8,
   0x65#8, 0x6D#8, 0x65#8, 0x6E#8, 0x74#8, 0x73#8, 0x20#8, 0x73#8, 0x69#8, 0x67#8, 0x6E#8, 0x69#8, 0x6E#8, 0x67#8]

/-- A request is served at a connection that has come to `level`: the request's code and version are right. -/
def Dev.serve (d : Dev) (t : Transport) (level code : Nat) (p : List Byte) (f : Dev → Dev) : Dev :=
  if !d.spdmUp t then d
  else if byteAt p 1 ≠ code ∨ p.length < 4 then d.spdmError errInvalid
  else if byteAt p 0 ≠ (if code = 0x84 then 0x10 else 0x13) then d.spdmError errVersion
  else if (d.spdm t).level < level then d.spdmError errUnexpected
  else f d

/-- The exchange enters the connection's transcript and the connection comes to `level`. -/
def Dev.exchange (d : Dev) (t : Transport) (level : Nat) (req rsp : List Byte) : Dev :=
  let c := d.spdm t
  (d.setSpdm t { c with level := max c.level level, transcript := c.transcript ++ req ++ rsp, measTranscript := [] }).respond rsp

def Dev.getVersion (t : Transport) (p : List Byte) (d : Dev) : Dev :=
  d.serve t 0 0x84 p (fun d =>
    (d.setSpdm t SpdmConn.reset).exchange t 1 p [0x10#8, 0x04#8, 0#8, 0#8, 0#8, 1#8, 0#8, 0x13#8])

/-- GET_VERSION (R377): VERSION lists 1.3. -/
def execGetVersion (t : Transport) (payload : List Byte) (s : State) : Host.Outcome State Fault Refusal :=
  onDev (Dev.getVersion t payload) s

def Dev.getCapabilities (t : Transport) (p : List Byte) (d : Dev) : Dev :=
  d.serve t 1 0xE1 p (fun d => d.exchange t 2 p
    ([0x13#8, 0x61#8, 0#8, 0#8, 0#8] ++ padTo 1 0#8 (Config.spdmField 0) ++ [0#8, 0#8] ++ leBytes 4 0x16 ++
      padTo 8 0#8 (Config.spdmField 1)))

/-- GET_CAPABILITIES (R377): CERT_CAP, CHAL_CAP, MEAS_CAP = 2. -/
def execGetCapabilities (t : Transport) (payload : List Byte) (s : State) : Host.Outcome State Fault Refusal :=
  onDev (Dev.getCapabilities t payload) s

def Dev.negotiateAlgorithms (t : Transport) (p : List Byte) (d : Dev) : Dev :=
  d.serve t 2 0xE3 p (fun d => d.exchange t 3 p
    ([0x13#8, 0x63#8, 0#8, 0#8] ++ leBytes 2 40 ++ [1#8, 0#8] ++ leBytes 4 0x20 ++ leBytes 4 0 ++ leBytes 4 0x10 ++
      List.replicate 12 0#8 ++ [1#8, 0#8, 0#8, 0#8] ++ padTo 4 0#8 (0x03#8 :: 0#8 :: Config.spdmField 2)))

/-- NEGOTIATE_ALGORITHMS (R377): SHA3-384, ML-DSA-87 through ExtAsym, DMTF measurements. -/
def execNegotiateAlgorithms (t : Transport) (payload : List Byte) (s : State) : Host.Outcome State Fault Refusal :=
  onDev (Dev.negotiateAlgorithms t payload) s

def Dev.getDigests (t : Transport) (p : List Byte) (d : Dev) : Dev :=
  d.serve t 3 0x81 p (fun d => d.exchange t 3 p ([0x13#8, 0x01#8, 1#8, 1#8] ++ sha3_384 d.certs))

/-- GET_DIGESTS (R377): slot 0 holds the chain. -/
def execGetDigests (t : Transport) (payload : List Byte) (s : State) : Host.Outcome State Fault Refusal :=
  onDev (Dev.getDigests t payload) s

def Dev.getCertificate (t : Transport) (p : List Byte) (d : Dev) : Dev :=
  d.serve t 3 0x82 p (fun d =>
    let chain := d.certs
    let off := fieldAt p 4 2
    let n := min (fieldAt p 6 2) (chain.length - off)
    if field (byteAt p 2) 3 0 ≠ 0 ∨ chain.length ≤ off then d.spdmError errInvalid
    else d.exchange t 3 p ([0x13#8, 0x02#8, 0#8, 0#8] ++ leBytes 2 n ++ leBytes 2 (chain.length - off - n) ++
      (chain.drop off).take n))

/-- GET_CERTIFICATE (R376, R377). -/
def execGetCertificate (t : Transport) (payload : List Byte) (s : State) : Host.Outcome State Fault Refusal :=
  onDev (Dev.getCertificate t payload) s

/-- The measurement summary hash: over all blocks for 0xFF, over the boot ROM's and the firmware's for 1. -/
def Dev.measSummary (d : Dev) (kind : Nat) : List Byte :=
  if kind = 0xFF then sha3_384 ((List.range 6).flatMap (fun i => d.measBlock (i + 1)))
  else if kind = 1 then sha3_384 (d.measBlock 1 ++ d.measBlock 2) else []

def Dev.challenge (t : Transport) (p : List Byte) (d : Dev) : Dev :=
  d.serve t 3 0x83 p (fun d =>
    if byteAt p 2 ≠ 0 then d.spdmError errInvalid
    else
      let body := [0x13#8, 0x03#8, 0#8, 1#8] ++ sha3_384 d.certs ++ padTo 32 0#8 (Config.nonce d.freeCtr) ++
        d.measSummary (byteAt p 3) ++ leBytes 2 0 ++ padTo 8 0#8 ((p.drop 36).take 8)
      let c := d.spdm t
      let sig := d.spdmSign ctxChallenge (c.transcript ++ p ++ body)
      ({ d with freeCtr := d.freeCtr + 1 }.setSpdm t { c with measTranscript := [] }).respond (body ++ sig))

/-- CHALLENGE (R377): answered with an alias-key signature. -/
def execChallenge (t : Transport) (payload : List Byte) (s : State) : Host.Outcome State Fault Refusal :=
  onDev (Dev.challenge t payload) s

def Dev.getMeasurements (t : Transport) (p : List Byte) (d : Dev) : Dev :=
  d.serve t 3 0xE0 p (fun d =>
    let op := byteAt p 3
    let signed := bit (byteAt p 2) 0
    if !(op == 0 || op == 0xFF || decide (op ≤ 6)) then d.spdmError errInvalid
    else
      let idx := if op = 0 then [] else if op = 0xFF then [1, 2, 3, 4, 5, 6] else [op]
      let rec_ := idx.flatMap d.measBlock
      let ctx := if signed then (p.drop 37).take 8 else (p.drop 4).take 8
      let body := [0x13#8, 0x60#8, (if op = 0 then 6#8 else 0#8), 0#8] ++ leBytes 1 idx.length ++ leBytes 3 rec_.length ++
        rec_ ++ padTo 32 0#8 (Config.nonce d.freeCtr) ++ leBytes 2 0 ++ padTo 8 0#8 ctx
      let c := d.spdm t
      let l := c.measTranscript ++ p ++ body
      let d1 := { d with freeCtr := d.freeCtr + 1 }
      if signed then (d1.setSpdm t { c with measTranscript := [] }).respond (body ++ d.spdmSign ctxMeasure l)
      else (d1.setSpdm t { c with measTranscript := l }).respond body)

/-- GET_MEASUREMENTS (R377). -/
def execGetMeasurements (t : Transport) (payload : List Byte) (s : State) : Host.Outcome State Fault Refusal :=
  onDev (Dev.getMeasurements t payload) s

end Sys2Proof.Machine
end

