-- ==== Sys2Proof/Machine/TxnOps.lean ====
section
/-!
DEFINITION. The transactions a port has received, and this device's own local ones (14 R313-R320): RWRITE, RREAD, RACC,
SYNC and completions. Orders 1 and 2 of R316 are `Dev.receive`; orders 3 to 7 are here.
-/
namespace Sys2Proof.Machine

/-- What waits at a port, or of the device's own rank. -/
def Dev.waitingTxns (d : Dev) (p : Option Nat) : List Txn :=
  match p with
  | some q => (d.port q).received
  | none => d.link.localQ

/-- A transaction may be taken: it is the oldest request of its source that waits here (R315), or a completion. -/
def Dev.mayTake (d : Dev) (p : Option Nat) (t : Txn) : Bool :=
  let l := d.waitingTxns p
  if t.isCpl then l.contains t
  else l.find? (fun (x : Txn) => !x.isCpl && x.srcRank == t.srcRank) == some t

/-- Duplicates count at the receiving port (R319). -/
def Dev.countResent (d : Dev) (p : Option Nat) : Dev := d.countSat (LNK.RESENTCNT (p.getD 0)) 1

/-- A transaction of kind `ok` that waits is forwarded towards another rank, or judged here; `act` answers orders 3 to 7
with the device, the code and the data of the completion. -/
def Dev.takeTxn (d : Dev) (p : Option Nat) (t : Txn) (ok : Nat → Bool) (act : Dev → Dev × Nat × List Byte) : Dev :=
  if !(ok t.kindN && d.mayTake p t) then d
  else if t.dstRank ≠ d.rank then (d.leavePort p t).forward p t
  else
    let r := d.receive p t
    if r.2 then
      let a := act r.1
      a.1.complete t a.2.1 false a.2.2
    else r.1

/-- The stack or slice of a device address is under reset (R396). -/
def Dev.stackInReset (d : Dev) (a : Nat) : Bool := d.inReset (STK.page (stackOf a)) || d.inReset (MSC.page (stackOf a))

/-- RWRITE, orders 3 to 7. -/
def Dev.doRwrite (t : Txn) (p : Option Nat) (d : Dev) : Dev × Nat × List Byte :=
  let a := t.addrN
  let n := t.bytesN
  let d1 := if t.resent && d.freshNat.1 % 2 == 1 then d.freshNat.2.countResent p else if t.resent then d.freshNat.2 else d
  if !d1.windowed a n then (d1, 0x12, [])
  else if !rangeInside a n 0 memTop then (d1, 0x12, [])
  else if d1.stackInReset a then (d1.absorb, 0xB0, [])
  else (d1.memWrite a (t.payload.take n), 0, [])

/-- RWRITE (R313, R316). A transaction of an invalid kind is taken here and refused at order 1. -/
def execRwrite (p : Option (Fin 24)) (t : Txn) (s : State) : Host.Outcome State Fault Refusal :=
  onBeat (fun d => d.takeTxn (p.map (fun q => q.val)) t (fun k => k < 2 || 6 ≤ k)
    (Dev.doRwrite t (p.map (fun q => q.val)))) s

/-- RREAD, orders 4 to 7. Data with an uncorrectable error fails the running beat (R218); the request completes with the
same code (log entry 27). -/
def Dev.doRread (t : Txn) (p : Option Nat) (d : Dev) : Dev × Nat × List Byte :=
  let a := t.addrN
  let n := t.bytesN
  let d1 := if t.resent && d.freshNat.1 % 2 == 1 then d.freshNat.2.countResent p else if t.resent then d.freshNat.2 else d
  if t.ten ≠ d1.num HIV.RESIDENT % 16 ∨ (t.ten ≠ 0 ∧ !d1.inRegion t.ten a n) then (d1, 0x19, [])
  else if !rangeInside a n 0 memTop then (d1, 0x12, [])
  else if d1.stackInReset a then (d1.absorb, 0xB0, [])
  else
    let bad := (blocksOf a n).any (fun b => d1.pinned (256 * b) && d1.mem.pinUE.contains b)
    let worse := (blocksOf a n).any d1.blockBad
    let r := d1.engRead a n
    if bad then (r.2, 0x30, []) else if worse then (r.2, 0x31, []) else (r.2, 0, r.1)

/-- RREAD (R313, R316). -/
def execRread (p : Option (Fin 24)) (t : Txn) (s : State) : Host.Outcome State Fault Refusal :=
  onBeat (fun d => d.takeTxn (p.map (fun q => q.val)) t (fun k => k == 2) (Dev.doRread t (p.map (fun q => q.val)))) s

/-- Bytes of the target that a RACC acts on. -/
def raccTarget (t : Txn) : Nat :=
  t.elems * (if t.op = 0x02 ∨ t.op = 0x03 ∨ t.op = 0x08 ∨ t.op = 0x09 then 8 else 4)

/-- RACC, orders 3 to 7: judged by the Stag (R232), then by the atomic unit (R213). -/
def Dev.doRacc (t : Txn) (p : Option Nat) (d : Dev) : Dev × Nat × List Byte :=
  if !d.windowed t.addrN (raccTarget t) then (d, 0x12, [])
  else if !rangeInside t.addrN (raccTarget t) 0 memTop then (d, 0x12, [])
  else if d.inReset (STG.page (stackOf t.addrN)) || d.stackInReset t.addrN then (d.absorb, 0xB0, [])
  else
    let r := d.stagLine t
    (if r.2 = 6 ∧ t.resent then r.1.countResent p else r.1, r.2, [])

/-- RACC (R232, R313, R316). -/
def execRacc (p : Option (Fin 24)) (t : Txn) (s : State) : Host.Outcome State Fault Refusal :=
  onBeat (fun d => d.takeTxn (p.map (fun q => q.val)) t (fun k => k == 3) (Dev.doRacc t (p.map (fun q => q.val)))) s

/-- SYNC, orders 4 to 7, and its duplicates (R319). -/
def Dev.doSync (t : Txn) (p : Option Nat) (d : Dev) : Dev × Nat × List Byte :=
  let o := t.addrN
  if t.ten ≠ d.num HIV.RESIDENT % 16 ∨ !d.granted t.ten o then (d, 0x19, [])
  else if d.inReset (SYN.page (o / 512)) then (d.absorb, 0xB0, [])
  else if d.link.syncRec.contains (⟨t.srcRank, t.tag, t.gen⟩ : SyncRec) then (d.countResent p, 0, [])
  else
    let d1 := { d with link := { d.link with syncRec :=
      (⟨t.srcRank, t.tag, t.gen⟩ : SyncRec) :: d.link.syncRec.filter (fun (r : SyncRec) => r.src != t.srcRank) } }
    (d1.signal o (field t.arg0.toNat 15 0), 0, [])

/-- LINK_SYNC (R313, R316). -/
def execLinkSync (p : Option (Fin 24)) (t : Txn) (s : State) : Host.Outcome State Fault Refusal :=
  onBeat (fun d => d.takeTxn (p.map (fun q => q.val)) t (fun k => k == 4) (Dev.doSync t (p.map (fun q => q.val)))) s

/-- A completion has arrived (R318, R320): forwarded, matched, or late; one that belongs to a request that a DRAINLIMIT
gave up counts in DRAINLATE (R393). -/
def Dev.takeCpl (d : Dev) (p : Option Nat) (t : Txn) : Dev :=
  if !(t.isCpl && d.mayTake p t) then d
  else
    let d0 := d.leavePort p t
    if t.dstRank ≠ d.rank then d0.forward p t
    else
      let late := !((d0.table t.iport).any (fun (o : Outst) => o.tag == t.tag && o.gen == t.gen))
      let key := (t.iport, t.tag, t.gen)
      let d1 := if late && t.resent then d0.countResent p else d0
      let d2 := if late && d1.ascent.lateOut.contains key then
          ({ d1 with ascent := { d1.ascent with lateOut := d1.ascent.lateOut.erase key } }).countSat ASC.DRAINLATE 1
        else d1
      d2.completeAt t.iport t.tag t.gen (field t.arg0.toNat 7 0) t.proto

/-- CPL (R318, R320). -/
def execCpl (p : Option (Fin 24)) (t : Txn) (s : State) : Host.Outcome State Fault Refusal :=
  onBeat (·.takeCpl (p.map (fun q => q.val)) t) s

end Sys2Proof.Machine
end

