-- ==== Sys2Proof/Machine/Dispatch.lean ====
section
/-!
DEFINITION. The dispatch: one arm for each row of the opcode table, in its order.
-/
namespace Sys2Proof.Machine

def exec (i : Instr) (s : State) : Host.Outcome State Fault Refusal :=
  match i with
  | .pwrenRise => Sys2Proof.Machine.execPwrenRise s
  | .pwrenFall => Sys2Proof.Machine.execPwrenFall s
  | .inputLimitCross mv => Sys2Proof.Machine.execInputLimitCross mv s
  | .inputMonitorStart mv => Sys2Proof.Machine.execInputMonitorStart mv s
  | .bulkChargeDone => Sys2Proof.Machine.execBulkChargeDone s
  | .pwrgdRise => Sys2Proof.Machine.execPwrgdRise s
  | .thermalTrip src => Sys2Proof.Machine.execThermalTrip src s
  | .tripLatchClear how => Sys2Proof.Machine.execTripLatchClear how s
  | .perstAssert => Sys2Proof.Machine.execPerstAssert s
  | .perstDeassert bootsel i3c => Sys2Proof.Machine.execPerstDeassert bootsel i3c s
  | .pcieHotReset => Sys2Proof.Machine.execPcieHotReset s
  | .pcieLinkDown => Sys2Proof.Machine.execPcieLinkDown s
  | .pfFlr => Sys2Proof.Machine.execPfFlr s
  | .vfFlr v => Sys2Proof.Machine.execVfFlr v s
  | .clkinOk => Sys2Proof.Machine.execClkinOk s
  | .vcoCalibrationDone => Sys2Proof.Machine.execVcoCalibrationDone s
  | .apexLock clkinCycles => Sys2Proof.Machine.execApexLock clkinCycles s
  | .apexLockRetry => Sys2Proof.Machine.execApexLockRetry s
  | .dividerRelease => Sys2Proof.Machine.execDividerRelease s
  | .blockResetRelease => Sys2Proof.Machine.execBlockResetRelease s
  | .apexLockLoss => Sys2Proof.Machine.execApexLockLoss s
  | .fuseRead => Sys2Proof.Machine.execFuseRead s
  | .fuseReadDone => Sys2Proof.Machine.execFuseReadDone s
  | .firmwareVerifyDone => Sys2Proof.Machine.execFirmwareVerifyDone s
  | .recoveryGo r v => Sys2Proof.Machine.execRecoveryGo r v s
  | .pushVerifyDone => Sys2Proof.Machine.execPushVerifyDone s
  | .flashProgramDone readBackOk => Sys2Proof.Machine.execFlashProgramDone readBackOk s
  | .svncommit r v => Sys2Proof.Machine.execSvncommit r v s
  | .fuseBlown => Sys2Proof.Machine.execFuseBlown s
  | .swarmctrlGo r v => Sys2Proof.Machine.execSwarmctrlGo r v s
  | .swarmPassEnd arrived => Sys2Proof.Machine.execSwarmPassEnd arrived s
  | .swarmGatherEnd => Sys2Proof.Machine.execSwarmGatherEnd s
  | .unicastRepairEnd arrived => Sys2Proof.Machine.execUnicastRepairEnd arrived s
  | .stage7Start => Sys2Proof.Machine.execStage7Start s
  | .stackTrainingStepEnd st pass failch => Sys2Proof.Machine.execStackTrainingStepEnd st pass failch s
  | .stage8Start => Sys2Proof.Machine.execStage8Start s
  | .surveyStart => Sys2Proof.Machine.execSurveyStart s
  | .surveyEnd => Sys2Proof.Machine.execSurveyEnd s
  | .surveyctrlGo r v => Sys2Proof.Machine.execSurveyctrlGo r v s
  | .svcstateWrite r v => Sys2Proof.Machine.execSvcstateWrite r v s
  | .cellresetGo r v => Sys2Proof.Machine.execCellresetGo r v s
  | .clresetGo r v => Sys2Proof.Machine.execClresetGo r v s
  | .ctrlReset r slot enable abort => Sys2Proof.Machine.execCtrlReset r slot enable abort s
  | .resetDrainEnd sc => Sys2Proof.Machine.execResetDrainEnd sc s
  | .drainlimitExpiry sc => Sys2Proof.Machine.execDrainlimitExpiry sc s
  | .resetRelease sc => Sys2Proof.Machine.execResetRelease sc s
  | .ctrlEnable r slot on => Sys2Proof.Machine.execCtrlEnable r slot on s
  | .ctrlAbort r slot enable => Sys2Proof.Machine.execCtrlAbort r slot enable s
  | .registerWrite r addr sz data => Sys2Proof.Machine.execRegisterWrite r addr sz data s
  | .readClear r addr sz => Sys2Proof.Machine.execReadClear r addr sz s
  | .lowHalfRead r addr => Sys2Proof.Machine.execLowHalfRead r addr s
  | .unalignedRead r addr sz => Sys2Proof.Machine.execUnalignedRead r addr sz s
  | .bar2Read fn off len => Sys2Proof.Machine.execBar2Read fn off len s
  | .bar2Write fn off bytes => Sys2Proof.Machine.execBar2Write fn off bytes s
  | .msixTableWrite fn entry dw v => Sys2Proof.Machine.execMsixTableWrite fn entry dw v s
  | .cpctrlRun r c run => Sys2Proof.Machine.execCpctrlRun r c run s
  | .cpreset r c run => Sys2Proof.Machine.execCpreset r c run s
  | .cpResetEnd c => Sys2Proof.Machine.execCpResetEnd c s
  | .mboxinWrite r c v => Sys2Proof.Machine.execMboxinWrite r c v s
  | .mboxoutWrite r c v => Sys2Proof.Machine.execMboxoutWrite r c v s
  | .beatStart => Sys2Proof.Machine.execBeatStart s
  | .issueClose => Sys2Proof.Machine.execIssueClose s
  | .beatMarker => Sys2Proof.Machine.execBeatMarker s
  | .ringFetchReturn fn rsp => Sys2Proof.Machine.execRingFetchReturn fn rsp s
  | .admission => Sys2Proof.Machine.execAdmission s
  | .foragerVote => Sys2Proof.Machine.execForagerVote s
  | .completionPost => Sys2Proof.Machine.execCompletionPost s
  | .descriptorDispatch => Sys2Proof.Machine.execDescriptorDispatch s
  | .run fn => Sys2Proof.Machine.execRun fn s
  | .cancel fn => Sys2Proof.Machine.execCancel fn s
  | .imgreg fn => Sys2Proof.Machine.execImgreg fn s
  | .imageRegistrationDone => Sys2Proof.Machine.execImageRegistrationDone s
  | .imgdereg fn => Sys2Proof.Machine.execImgdereg fn s
  | .matmul => Sys2Proof.Machine.execMatmul s
  | .flankmm => Sys2Proof.Machine.execFlankmm s
  | .sync => Sys2Proof.Machine.execSync s
  | .conv => Sys2Proof.Machine.execConv s
  | .pool => Sys2Proof.Machine.execPool s
  | .cropresize => Sys2Proof.Machine.execCropresize s
  | .windowFetchEnd => Sys2Proof.Machine.execWindowFetchEnd s
  | .attn => Sys2Proof.Machine.execAttn s
  | .kvappend => Sys2Proof.Machine.execKvappend s
  | .waveBegin flank => Sys2Proof.Machine.execWaveBegin flank s
  | .waveFoldEnd flank => Sys2Proof.Machine.execWaveFoldEnd flank s
  | .exitAccept cell => Sys2Proof.Machine.execExitAccept cell s
  | .exitWriteEnd cell => Sys2Proof.Machine.execExitWriteEnd cell s
  | .ringTileDeliver cell => Sys2Proof.Machine.execRingTileDeliver cell s
  | .massifOpComplete => Sys2Proof.Machine.execMassifOpComplete s
  | .sigportWrite r g v => Sys2Proof.Machine.execSigportWrite r g v s
  | .syncObjectWrite r obj v => Sys2Proof.Machine.execSyncObjectWrite r obj v s
  | .csdataRead r p a => Sys2Proof.Machine.execCsdataRead r p a s
  | .csdataWrite r p a => Sys2Proof.Machine.execCsdataWrite r p a s
  | .weevilRun => Sys2Proof.Machine.execWeevilRun s
  | .pwlload => Sys2Proof.Machine.execPwlload s
  | .weevilDescComplete => Sys2Proof.Machine.execWeevilDescComplete s
  | .wvlNop k => Sys2Proof.Machine.execWvlNop k s
  | .wvlAdd k => Sys2Proof.Machine.execWvlAdd k s
  | .wvlSub k => Sys2Proof.Machine.execWvlSub k s
  | .wvlMul k => Sys2Proof.Machine.execWvlMul k s
  | .wvlFma k => Sys2Proof.Machine.execWvlFma k s
  | .wvlMin k => Sys2Proof.Machine.execWvlMin k s
  | .wvlMax k => Sys2Proof.Machine.execWvlMax k s
  | .wvlAbs k => Sys2Proof.Machine.execWvlAbs k s
  | .wvlNeg k => Sys2Proof.Machine.execWvlNeg k s
  | .wvlRcp k => Sys2Proof.Machine.execWvlRcp k s
  | .wvlRsqrt k => Sys2Proof.Machine.execWvlRsqrt k s
  | .wvlSqrt k => Sys2Proof.Machine.execWvlSqrt k s
  | .wvlExp k => Sys2Proof.Machine.execWvlExp k s
  | .wvlLog k => Sys2Proof.Machine.execWvlLog k s
  | .wvlAct k => Sys2Proof.Machine.execWvlAct k s
  | .wvlCmp k => Sys2Proof.Machine.execWvlCmp k s
  | .wvlSel k => Sys2Proof.Machine.execWvlSel k s
  | .wvlMov k => Sys2Proof.Machine.execWvlMov k s
  | .wvlTrn k => Sys2Proof.Machine.execWvlTrn k s
  | .wvlRred k => Sys2Proof.Machine.execWvlRred k s
  | .wvlCred k => Sys2Proof.Machine.execWvlCred k s
  | .wvlRint k => Sys2Proof.Machine.execWvlRint k s
  | .wvlCvtw k => Sys2Proof.Machine.execWvlCvtw k s
  | .wvlCvtn k => Sys2Proof.Machine.execWvlCvtn k s
  | .wvlLd k => Sys2Proof.Machine.execWvlLd k s
  | .wvlSt k => Sys2Proof.Machine.execWvlSt k s
  | .wvlStn k => Sys2Proof.Machine.execWvlStn k s
  | .wvlTwait k => Sys2Proof.Machine.execWvlTwait k s
  | .wvlTrel k => Sys2Proof.Machine.execWvlTrel k s
  | .wvlSeta k => Sys2Proof.Machine.execWvlSeta k s
  | .wvlAdda k => Sys2Proof.Machine.execWvlAdda k s
  | .wvlLoop k => Sys2Proof.Machine.execWvlLoop k s
  | .wvlEndl k => Sys2Proof.Machine.execWvlEndl k s
  | .wvlEnd k => Sys2Proof.Machine.execWvlEnd k s
  | .pwldataAccess r k a => Sys2Proof.Machine.execPwldataAccess r k a s
  | .trdataAccess r k a => Sys2Proof.Machine.execTrdataAccess r k a s
  | .place => Sys2Proof.Machine.execPlace s
  | .dual => Sys2Proof.Machine.execDual s
  | .colDescComplete => Sys2Proof.Machine.execColDescComplete s
  | .lnfwd k => Sys2Proof.Machine.execLnfwd k s
  | .rmsfwd k => Sys2Proof.Machine.execRmsfwd k s
  | .smfwd k => Sys2Proof.Machine.execSmfwd k s
  | .lnbwd k => Sys2Proof.Machine.execLnbwd k s
  | .rmsbwd k => Sys2Proof.Machine.execRmsbwd k s
  | .smbwd k => Sys2Proof.Machine.execSmbwd k s
  | .bandsum k => Sys2Proof.Machine.execBandsum k s
  | .statsave k => Sys2Proof.Machine.execStatsave k s
  | .statload k => Sys2Proof.Machine.execStatload k s
  | .scarabDescComplete => Sys2Proof.Machine.execScarabDescComplete s
  | .statdataAccess r k a => Sys2Proof.Machine.execStatdataAccess r k a s
  | .talusOpen k => Sys2Proof.Machine.execTalusOpen k s
  | .talusClose k => Sys2Proof.Machine.execTalusClose k s
  | .talusRelease k => Sys2Proof.Machine.execTalusRelease k s
  | .spillEnd k => Sys2Proof.Machine.execSpillEnd k s
  | .talusDescComplete => Sys2Proof.Machine.execTalusDescComplete s
  | .copy => Sys2Proof.Machine.execCopy s
  | .copyComplete => Sys2Proof.Machine.execCopyComplete s
  | .iadd32 q => Sys2Proof.Machine.execIadd32 q s
  | .iadd64 q => Sys2Proof.Machine.execIadd64 q s
  | .iadd64s32 q => Sys2Proof.Machine.execIadd64s32 q s
  | .imax32 q => Sys2Proof.Machine.execImax32 q s
  | .umax32 q => Sys2Proof.Machine.execUmax32 q s
  | .swap64 q => Sys2Proof.Machine.execSwap64 q s
  | .cas64 q => Sys2Proof.Machine.execCas64 q s
  | .fadd32 q => Sys2Proof.Machine.execFadd32 q s
  | .pinCommit r v => Sys2Proof.Machine.execPinCommit r v s
  | .pinFetchDone st => Sys2Proof.Machine.execPinFetchDone st s
  | .stackTempReading st eighths => Sys2Proof.Machine.execStackTempReading st eighths s
  | .patrolScrubRead st blk o => Sys2Proof.Machine.execPatrolScrubRead st blk o s
  | .scrubGo r st v => Sys2Proof.Machine.execScrubGo r st v s
  | .scrubDone st corrected => Sys2Proof.Machine.execScrubDone st corrected s
  | .marginGo r st v => Sys2Proof.Machine.execMarginGo r st v s
  | .marginDone st data => Sys2Proof.Machine.execMarginDone st data s
  | .tgGo r st v => Sys2Proof.Machine.execTgGo r st v s
  | .tgDone st errs firsts => Sys2Proof.Machine.execTgDone st errs firsts s
  | .arm => Sys2Proof.Machine.execArm s
  | .reduce => Sys2Proof.Machine.execReduce s
  | .update => Sys2Proof.Machine.execUpdate s
  | .agreedWordsSend slot => Sys2Proof.Machine.execAgreedWordsSend slot s
  | .valueLinesSend slot => Sys2Proof.Machine.execValueLinesSend slot s
  | .shardConvert slot => Sys2Proof.Machine.execShardConvert slot s
  | .shardUpdate slot => Sys2Proof.Machine.execShardUpdate slot s
  | .floatTreeAdd slot => Sys2Proof.Machine.execFloatTreeAdd slot s
  | .stagDescComplete => Sys2Proof.Machine.execStagDescComplete s
  | .microAdd => Sys2Proof.Machine.execMicroAdd s
  | .microSub => Sys2Proof.Machine.execMicroSub s
  | .microMul => Sys2Proof.Machine.execMicroMul s
  | .microFma => Sys2Proof.Machine.execMicroFma s
  | .microDiv => Sys2Proof.Machine.execMicroDiv s
  | .microSqrt => Sys2Proof.Machine.execMicroSqrt s
  | .microRsqrt => Sys2Proof.Machine.execMicroRsqrt s
  | .microMin => Sys2Proof.Machine.execMicroMin s
  | .microMax => Sys2Proof.Machine.execMicroMax s
  | .microSign => Sys2Proof.Machine.execMicroSign s
  | .microAbs => Sys2Proof.Machine.execMicroAbs s
  | .microNeg => Sys2Proof.Machine.execMicroNeg s
  | .microSel => Sys2Proof.Machine.execMicroSel s
  | .microExp => Sys2Proof.Machine.execMicroExp s
  | .microLog => Sys2Proof.Machine.execMicroLog s
  | .microEnd => Sys2Proof.Machine.execMicroEnd s
  | .hiveAdd fn => Sys2Proof.Machine.execHiveAdd fn s
  | .hiveRetire fn => Sys2Proof.Machine.execHiveRetire fn s
  | .hivePause fn => Sys2Proof.Machine.execHivePause fn s
  | .hiveResume fn => Sys2Proof.Machine.execHiveResume fn s
  | .hiveFork fn => Sys2Proof.Machine.execHiveFork fn s
  | .preemptGo r v => Sys2Proof.Machine.execPreemptGo r v s
  | .tencfgEnabled r t v => Sys2Proof.Machine.execTencfgEnabled r t v s
  | .contextSaveDone ok => Sys2Proof.Machine.execContextSaveDone ok s
  | .contextLoadDone ok => Sys2Proof.Machine.execContextLoadDone ok s
  | .forcmdOpen fn => Sys2Proof.Machine.execForcmdOpen fn s
  | .forcmdList fn => Sys2Proof.Machine.execForcmdList fn s
  | .forcmdClose fn => Sys2Proof.Machine.execForcmdClose fn s
  | .forcmdEncode fn => Sys2Proof.Machine.execForcmdEncode fn s
  | .feedCloseApply f => Sys2Proof.Machine.execFeedCloseApply f s
  | .warmupDone f => Sys2Proof.Machine.execWarmupDone f s
  | .sampleDecodeStart f pos => Sys2Proof.Machine.execSampleDecodeStart f pos s
  | .sampleDecodeDone f pos => Sys2Proof.Machine.execSampleDecodeDone f pos s
  | .assemble => Sys2Proof.Machine.execAssemble s
  | .assembleComplete => Sys2Proof.Machine.execAssembleComplete s
  | .streamEntryRead st => Sys2Proof.Machine.execStreamEntryRead st s
  | .streamLost st => Sys2Proof.Machine.execStreamLost st s
  | .strmctrlReopen r st v => Sys2Proof.Machine.execStrmctrlReopen r st v s
  | .encodeDone => Sys2Proof.Machine.execEncodeDone s
  | .linkSignalDetect p reversed => Sys2Proof.Machine.execLinkSignalDetect p reversed s
  | .trainStepPass p lanes polinv => Sys2Proof.Machine.execTrainStepPass p lanes polinv s
  | .trainStepLimit p => Sys2Proof.Machine.execTrainStepLimit p s
  | .linkEnergyLoss p => Sys2Proof.Machine.execLinkEnergyLoss p s
  | .identExchange p rank port dist valid => Sys2Proof.Machine.execIdentExchange p rank port dist valid s
  | .codewordLockLoss p => Sys2Proof.Machine.execCodewordLockLoss p s
  | .recoveryLockRegained p expected => Sys2Proof.Machine.execRecoveryLockRegained p expected s
  | .recoveryTimeout p => Sys2Proof.Machine.execRecoveryTimeout p s
  | .replayBufferUe p => Sys2Proof.Machine.execReplayBufferUe p s
  | .flitData p h intact body => Sys2Proof.Machine.execFlitData p h intact body s
  | .flitIdle p h intact => Sys2Proof.Machine.execFlitIdle p h intact s
  | .flitNak p h intact => Sys2Proof.Machine.execFlitNak p h intact s
  | .ackTimeout p => Sys2Proof.Machine.execAckTimeout p s
  | .rwrite p t => Sys2Proof.Machine.execRwrite p t s
  | .rread p t => Sys2Proof.Machine.execRread p t s
  | .racc p t => Sys2Proof.Machine.execRacc p t s
  | .linkSync p t => Sys2Proof.Machine.execLinkSync p t s
  | .cpl p t => Sys2Proof.Machine.execCpl p t s
  | .beatmark p t => Sys2Proof.Machine.execBeatmark p t s
  | .requestTimeout p tag => Sys2Proof.Machine.execRequestTimeout p tag s
  | .timeSyncSend p t1 => Sys2Proof.Machine.execTimeSyncSend p t1 s
  | .timeSync p t t2 t3 => Sys2Proof.Machine.execTimeSync p t t2 t3 s
  | .timeDelayreq p t t4 => Sys2Proof.Machine.execTimeDelayreq p t t4 s
  | .timeDelayresp p t => Sys2Proof.Machine.execTimeDelayresp p t s
  | .routedataWrite r v => Sys2Proof.Machine.execRoutedataWrite r v s
  | .powerSample t => Sys2Proof.Machine.execPowerSample t s
  | .clkoutctrlWrite r v => Sys2Proof.Machine.execClkoutctrlWrite r v s
  | .fcGo r v => Sys2Proof.Machine.execFcGo r v s
  | .fcGateEnd counts => Sys2Proof.Machine.execFcGateEnd counts s
  | .irqSourceAssert n => Sys2Proof.Machine.execIrqSourceAssert n s
  | .irqSourceDeassert n => Sys2Proof.Machine.execIrqSourceDeassert n s
  | .swset r v => Sys2Proof.Machine.execSwset r v s
  | .swclr r v => Sys2Proof.Machine.execSwclr r v s
  | .srccfgWrite r n v => Sys2Proof.Machine.execSrccfgWrite r n v s
  | .claim r c => Sys2Proof.Machine.execClaim r c s
  | .eoi r c v => Sys2Proof.Machine.execEoi r c v s
  | .hosteoi r v => Sys2Proof.Machine.execHosteoi r v s
  | .vfeoi vf v => Sys2Proof.Machine.execVfeoi vf v s
  | .getVersion t payload => Sys2Proof.Machine.execGetVersion t payload s
  | .getCapabilities t payload => Sys2Proof.Machine.execGetCapabilities t payload s
  | .negotiateAlgorithms t payload => Sys2Proof.Machine.execNegotiateAlgorithms t payload s
  | .getDigests t payload => Sys2Proof.Machine.execGetDigests t payload s
  | .getCertificate t payload => Sys2Proof.Machine.execGetCertificate t payload s
  | .challenge t payload => Sys2Proof.Machine.execChallenge t payload s
  | .getMeasurements t payload => Sys2Proof.Machine.execGetMeasurements t payload s
  | .replayEnd p => Sys2Proof.Machine.execReplayEnd p s
  | .msixFunctionMask fn masked => Sys2Proof.Machine.execMsixFunctionMask fn masked s

end Sys2Proof.Machine
end

