-- ==== Sys2Proof/Machine/Physical.lean ====
section
/-!
DEFINITION. Physical events that no command of the table brings (log entry 34): errors that an access corrects, errors that
come to stand in a memory, parity errors, codewords, traps of a control processor; and the tick of 10 ns in which one may
befall.
-/
namespace Sys2Proof.Machine

/-- An access to a block's memory met an error and corrected it (R43): its counter, and CORRECTED. -/
def Dev.corrected (d : Dev) (counter page : Nat) : Dev := (d.countSat counter 1).err page 0

/-- A parity error in a queue or control path of a page's block, which fails the running beat where its image uses the block
(R51, R68). -/
def Dev.parityError (d : Dev) (p : Page) : Dev :=
  match (d.cricket.cur.bind (fun (b : Beat) => b.image)).map (fun (i : Image) => i.usesPage p) with
  | some true => d.beatFail 0x32 (blockName p.blk p.inst) 0
  | _ => d

/-- An uncorrectable error in a line of an MSC slice (R210, R211): one that is not pinned is invalidated and fetched again from
the stack, which counts as corrected; in a pinned line it stands. -/
def Dev.lineError (d : Dev) (blk : Nat) : Dev :=
  let s := blk % 12
  let set := d.mem.lru.get noTags (mscSet blk)
  if d.pinned (256 * blk) then
    { d with mem := { d.mem with pinUE := if d.mem.pinUE.contains blk then d.mem.pinUE else blk :: d.mem.pinUE } }
  else if set.contains blk then (d.corrected (MSC.CECOUNT s) (MSC.page s)).count64 (STK.READBYTES s) 256
  else d

/-- A command, address or write data parity error on a stack, retried once by the controller (R208): where it comes again it
counts as uncorrectable, and fails the beat whose access it was (R68). -/
def Dev.stackParity (d : Dev) (blk : Nat) (again inBeat : Bool) : Dev :=
  if !again then d
  else
    let d1 := d.noteUE blk
    if inBeat && d1.running then d1.beatFail 0x31 (blockName .stk (blk % 12)) (256 * blk) else d1

/-- A codeword of a port that FEC corrects, or cannot (R310, R325). -/
def Dev.codeword (d : Dev) (p : Nat) (bad : Bool) : Dev :=
  if !d.flitsFlow p then d
  else if bad then ((d.count64 (LNK.FECUNCORR p) 1).err (LNK.page p) 9).discard p
  else d.count64 (LNK.FECCORR p) 1

/-- The firmware of CP `c` traps, waits for an interrupt, or is woken by one (R47): its program is its own. -/
def Dev.cpTrap (d : Dev) (c cause pc : Nat) : Dev :=
  if d.cpState c = 1 then (d.setNum64 (CPU.TRAPCAUSE c) (cause % 2 ^ 64)).setNum64 (CPU.TRAPPC c) (pc % 2 ^ 64) else d
def Dev.cpTurn (d : Dev) (c old new : Nat) : Dev := if d.cpState c = old then d.setFld (CPU.CPSTATE c) 1 0 new else d

/-- What a physical event does. -/
def Dev.befall (d : Dev) (e : PhysEvent) : Dev :=
  match e with
  | .quiet => d
  | .storeCorrected p => d.corrected (MSF.ECCCOUNT (p % 4)) (MSF.page (p % 4))
  | .storeError x w =>
    let k := storeKey (x % 4096) (8 * (w % 20480))
    { d with massif := { d.massif with storeUE := k :: d.massif.storeUE.filter (fun a => a != k) } }
  | .bankError x b =>
    let e := 2 * (x % 4096) + b % 2
    { d with massif := { d.massif with bankErr := e :: d.massif.bankErr.filter (fun a => a != e) } }
  | .meshParity p => (d.err (MSF.page (p % 4)) 10).parityError ⟨.msf, p % 4⟩
  | .controlParity n => match pageAt n with | some p => d.parityError p | none => d
  | .niParity x => { d with ascent := { d.ascent with niParity := (x % 4096) :: d.ascent.niParity } }
  | .tregCorrected k => d.err (WVL.page (k % 64)) 0
  | .tregError k w =>
    let n := 2 * (w % 16384)
    let v := d.wvl (k % 64)
    d.setWvl (k % 64) { v with tregUE := n :: v.tregUE.filter (fun a => a != n) }
  | .imemError k => d.setWvl (k % 64) { d.wvl (k % 64) with imemErr := true }
  | .stageCorrected c => d.corrected (COL.ECCCOUNT (c % 16)) (COL.page (c % 16))
  | .stageError c => { d with col := { d.col with stageUE := (c % 16) :: d.col.stageUE.filter (fun a => a != c % 16) } }
  | .statCorrected k => d.corrected (SCB.ECCCOUNT (k % 64)) (SCB.page (k % 64))
  | .statError k e =>
    let v := d.scb (k % 64)
    d.setScb (k % 64) { v with statUE := (e % 32768) :: v.statUE.filter (fun a => a != e % 32768) }
  | .bufError k => d.setScb (k % 64) { d.scb (k % 64) with bufUE := true }
  | .talusCorrected k => d.corrected (TLS.ECCCOUNT (k % 64)) (TLS.page (k % 64))
  | .talusError k e =>
    let v := d.tls (k % 64)
    if (v.ent (e % 4096)).pages = 0 then d
    else d.setTls (k % 64) { v with ue := (e % 4096) :: v.ue.filter (fun a => a != e % 4096) }
  | .stackCorrected s => d.corrected (STK.CECOUNT (s % 12)) (STK.page (s % 12))
  | .stackError b =>
    let k := b % (memTop / 256)
    { d with mem := { d.mem with stackUE := k :: d.mem.stackUE.filter (fun a => a != k) } }
  | .stackParity b again inBeat => d.stackParity (b % (memTop / 256)) again inBeat
  | .lineCorrected s => d.corrected (MSC.CECOUNT (s % 12)) (MSC.page (s % 12))
  | .lineError b => d.lineError (b % (memTop / 256))
  | .engineCorrected e => d.corrected (FOR.ECCCOUNT (e % 2)) (FOR.page (e % 2))
  | .engineError e =>
    { d with forager := { d.forager with engUE := (e % 2) :: d.forager.engUE.filter (fun a => a != e % 2) } }
  | .codeword p bad => d.codeword (p % 24) bad
  | .cpTrap c cause pc => d.cpTrap (c % 4) cause pc
  | .cpWait c => d.cpTurn (c % 4) 1 3
  | .cpWake c => d.cpTurn (c % 4) 3 1

/-- One tick of 10 ns: while the clocks run, time and what may befall in it. -/
def Dev.tick (d : Dev) : Dev :=
  let d1 := d.elapse 1
  if d1.clocked then ({ d1 with freeCtr := d1.freeCtr + 1 }).befall (Config.physical d1.freeCtr) else d1

end Sys2Proof.Machine
end

