-- ==== Sys2Proof/Safety.lean ====
section
/-!
DEFINITION. What counts as a safe run, in the terms claims use: the machine steps without a stop, and the state keeps the
canonical forms of its sparse contents.
-/
namespace Sys2Proof.Machine

/-- The register file and device memory are in canonical form: keys strictly rising, no entry equal to what an unlisted
one reads as, no listed byte inside an open range. -/
def Dev.Canonical (d : Dev) : Prop := SMap.wf resetWord d.regs = true ∧ d.mem.dram.wf = true

/-- The parts of the device: its register words, the state beside them as State groups it, the contents of device memory
(`dram`) apart from the rest of the memory state (`mem`), and the counter of the free values. -/
inductive Part where
  | regs | bus | module | apex | ascent | trust | host | mem | dram | cricket | massif | weevil | col | scarab | talus | stag
  | hive | forager | link | power | firefly | enPend | freeCtr
  deriving DecidableEq, Repr

/-- A part of the device has not changed from `d` to `e`. -/
def Part.same (d e : Dev) : Part → Prop
  | .regs => e.regs = d.regs
  | .bus => e.bus = d.bus
  | .module => e.module = d.module
  | .apex => e.apex = d.apex
  | .ascent => e.ascent = d.ascent
  | .trust => e.trust = d.trust
  | .host => e.host = d.host
  | .mem => e.mem = { d.mem with dram := e.mem.dram }
  | .dram => e.mem.dram = d.mem.dram
  | .cricket => e.cricket = d.cricket
  | .massif => e.massif = d.massif
  | .weevil => e.weevil = d.weevil
  | .col => e.col = d.col
  | .scarab => e.scarab = d.scarab
  | .talus => e.talus = d.talus
  | .stag => e.stag = d.stag
  | .hive => e.hive = d.hive
  | .forager => e.forager = d.forager
  | .link => e.link = d.link
  | .power => e.power = d.power
  | .firefly => e.firefly = d.firefly
  | .enPend => e.enPend = d.enPend
  | .freeCtr => e.freeCtr = d.freeCtr

/-- From `d` to `e` nothing has changed but, at most, the parts `ps`. -/
def Dev.KeepsBut (d : Dev) (ps : List Part) (e : Dev) : Prop := ∀ p, ps.contains p = false → p.same d e

/-- The parts of the device that a command may change; every command leaves the other parts as they were. -/
def changes : Instr → List Part
  | .pwrenRise =>
    [.regs, .module]
  | .pwrenFall | .inputLimitCross _ | .inputMonitorStart _ | .thermalTrip _ | .perstAssert | .apexLockLoss |
    .resetDrainEnd _ | .drainlimitExpiry _ =>
    [.regs, .bus, .module, .apex, .ascent, .trust, .host, .mem, .dram, .cricket, .massif, .weevil, .col,
     .scarab, .talus, .stag, .hive, .forager, .link, .power, .firefly, .enPend, .freeCtr]
  | .bulkChargeDone | .tripLatchClear _ =>
    [.module]
  | .pwrgdRise =>
    [.regs, .module, .apex]
  | .perstDeassert _ _ =>
    [.regs, .module, .trust]
  | .pcieHotReset | .pfFlr =>
    [.regs, .ascent, .trust, .host, .dram, .cricket, .freeCtr]
  | .pcieLinkDown =>
    [.regs, .module, .ascent, .trust, .host, .dram, .cricket, .freeCtr]
  | .vfFlr _ =>
    [.regs, .host, .dram, .cricket, .massif, .weevil, .scarab, .talus, .forager, .freeCtr]
  | .clkinOk | .apexLock _ | .clkoutctrlWrite _ _ | .fcGo _ _ | .fcGateEnd _ =>
    [.regs, .apex]
  | .vcoCalibrationDone | .apexLockRetry | .dividerRelease =>
    [.apex]
  | .blockResetRelease =>
    [.regs, .module, .apex, .trust]
  | .fuseRead =>
    [.regs, .ascent, .trust, .massif, .weevil, .scarab, .talus]
  | .fuseReadDone | .firmwareVerifyDone | .recoveryGo _ _ | .pushVerifyDone | .svncommit _ _ | .fuseBlown |
    .getVersion _ _ | .getCapabilities _ _ | .negotiateAlgorithms _ _ | .getDigests _ _ | .getCertificate _ _ =>
    [.regs, .trust]
  | .flashProgramDone _ | .challenge _ _ | .getMeasurements _ _ =>
    [.regs, .trust, .freeCtr]
  | .swarmctrlGo _ _ | .swarmPassEnd _ | .swarmGatherEnd | .unicastRepairEnd _ | .surveyStart | .surveyctrlGo _ _ =>
    [.regs, .ascent]
  | .stage7Start =>
    [.regs, .ascent, .mem]
  | .stackTrainingStepEnd _ _ _ | .tgGo _ _ _ =>
    [.regs, .mem, .dram, .freeCtr]
  | .stage8Start | .surveyEnd =>
    [.regs, .ascent, .dram, .cricket, .link, .enPend, .freeCtr]
  | .svcstateWrite _ _ | .cpResetEnd _ | .sigportWrite _ _ _ | .syncObjectWrite _ _ _ | .preemptGo _ _ |
    .streamLost _ =>
    [.regs]
  | .cellresetGo _ _ | .clresetGo _ _ =>
    [.regs, .ascent, .dram, .cricket, .freeCtr]
  | .ctrlReset _ _ _ _ | .ctrlEnable _ _ _ | .ctrlAbort _ _ _ =>
    [.regs, .ascent, .mem, .dram, .cricket, .forager, .link, .enPend, .freeCtr]
  | .resetRelease _ =>
    [.regs, .module, .ascent, .trust, .host, .mem, .dram, .cricket, .hive, .link, .firefly, .enPend, .freeCtr]
  | .registerWrite _ _ _ _ | .mboxinWrite _ _ _ | .mboxoutWrite _ _ _ =>
    [.regs, .bus, .apex, .ascent, .trust, .host, .mem, .dram, .cricket, .massif, .weevil, .scarab, .hive,
     .forager, .link, .firefly, .enPend, .freeCtr]
  | .readClear _ _ _ | .lowHalfRead _ _ | .unalignedRead _ _ _ =>
    [.regs, .bus, .weevil, .scarab, .firefly]
  | .bar2Read _ _ _ =>
    [.regs, .bus, .mem, .dram, .freeCtr]
  | .bar2Write _ _ _ =>
    [.regs, .bus, .trust, .mem, .dram]
  | .msixTableWrite _ _ _ _ | .irqSourceAssert _ | .swset _ _ | .srccfgWrite _ _ _ | .eoi _ _ _ | .hosteoi _ _ |
    .vfeoi _ _ | .msixFunctionMask _ _ =>
    [.regs, .host, .firefly]
  | .cpctrlRun _ _ _ | .cpreset _ _ _ =>
    [.regs, .freeCtr]
  | .beatStart =>
    [.regs, .host, .mem, .dram, .cricket, .massif, .weevil, .scarab, .talus, .hive, .forager, .link, .power,
     .enPend, .freeCtr]
  | .issueClose =>
    [.regs, .ascent, .host, .mem, .dram, .cricket, .massif, .weevil, .col, .scarab, .talus, .stag, .hive,
     .forager, .link, .freeCtr]
  | .beatMarker | .admission =>
    [.regs, .host, .mem, .dram, .cricket, .hive, .link, .freeCtr]
  | .ringFetchReturn _ _ | .cancel _ | .imgreg _ | .forcmdClose _ =>
    [.regs, .host, .forager, .freeCtr]
  | .foragerVote | .assemble =>
    [.regs, .mem, .dram, .cricket, .forager, .link, .freeCtr]
  | .completionPost =>
    [.regs, .host, .cricket]
  | .descriptorDispatch =>
    [.regs, .mem, .dram, .cricket, .massif, .weevil, .col, .scarab, .talus, .stag, .forager, .freeCtr]
  | .run _ | .forcmdOpen _ | .forcmdList _ | .forcmdEncode _ | .encodeDone =>
    [.regs, .host, .mem, .dram, .forager, .freeCtr]
  | .imageRegistrationDone =>
    [.regs, .host, .mem, .dram, .cricket, .freeCtr]
  | .imgdereg _ =>
    [.regs, .host, .cricket, .forager, .freeCtr]
  | .matmul | .flankmm | .exitAccept _ | .ringTileDeliver _ =>
    [.regs, .dram, .cricket, .massif, .weevil, .link, .freeCtr]
  | .sync | .massifOpComplete =>
    [.regs, .dram, .cricket, .massif, .link, .freeCtr]
  | .conv | .pool | .cropresize =>
    [.regs, .mem, .dram, .cricket, .massif, .weevil, .link, .freeCtr]
  | .windowFetchEnd | .waveFoldEnd _ | .colDescComplete =>
    [.regs, .mem, .dram, .cricket, .massif, .col, .link, .freeCtr]
  | .attn | .kvappend =>
    [.regs, .ascent, .mem, .dram, .cricket, .massif, .col, .link, .freeCtr]
  | .waveBegin _ =>
    [.regs, .ascent, .dram, .cricket, .massif, .link, .freeCtr]
  | .exitWriteEnd _ =>
    [.regs, .mem, .dram, .cricket, .massif, .link, .freeCtr]
  | .csdataRead _ _ _ =>
    [.regs, .bus]
  | .csdataWrite _ _ _ =>
    [.regs, .bus, .massif]
  | .weevilRun | .pwlload | .wvlLd _ =>
    [.regs, .mem, .dram, .cricket, .weevil, .link, .freeCtr]
  | .weevilDescComplete | .wvlNop _ | .wvlAdd _ | .wvlSub _ | .wvlMul _ | .wvlFma _ | .wvlMin _ | .wvlMax _ |
    .wvlAbs _ | .wvlNeg _ | .wvlRcp _ | .wvlRsqrt _ | .wvlSqrt _ | .wvlExp _ | .wvlLog _ | .wvlAct _ | .wvlCmp _ |
    .wvlSel _ | .wvlMov _ | .wvlTrn _ | .wvlRred _ | .wvlCred _ | .wvlRint _ | .wvlCvtw _ | .wvlCvtn _ | .wvlTwait _
    | .wvlTrel _ | .wvlSeta _ | .wvlAdda _ | .wvlLoop _ | .wvlEndl _ | .wvlEnd _ =>
    [.regs, .dram, .cricket, .weevil, .link, .freeCtr]
  | .wvlSt _ | .wvlStn _ =>
    [.regs, .mem, .dram, .cricket, .massif, .weevil, .talus, .link, .freeCtr]
  | .pwldataAccess _ _ _ | .trdataAccess _ _ _ =>
    [.regs, .bus, .weevil]
  | .place | .dual =>
    [.regs, .dram, .cricket, .col, .link, .freeCtr]
  | .lnfwd _ | .rmsfwd _ | .smfwd _ | .lnbwd _ | .rmsbwd _ | .smbwd _ =>
    [.regs, .mem, .dram, .cricket, .weevil, .scarab, .link, .freeCtr]
  | .bandsum _ | .statsave _ | .statload _ =>
    [.regs, .mem, .dram, .cricket, .scarab, .link, .freeCtr]
  | .scarabDescComplete =>
    [.regs, .dram, .cricket, .scarab, .link, .freeCtr]
  | .statdataAccess _ _ _ =>
    [.regs, .bus, .scarab]
  | .talusOpen _ | .talusClose _ | .talusRelease _ =>
    [.regs, .dram, .cricket, .talus, .hive, .link, .freeCtr]
  | .spillEnd _ =>
    [.regs, .mem, .dram, .cricket, .talus, .hive, .link, .freeCtr]
  | .talusDescComplete =>
    [.regs, .dram, .cricket, .talus, .link, .freeCtr]
  | .copy | .copyComplete | .rwrite _ _ | .rread _ _ =>
    [.regs, .mem, .dram, .cricket, .link, .freeCtr]
  | .iadd32 _ | .iadd64 _ | .iadd64s32 _ | .imax32 _ | .umax32 _ | .swap64 _ | .cas64 _ | .fadd32 _ =>
    [.regs, .bus, .mem, .dram, .cricket, .freeCtr]
  | .pinCommit _ _ | .pinFetchDone _ | .patrolScrubRead _ _ _ | .scrubGo _ _ _ | .scrubDone _ _ | .marginGo _ _ _ |
    .marginDone _ _ | .tgDone _ _ _ =>
    [.regs, .mem]
  | .stackTempReading _ _ =>
    [.regs, .dram, .cricket, .freeCtr]
  | .arm | .reduce | .update | .valueLinesSend _ | .shardConvert _ | .shardUpdate _ | .microEnd | .racc _ _ =>
    [.regs, .mem, .dram, .cricket, .stag, .link, .freeCtr]
  | .agreedWordsSend _ | .floatTreeAdd _ | .stagDescComplete | .microAdd | .microSub | .microMul | .microFma |
    .microDiv | .microSqrt | .microRsqrt | .microMin | .microMax | .microSign | .microAbs | .microNeg | .microSel |
    .microExp | .microLog =>
    [.regs, .dram, .cricket, .stag, .link, .freeCtr]
  | .hiveAdd _ | .hiveRetire _ | .hivePause _ | .hiveResume _ | .hiveFork _ =>
    [.regs, .host, .mem, .dram, .hive, .forager, .freeCtr]
  | .tencfgEnabled _ _ _ =>
    [.regs, .mem, .dram, .hive, .freeCtr]
  | .contextSaveDone _ =>
    [.regs, .host, .mem, .dram, .massif, .weevil, .scarab, .talus, .hive, .freeCtr]
  | .contextLoadDone _ =>
    [.regs, .mem, .dram, .massif, .weevil, .scarab, .talus, .hive, .freeCtr]
  | .feedCloseApply _ | .strmctrlReopen _ _ _ =>
    [.regs, .forager]
  | .warmupDone _ | .assembleComplete =>
    [.regs, .dram, .cricket, .forager, .link, .freeCtr]
  | .sampleDecodeStart _ _ | .sampleDecodeDone _ _ | .streamEntryRead _ =>
    [.regs, .mem, .dram, .forager, .freeCtr]
  | .linkSignalDetect _ _ | .trainStepPass _ _ _ | .identExchange _ _ _ _ _ | .recoveryLockRegained _ _ |
    .recoveryTimeout _ | .flitIdle _ _ _ | .flitNak _ _ _ | .ackTimeout _ | .timeSyncSend _ _ | .timeSync _ _ _ _ |
    .timeDelayreq _ _ _ | .routedataWrite _ _ | .replayEnd _ =>
    [.regs, .link]
  | .trainStepLimit _ | .linkEnergyLoss _ | .codewordLockLoss _ | .replayBufferUe _ | .flitData _ _ _ _ |
    .linkSync _ _ | .beatmark _ _ | .requestTimeout _ _ =>
    [.regs, .dram, .cricket, .link, .freeCtr]
  | .cpl _ _ =>
    [.regs, .ascent, .dram, .cricket, .link, .freeCtr]
  | .timeDelayresp _ _ =>
    [.regs, .link, .freeCtr]
  | .powerSample _ =>
    [.regs, .power]
  | .irqSourceDeassert _ | .swclr _ _ =>
    [.host, .firefly]
  | .claim _ _ =>
    [.regs, .bus, .firefly]

/-- From `d` to `e` no register word has changed but, at most, the words at the offsets `l`. -/
def Dev.RegsBut (d : Dev) (l : List Nat) (e : Dev) : Prop := ∀ a, a ∉ l → e.rd a = d.rd a

/-- A reset of scope `sc` has been entered between `d` and `e` (R41, R42, R393, R397): the smaller running resets end in
it; a beat that uses the scope fails with ABSORBED and QUIESCE waits for its C(n), and otherwise QUIESCE has begun on the
scope's pages. -/
def Dev.ResetEntered (d : Dev) (sc : ResetScope) (remap : Bool) (e : Dev) : Prop :=
  e.ascent.resets = d.ascent.resets.filter (fun x => !scopeInside x.scope sc) ++
    [⟨sc, if d.beatUses sc then .quiesce else .drain, remap, d.beatUses sc⟩] ∧
  e.flag ASC.RESETSTAT 3 = true ∧ e.fld ASC.RESETSTAT 6 4 = (if d.beatUses sc then 0 else 1) ∧
  e.fld ASC.RESETSTAT 15 8 = (if d.beatUses sc then 0xB0 else 0) ∧
  (∀ l, scopeLevel sc = some l → e.fld ASC.RESETSTAT 2 0 = l) ∧
  (sc = .device → e.stage = 3 ∧ e.num ASC.SVCSTATE = 0) ∧
  (d.beatUses sc = true → ∀ b, d.cricket.cur = some b → b.code = none →
    e.cricket.cur = some { b with code := some 0xB0, faultBlock := blockName .asc 0, faultAddr := 0 }) ∧
  (d.beatUses sc = false → e.cricket = d.cricket ∧ e.mem = d.mem ∧
    ∀ b ∈ scopePages sc, e.ready b = false ∧ e.busy b = true ∧ e.num (oErrsum b) = 0 ∧ e.num (oIrqsum b) = 0 ∧
      e.num64 (oPosition b) = 0 ∧ e.num64 (oTotal b) = 0 ∧ e.num (oProgress b) = 0)

/-- `[a, a + n)` of device memory holds no uncorrectable error (R211, R218). -/
def Dev.Clean (d : Dev) (a n : Nat) : Prop := ∀ k ∈ blocksOf a n, d.blockBad k = false ∧ d.mem.pinUE.contains k = false

/-- The stacks keep their contents from `d` to `e`, pinned lines apart: those the MSC alone holds (R211). -/
def Dev.StackKept (d e : Dev) : Prop := ∀ a, d.pinned a = false → e.mem.dram.read a = d.mem.dram.read a

/-- Address `a` lies in no write window of the running image (R64). -/
def Dev.Outside (d : Dev) (a : Nat) : Prop :=
  ∀ i, d.curImage = some i → ∀ w ∈ i.windows, ¬(w.1 ≤ a ∧ a < w.1 + w.2)

/-- From `d` to `e` the running beat counts one more issued descriptor and is otherwise as it was, but for the tick at which
its program may have become complete. -/
def Dev.Issued (d e : Dev) : Prop :=
  ∀ b, d.cricket.cur = some b → ∃ b', e.cricket.cur = some b' ∧ b' = { b with issued := b.issued + 1, complete := b'.complete }

/-- The running beat has failed between `d` and `e` with a code, a block and an address (R67, R70), unless it had failed
before. -/
def Dev.FailedWith (d e : Dev) (code blk addr : Nat) : Prop :=
  ∀ b, d.cricket.cur = some b → b.code = none →
    ∃ b', e.cricket.cur = some b' ∧ b'.code = some code ∧ b'.faultBlock = blk ∧ b'.faultAddr = addr

/-- The signal of a descriptor has been applied between `d` and `e` (R93-R95, R100): none without VALID, otherwise the
increment modulo 2 to the 32, counted on the object's page; a page under reset is not covered. -/
def Dev.Signalled (d : Dev) (bs : List Byte) (e : Dev) : Prop :=
  syncValid (dSignal bs) = true → d.inReset (SYN.page (syncObj (dSignal bs) / 512)) = false →
    e.obj (syncObj (dSignal bs)) = (d.obj (syncObj (dSignal bs)) + dSigInc bs) % 2 ^ 32 ∧
    e.num (SYN.SIGCOUNT (syncObj (dSignal bs) / 512)) = min (d.num (SYN.SIGCOUNT (syncObj (dSignal bs) / 512)) + 1) 0xFFFFFFFF

/-- Transaction `t` waits at a port or has been sent there. -/
def Port.Holds (q : Port) (t : Txn) : Prop := t ∈ q.sendQ ∨ ∃ h, Sent.data h [t] false ∈ q.tx

/-- The completion of request `t` with a code and its data has gone towards its source between `d` and `e` (R313, R318,
R320): it waits at the port of the source's route or has been sent there, and for a request of the device's own rank its
table entry has left. -/
def Dev.Answered (d : Dev) (t : Txn) (code : Nat) (data : List Byte) (e : Dev) : Prop :=
  (t.srcRank ≠ d.rank → d.routePort t.srcRank < 24 → 2 ≤ d.portState (d.routePort t.srcRank) →
    (e.port (d.routePort t.srcRank)).Holds (cplOf t d.rank code false data)) ∧
  (t.srcRank = d.rank → ∀ o, (d.table t.iport).find? (fun o => o.tag == t.tag && o.gen == t.gen) = some o →
    e.table t.iport = (d.table t.iport).erase o)

/-- The Weevil of cluster `k` is about to execute instruction word `i` of opcode `op`: a program runs, and neither the word,
the ring nor an error in what it reads refuses it (R139, R140, R143). -/
def Dev.WvlReady (d : Dev) (k op i : Nat) : Prop :=
  d.running = true ∧ (d.wvl k).run ≠ .idle ∧ (d.wvl k).imemErr = false ∧
  i = ((d.wvl k).imem.get zeroDWord (d.wvl k).pc).toNat ∧ illegalWord i = false ∧ iOp i = op ∧
  (∀ r, writesOf i = some r → d.ringHazard k r = false) ∧ badTreg (d.wvl k) i = false

/-- The Weevil of cluster `k` has gone on to its next instruction, and the counters have counted (R136, R146). -/
def Dev.WvlWentOn (d : Dev) (k i : Nat) (e : Dev) : Prop :=
  (e.wvl k).pc = ((d.wvl k).pc + 1) % 2048 ∧ (e.wvl k).run = .running ∧
  e.num64 (WVL.INSTRCNT k) = (d.num64 (WVL.INSTRCNT k) + 1) % 2 ^ 64 ∧
  e.num64 (WVL.LANECYC k) = (d.num64 (WVL.LANECYC k) + laneCycles i) % 2 ^ 64 ∧
  e.num64 (WVL.PORTCYC k) = (d.num64 (WVL.PORTCYC k) + portCycles (d.wvl k) i) % 2 ^ 64

/-- The commands that run an engine's descriptors: the Massif and its Flank, the Weevil, the Column, the Scarab, the Talus,
the copy engine of the stacks and the Stag with its microprograms. -/
def engineCommand : Instr → Bool
  | .matmul | .flankmm | .sync | .conv | .pool | .cropresize | .windowFetchEnd | .attn | .kvappend | .waveBegin _
  | .waveFoldEnd _ | .exitAccept _ | .exitWriteEnd _ | .ringTileDeliver _ | .massifOpComplete | .weevilRun | .pwlload
  | .weevilDescComplete | .wvlNop _ | .wvlAdd _ | .wvlSub _ | .wvlMul _ | .wvlFma _ | .wvlMin _ | .wvlMax _
  | .wvlAbs _ | .wvlNeg _ | .wvlRcp _ | .wvlRsqrt _ | .wvlSqrt _ | .wvlExp _ | .wvlLog _ | .wvlAct _ | .wvlCmp _
  | .wvlSel _ | .wvlMov _ | .wvlTrn _ | .wvlRred _ | .wvlCred _ | .wvlRint _ | .wvlCvtw _ | .wvlCvtn _ | .wvlLd _
  | .wvlSt _ | .wvlStn _ | .wvlTwait _ | .wvlTrel _ | .wvlSeta _ | .wvlAdda _ | .wvlLoop _ | .wvlEndl _ | .wvlEnd _
  | .place | .dual | .colDescComplete | .lnfwd _ | .rmsfwd _ | .smfwd _ | .lnbwd _ | .rmsbwd _ | .smbwd _
  | .bandsum _ | .statsave _ | .statload _ | .scarabDescComplete | .talusOpen _ | .talusClose _ | .talusRelease _
  | .spillEnd _ | .talusDescComplete | .copy | .copyComplete | .arm | .reduce | .update | .agreedWordsSend _
  | .valueLinesSend _ | .shardConvert _ | .shardUpdate _ | .floatTreeAdd _ | .microAdd | .microSub | .microMul
  | .microFma | .microDiv | .microSqrt | .microRsqrt | .microMin | .microMax | .microSign | .microAbs | .microNeg
  | .microSel | .microExp | .microLog | .microEnd => true
  | _ => false

/-- A step does not stop. -/
def Safe (s : State) : Prop := ∃ t, step s = .next t

end Sys2Proof.Machine
end

