-- ==== Sys2Proof/Certificates/Slice0/Obligations.lean ====
section
/-!
DEFINITION. The statements for the provers.
-/
open Sys2Proof Sys2Proof.Machine

/-! ### Power and pins (01, 20) -/

/-- R19, R402: with the input within its limits, no trip latched and the converters off, PWREN high begins the bulk charge
and stage 1; the end of the charge starts the converters; PWRGD high begins the Apex lock and stage 2. The input is judged
with the hysteresis of R19. R15, R19, R20, R30: PWREN low, or a trip, stops the converters of a running module: PWRGD falls,
every register but what the fuses hold returns to its reset value, the stacks and the flash keep their contents; a trip is
latched until it is cleared in one of the two ways of R20. -/
def Obligations.ModulePower : Prop :=
  ((∀ s : State, s.dev.module.monitorOn = true → s.dev.module.inRange = true → s.dev.module.trip = false →
    s.dev.module.conv = false → s.dev.module.bulk = .opened →
    ∃ d, exec .pwrenRise s = .next ⟨s.pending, d⟩ ∧
      d.module = { s.dev.module with pwren := true, bulk := .charging } ∧ d.fld ASC.STAGE 3 0 = 1 ∧
      d.flag (oIrqsum ASC.page) 1 = true ∧ s.dev.RegsBut [ASC.STAGE, oIrqsum ASC.page] d) ∧
  (∀ (s : State) (mv : Nat), 58000 ≤ mv → mv ≤ 82000 → s.dev.module.pwren = true → s.dev.module.trip = false →
    s.dev.module.conv = false → s.dev.module.bulk = .opened →
    ∃ d, exec (.inputMonitorStart mv) s = .next ⟨s.pending, d⟩ ∧
      d.module = { s.dev.module with inputMv := mv, monitorOn := true, uvOk := true, ovOk := true, bulk := .charging } ∧
      d.fld ASC.STAGE 3 0 = 1 ∧ s.dev.RegsBut [ASC.STAGE, oIrqsum ASC.page] d) ∧
  (∀ (s : State) (mv : Nat), ∃ d, exec (.inputLimitCross mv) s = .next ⟨s.pending, d⟩ ∧ d.module.inputMv = mv ∧
    d.module.uvOk = decide ((if s.dev.module.uvOk = true then 56000 else 58000) ≤ mv) ∧
    d.module.ovOk = decide (mv ≤ (if s.dev.module.ovOk = true then 84000 else 82000)) ∧
    (d.module.inRange = false → d.module.conv = false)) ∧
  (∀ s : State, s.dev.module.bulk = .charging →
    exec .bulkChargeDone s =
      .next { s with dev := { s.dev with module := { s.dev.module with bulk := .charged, conv := true } } }) ∧
  (∀ s : State, s.dev.module.conv = true → s.dev.module.pwrgd = false →
    ∃ d, exec .pwrgdRise s = .next ⟨s.pending, d⟩ ∧ d.module = { s.dev.module with pwrgd := true } ∧
      d.apex = { s.dev.apex with phase := .measuring } ∧ d.fld ASC.STAGE 3 0 = 2 ∧
      d.flag (oIrqsum ASC.page) 1 = true ∧ s.dev.RegsBut [ASC.STAGE, oIrqsum ASC.page] d)) ∧
  ((∀ s : State, s.dev.module.conv = true →
    ∃ d, exec .pwrenFall s = .next ⟨s.pending, d⟩ ∧ d.module.pwren = false ∧ d.module.conv = false ∧
      d.module.pwrgd = false ∧ d.module.bulk = .opened ∧ d.apex.phase = .stopped ∧
      (∀ a, a ≠ TRU.SVN → a ≠ TRU.KEYSLOT → d.rd a = resetWord a) ∧ s.dev.StackKept d ∧
      d.trust.flash = s.dev.trust.flash ∧ d.trust.fuseCtr = s.dev.trust.fuseCtr) ∧
  (∀ (s : State) (src : TripSource), s.dev.module.monitorOn = true → s.dev.module.conv = true →
    ∃ d, exec (.thermalTrip src) s = .next ⟨s.pending, d⟩ ∧ d.module.trip = true ∧ d.module.conv = false ∧
      d.module.pwrgd = false ∧ s.dev.StackKept d ∧ d.trust.flash = s.dev.trust.flash) ∧
  (∀ s : State, s.dev.module.pwren = false →
    exec (.tripLatchClear (.pwrenHeld false)) s =
      .next { s with dev := { s.dev with module := { s.dev.module with trip := false } } } ∧
    exec (.tripLatchClear (.pwrenHeld true)) s = .next s) ∧
  (∀ s : State, s.dev.module.inputMv < 40000 →
    exec (.tripLatchClear .inputBelow40) s =
      .next { s with dev := { s.dev with module := { s.dev.module with trip := false } } }) ∧
  (∀ s : State, s.dev.module.pwrgd = true →
    ∃ d, exec .perstAssert s = .next ⟨s.pending, d⟩ ∧ d.module.perst = false ∧ d.module.pwrgd = true ∧
      d.fld ASC.STAGE 3 0 = 2 ∧ (∀ a, keptInDark a = false → a ≠ ASC.STAGE → d.rd a = resetWord a) ∧
      s.dev.StackKept d ∧ d.trust.flash = s.dev.trust.flash ∧ d.trust.fuseCtr = s.dev.trust.fuseCtr))

/-- R15, R16, R31: PERST# high latches the straps in STRAPS, BOOTSEL 2 and 3 setting its reserved-value error; with PWRGD low
nothing is latched. -/
def Obligations.StrapsLatch : Prop :=
  (∀ (s : State) (bootsel i3c : BitVec 2), s.dev.module.pwrgd = true → s.dev.module.perst = false →
    s.dev.apex.phase ≠ .running →
    ∃ d, exec (.perstDeassert bootsel i3c) s = .next ⟨s.pending, d⟩ ∧
      d.module = { s.dev.module with perst := true, bootsel := bootsel, i3caddr := i3c } ∧
      d.num ASC.STRAPS = bootsel.toNat + 4 * i3c.toNat + (if 2 ≤ bootsel.toNat then 16 else 0) ∧
      (2 ≤ bootsel.toNat → d.flag (oErrsum ASC.page) 10 = true) ∧
      s.dev.RegsBut [ASC.STRAPS, oErrsum ASC.page] d) ∧
  (∀ (s : State) (bootsel i3c : BitVec 2), s.dev.module.pwrgd = false →
    exec (.perstDeassert bootsel i3c) s =
      .next { s with dev := { s.dev with module := { s.dev.module with perst := true } } })

/-! ### Clocks (16) -/

/-- R342, R349, R381: the lock sequence in its order: CLKIN measured, the VCO calibrated, the loop locked (LOCKED, READY and
LOCKTIME), the dividers released, the blocks released, upon which CP[0] enters the boot ROM at stage 3 where PERST# is high. R346: a lock that is lost leaves the device as a falling PERST# would, with PWRGD high: LOCKED, CLKINOK and READY are 0,
LOSTLOCK is latched, the lock sequence begins again at stage 2; the stacks keep their contents. -/
def Obligations.ApexLock : Prop :=
  ((∀ s : State, s.dev.apex.phase = .measuring →
    ∃ d, exec .clkinOk s = .next ⟨s.pending, d⟩ ∧ d.apex = { s.dev.apex with phase := .calibrating } ∧
      d.flag APX.LOCKSTAT 1 = true ∧ s.dev.RegsBut [APX.LOCKSTAT] d) ∧
  (∀ s : State, s.dev.apex.phase = .calibrating →
    exec .vcoCalibrationDone s =
      .next { s with dev := { s.dev with apex := { s.dev.apex with phase := .locking } } }) ∧
  (∀ (s : State) (n : Nat), s.dev.apex.phase = .locking → n < 2 ^ 32 → s.dev.isFault APX.page = false →
    ∃ d, exec (.apexLock n) s = .next ⟨s.pending, d⟩ ∧ d.apex = { s.dev.apex with phase := .locked } ∧
      d.flag APX.LOCKSTAT 0 = true ∧ d.num APX.LOCKTIME = n ∧ d.ready APX.page = true ∧
      (s.dev.flag APX.LOCKSTAT 2 = true → d.flag (oIrqsum APX.page) 2 = true) ∧
      s.dev.RegsBut [APX.LOCKSTAT, APX.LOCKTIME, oStatus APX.page, oIrqsum APX.page] d) ∧
  (∀ s : State, s.dev.apex.phase = .locking → s.dev.module.pwrgd = true →
    exec .apexLockRetry s = .next { s with dev := { s.dev with apex := { s.dev.apex with
      phase := if s.dev.flag APX.LOCKSTAT 1 = true then .calibrating else .measuring } } }) ∧
  (∀ s : State, s.dev.apex.phase = .locked →
    exec .dividerRelease s = .next { s with dev := { s.dev with apex := { s.dev.apex with phase := .released } } }) ∧
  (∀ s : State, s.dev.apex.phase = .released → s.dev.module.perst = true →
    ∃ d, exec .blockResetRelease s = .next ⟨s.pending, d⟩ ∧ d.apex = { s.dev.apex with phase := .running } ∧
      d.module = { s.dev.module with pcieUp := true } ∧ d.fld ASC.STAGE 3 0 = 3 ∧ d.num ASC.SVCSTATE = 0 ∧
      d.fld (CPU.CPSTATE 0) 1 0 = 1 ∧ s.dev.KeepsBut [.regs, .module, .apex, .trust] d)) ∧
  (∀ s : State, s.dev.apex.phase = .running ∨ s.dev.apex.phase = .released ∨ s.dev.apex.phase = .locked →
    ∃ d, exec .apexLockLoss s = .next ⟨s.pending, d⟩ ∧ d.apex.phase = .measuring ∧ d.flag APX.LOCKSTAT 0 = false ∧
      d.flag APX.LOCKSTAT 1 = false ∧ d.flag APX.LOCKSTAT 2 = true ∧ d.ready APX.page = false ∧
      d.flag (oErrsum APX.page) 8 = true ∧ d.fld ASC.STAGE 3 0 = 2 ∧ d.module.pwrgd = s.dev.module.pwrgd ∧
      (∀ a, keptInDark a = false → a ≠ oErrsum APX.page → a ≠ ASC.STAGE → d.rd a = resetWord a) ∧
      s.dev.StackKept d)

/-- R347, R348: CLKOUT takes a setting whose product of divisor and DIV + 1 is at least 72 and discards any other as a whole; GO
starts the counters and clears VALID; at the end of the gate GO clears, VALID rises, and a count more than 1 off its
expectation sets ERROR and the first such source. The gate is the one its GO found (DEDUCED, log entry 16). -/
def Obligations.ClkoutAndCounters : Prop :=
  (∀ (s : State) (r : Requester) (v : Word), requesterIsPf r = true → field v.toNat 5 0 ≤ 59 →
    72 ≤ divisor (field v.toNat 5 0) * (field v.toNat 31 16 + 1) →
    ∃ d, exec (.clkoutctrlWrite r v) s = .next ⟨s.pending, d⟩ ∧
      d.apex = { s.dev.apex with clkSrc := field v.toNat 5 0, clkDiv := field v.toNat 31 16, clkEnable := bit v.toNat 6 } ∧
      d.rd APX.CLKOUTCTRL = v &&& 0xFFFF007F#32 ∧ s.dev.RegsBut [APX.CLKOUTCTRL] d) ∧
  (∀ (s : State) (r : Requester) (v : Word), requesterIsPf r = true →
    (59 < field v.toNat 5 0 ∨ divisor (field v.toNat 5 0) * (field v.toNat 31 16 + 1) < 72) →
    exec (.clkoutctrlWrite r v) s = .next s) ∧
  (∀ (s : State) (r : Requester) (v : Word), requesterIsPf r = true → s.dev.flag APX.FCCTRL 16 = false → field v.toNat 15 0 ≠ 0 →
    ∃ d, exec (.fcGo r v) s = .next ⟨s.pending, d⟩ ∧ d.flag APX.FCCTRL 16 = true ∧
      d.fld APX.FCCTRL 15 0 = field v.toNat 15 0 ∧ d.flag APX.FCSTAT 0 = false ∧
      d.apex = { s.dev.apex with gate := field v.toNat 15 0 } ∧
      s.dev.RegsBut [APX.FCCTRL, APX.FCSTAT] d) ∧
  (∀ (s : State) (counts : List Nat), s.dev.flag APX.FCCTRL 16 = true →
    ∃ d, exec (.fcGateEnd counts) s = .next ⟨s.pending, d⟩ ∧ 
      d.apex = { s.dev.apex with counts := padTo 61 0 counts, lastGate := s.dev.apex.gate } ∧
      d.flag APX.FCCTRL 16 = false ∧ d.flag APX.FCSTAT 0 = true ∧ d.flag (oIrqsum APX.page) 1 = true ∧
      (fcBad s.dev.apex.gate counts = [] → d.flag APX.FCSTAT 1 = false) ∧
      (∀ b l, fcBad s.dev.apex.gate counts = b :: l →
        d.flag APX.FCSTAT 1 = true ∧ d.fld APX.FCSTAT 14 8 = b ∧ d.flag (oErrsum APX.page) 9 = true) ∧
      s.dev.RegsBut [APX.FCCTRL, APX.FCSTAT, oIrqsum APX.page, oErrsum APX.page] d)

/-! ### Bring-up (19) -/

/-- R381, R384: the fuse read at stage 3 computes the bypassed position and the uncovered count of every cluster row from its
fault mask and the row to its west, counts them in MAPSTAT, and leaves every on-die SRAM 0; its end raises READY of SYN and
COL and begins the firmware's verification. -/
def Obligations.FusesLoadTheMap : Prop :=
  (∀ s : State, s.dev.stage = 3 → s.dev.findReset .device = none →
    ∃ d, exec .fuseRead s = .next ⟨s.pending, d⟩ ∧ d.stage = 4 ∧
      d.fld TRU.SVN 15 8 = s.dev.trust.fuseCtr % 256 ∧
      (∀ x, x < 512 → d.fuseMask x = s.dev.fuseMask x ∧
        d.bypass x = ((positions (s.dev.fuseMask x)).filter
          (fun j => !(decide (0 < x % 8) && d.bypass (x - 1) == 8 && j == 0))).headD 4 ∧
        d.uncovered x = (positions (s.dev.fuseMask x)).length - (if ((positions (s.dev.fuseMask x)).filter
          (fun j => !(decide (0 < x % 8) && d.bypass (x - 1) == 8 && j == 0))) = [] then 0 else 1)) ∧
      (∀ p, p < 4 →
        d.fld (MSF.MAPSTAT p) 7 0 = ((List.range 512).filter (fun x => rowPartition x == p && d.bypass x != 4)).length ∧
        d.fld (MSF.MAPSTAT p) 15 8 =
          ((List.range 512).filter (fun x => rowPartition x == p && decide (0 < d.uncovered x))).length) ∧
      (∀ k, d.massif.store.read k = 0#8) ∧ d.weevil.cl = [] ∧ d.scarab.cl = [] ∧ d.talus.cl = [] ∧
      d.mem.dram = s.dev.mem.dram) ∧
  (∀ s : State, s.dev.findReset .device ≠ none → exec .fuseRead s = .next s) ∧
  (∀ s : State, s.dev.stage = 4 →
    ∃ d, exec .fuseReadDone s = .next ⟨s.pending, d⟩ ∧ d.stage = 5 ∧ d.trust = { s.dev.trust with boot := .verifyFlash } ∧
      (∀ g, g < 256 → s.dev.isFault (SYN.page g) = false → d.ready (SYN.page g) = true) ∧
      (∀ i, i < 16 → s.dev.isFault (COL.page i) = false → d.ready (COL.page i) = true) ∧
      s.dev.KeepsBut [.regs, .trust] d)

/-- R386, R387: GO starts the broadcast as a long operation of the ASC page and stage 6; a pass gives each taking-part cell the
chunks of the union that arrived at it, and a partition all of whose taking-part cells are complete becomes READY; a gather that finds no incomplete cell ends the broadcast with its partitions READY,
and any other starts the next pass, or the repair after the last; the repair's end ends the broadcast. R388: an incomplete cell at the bypassed position leaves the map; at another position it takes the free spare where R75
permits the move; otherwise the row keeps one more uncovered fault and its partition is DEGRADED with SWARM_INCOMPLETE. In every
case the cell counts as failed, and no other row changes. -/
def Obligations.SwarmPasses : Prop :=
  ((∀ (s : State) (r : Requester) (v : Word), requesterIsPf r = true → s.dev.ascWritable = true →
    s.dev.ascent.goUsed = false → s.dev.stage = 5 → s.dev.trust.boot = .running →
    1 ≤ field v.toNat 22 16 → field v.toNat 22 16 ≤ 64 → field v.toNat 15 12 ≠ 0 → s.dev.num64 ASC.UCADDR % 4096 = 0 →
    ∃ d, exec (.swarmctrlGo r v) s = .next ⟨s.pending, d⟩ ∧ d.ascent = { s.dev.ascent with
        held := [], swarm := .pass 0, goUsed := true, union := fullBitmap (field v.toNat 22 16) } ∧
      d.stage = 6 ∧ d.ucChunks = field v.toNat 22 16 ∧ d.busy ASC.page = true ∧
      d.num64 (oTotal ASC.page) = ((List.range 4608).filter s.dev.takesPart).length * field v.toNat 22 16 ∧
      d.num64 (oPosition ASC.page) = 0 ∧ d.num (oProgress ASC.page) = 0) ∧
  (∀ (s : State) (n : Nat) (l : List (Nat × DWord)), s.dev.ascent.swarm = .pass n →
    ∃ d, exec (.swarmPassEnd l) s = .next ⟨s.pending, d⟩ ∧ d.ascent.swarm = .gather n ∧
      (∀ p, p < 4 → (∀ i ∈ d.incomplete, rowPartition (rowOfPhys i) ≠ p) → s.dev.isFault (MSF.page p) = false →
        d.ready (MSF.page p) = true) ∧
      ∀ i, d.heldBy i = if i < 4608 ∧ s.dev.takesPart i = true then
          (l.filter (fun e => e.1 == i)).foldl
            (fun h e => h ||| (e.2 &&& s.dev.ascent.union &&& fullBitmap s.dev.ucChunks)) (s.dev.heldBy i)
        else s.dev.heldBy i) ∧
  (∀ (s : State) (n : Nat), s.dev.ascent.swarm = .gather n → s.dev.incomplete = [] →
    ∃ d, exec .swarmGatherEnd s = .next ⟨s.pending, d⟩ ∧ d.ascent.swarm = .done ∧ d.busy ASC.page = false ∧
      d.fld ASC.SWARMSTAT 2 0 = 5 ∧ (∀ p, p < 4 → s.dev.isFault (MSF.page p) = false → d.ready (MSF.page p) = true)) ∧
  (∀ (s : State) (n : Nat), s.dev.ascent.swarm = .gather n → s.dev.incomplete ≠ [] → n < s.dev.fld ASC.SWARMCTRL 9 8 →
    ∃ d, exec .swarmGatherEnd s = .next ⟨s.pending, d⟩ ∧ d.ascent.swarm = .pass (n + 1) ∧
      d.fld ASC.SWARMSTAT 28 16 = s.dev.incomplete.length % 8192) ∧
  (∀ (s : State) (n : Nat), s.dev.ascent.swarm = .gather n → s.dev.incomplete ≠ [] → s.dev.fld ASC.SWARMCTRL 9 8 ≤ n →
    ∃ d, exec .swarmGatherEnd s = .next ⟨s.pending, d⟩ ∧ d.ascent.swarm = .repair) ∧
  (∀ (s : State) (l : List (Nat × DWord)), s.dev.ascent.swarm = .repair →
    ∃ d, exec (.unicastRepairEnd l) s = .next ⟨s.pending, d⟩ ∧ d.ascent.swarm = .done ∧ d.busy ASC.page = false ∧
      d.fld ASC.SWARMSTAT 2 0 = 5)) ∧
  (∀ (d : Dev) (x f : Nat), x < 512 → f < 9 →
    (d.handleCell x f).healthy x f = false ∧
    (∀ y, y ≠ x → (d.handleCell x f).bypass y = d.bypass y ∧ (d.handleCell x f).uncovered y = d.uncovered y) ∧
    (f = d.bypass x → (d.handleCell x f).bypass x = d.bypass x ∧ (d.handleCell x f).uncovered x = d.uncovered x) ∧
    (f ≠ d.bypass x → d.healthy x (d.bypass x) = true →
      ¬(f = 8 ∧ x % 8 < 7 ∧ d.bypass (x + 1) = 0) → ¬(f = 0 ∧ 0 < x % 8 ∧ d.bypass (x - 1) = 8) →
      (d.handleCell x f).bypass x = f ∧ (d.handleCell x f).uncovered x = d.uncovered x) ∧
    (f ≠ d.bypass x → (d.healthy x (d.bypass x) = false ∨ (f = 8 ∧ x % 8 < 7 ∧ d.bypass (x + 1) = 0) ∨
        (f = 0 ∧ 0 < x % 8 ∧ d.bypass (x - 1) = 8)) →
      (d.handleCell x f).bypass x = d.bypass x ∧ (d.handleCell x f).uncovered x = d.uncovered x + 1 ∧
      (d.handleCell x f).degraded (MSF.page (rowPartition x)) = true ∧
      (d.handleCell x f).fld (oStatus (MSF.page (rowPartition x))) 15 8 = 0xA3 ∧
      (d.handleCell x f).flag (oErrsum ASC.page) 8 = true))

/-- R220, R381: stage 7 starts training on all twelve stacks; a passed step leads to the next, step 8 being skipped when the
contents are kept; the last one raises READY of the stack, unless it is in the thermal state STOP (R219), and of its slice and unit; a failed attempt records its channels and
starts again, and the third failure sets FAULT with TRAIN_FAIL. Training one stack leaves the bytes on the others alone. -/
def Obligations.StackTraining : Prop :=
  (∀ s : State, s.dev.stage = 6 → s.dev.ascent.stage7 = false →
    ∃ d, exec .stage7Start s = .next ⟨s.pending, d⟩ ∧ d.stage = 7 ∧ d.ascent = { s.dev.ascent with stage7 := true } ∧
      ∀ k, k < 12 → d.stkOp k = some (if s.dev.ascent.warm = true then .retrain else .train) ∧
        d.fld (STK.TRAINSTAT k) 3 0 = (if s.dev.ascent.warm = true then 3 else 1) ∧ d.fld (STK.TRAINSTAT k) 5 4 = 1 ∧
        d.busy (STK.page k) = true ∧ d.num64 (oTotal (STK.page k)) = 9) ∧
  (∀ (s : State) (k : Fin 12) (w : Word) (o : StkOp), s.dev.stkOp k = some o → (o = .train ∨ o = .retrain) →
    s.dev.fld (STK.TRAINSTAT k) 3 0 < 9 →
    ∃ d, exec (.stackTrainingStepEnd k true w) s = .next ⟨s.pending, d⟩ ∧
      d.fld (STK.TRAINSTAT k) 3 0 = (if o = .retrain ∧ s.dev.fld (STK.TRAINSTAT k) 3 0 = 7 then 9
        else s.dev.fld (STK.TRAINSTAT k) 3 0 + 1) ∧
      ∀ a, a < memTop → stackOf a ≠ k.val → d.mem.dram.read a = s.dev.mem.dram.read a) ∧
  (∀ (s : State) (k : Fin 12) (w : Word) (o : StkOp), s.dev.stkOp k = some o → (o = .train ∨ o = .retrain) →
    s.dev.fld (STK.TRAINSTAT k) 3 0 = 9 → s.dev.isFault (STK.page k) = false →
    ∃ d, exec (.stackTrainingStepEnd k true w) s = .next ⟨s.pending, d⟩ ∧ d.stkOp k = none ∧
      (s.dev.fld (STK.TEMP k) 18 16 ≠ 3 → d.ready (STK.page k) = true) ∧ d.busy (STK.page k) = false ∧ d.flag (oIrqsum (STK.page k)) 2 = true ∧
      (s.dev.isFault (MSC.page k) = false → d.ready (MSC.page k) = true) ∧
      (s.dev.isFault (STG.page k) = false → d.ready (STG.page k) = true) ∧ d.mem.dram = s.dev.mem.dram) ∧
  (∀ (s : State) (k : Fin 12) (w : Word) (o : StkOp), s.dev.stkOp k = some o → (o = .train ∨ o = .retrain) →
    s.dev.fld (STK.TRAINSTAT k) 5 4 < 3 →
    ∃ d, exec (.stackTrainingStepEnd k false w) s = .next ⟨s.pending, d⟩ ∧ d.rd (STK.FAILCH k) = w ∧ d.stkOp k = some o ∧
      d.fld (STK.TRAINSTAT k) 5 4 = s.dev.fld (STK.TRAINSTAT k) 5 4 + 1 ∧
      d.fld (STK.TRAINSTAT k) 3 0 = (if o = .retrain then 3 else 1)) ∧
  (∀ (s : State) (k : Fin 12) (w : Word) (o : StkOp), s.dev.stkOp k = some o → (o = .train ∨ o = .retrain) →
    s.dev.fld (STK.TRAINSTAT k) 5 4 = 3 →
    ∃ d, exec (.stackTrainingStepEnd k false w) s = .next ⟨s.pending, d⟩ ∧ d.rd (STK.FAILCH k) = w ∧ d.stkOp k = none ∧
      d.isFault (STK.page k) = true ∧ d.ready (STK.page k) = false ∧ d.fld (oStatus (STK.page k)) 15 8 = 0x41)

/-- R381, R389-R392: stage 8 enables the ports that EXPECT or EXPLORE names; the survey starts at stage 9 or by GO; with every
port MATCH, or under EXPLORE, it raises READY of CKT and HIV; under STRICT any other class leaves them and sets FAULT with
TOPOLOGY_MISMATCH. -/
def Obligations.LinksAndSurvey : Prop :=
  (∀ s : State, s.dev.ascent.stage7 = true → s.dev.ascent.stage8 = false → s.dev.rankValid = true →
    ∃ d, exec .stage8Start s = .next ⟨s.pending, d⟩ ∧ d.stage = 8 ∧ d.ascent.stage8 = true ∧
      ∀ p, p < 24 → d.enable (LNK.page p) =
        (s.dev.enable (LNK.page p) || s.dev.policy == 2 || s.dev.expPresent p)) ∧
  (∀ s : State, s.dev.ascent.stage8 = true → s.dev.stage = 8 → s.dev.ascent.surveying = false →
    ∃ d, exec .surveyStart s = .next ⟨s.pending, d⟩ ∧ d.stage = 9 ∧
      d.ascent = { s.dev.ascent with surveying := true } ∧ s.dev.RegsBut [ASC.STAGE, oIrqsum ASC.page] d) ∧
  (∀ (s : State) (r : Requester) (v : Word), requesterIsPf r = true → s.dev.ascent.stage8 = true →
    s.dev.ascent.surveying = false →
    ∃ d, exec (.surveyctrlGo r v) s = .next ⟨s.pending, d⟩ ∧ d.ascent = { s.dev.ascent with surveying := true } ∧
      d.flag ASC.SURVEYCTRL 0 = true ∧ s.dev.RegsBut [ASC.SURVEYCTRL] d) ∧
  (∀ s : State, s.dev.ascent.surveying = true → s.dev.policy ≠ 2 → (∀ p, p < 24 → s.dev.portClass p = 0) →
    ∃ d, exec .surveyEnd s = .next ⟨s.pending, d⟩ ∧ d.ascent = { s.dev.ascent with surveying := false } ∧
      d.num ASC.SURVEYSTAT = 1 ∧ (s.dev.isFault CKT.page = false → d.ready CKT.page = true) ∧
      (s.dev.isFault HIV.page = false → d.ready HIV.page = true) ∧ d.isFault ASC.page = false ∧
      d.num ASC.SVCSTATE = (if s.dev.num ASC.SVCSTATE = 0 then 1 else s.dev.num ASC.SVCSTATE) ∧
      (s.dev.stage = 9 → d.flag ASC.STAGE 4 = true)) ∧
  (∀ s : State, s.dev.ascent.surveying = true → s.dev.policy = 2 →
    ∃ d, exec .surveyEnd s = .next ⟨s.pending, d⟩ ∧ d.num ASC.SURVEYSTAT = 3 ∧
      (∀ i, i < 3 → d.num (ASC.PORTCLASS i) = 0) ∧
      (s.dev.isFault CKT.page = false → d.ready CKT.page = true)) ∧
  (∀ s : State, s.dev.ascent.surveying = true → s.dev.policy = 0 → (∃ p, p < 24 ∧ s.dev.portClass p ≠ 0) →
    ∃ d, exec .surveyEnd s = .next ⟨s.pending, d⟩ ∧ d.fld ASC.SURVEYSTAT 1 0 = 2 ∧ d.isFault ASC.page = true ∧
      d.fld (oStatus ASC.page) 15 8 = 0xA4 ∧ d.flag (oErrsum ASC.page) 9 = true ∧
      d.ready CKT.page = s.dev.ready CKT.page ∧ d.ready HIV.page = s.dev.ready HIV.page)

/-- R383: SVCSTATE moves between NORMAL and TEST by a write while CKT.CTRL.ENABLE = 0; a write while it is 1, a write of STARTUP
or RECOVERY, and a write in STARTUP or RECOVERY are discarded and set ERRSUM.PROTOCOL. -/
def Obligations.ServiceState : Prop :=
  (∀ (s : State) (r : Requester) (v : Word), requesterIsPf r = true → s.dev.enableInEffect CKT.page = false →
    (s.dev.num ASC.SVCSTATE = 1 ∨ s.dev.num ASC.SVCSTATE = 2) → (field v.toNat 1 0 = 1 ∨ field v.toNat 1 0 = 2) →
    ∃ d, exec (.svcstateWrite r v) s = .next ⟨s.pending, d⟩ ∧ d.num ASC.SVCSTATE = field v.toNat 1 0 ∧
      s.dev.RegsBut [ASC.SVCSTATE] d) ∧
  (∀ (s : State) (r : Requester) (v : Word), requesterIsPf r = true →
    (s.dev.enableInEffect CKT.page = true ∨ s.dev.num ASC.SVCSTATE = 0 ∨ s.dev.num ASC.SVCSTATE = 3 ∨
      field v.toNat 1 0 = 0 ∨ field v.toNat 1 0 = 3) →
    ∃ d, exec (.svcstateWrite r v) s = .next ⟨s.pending, d⟩ ∧ d.flag (oErrsum ASC.page) 2 = true ∧
      s.dev.RegsBut [oErrsum ASC.page] d)

/-! ### Firmware (18) -/

/-- R374, R375: with BOOTSEL = 0 an image that fails a step of the verification enters recovery with its code, and one that
passes runs: ENTRY, its SVN and key slot, the digest of its signed part. BOOTSEL = 1 asks for recovery, 2 and 3 are
STRAP_RESERVED. R375: recovery waits for a pushed image, whose verification ends in recovery, in its programming or in its run.
-/
def Obligations.FirmwareVerified : Prop :=
  (∀ (s : State) (k : Nat), s.dev.trust.boot = .verifyFlash → s.dev.module.bootsel = 0#2 →
    s.dev.verifyImage (bytesOf ffByte s.dev.trust.flash 0 hdrSize)
      (bytesOf ffByte s.dev.trust.flash hdrSize (fwBodyLen (bytesOf ffByte s.dev.trust.flash 0 hdrSize))) = .ok k →
    ∃ d, exec .firmwareVerifyDone s = .next ⟨s.pending, d⟩ ∧ d.trust.boot = .running ∧ d.trust.fromPush = false ∧
      d.trust.entry = fwEntry (bytesOf ffByte s.dev.trust.flash 0 hdrSize) ∧
      d.fld TRU.SVN 7 0 = fwSvn (bytesOf ffByte s.dev.trust.flash 0 hdrSize) % 256 ∧
      d.fld TRU.KEYSLOT 1 0 = k % 4 ∧ d.flag HST.RECOVERY 0 = false ∧ d.flag HST.RECOVERY 1 = false ∧
      d.flag HST.RECOVERY 2 = s.dev.flag HST.RECOVERY 2 ∧ d.num TRU.BOOTSTAT = 256 ∧
      (∀ i, i < 12 → d.num (TRU.FWDIGEST i) =
        fieldAt (sha3_384 (fwSigned (bytesOf ffByte s.dev.trust.flash 0 hdrSize))) (4 * i) 4) ∧
      d.trust.flash = s.dev.trust.flash ∧ d.trust.fuseCtr = s.dev.trust.fuseCtr) ∧
  (∀ (s : State) (c : Nat), s.dev.trust.boot = .verifyFlash → s.dev.module.bootsel = 0#2 →
    s.dev.verifyImage (bytesOf ffByte s.dev.trust.flash 0 hdrSize)
      (bytesOf ffByte s.dev.trust.flash hdrSize (fwBodyLen (bytesOf ffByte s.dev.trust.flash 0 hdrSize))) = .error c →
    ∃ d, exec .firmwareVerifyDone s = .next ⟨s.pending, d⟩ ∧ d.trust.boot = .recovery ∧ d.num TRU.BOOTSTAT = c ∧
      d.num ASC.SVCSTATE = 3 ∧ d.flag HST.RECOVERY 0 = true ∧ d.flag (oErrsum TRU.page) 9 = true) ∧
  (∀ s : State, s.dev.trust.boot = .verifyFlash → 1 ≤ s.dev.module.bootsel.toNat →
    ∃ d, exec .firmwareVerifyDone s = .next ⟨s.pending, d⟩ ∧ d.trust = { s.dev.trust with boot := .recovery } ∧
      d.num TRU.BOOTSTAT = (if s.dev.module.bootsel.toNat = 1 then 0 else 0xA2) ∧ d.num ASC.SVCSTATE = 3 ∧
      d.flag HST.RECOVERY 0 = true) ∧
  (∀ (s : State) (r : Requester) (v : Word), requesterIsPf r = true → s.dev.trust.boot = .recovery →
    s.dev.flag HST.RECOVERY 1 = false → bit v.toNat 1 = true →
    ∃ d, exec (.recoveryGo r v) s = .next ⟨s.pending, d⟩ ∧ d.trust.boot = .verifyPush) ∧
  (∀ s : State, s.dev.trust.boot = .verifyPush →
    ∃ d, exec .pushVerifyDone s = .next ⟨s.pending, d⟩ ∧
      (d.trust.boot = .recovery ∨ d.trust.boot = .programming ∨ d.trust.boot = .running)) ∧
  (∀ (s : State) (ok : Bool), s.dev.trust.boot = .programming →
    ∃ d, exec (.flashProgramDone ok) s = .next ⟨s.pending, d⟩ ∧ d.trust.boot = .running)

/-- R375: in recovery GO verifies the pushed image, and GO while it reads 1 is discarded; an image that fails keeps recovery
with its code; one that passes runs, at once without PERSIST, and with PERSIST after the flash has been erased and programmed
with it, whether or not the flash reads back, a mismatch setting FLASHFAIL. -/
def Obligations.PushedImage : Prop :=
  (∀ (s : State) (r : Requester) (v : Word), requesterIsPf r = true → s.dev.trust.boot = .recovery →
    s.dev.flag HST.RECOVERY 1 = false →
    ∃ d, exec (.recoveryGo r v) s = .next ⟨s.pending, d⟩ ∧ d.trust = { s.dev.trust with boot := .verifyPush } ∧
      d.flag HST.RECOVERY 1 = true ∧ d.flag HST.RECOVERY 2 = bit v.toNat 2 ∧ s.dev.RegsBut [HST.RECOVERY] d) ∧
  (∀ (s : State) (r : Requester) (v : Word), requesterIsPf r = true → s.dev.flag HST.RECOVERY 1 = true →
    ∃ d, exec (.recoveryGo r v) s = .next ⟨s.pending, d⟩ ∧ d.trust = s.dev.trust ∧ d.flag HST.RECOVERY 1 = true ∧
      d.flag HST.RECOVERY 2 = bit v.toNat 2 ∧ s.dev.RegsBut [HST.RECOVERY] d ∧ s.dev.KeepsBut [.regs] d) ∧
  (∀ (s : State) (c : Nat), s.dev.trust.boot = .verifyPush →
    s.dev.verifyImage (bytesOf zeroB s.dev.trust.hdrBuf 0 hdrSize)
      (bytesOf zeroB s.dev.trust.fwMem 0 (fwBodyLen (bytesOf zeroB s.dev.trust.hdrBuf 0 hdrSize))) = .error c →
    ∃ d, exec .pushVerifyDone s = .next ⟨s.pending, d⟩ ∧ d.trust = { s.dev.trust with boot := .recovery } ∧
      d.fld TRU.BOOTSTAT 7 0 = c % 256 ∧ d.flag HST.RECOVERY 1 = false ∧ d.flag (oErrsum TRU.page) 9 = true) ∧
  (∀ (s : State) (k : Nat), s.dev.trust.boot = .verifyPush →
    s.dev.verifyImage (bytesOf zeroB s.dev.trust.hdrBuf 0 hdrSize)
      (bytesOf zeroB s.dev.trust.fwMem 0 (fwBodyLen (bytesOf zeroB s.dev.trust.hdrBuf 0 hdrSize))) = .ok k →
    ∃ d, exec .pushVerifyDone s = .next ⟨s.pending, d⟩ ∧
      (s.dev.flag HST.RECOVERY 2 = false → d.trust.boot = .running ∧ d.trust.fromPush = true ∧
        d.trust.entry = fwEntry (bytesOf zeroB s.dev.trust.hdrBuf 0 hdrSize) ∧
        d.fld TRU.SVN 7 0 = fwSvn (bytesOf zeroB s.dev.trust.hdrBuf 0 hdrSize) % 256 ∧ d.fld TRU.KEYSLOT 1 0 = k % 4 ∧
        (∀ i, i < 12 → d.num (TRU.FWDIGEST i) =
          fieldAt (sha3_384 (fwSigned (bytesOf zeroB s.dev.trust.hdrBuf 0 hdrSize))) (4 * i) 4) ∧
        d.flag HST.RECOVERY 0 = false ∧ d.flag HST.RECOVERY 1 = false ∧
        d.trust.flash = s.dev.trust.flash ∧ d.num TRU.BOOTSTAT = 512) ∧
      (s.dev.flag HST.RECOVERY 2 = true → d.trust.boot = .programming ∧
        ∀ a, a < hdrSize + maxBody → d.trust.flash.get ffByte a = 0xFF#8)) ∧
  (∀ (s : State) (ok : Bool), s.dev.trust.boot = .programming →
    ∃ d, exec (.flashProgramDone ok) s = .next ⟨s.pending, d⟩ ∧ d.trust.boot = .running ∧ d.trust.fromPush = true ∧
      d.trust.entry = fwEntry (bytesOf zeroB s.dev.trust.hdrBuf 0 hdrSize) ∧
      d.fld TRU.SVN 7 0 = fwSvn (bytesOf zeroB s.dev.trust.hdrBuf 0 hdrSize) % 256 ∧
      d.flag HST.RECOVERY 0 = false ∧ d.flag HST.RECOVERY 1 = false ∧ d.num TRU.BOOTSTAT = 512 ∧
      (ok = true → ∀ a, a < max hdrSize (s.dev.num HST.IMGLEN) → d.trust.flash.get ffByte a =
        (if a < hdrSize then s.dev.trust.hdrBuf.get zeroB a else s.dev.trust.fwMem.get zeroB (a - hdrSize))) ∧
      (ok = false → d.flag (oErrsum HST.page) 10 = true))

/-- R376: a write of SVNCOMMIT by CP[0] or the PF is performed only for a value above the counter and at most the running
image's SVN; otherwise it is discarded with SVNREJECT. Each blown fuse advances the counter by 1. -/
def Obligations.SecurityVersion : Prop :=
  (∀ (s : State) (r : Requester) (v : Word), (r = .host ∨ r = .cp 0) → s.dev.trust.fuseCtr < field v.toNat 7 0 →
    field v.toNat 7 0 ≤ s.dev.fld TRU.SVN 7 0 → field v.toNat 7 0 ≤ 64 →
    exec (.svncommit r v) s = .next { s with dev := { s.dev with trust := { s.dev.trust with
      svnTarget := max s.dev.trust.svnTarget (field v.toNat 7 0) } } }) ∧
  (∀ (s : State) (r : Requester) (v : Word), (r = .host ∨ r = .cp 0) →
    (field v.toNat 7 0 ≤ s.dev.trust.fuseCtr ∨ s.dev.fld TRU.SVN 7 0 < field v.toNat 7 0) →
    ∃ d, exec (.svncommit r v) s = .next ⟨s.pending, d⟩ ∧ d.trust = s.dev.trust ∧ d.flag (oErrsum TRU.page) 8 = true ∧
      s.dev.RegsBut [oErrsum TRU.page] d) ∧
  (∀ s : State, s.dev.trust.fuseCtr < s.dev.trust.svnTarget → s.dev.trust.fuseCtr < 64 →
    ∃ d, exec .fuseBlown s = .next ⟨s.pending, d⟩ ∧
      d.trust = { s.dev.trust with fuseCtr := s.dev.trust.fuseCtr + 1 } ∧
      d.fld TRU.SVN 15 8 = s.dev.trust.fuseCtr + 1 ∧ s.dev.RegsBut [TRU.SVN] d)

/-! ### Resets and CTRL (02, 19) -/

/-- R41, R42, R393-R397: CELLRESET, CLRESET and a RESET written on a page enter the reset of their scope, unless a running
reset contains it, into which they are merged; a reset that runs goes from DRAIN to CLEAR and ends with RELEASE. -/
def Obligations.ResetsBegin : Prop :=
  (∀ (s : State) (r : Requester) (v : Word), requesterIsPf r = true → s.dev.flag ASC.CELLRESET 13 = false →
    s.dev.swarming = false → (bit v.toNat 12 = true → s.dev.msfOff = true) →
    (∀ x ∈ s.dev.ascent.resets,
      scopeInside (.cell (Fin.ofNat 64 (field v.toNat 11 6)) (Fin.ofNat 64 (field v.toNat 5 0))) x.scope = false) →
    ∃ d, exec (.cellresetGo r v) s = .next ⟨s.pending, d⟩ ∧ d.rd ASC.CELLRESET = (v &&& 0x1FFF#32) ||| 0x2000#32 ∧
      s.dev.ResetEntered (.cell (Fin.ofNat 64 (field v.toNat 11 6)) (Fin.ofNat 64 (field v.toNat 5 0))) (bit v.toNat 12) d ∧
      s.dev.KeepsBut [.regs, .ascent, .dram, .cricket, .freeCtr] d) ∧
  (∀ (s : State) (r : Requester) (v : Word), requesterIsPf r = true → s.dev.flag ASC.CELLRESET 13 = false →
    bit v.toNat 12 = true → s.dev.msfOff = false →
    ∃ d, exec (.cellresetGo r v) s = .next ⟨s.pending, d⟩ ∧ d.flag (oErrsum ASC.page) 2 = true ∧
      s.dev.RegsBut [oErrsum ASC.page] d ∧ s.dev.KeepsBut [.regs] d) ∧
  (∀ (s : State) (r : Requester) (v : Word), requesterIsPf r = true → s.dev.flag ASC.CLRESET 6 = false →
    s.dev.swarming = false →
    (∀ x ∈ s.dev.ascent.resets, scopeInside (.cluster (Fin.ofNat 64 (field v.toNat 5 0))) x.scope = false) →
    ∃ d, exec (.clresetGo r v) s = .next ⟨s.pending, d⟩ ∧ d.rd ASC.CLRESET = (v &&& 0x3F#32) ||| 0x40#32 ∧
      s.dev.ResetEntered (.cluster (Fin.ofNat 64 (field v.toNat 5 0))) false d) ∧
  (∀ (s : State) (r : Requester) (slot : Nat) (p : Page) (ab : Bool), pageAt slot = some p → s.dev.pageReach r p = true →
    s.dev.flag (oCtrl p.base) 1 = false → ¬(p.blk = .msf ∧ s.dev.swarming = true) →
    (∀ x ∈ s.dev.ascent.resets, scopeInside (resetScopeOf slot p) x.scope = false) →
    ∃ d, exec (.ctrlReset r slot (s.dev.enable p.base) ab) s = .next ⟨s.pending, d⟩ ∧ d.flag (oCtrl p.base) 1 = true ∧
      d.enable p.base = s.dev.enable p.base ∧ s.dev.ResetEntered (resetScopeOf slot p) false d) ∧
  (∀ (s : State) (r : Requester) (slot : Nat) (p : Page) (ab : Bool), pageAt slot = some p → s.dev.pageReach r p = true →
    ¬(p.blk = .msf ∧ s.dev.swarming = true) →
    (s.dev.ascent.resets.any (fun x => scopeInside (resetScopeOf slot p) x.scope) = true ∨
      s.dev.flag (oCtrl p.base) 1 = true) →
    ∃ d, exec (.ctrlReset r slot (s.dev.enable p.base) ab) s = .next ⟨s.pending, d⟩ ∧ d.flag (oCtrl p.base) 1 = true ∧
      d.ascent = s.dev.ascent ∧ s.dev.RegsBut [oCtrl p.base] d) ∧
  (∀ (s : State) (r : Requester) (slot : Nat) (en ab : Bool), ∃ d, exec (.ctrlEnable r slot en) s = .next ⟨s.pending, d⟩ ∧
    exec (.ctrlReset r slot en ab) s = exec (.ctrlReset r slot en false) ⟨s.pending, d⟩) ∧
  (∀ (s : State) (sc : ResetScope) (x : ResetRun), s.dev.findReset sc = some x →
    (x.phase = .drain → s.dev.outstanding sc = [] →
      ∃ d, exec (.resetDrainEnd sc) s = .next ⟨s.pending, d⟩ ∧ d.findReset sc = some { x with phase := .clear }) ∧
    (x.phase = .drain →
      ∃ d, exec (.drainlimitExpiry sc) s = .next ⟨s.pending, d⟩ ∧ d.findReset sc = some { x with phase := .clear }) ∧
    (x.phase = .clear → ∃ d, exec (.resetRelease sc) s = .next ⟨s.pending, d⟩ ∧ d.findReset sc = none))

/-- R393, R394: a scope's DRAIN ends when nothing it has sent is outstanding, and CLEAR begins; DRAINLIMIT ends it too, with
LATEDRAIN and what is outstanding noted as late. CLEAR of a cell frees the cell's banks and clears its store, and no other
cell's; of the whole device it returns every register but the kept ones to its reset value and keeps the stacks, the flash
and the fuses, with READY 0 and BUSY 1 on every page until RELEASE. RELEASE ends the reset. The device reset's clearing takes
LATEDRAIN with it. -/
def Obligations.ResetsEnd : Prop :=
  (∀ (s : State) (sc : ResetScope) (x : ResetRun), s.dev.findReset sc = some x → x.phase = .drain →
    (s.dev.outstanding sc = [] →
      ∃ d, exec (.resetDrainEnd sc) s = .next ⟨s.pending, d⟩ ∧ d.findReset sc = some { x with phase := .clear } ∧
        d.fld ASC.RESETSTAT 6 4 = 2) ∧
    (s.dev.outstanding sc ≠ [] → exec (.resetDrainEnd sc) s = .next s) ∧
    ∃ d, exec (.drainlimitExpiry sc) s = .next ⟨s.pending, d⟩ ∧ d.findReset sc = some { x with phase := .clear } ∧
      d.fld ASC.RESETSTAT 6 4 = 2 ∧ (sc ≠ .device → d.flag (oErrsum ASC.page) 11 = true) ∧
      (sc = .device → d.ascent.lateOut = s.dev.ascent.lateOut ++ s.dev.outstanding .device ∧
        ∀ p, p < 24 → (d.port p).table = [])) ∧
  (∀ (s : State) (row col : Fin 64) (x : ResetRun), s.dev.findReset (.cell row col) = some x → x.phase = .drain →
    x.remap = false →
    ∃ d, exec (.resetDrainEnd (.cell row col)) s = .next ⟨s.pending, d⟩ ∧ d.fld ASC.RESETSTAT 6 4 = 2 ∧
      d.bank (64 * row + col) 0 = bank0 0 ∧ d.bank (64 * row + col) 1 = bank0 0 ∧
      (∀ k, storeKey (64 * row + col) 0 ≤ k → k < storeKey (64 * row + col) storeSize → d.massif.store.read k = 0#8) ∧
      (∀ k, k < storeKey (64 * row + col) 0 ∨ storeKey (64 * row + col) storeSize ≤ k →
        d.massif.store.read k = s.dev.massif.store.read k) ∧
      s.dev.RegsBut [ASC.RESETSTAT] d ∧ s.dev.KeepsBut [.regs, .ascent, .massif] d) ∧
  (∀ (s : State) (x : ResetRun), s.dev.findReset .device = some x → x.phase = .drain →
    s.dev.outstanding .device = [] →
    ∃ d, exec (.resetDrainEnd .device) s = .next ⟨s.pending, d⟩ ∧ d.fld ASC.RESETSTAT 6 4 = 2 ∧
      (∀ b ∈ allBlks.flatMap pagesOf, d.ready b = false ∧ d.busy b = true ∧
        d.flag (oCtrl b) 1 = s.dev.flag (oCtrl b) 1) ∧
      d.enable ASC.page = s.dev.enable ASC.page ∧
      (∀ a, keptByDevice a = false → (∀ b ∈ allBlks.flatMap pagesOf, a ≠ oStatus b ∧ a ≠ oCtrl b) →
        a ∉ [ASC.CELLRESET, ASC.CLRESET, CKT.TIMESTAT, LNK.TIMEDIST 0] → d.rd a = resetWord a) ∧
      (∀ a, (∀ b ∈ s.dev.mem.pinUE, a < 256 * b ∨ 256 * b + 256 ≤ a) → d.mem.dram.read a = s.dev.mem.dram.read a) ∧
      d.mem.pins = s.dev.mem.pins ∧
      d.trust.flash = s.dev.trust.flash ∧ d.trust.fuseCtr = s.dev.trust.fuseCtr ∧
      d.ascent.fuseFaults = s.dev.ascent.fuseFaults ∧ d.module = s.dev.module ∧ d.cricket = CricketSt.reset ∧
      d.massif = MassifSt.reset ∧ d.hive = HiveSt.reset ∧ d.host.jobs = [] ∧ d.host.held = [] ∧
      d.host.out = s.dev.host.out) ∧
  (∀ (s : State) (row col : Fin 64) (x : ResetRun), s.dev.findReset (.cell row col) = some x → x.phase = .drain →
    x.remap = false →
    ∃ d, exec (.drainlimitExpiry (.cell row col)) s = .next ⟨s.pending, d⟩ ∧ d.fld ASC.RESETSTAT 6 4 = 2 ∧
      d.flag (oErrsum ASC.page) 11 = true ∧ d.ascent.lateOut = s.dev.ascent.lateOut ∧
      (∀ p, p < 24 → d.port p = s.dev.port p) ∧
      (∀ k, storeKey (64 * row + col) 0 ≤ k → k < storeKey (64 * row + col) storeSize → d.massif.store.read k = 0#8)) ∧
  (∀ (s : State) (sc : ResetScope) (x : ResetRun), s.dev.findReset sc = some x → x.phase = .clear →
    ∃ d, exec (.resetRelease sc) s = .next ⟨s.pending, d⟩ ∧ d.findReset sc = none ∧ d.fld ASC.RESETSTAT 6 4 = 3 ∧
      d.flag (oIrqsum ASC.page) 3 = true ∧
      (sc = .device → d.stage = 3 ∧ d.num ASC.SVCSTATE = 0 ∧ d.flag ASC.CTRL 1 = false) ∧
      (∀ k : Fin 64, sc = .cluster k → ∀ b ∈ scopePages sc, d.flag (oCtrl b) 1 = false ∧ d.busy b = false ∧
        (s.dev.isFault b = false → d.ready b = true)))

/-- R364: a hot reset, a link that goes down and the FLR of the PF are the whole-device reset; the function masks, the MSI-X
tables and both SPDM connections are lost, and only a link that goes down takes the PCIe link with it. R364: the FLR of a VF stops its ring and drops its jobs, descriptors and completions and nobody else's; where the VF is
resident, its on-die state is cleared and its running beat fails with ABSORBED. -/
def Obligations.FunctionResets : Prop :=
  (∀ (s : State) (c : Instr), (c = .pcieHotReset ∨ c = .pcieLinkDown ∨ c = .pfFlr) → s.dev.module.pcieUp = true →
    (∀ x ∈ s.dev.ascent.resets, scopeInside .device x.scope = false) →
    ∃ d, exec c s = .next ⟨s.pending, d⟩ ∧ s.dev.ResetEntered .device false d ∧
      d.host = { s.dev.host with fnMask := 0#16, msixTab := [], msixPend := [] } ∧
      d.trust = { s.dev.trust with spdmDoe := SpdmConn.reset, spdmMctp := SpdmConn.reset } ∧
      d.module = { s.dev.module with pcieUp := decide (c ≠ .pcieLinkDown) }) ∧
  (∀ s : State, s.dev.module.pcieUp = false → exec .pcieHotReset s = .next s ∧ exec .pcieLinkDown s = .next s ∧
    exec .pfFlr s = .next s) ∧
  (∀ (s : State) (v : Fin 16), v.val ≠ 0 →
    ∃ d, exec (.vfFlr v) s = .next ⟨s.pending, d⟩ ∧ d.ringOn v = false ∧ d.flag (TEN.TENSTAT v) 0 = false ∧
      d.host.jobs = s.dev.host.jobs.filter (fun j => j.fn != v.val) ∧
      d.host.waiting = s.dev.host.waiting.filter (fun j => j.fn != v.val) ∧
      d.host.fetched = s.dev.host.fetched.filter (fun e => e.1 != v.val) ∧
      d.host.done = s.dev.host.done.filter (fun e => e.1 != v.val) ∧
      d.host.held = s.dev.host.held.filter (fun e => e.1 != v.val) ∧
      (s.dev.fld HIV.RESIDENT 3 0 = v.val → d.massif.store = ⟨[], []⟩ ∧ d.weevil.cl = [] ∧ d.scarab.cl = [] ∧
        d.talus.cl = [] ∧
        ∀ b i, s.dev.cricket.cur = some b → b.fn = v.val → b.image = some i → b.code = none → s.dev.beatOpen = true →
          d.cricket.cur = some { b with code := some 0xB0, faultBlock := blockName .asc 0, faultAddr := 0 }) ∧
      (s.dev.fld HIV.RESIDENT 3 0 ≠ v.val → s.dev.RegsBut [ringReg v 0x58, TEN.TENSTAT v] d ∧
        s.dev.KeepsBut [.regs, .host, .cricket, .forager] d))

/-- R41, R56, R304: ENABLE reads the value last written; a 1 is in effect at once, a 0 at the next beat boundary, at once
where no beats run; under the page's reset (R42) either takes effect when it ends; the Cricket's starts the beats at the first B(n) that lies at least 300 ticks ahead; a port's takes it
from DISABLED to DARK. -/
def Obligations.EnableTakesEffect : Prop :=
  (∀ (s : State) (r : Requester) (slot : Nat) (p : Page), pageAt slot = some p → s.dev.pageReach r p = true →
    p.blk ≠ .lnk → p.blk ≠ .ckt → s.dev.enable p.base = false → s.dev.underReset p.base = false →
    ∃ d, exec (.ctrlEnable r slot true) s = .next ⟨s.pending, d⟩ ∧ d.enable p.base = true ∧
      d.enableInEffect p.base = true ∧ s.dev.RegsBut [oCtrl p.base] d ∧ s.dev.KeepsBut [.regs, .enPend] d) ∧
  (∀ (s : State) (r : Requester) (slot : Nat) (p : Page), pageAt slot = some p → s.dev.pageReach r p = true →
    s.dev.enable p.base = false → s.dev.underReset p.base = true →
    ∃ d, exec (.ctrlEnable r slot true) s = .next ⟨s.pending, d⟩ ∧ d.enable p.base = true ∧
      d.enableInEffect p.base = s.dev.enableInEffect p.base ∧ s.dev.RegsBut [oCtrl p.base] d ∧
      s.dev.KeepsBut [.regs, .enPend] d) ∧
  (∀ (s : State) (r : Requester) (slot : Nat) (p : Page), pageAt slot = some p → s.dev.pageReach r p = true →
    p.blk ≠ .lnk → s.dev.enable p.base = true → (∀ e ∈ s.dev.enPend, e.1 ≠ p.base) →
    ∃ d, exec (.ctrlEnable r slot false) s = .next ⟨s.pending, d⟩ ∧ d.enable p.base = false ∧
      d.enableInEffect p.base = (decide (s.dev.cricket.phase ≠ .off) || s.dev.underReset p.base) ∧ s.dev.RegsBut [oCtrl p.base] d ∧
      s.dev.KeepsBut [.regs, .enPend] d) ∧
  (∀ (s : State) (r : Requester), requesterIsPf r = true → s.dev.enable CKT.page = false →
    s.dev.flag CKT.CTRL 1 = false → s.dev.inReset CKT.page = false → s.dev.cricket.phase = .off → 0 < s.dev.period →
    s.dev.now + 300 < 2 ^ 64 →
    ∃ d, exec (.ctrlEnable r 5 true) s = .next ⟨s.pending, d⟩ ∧ d.enable CKT.page = true ∧ d.cricket.phase = .run ∧
      d.cricket.cur = none ∧ d.cricket.next = none ∧ s.dev.now + 300 ≤ d.beatStartAt d.cricket.firstBeat ∧
      (0 < d.cricket.firstBeat → d.beatStartAt (d.cricket.firstBeat - 1) < s.dev.now + 300)) ∧
  (∀ (s : State) (r : Requester) (p : Fin 24), requesterIsPf r = true → s.dev.enable (LNK.page p) = false →
    s.dev.flag (oCtrl (LNK.page p)) 1 = false → s.dev.inReset (LNK.page p) = false → s.dev.portState p = 0 →
    s.dev.isFault (LNK.page p) = false →
    ∃ d, exec (.ctrlEnable r (0x40 + p.val) true) s = .next ⟨s.pending, d⟩ ∧ d.enable (LNK.page p) = true ∧
      d.portState p = 1 ∧ d.ready (LNK.page p) = false) ∧
  (∀ (s : State) (r : Requester) (slot : Nat), pageAt slot = none → ∀ en ab, exec (.ctrlEnable r slot en) s = .next s ∧
    exec (.ctrlReset r slot en ab) s = .next s ∧ exec (.ctrlAbort r slot en) s = .next s)

/-- R41, R42: ABORT ends the long operation that runs on a page with ABORTED and leaves POSITION where it was; with BUSY = 0 it
has no effect. -/
def Obligations.AbortStopsLongOperation : Prop :=
  (∀ (s : State) (r : Requester) (slot : Nat) (p : Page), pageAt slot = some p → s.dev.pageReach r p = true →
    s.dev.flag (oCtrl p.base) 1 = false → s.dev.inReset p.base = false → s.dev.busy p.base = true → p.blk ≠ .lnk →
    ∃ d, exec (.ctrlAbort r slot (s.dev.enable p.base)) s = .next ⟨s.pending, d⟩ ∧ d.busy p.base = false ∧
      d.fld (oStatus p.base) 15 8 = 0x24 ∧ d.num64 (oPosition p.base) = s.dev.num64 (oPosition p.base) ∧
      d.num64 (oTotal p.base) = s.dev.num64 (oTotal p.base)) ∧
  (∀ (s : State) (r : Requester) (p : Fin 24), requesterIsPf r = true → s.dev.flag (oCtrl (LNK.page p)) 1 = false →
    s.dev.inReset (LNK.page p) = false → s.dev.busy (LNK.page p) = true →
    ∃ d, exec (.ctrlAbort r (0x40 + p.val) (s.dev.enable (LNK.page p))) s = .next ⟨s.pending, d⟩ ∧
      d.busy (LNK.page p) = false ∧ d.fld (oStatus (LNK.page p)) 15 8 = 0x24 ∧ d.portState p = 1) ∧
  (∀ (s : State) (r : Requester) (slot : Nat) (p : Page), pageAt slot = some p → s.dev.busy p.base = false →
    exec (.ctrlAbort r slot (s.dev.enable p.base)) s = .next s)

/-! ### Register access (02) -/

/-- R33, R34: a write narrower than 4 bytes or not naturally aligned is discarded and sets HST.ERRSUM.ACCESS; a read that is
not naturally aligned returns 0, sets it too and has no other effect; an access that leads nowhere reads 0 and writes
nothing. -/
def Obligations.AccessRules : Prop :=
  (∀ (s : State) (r : Requester) (a : Nat) (sz : AccessSize) (v : DWord), (Machine.sizeOf sz < 4 ∨ a % Machine.sizeOf sz ≠ 0) →
    ∃ d, exec (.registerWrite r a sz v) s = .next ⟨s.pending, d⟩ ∧ d.flag (oErrsum HST.page) 4 = true ∧
      s.dev.RegsBut [oErrsum HST.page] d ∧ s.dev.KeepsBut [.regs] d) ∧
  (∀ (s : State) (r : Requester) (a : Nat) (sz : AccessSize), a % Machine.sizeOf sz ≠ 0 →
    ∃ d, exec (.unalignedRead r a sz) s = .next ⟨s.pending, d⟩ ∧
      d.bus = { s.dev.bus with readData := List.replicate (Machine.sizeOf sz) 0#8, resp := .ok } ∧
      d.flag (oErrsum HST.page) 4 = true ∧ s.dev.RegsBut [oErrsum HST.page] d ∧ s.dev.KeepsBut [.regs, .bus] d) ∧
  (∀ (s : State) (r : Requester) (a : Nat) (v : DWord), a % 4 = 0 → a < bar4Base →
    (s.dev.mapAddr r a).bind regAt = none →
    exec (.registerWrite r a .b4 v) s = .next s ∧
    exec (.readClear r a .b4) s = .next { s with dev := { s.dev with bus := { s.dev.bus with
      readData := List.replicate 4 0#8, resp := .ok } } })

/-- R8, R35: a 32-bit register of a page without rules of its own takes a write by its access codes; a 64-bit one takes the
whole value where its rules admit it and none of it otherwise; a write of its low half is buffered by requester and changes
no register; a write of its high half is the write of the whole value with the buffered low half, or the register's own
where none is buffered, and empties the buffer. -/
def Obligations.RegisterWrites : Prop :=
  (∀ (s : State) (r : Requester) (a : Nat) (v : DWord) (g : RegInfo) (p : Page), requesterIsPf r = true → a % 4 = 0 →
    a < 0x4000000 → pageAt (a / 0x1000) = some p → regAt a = some g → g.off = a → g.wide = false → a % 0x1000 ≠ 0x10 →
    (a % 0x1000 < 0x40 ∨ p.blk = .stg ∨ p.blk = .msf ∨ p.blk = .col ∨ p.blk = .wvl ∨ p.blk = .scb ∨ p.blk = .tls) →
    ∃ d, exec (.registerWrite r a .b4 v) s = .next ⟨s.pending, d⟩ ∧
      (∀ i, i < 32 → (d.rd a).getLsbD i =
        (((if g.rw.testBit i then v.getLsbD i else (s.dev.rd a).getLsbD i) && !(v.getLsbD i && g.w1c.testBit i)) ||
          (v.getLsbD i && g.w1s.testBit i))) ∧
      s.dev.RegsBut [a] d ∧ s.dev.KeepsBut [.regs] d) ∧
  (∀ (s : State) (r : Requester) (a : Nat) (v : DWord) (g : RegInfo) (p : Page), requesterIsPf r = true → a % 8 = 0 →
    a < 0x4000000 → pageAt (a / 0x1000) = some p → regAt a = some g → g.off = a → g.wide = true → g.rw ≠ 0 →
    windowAt a = none → p.blk ≠ .cpu →
    (s.dev.wideOk p (a % 0x1000) v.toNat = false → exec (.registerWrite r a .b8 v) s = .next s) ∧
    (s.dev.wideOk p (a % 0x1000) v.toNat = true →
      ∃ d, exec (.registerWrite r a .b8 v) s = .next ⟨s.pending, d⟩ ∧ d.num64 a = v.toNat ∧ s.dev.RegsBut [a, a + 4] d ∧
        s.dev.KeepsBut [.regs, .cricket] d)) ∧
  (∀ (s : State) (r : Requester) (a : Nat) (v : DWord) (g : RegInfo), requesterIsPf r = true → a % 8 = 0 → a < 0x4000000 →
    regAt a = some g → regAt (a + 4) = some g → g.off = a → g.wide = true → windowAt a = none →
    (∃ d, exec (.registerWrite r a .b4 v) s = .next ⟨s.pending, d⟩ ∧ d.bufferOf r a = some (v.setWidth 32) ∧
      (∀ r' n, r' ≠ r ∨ n ≠ a → d.bufferOf r' n = s.dev.bufferOf r' n) ∧ s.dev.KeepsBut [.bus] d) ∧
    (s.dev.dropBuffer r a).bufferOf r a = none ∧
    exec (.registerWrite r (a + 4) .b4 v) s =
      exec (.registerWrite r a .b8 ((v.setWidth 32 : Word) ++ (s.dev.bufferOf r a).getD (s.dev.regView a)))
        ⟨s.pending, s.dev.dropBuffer r a⟩)

/-- R8, R34, R35: a read of an RC register returns its value and leaves its reset value; a 4-byte read of the low half of a
64-bit register captures its high half for the requester, and that requester's next read at n + 4 returns what was captured,
or the live high half where nothing was. -/
def Obligations.RegisterReads : Prop :=
  (∀ (s : State) (r : Requester) (a k : Nat) (g : RegInfo), a % 4 = 0 → s.dev.mapAddr r a = some k → regAt k = some g →
    g.wide = false → g.rc ≠ 0 → claimAt k = none → k ≠ PWR.THROTTLE →
    ∃ d, exec (.readClear r a .b4) s = .next ⟨s.pending, d⟩ ∧ d.bus.readData = leBytes 4 (s.dev.regView k).toNat ∧
      d.rd k = resetWord k ∧ s.dev.RegsBut [k] d ∧ s.dev.KeepsBut [.regs, .bus] d) ∧
  (∀ (s : State) (r : Requester) (a k : Nat) (g : RegInfo), a % 4 = 0 → s.dev.mapAddr r a = some k → regAt k = some g →
    g.wide = true → g.off = k → windowAt k = none →
    ∃ d, exec (.lowHalfRead r a) s = .next ⟨s.pending, d⟩ ∧ d.bus.readData = leBytes 4 (s.dev.regView k).toNat ∧
      d.shadowOf r k = some (s.dev.regView (k + 4)) ∧ s.dev.KeepsBut [.bus] d) ∧
  (∀ (s : State) (r : Requester) (a k : Nat) (g : RegInfo), a % 4 = 0 → s.dev.mapAddr r a = some k → regAt k = some g →
    g.wide = true → g.off ≠ k → windowAt g.off = none →
    ∃ d, exec (.lowHalfRead r a) s = .next ⟨s.pending, d⟩ ∧
      d.bus.readData = leBytes 4 ((s.dev.shadowOf r g.off).getD (s.dev.regView k)).toNat ∧ d.shadowOf r g.off = none ∧
      s.dev.KeepsBut [.bus] d)

/-- R47, R48: RUN starts a control processor from reset and resumes it from a halt, RUN = 0 halts it; CPRESET holds it in
STATE 0 until the reset ends, upon which it starts if RUN is set; a write of the high half of a mailbox writes both halves
and raises its interrupt. -/
def Obligations.ControlProcessors : Prop :=
  (∀ (s : State) (r : Requester) (c : Fin 4), requesterIsPf r = true → s.dev.flag (CPU.CPCTRL c) 1 = false →
    s.dev.inReset (CPU.page c) = false →
    ∃ d, exec (.cpctrlRun r c true) s = .next ⟨s.pending, d⟩ ∧ d.flag (CPU.CPCTRL c) 0 = true ∧
      (s.dev.cpState c = 0 → d.cpState c = 1 ∧ s.dev.RegsBut [CPU.CPCTRL c, CPU.CPSTATE c] d) ∧
      (s.dev.cpState c = 2 → d.cpState c = 1 ∧ d.num64 (CPU.HALTPC c) = 0) ∧
      s.dev.RegsBut [CPU.CPCTRL c, CPU.CPSTATE c, CPU.HALTPC c, CPU.HALTPC c + 4] d ∧ s.dev.KeepsBut [.regs] d) ∧
  (∀ (s : State) (r : Requester) (c : Fin 4), requesterIsPf r = true → s.dev.flag (CPU.CPCTRL c) 1 = false →
    s.dev.inReset (CPU.page c) = false → (s.dev.cpState c = 1 ∨ s.dev.cpState c = 3) →
    ∃ d, exec (.cpctrlRun r c false) s = .next ⟨s.pending, d⟩ ∧ d.flag (CPU.CPCTRL c) 0 = false ∧ d.cpState c = 2 ∧
      s.dev.RegsBut [CPU.CPCTRL c, CPU.CPSTATE c, CPU.HALTPC c, CPU.HALTPC c + 4] d) ∧
  (∀ (s : State) (r : Requester) (c : Fin 4) (run : Bool), requesterIsPf r = true →
    ∃ d, exec (.cpreset r c run) s = .next ⟨s.pending, d⟩ ∧ d.flag (CPU.CPCTRL c) 0 = run ∧
      d.flag (CPU.CPCTRL c) 1 = true ∧ d.cpState c = 0 ∧ d.num64 (CPU.BOOTADDR c) = s.dev.num64 (CPU.BOOTADDR c) ∧
      d.num64 (CPU.CYCLES c) = 0 ∧ s.dev.KeepsBut [.regs] d) ∧
  (∀ (s : State) (c : Fin 4), s.dev.flag (CPU.CPCTRL c) 1 = true →
    ∃ d, exec (.cpResetEnd c) s = .next ⟨s.pending, d⟩ ∧ d.flag (CPU.CPCTRL c) 1 = false ∧
      d.cpState c = (if s.dev.flag (CPU.CPCTRL c) 0 = true then 1 else s.dev.cpState c) ∧
      s.dev.RegsBut [CPU.CPCTRL c, CPU.CPSTATE c] d) ∧
  (∀ (s : State) (r : Requester) (c : Fin 4) (v : Word), requesterIsPf r = true → s.dev.inReset (CPU.page c) = false →
    (∃ d, exec (.mboxinWrite r c v) s = .next ⟨s.pending, d⟩ ∧
      d.num64 (CPU.MBOXIN c) =
        ((s.dev.bufferOf r (CPU.MBOXIN c)).getD (s.dev.rd (CPU.MBOXIN c))).toNat + 2 ^ 32 * v.toNat ∧
      d.flag (oIrqsum (CPU.page c)) 0 = true ∧ d.bufferOf r (CPU.MBOXIN c) = none ∧
      s.dev.RegsBut [CPU.MBOXIN c, CPU.MBOXIN c + 4, oIrqsum (CPU.page c)] d) ∧
    (∃ d, exec (.mboxoutWrite r c v) s = .next ⟨s.pending, d⟩ ∧
      d.num64 (CPU.MBOXOUT c) =
        ((s.dev.bufferOf r (CPU.MBOXOUT c)).getD (s.dev.rd (CPU.MBOXOUT c))).toNat + 2 ^ 32 * v.toNat ∧
      (r = .cp c → d.flag (oIrqsum (CPU.page c)) 1 = true) ∧ d.bufferOf r (CPU.MBOXOUT c) = none ∧
      (r ≠ .cp c → s.dev.RegsBut [CPU.MBOXOUT c, CPU.MBOXOUT c + 4] d) ∧
      s.dev.RegsBut [CPU.MBOXOUT c, CPU.MBOXOUT c + 4, oIrqsum (CPU.page c)] d))

/-- R49, R218, R365, R375: BAR2 reads and writes the bytes of device memory at the function's base; the blocks it touches being
readable, a read returns them and changes no byte, and a write changes the bytes it names and no other; a request outside
the region is an Unsupported Request; in recovery the PF's BAR2 reaches the push window. -/
def Obligations.HostWindow : Prop :=
  (∀ (s : State) (fn : Fin 16) (off n : Nat), off + n ≤ bar2Span → s.dev.deviceInReset = false →
    s.dev.pushOpen fn = false → s.dev.bar2Inside fn off n = true →
    (∀ b ∈ blocksOf (s.dev.bar2Addr fn off) n, s.dev.blockReady b = true ∧ s.dev.blockAbsorbed b = false ∧
      s.dev.blockBad b = false ∧ ¬(s.dev.pinned (256 * b) = true ∧ b ∈ s.dev.mem.pinUE)) →
    ∃ d, exec (.bar2Read fn off n) s = .next ⟨s.pending, d⟩ ∧
      d.bus.readData = s.dev.mem.dram.readN (s.dev.bar2Addr fn off) n ∧ d.bus.resp = .ok ∧
      d.mem.dram = s.dev.mem.dram ∧ s.dev.KeepsBut [.regs, .bus, .mem] d) ∧
  (∀ (s : State) (fn : Fin 16) (off : Nat) (bs : List Byte), off + bs.length ≤ bar2Span → s.dev.deviceInReset = false →
    s.dev.pushOpen fn = false → s.dev.bar2Inside fn off bs.length = true →
    (∀ b ∈ blocksOf (s.dev.bar2Addr fn off) bs.length, s.dev.blockReady b = true ∧ s.dev.blockAbsorbed b = false) →
    ∃ d, exec (.bar2Write fn off bs) s = .next ⟨s.pending, d⟩ ∧
      (∀ x, d.mem.dram.read x =
        if s.dev.bar2Addr fn off ≤ x ∧ x < s.dev.bar2Addr fn off + bs.length then bs.getD (x - s.dev.bar2Addr fn off) 0#8
        else s.dev.mem.dram.read x) ∧
      s.dev.KeepsBut [.regs, .mem, .dram] d) ∧
  (∀ (s : State) (fn : Fin 16) (off n : Nat) (bs : List Byte), off + n ≤ bar2Span → bs.length = n →
    s.dev.deviceInReset = false → s.dev.pushOpen fn = false → s.dev.bar2Inside fn off n = false →
    (∃ d, exec (.bar2Read fn off n) s = .next ⟨s.pending, d⟩ ∧ d.bus.resp = .unsupported ∧ s.dev.KeepsBut [.bus] d) ∧
    (∃ d, exec (.bar2Write fn off bs) s = .next ⟨s.pending, d⟩ ∧ d.bus.resp = .unsupported ∧ s.dev.KeepsBut [.bus] d)) ∧
  (∀ (s : State) (off : Nat) (bs : List Byte), off + bs.length ≤ hdrSize + maxBody → s.dev.deviceInReset = false →
    s.dev.flag HST.RECOVERY 0 = true →
    ∃ d, exec (.bar2Write 0 off bs) s = .next ⟨s.pending, d⟩ ∧
      (∀ x, x < hdrSize + maxBody → d.pushByte x =
        if off ≤ x ∧ x < off + bs.length then bs.getD (x - off) 0#8 else s.dev.pushByte x) ∧
      s.dev.KeepsBut [.trust] d)

/-! ### SPDM (18) -/

/-- R376-R378, R380: each of the seven requests of the subset, where the connection has come far enough, is answered under its
own response code, counts in SPDMCNT, enters the transcript of its own transport and leaves the other transport's
connection alone; a request out of order is answered with UnexpectedRequest. The layouts are those of SPDM 1.3 (log entry
21). -/
def Obligations.SpdmServes : Prop :=
  (∀ (s : State) (t : Transport) (p : List Byte) (c : Instr) (code level next : Nat),
    ((c = .getVersion t p ∧ code = 0x84 ∧ level = 0 ∧ next = 1) ∨
     (c = .getCapabilities t p ∧ code = 0xE1 ∧ level = 1 ∧ next = 2) ∨
     (c = .negotiateAlgorithms t p ∧ code = 0xE3 ∧ level = 2 ∧ next = 3) ∨
     (c = .getDigests t p ∧ code = 0x81 ∧ level = 3 ∧ next = 3) ∨
     (c = .getCertificate t p ∧ code = 0x82 ∧ level = 3 ∧ next = 3 ∧ field (byteAt p 2) 3 0 = 0 ∧
       fieldAt p 4 2 < s.dev.certs.length)) →
    s.dev.spdmUp t = true → byteAt p 1 = code → 4 ≤ p.length → byteAt p 0 = (if code = 0x84 then 0x10 else 0x13) →
    level ≤ (s.dev.spdm t).level →
    ∃ d, exec c s = .next ⟨s.pending, d⟩ ∧ byteAt d.trust.spdmOut 1 = code % 0x80 ∧
      (d.spdm t).level = (if code = 0x84 then 1 else max (s.dev.spdm t).level next) ∧
      (d.spdm t).transcript = (if code = 0x84 then [] else (s.dev.spdm t).transcript) ++ p ++ d.trust.spdmOut ∧
      (∀ t', t' ≠ t → d.spdm t' = s.dev.spdm t') ∧ d.num TRU.SPDMCNT = min (s.dev.num TRU.SPDMCNT + 1) 0xFFFFFFFF ∧
      s.dev.RegsBut [TRU.SPDMCNT] d ∧ s.dev.KeepsBut [.regs, .trust] d) ∧
  (∀ (s : State) (t : Transport) (p : List Byte), s.dev.spdmUp t = true → byteAt p 1 = 0x83 → 4 ≤ p.length →
    byteAt p 0 = 0x13 → 3 ≤ (s.dev.spdm t).level → byteAt p 2 = 0 →
    ∃ d body, exec (.challenge t p) s = .next ⟨s.pending, d⟩ ∧ body.take 4 = [0x13#8, 0x03#8, 0#8, 1#8] ∧
      d.trust.spdmOut = body ++ s.dev.spdmSign ctxChallenge ((s.dev.spdm t).transcript ++ p ++ body) ∧
      (∀ t', t' ≠ t → d.spdm t' = s.dev.spdm t') ∧ d.num TRU.SPDMCNT = min (s.dev.num TRU.SPDMCNT + 1) 0xFFFFFFFF) ∧
  (∀ (s : State) (t : Transport) (p : List Byte), s.dev.spdmUp t = true → byteAt p 1 = 0xE0 → 4 ≤ p.length →
    byteAt p 0 = 0x13 → 3 ≤ (s.dev.spdm t).level → (byteAt p 3 = 0xFF ∨ byteAt p 3 ≤ 6) →
    ∃ d body, exec (.getMeasurements t p) s = .next ⟨s.pending, d⟩ ∧ byteAt body 1 = 0x60 ∧
      byteAt body 4 = (if byteAt p 3 = 0 then 0 else if byteAt p 3 = 0xFF then 6 else 1) ∧
      (bit (byteAt p 2) 0 = true →
        d.trust.spdmOut = body ++ s.dev.spdmSign ctxMeasure ((s.dev.spdm t).measTranscript ++ p ++ body) ∧
        (d.spdm t).measTranscript = []) ∧
      (bit (byteAt p 2) 0 = false → d.trust.spdmOut = body ∧
        (d.spdm t).measTranscript = (s.dev.spdm t).measTranscript ++ p ++ body) ∧
      (∀ t', t' ≠ t → d.spdm t' = s.dev.spdm t')) ∧
  (∀ (s : State) (t : Transport) (p : List Byte) (c : Instr) (code level : Nat),
    ((c = .getCapabilities t p ∧ code = 0xE1 ∧ level = 1) ∨ (c = .negotiateAlgorithms t p ∧ code = 0xE3 ∧ level = 2) ∨
     (c = .getDigests t p ∧ code = 0x81 ∧ level = 3) ∨ (c = .getCertificate t p ∧ code = 0x82 ∧ level = 3) ∨
     (c = .challenge t p ∧ code = 0x83 ∧ level = 3) ∨ (c = .getMeasurements t p ∧ code = 0xE0 ∧ level = 3)) →
    s.dev.spdmUp t = true → byteAt p 1 = code → 4 ≤ p.length → byteAt p 0 = 0x13 → (s.dev.spdm t).level < level →
    ∃ d, exec c s = .next ⟨s.pending, d⟩ ∧ d.trust.spdmOut = [0x13#8, 0x7F#8, 4#8, 0#8] ∧ d.spdm t = s.dev.spdm t ∧
      d.flag (oErrsum TRU.page) 10 = true)

/-! ### Firefly (17) -/

/-- R353, R359: an IDLE source whose page asserts it, or a software source that SWSET names, becomes PENDING where its PRIO is
not 0, and one for the host target with an unmasked entry is sent as a message and becomes ACTIVE; withdrawn while PENDING
it becomes IDLE; an assertion of an ACTIVE source changes nothing. -/
def Obligations.SourcesRise : Prop :=
  (∀ (s : State) (r : Requester) (n : BitVec 10) (v : Word) (c : Instr),
    ((c = .irqSourceAssert n ∧ s.dev.asserted n.toNat = true) ∨
      (c = .swset r v ∧ requesterIsPf r = true ∧ field v.toNat 9 0 = n.toNat ∧ isSoftSource n.toNat = true)) →
    s.dev.prio n.toNat ≠ 0 →
    (s.dev.irqState n.toNat = .idle → s.dev.target n.toNat ≠ 4 →
      ∃ d, exec c s = .next ⟨s.pending, d⟩ ∧ d.irqState n.toNat = .pending ∧
        (∀ m, m ≠ n.toNat → d.irqState m = s.dev.irqState m) ∧ s.dev.KeepsBut [.firefly] d) ∧
    (s.dev.irqState n.toNat = .idle → s.dev.target n.toNat = 4 → s.dev.vectorOk n.toNat = true →
      s.dev.msixMasked (s.dev.func n.toNat) (s.dev.vector n.toNat) = false →
      ∃ d, exec c s = .next ⟨s.pending, d⟩ ∧ d.irqState n.toNat = .active ∧
        d.host.msix = s.dev.host.msix ++ [⟨s.dev.func n.toNat, s.dev.vector n.toNat,
          (s.dev.msixEntry (s.dev.func n.toNat) (s.dev.vector n.toNat)).addrLo.toNat +
            2 ^ 32 * (s.dev.msixEntry (s.dev.func n.toNat) (s.dev.vector n.toNat)).addrHi.toNat,
          (s.dev.msixEntry (s.dev.func n.toNat) (s.dev.vector n.toNat)).data⟩] ∧
        d.num FFY7.MSGCOUNT = min (s.dev.num FFY7.MSGCOUNT + 1) 0xFFFFFFFF ∧ s.dev.RegsBut [FFY7.MSGCOUNT] d) ∧
    (s.dev.irqState n.toNat = .idle → s.dev.target n.toNat = 4 → s.dev.vectorOk n.toNat = true →
      s.dev.msixMasked (s.dev.func n.toNat) (s.dev.vector n.toNat) = true →
      ∃ d, exec c s = .next ⟨s.pending, d⟩ ∧ d.irqState n.toNat = .pending ∧ d.host.msix = s.dev.host.msix ∧
        (s.dev.func n.toNat, s.dev.vector n.toNat) ∈ d.host.msixPend ∧ d.regs = s.dev.regs) ∧
    (s.dev.irqState n.toNat = .idle → s.dev.target n.toNat = 4 → s.dev.vectorOk n.toNat = false →
      ∃ d, exec c s = .next ⟨s.pending, d⟩ ∧ d.irqState n.toNat = .pending ∧ d.host = s.dev.host ∧
        d.flag (oErrsum (FFY.page 2)) 11 = true) ∧
    (s.dev.irqState n.toNat ≠ .idle → exec c s = .next s)) ∧
  (∀ (s : State) (r : Requester) (n : BitVec 10) (v : Word) (c : Instr),
    ((c = .irqSourceDeassert n ∧ (pageOfSource n.toNat).isSome = true ∧ s.dev.asserted n.toNat = false) ∨
      (c = .swclr r v ∧ requesterIsPf r = true ∧ field v.toNat 9 0 = n.toNat ∧ isSoftSource n.toNat = true)) →
    (s.dev.irqState n.toNat = .pending →
      ∃ d, exec c s = .next ⟨s.pending, d⟩ ∧ d.irqState n.toNat = .idle ∧
        (∀ m, m ≠ n.toNat → d.irqState m = s.dev.irqState m) ∧ s.dev.KeepsBut [.host, .firefly] d) ∧
    (s.dev.irqState n.toNat ≠ .pending → exec c s = .next s)) ∧
  (∀ (s : State) (r : Requester) (n : BitVec 10) (v : Word), requesterIsPf r = true → isSource n.toNat = true →
    field v.toNat 10 8 ≤ 4 →
    (field v.toNat 10 8 ≠ 4 ∨ field v.toNat 5 0 = 0 ∨ s.dev.irqState n.toNat ≠ .pending) →
    ∃ d, exec (.srccfgWrite r n v) s = .next ⟨s.pending, d⟩ ∧ d.rd (FFY.SRCCFG n.toNat) = v &&& 0x7FFF073F#32 ∧
      (field v.toNat 5 0 = 0 ∧ s.dev.irqState n.toNat = .pending → d.irqState n.toNat = .idle) ∧
      (¬(field v.toNat 5 0 = 0 ∧ s.dev.irqState n.toNat = .pending) → d.irqState n.toNat = s.dev.irqState n.toNat) ∧
      s.dev.RegsBut [FFY.SRCCFG n.toNat] d ∧ s.dev.KeepsBut [.regs, .host, .firefly] d) ∧
  (∀ (s : State) (r : Requester) (n : BitVec 10) (v : Word), requesterIsPf r = true → isSource n.toNat = true →
    field v.toNat 10 8 = 4 → field v.toNat 5 0 ≠ 0 → s.dev.irqState n.toNat = .pending → 0 < field v.toNat 26 16 →
    field v.toNat 26 16 < tableSize (field v.toNat 30 27) →
    s.dev.msixMasked (field v.toNat 30 27) (field v.toNat 26 16) = false →
    ∃ d, exec (.srccfgWrite r n v) s = .next ⟨s.pending, d⟩ ∧ d.irqState n.toNat = .active ∧
      d.host.msix.length = s.dev.host.msix.length + 1) ∧
  (∀ (s : State) (r : Requester) (n : BitVec 10) (v : Word), (isSource n.toNat = false ∨ 5 ≤ field v.toNat 10 8) →
    exec (.srccfgWrite r n v) s = .next s)

/-- R355, R356: a source is eligible while PENDING for the target, above its running priority and with room on its stack;
a claim takes the eligible source of highest PRIO, the lowest number among equals, pushes the running priority
with it, raises the running priority to its PRIO and returns its number; with none eligible it returns 1,023 and counts in
SPURCNT. -/
def Obligations.ClaimsNest : Prop :=
  (∀ (d : Dev) (c n : Nat), d.eligible c n = true ↔
    d.irqState n = .pending ∧ d.target n = c ∧ d.runPrio c < d.prio n ∧ (d.irqStack c).length < 16) ∧
  (∀ (s : State) (r : Requester) (c : Fin 4) (n : Nat), requesterIsPf r = true → n < 1024 →
    s.dev.eligible c n = true →
    (∀ m, s.dev.eligible c m = true → s.dev.prio m < s.dev.prio n ∨ (s.dev.prio m = s.dev.prio n ∧ n ≤ m)) →
    ∃ d, exec (.claim r c) s = .next ⟨s.pending, d⟩ ∧ d.bus.readData = leBytes 4 n ∧ d.irqState n = .active ∧
      (∀ m, m ≠ n → d.irqState m = s.dev.irqState m) ∧
      d.irqStack c = (s.dev.runPrio c, n) :: s.dev.irqStack c ∧ d.runPrio c = s.dev.prio n ∧
      (∀ k, k ≠ c.val → d.irqStack k = s.dev.irqStack k) ∧ s.dev.KeepsBut [.bus, .firefly] d) ∧
  (∀ (s : State) (r : Requester) (c : Fin 4), requesterIsPf r = true → (∀ m, s.dev.eligible c m = false) →
    ∃ d, exec (.claim r c) s = .next ⟨s.pending, d⟩ ∧ d.bus.readData = leBytes 4 1023 ∧ d.firefly = s.dev.firefly ∧
      d.num FFY2.SPURCNT = min (s.dev.num FFY2.SPURCNT + 1) 0xFFFFFFFF ∧
      ((s.dev.irqStack c).length = 16 → (∃ m, s.dev.irqState m = .pending ∧ s.dev.target m = c.val ∧ s.dev.runPrio c < s.dev.prio m) →
        d.flag (oErrsum (FFY.page 2)) 8 = true) ∧
      s.dev.RegsBut [FFY2.SPURCNT, oErrsum (FFY.page 2)] d)

/-- R353, R357, R359: an end of interrupt that names the top of the target's stack pops it, returns the running priority to the
popped value and ends the source's activity, PENDING again if it is still asserted; any other is discarded with its error;
the host's ends a source that is ACTIVE for the host target, and a VF's register does the same. -/
def Obligations.EndsOfInterrupt : Prop :=
  (∀ (s : State) (r : Requester) (c : Fin 4) (v : Word) (p m : Nat) (rest : List (Nat × Nat)), requesterIsPf r = true →
    s.dev.irqStack c = (p, m) :: rest → field v.toNat 9 0 = m → m ≠ 1023 →
    ∃ d, exec (.eoi r c v) s = .next ⟨s.pending, d⟩ ∧ d.irqStack c = rest ∧
      d.runPrio c = (if rest = [] then s.dev.fld (FFYT.THRESHOLD c) 5 0 else p) ∧
      (s.dev.asserted m = false ∨ s.dev.prio m = 0 → d.irqState m = .idle ∧ s.dev.KeepsBut [.firefly] d) ∧
      (s.dev.asserted m = true → s.dev.prio m ≠ 0 → s.dev.target m ≠ 4 →
        d.irqState m = .pending ∧ s.dev.KeepsBut [.firefly] d) ∧
      (∀ k, k ≠ m → d.irqState k = s.dev.irqState k) ∧ s.dev.KeepsBut [.regs, .host, .firefly] d) ∧
  (∀ (s : State) (r : Requester) (c : Fin 4) (v : Word), field v.toNat 9 0 = 1023 → exec (.eoi r c v) s = .next s) ∧
  (∀ (s : State) (r : Requester) (c : Fin 4) (v : Word), requesterIsPf r = true → field v.toNat 9 0 ≠ 1023 →
    (s.dev.irqStack c).head?.map (fun e => e.2) ≠ some (field v.toNat 9 0) →
    ∃ d, exec (.eoi r c v) s = .next ⟨s.pending, d⟩ ∧
      d.flag (oErrsum (FFY.page 2)) (if s.dev.irqStack c = [] then 9 else 10) = true ∧
      s.dev.RegsBut [oErrsum (FFY.page 2)] d ∧ s.dev.KeepsBut [.regs] d) ∧
  (∀ (s : State) (r : Requester) (vf : Fin 16) (v : Word) (c : Instr),
    ((c = .hosteoi r v ∧ requesterIsPf r = true) ∨ (c = .vfeoi vf v ∧ vf.val ≠ 0)) →
    ((s.dev.irqState (field v.toNat 9 0) = .active ∧ s.dev.firefly.owner.get zeroNat (field v.toNat 9 0) = 4 ∧
        s.dev.asserted (field v.toNat 9 0) = false) →
      ∃ d, exec c s = .next ⟨s.pending, d⟩ ∧ d.irqState (field v.toNat 9 0) = .idle ∧
        (∀ k, k ≠ field v.toNat 9 0 → d.irqState k = s.dev.irqState k) ∧ s.dev.KeepsBut [.firefly] d) ∧
    ((s.dev.irqState (field v.toNat 9 0) = .active ∧ s.dev.firefly.owner.get zeroNat (field v.toNat 9 0) = 4 ∧
        s.dev.asserted (field v.toNat 9 0) = true ∧ s.dev.prio (field v.toNat 9 0) ≠ 0 ∧
        s.dev.target (field v.toNat 9 0) = 4 ∧ s.dev.vectorOk (field v.toNat 9 0) = true ∧
        s.dev.msixMasked (s.dev.func (field v.toNat 9 0)) (s.dev.vector (field v.toNat 9 0)) = false) →
      ∃ d, exec c s = .next ⟨s.pending, d⟩ ∧ d.irqState (field v.toNat 9 0) = .active ∧
        d.host.msix.length = s.dev.host.msix.length + 1) ∧
    (¬(s.dev.irqState (field v.toNat 9 0) = .active ∧ s.dev.firefly.owner.get zeroNat (field v.toNat 9 0) = 4) →
      ∃ d, exec c s = .next ⟨s.pending, d⟩ ∧ d.flag (oErrsum (FFY.page 2)) 10 = true ∧
        s.dev.RegsBut [oErrsum (FFY.page 2)] d ∧ s.dev.KeepsBut [.regs] d))

/-- R50, R359: a write to a function's MSI-X table changes that entry; where it unmasks an entry on which one source waits, the
source's message goes out and the source becomes ACTIVE; so does unmasking the function. -/
def Obligations.HostMessages : Prop :=
  (∀ (s : State) (fn : Fin 16) (e : Nat) (dw : Fin 4) (v : Word), e < tableSize fn →
    ∃ d, exec (.msixTableWrite fn e dw v) s = .next ⟨s.pending, d⟩ ∧
      d.msixEntry fn e = (if dw.val = 0 then { s.dev.msixEntry fn e with addrLo := v &&& 0xFFFFFFFC#32 }
        else if dw.val = 1 then { s.dev.msixEntry fn e with addrHi := v }
        else if dw.val = 2 then { s.dev.msixEntry fn e with data := v }
        else { s.dev.msixEntry fn e with ctrl := v &&& 1#32 }) ∧
      (∀ f x, 2048 * f + x ≠ 2048 * fn.val + e → d.msixEntry f x = s.dev.msixEntry f x) ∧
      s.dev.KeepsBut [.regs, .host, .firefly] d) ∧
  (∀ (s : State) (fn : Fin 16) (v : Word) (n : Nat) (c : Instr), s.dev.irqState n = .pending → s.dev.target n = 4 →
    s.dev.func n = fn.val → s.dev.vectorOk n = true →
    (∀ m, s.dev.irqState m = .pending → s.dev.target m = 4 → m = n) →
    ((c = .msixTableWrite fn (s.dev.vector n) 3 v ∧ v.getLsbD 0 = false ∧ s.dev.host.fnMask.getLsbD fn = false) ∨
      (c = .msixFunctionMask fn false ∧ (s.dev.msixEntry fn (s.dev.vector n)).ctrl.getLsbD 0 = false ∧
        (fn.val, 0) ∉ s.dev.host.msixPend)) →
    ∃ d, exec c s = .next ⟨s.pending, d⟩ ∧ d.irqState n = .active ∧
      d.host.msix = s.dev.host.msix ++ [⟨fn, s.dev.vector n, (s.dev.msixEntry fn (s.dev.vector n)).addrLo.toNat +
        2 ^ 32 * (s.dev.msixEntry fn (s.dev.vector n)).addrHi.toNat, (s.dev.msixEntry fn (s.dev.vector n)).data⟩] ∧
      (fn.val, s.dev.vector n) ∉ d.host.msixPend) ∧
  (∀ (s : State) (fn : Fin 16), (∀ m, s.dev.irqState m = .pending → s.dev.target m ≠ 4) →
    ∃ d, exec (.msixFunctionMask fn true) s = .next ⟨s.pending, d⟩ ∧
      (∀ i : Fin 16, d.host.fnMask.getLsbD i = (decide (i = fn) || s.dev.host.fnMask.getLsbD i)) ∧
      d.host.msix = s.dev.host.msix ∧ s.dev.KeepsBut [.host] d)

/-! ### The beat (03, 18) -/

/-- R53, R65-R68, R369: at C(n) the close begins: the engines are empty; a program that is complete keeps its code, one that is
not fails with STASH_EXHAUSTED, BUCKET_INCOMPLETE, BEAT_OVERRUN or DRAIN_TIMEOUT, the last two with the block that holds the
earliest descriptor left; bytes change in the write windows of a failed program alone, and in a pinned line with an uncorrectable error that leaves
the pin table then (R211); the beat's job is counted on or
ended. -/
def Obligations.BeatCloses : Prop :=
  (∀ s : State, s.dev.cricket.phase = .run →
    ∃ d, exec .issueClose s = .next ⟨s.pending, d⟩ ∧ d.cricket.phase = .closed ∧ d.cricket.stops = [] ∧
      d.massif.queue = [] ∧ d.massif.op = none ∧ d.massif.unwritten = [] ∧ d.massif.banks = [] ∧ d.weevil.queue = [] ∧
      d.weevil.run = [] ∧ d.col.queue = [] ∧ d.col.run = none ∧ d.scarab.fin = [] ∧ d.talus.fin = [] ∧ d.stag.queue = [] ∧
      d.stag.act = [] ∧ d.mem.copyQ = [] ∧ d.mem.copyRun = none ∧ d.forager.queue = [] ∧ d.forager.run = none ∧
      d.link.localTable = [] ∧ (∀ p, p < 24 → (d.port p).table = [])) ∧
  (∀ (s : State) (b : Beat) (i : Image), s.dev.cricket.phase = .run → s.dev.cricket.cur = some b → b.switchBeat = false →
    b.image = some i → b.code = none → s.dev.cricket.stops = [] →
    ∃ d b', exec .issueClose s = .next ⟨s.pending, d⟩ ∧ d.cricket.cur = some b' ∧ b'.n = b.n ∧
      (b.complete.isSome = true → b'.code = none ∧
        ∀ a, a / 256 ∉ s.dev.mem.pinUE → d.mem.dram.read a = s.dev.mem.dram.read a) ∧
      (b.complete = none → s.dev.stuckTalus = none → s.dev.armedUnit = none →
        b'.code = some (if s.dev.unissued b i = true then 0x20 else 0x21) ∧ b'.faultBlock = s.dev.holder ∧
          b'.faultAddr = 0) ∧
      (∀ u, b.complete = none → s.dev.stuckTalus = none → s.dev.armedUnit = some u →
        b'.code = some 0x60 ∧ b'.faultBlock = blockName .stg u) ∧
      (∀ k, b.complete = none → s.dev.stuckTalus = some k → b'.code = some 0x22 ∧ b'.faultBlock = blockName .tls k) ∧
      (∀ a, a / 256 ∉ s.dev.mem.pinUE → (∀ w ∈ i.windows, ¬(w.1 ≤ a ∧ a < w.1 + w.2)) →
        d.mem.dram.read a = s.dev.mem.dram.read a)) ∧
  (∀ (s : State) (b : Beat) (i : Image) (j : Job), s.dev.cricket.phase = .run → s.dev.cricket.cur = some b →
    b.switchBeat = false → b.image = some i → b.code = none → b.complete.isSome = true → (∀ c ∈ b.successes, c < 0x10) →
    s.dev.cricket.stops = [] → s.dev.host.jobs.find? (fun x => x.fn == b.fn && x.job == b.job) = some j →
    ∃ d, exec .issueClose s = .next ⟨s.pending, d⟩ ∧
      (j.left = 0xFFFFFFFF → { j with lastBeat := b.n } ∈ d.host.jobs) ∧
      (1 < j.left → j.left ≠ 0xFFFFFFFF → { j with lastBeat := b.n, left := j.left - 1 } ∈ d.host.jobs) ∧
      (∀ st, j.left ≤ 1 → j.script[j.step + 1]? = some st →
        { j with lastBeat := b.n, step := j.step + 1, left := st.count } ∈ d.host.jobs) ∧
      (j.left ≤ 1 → j.script[j.step + 1]? = none →
        (j.fn, ⟨j.job, 0, 1, 0, s.dev.beatNum, b.n⟩) ∈ d.host.done ∧
        ∀ x ∈ d.host.jobs, ¬(x.fn = j.fn ∧ x.job = j.job)))

/-- R65, R70-R72: at tick 20 the record of the beat enters the status ring at STATHEAD, which advances, and no other byte of
memory changes; LASTSTAT, LASTCODE and the failure counters follow its code; the rings that are on are read. -/
def Obligations.BeatIsRecorded : Prop :=
  (∀ (s : State) (b : Beat), s.dev.cricket.phase = .closed → s.dev.cricket.cur = some b → s.dev.hive.rows = [] →
    0 < s.dev.num CKT.STATSIZE → s.dev.num64 CKT.STATRING + 64 * s.dev.num CKT.STATSIZE + 4 ≤ memTop →
    ∃ d, exec .beatMarker s = .next ⟨s.pending, d⟩ ∧ d.cricket.phase = .marked ∧ d.host.fetching = s.dev.ringsOn ∧
      d.num CKT.STATHEAD = (s.dev.num CKT.STATHEAD % s.dev.num CKT.STATSIZE + 1) % s.dev.num CKT.STATSIZE ∧
      leNat (d.mem.dram.readN (s.dev.num64 CKT.STATRING + 64 * (s.dev.num CKT.STATHEAD % s.dev.num CKT.STATSIZE)) 8) =
        b.n % 2 ^ 64 ∧
      leNat (d.mem.dram.readN (s.dev.num64 CKT.STATRING + 64 * (s.dev.num CKT.STATHEAD % s.dev.num CKT.STATSIZE) + 8) 1) =
        b.finalCode % 256 ∧
      leNat (d.mem.dram.readN (s.dev.num64 CKT.STATRING + 64 * (s.dev.num CKT.STATHEAD % s.dev.num CKT.STATSIZE) + 0x1C) 2) =
        (if 0x10 ≤ b.finalCode then b.faultBlock % 65536 else 0) ∧
      (∀ a, ¬(s.dev.num64 CKT.STATRING + 64 * (s.dev.num CKT.STATHEAD % s.dev.num CKT.STATSIZE) ≤ a ∧
          a < s.dev.num64 CKT.STATRING + 64 * (s.dev.num CKT.STATHEAD % s.dev.num CKT.STATSIZE) + 64) →
        d.mem.dram.read a = s.dev.mem.dram.read a) ∧
      d.num CKT.LASTSTAT = (b.finalCode + 256 * b.kindByte + 65536 * (b.image.map Image.variant).getD 0) % 2 ^ 32 ∧
      d.fld (oStatus CKT.page) 15 8 = b.finalCode % 256 ∧ d.num CKT.RUNTICKS = s.dev.runTicks b % 2 ^ 32 ∧
      d.num CKT.FAILCNT = (if 0x10 ≤ b.finalCode then min (s.dev.num CKT.FAILCNT + 1) 0xFFFFFFFF else s.dev.num CKT.FAILCNT) ∧
      d.num CKT.EMPTYCNT = (if b.image = none then min (s.dev.num CKT.EMPTYCNT + 1) 0xFFFFFFFF else s.dev.num CKT.EMPTYCNT))

/-- R367, R368, R372: the ring fetch of a function takes at most 64 descriptors from its SQHEAD on, advances SQHEAD and counts
them; with completions held it takes none; a PCIe error stops the rings. At the post the completions that the function's
ring has room for are written and counted, and its message goes out. -/
def Obligations.HostRings : Prop :=
  (∀ (s : State) (fn : Fin 16) (tl hd : Word) (ds : List (List Byte)), fn.val ∈ s.dev.host.fetching →
    s.dev.cricket.phase = .marked → (∀ h ∈ s.dev.host.held, h.1 ≠ fn.val) → (∀ e ∈ s.dev.host.fetched, jobInvalid e.2 = false) →
    (∀ x ∈ ds, jobInvalid (padTo 64 0#8 x) = false) →
    ∃ d n, exec (.ringFetchReturn fn (.fetched tl hd ds)) s = .next ⟨s.pending, d⟩ ∧
      n = min (min (tl - s.dev.host.sqHead.get zeroWord fn).toNat 64) ds.length ∧
      d.host.fetched = s.dev.host.fetched ++ (ds.take n).map (fun x => (fn.val, padTo 64 0#8 x)) ∧
      d.host.sqHead.get zeroWord fn = s.dev.host.sqHead.get zeroWord fn + BitVec.ofNat 32 n ∧
      d.host.cqHead.get zeroWord fn = hd ∧ fn.val ∉ d.host.fetching ∧
      d.num HST.FETCHCNT = min (s.dev.num HST.FETCHCNT + n) 0xFFFFFFFF ∧
      d.host.out = s.dev.host.out ++
        [⟨fn, s.dev.controlBlock fn + 4, leBytes 4 (s.dev.host.sqHead.get zeroWord fn + BitVec.ofNat 32 n).toNat⟩] ∧
      s.dev.RegsBut [HST.FETCHCNT] d ∧ s.dev.KeepsBut [.regs, .host] d) ∧
  (∀ (s : State) (fn : Fin 16) (tl hd : Word) (ds : List (List Byte)), fn.val ∈ s.dev.host.fetching →
    (∃ h ∈ s.dev.host.held, h.1 = fn.val) →
    ∃ d, exec (.ringFetchReturn fn (.fetched tl hd ds)) s = .next ⟨s.pending, d⟩ ∧ d.host.fetched = s.dev.host.fetched ∧
      d.host.sqHead = s.dev.host.sqHead ∧ d.host.cqHead.get zeroWord fn = hd ∧ d.regs = s.dev.regs) ∧
  (∀ (s : State) (fn : Fin 16), fn.val ∈ s.dev.host.fetching →
    ∃ d, exec (.ringFetchReturn fn .error) s = .next ⟨s.pending, d⟩ ∧ d.ringOn fn = false ∧
      d.flag (oErrsum HST.page) 8 = true ∧ d.host.fetched = s.dev.host.fetched) ∧
  (∀ (s : State) (fn : Fin 16) (c : Completion), s.dev.cricket.phase = .voted → s.dev.host.done = [(fn.val, c)] →
    s.dev.host.held = [] → s.dev.ringOn fn = true →
    (s.dev.host.cqTail.get zeroWord fn - s.dev.host.cqHead.get zeroWord fn).toNat < s.dev.cqSize fn →
    s.dev.msixMasked fn 0 = false →
    ∃ d, exec .completionPost s = .next ⟨s.pending, d⟩ ∧ d.cricket.phase = .posted ∧ d.host.done = [] ∧ d.host.held = [] ∧
      d.host.cqTail.get zeroWord fn = s.dev.host.cqTail.get zeroWord fn + 1#32 ∧
      d.host.out = s.dev.host.out ++
        [⟨fn, s.dev.cqBase fn + 32 * ((s.dev.host.cqTail.get zeroWord fn).toNat % s.dev.cqSize fn), c.bytes⟩,
         ⟨fn, s.dev.controlBlock fn + 8, leBytes 4 (s.dev.host.cqTail.get zeroWord fn + 1#32).toNat⟩] ∧
      d.num HST.CPLCNT = min (s.dev.num HST.CPLCNT + 1) 0xFFFFFFFF ∧
      d.host.msix.length = s.dev.host.msix.length + 1) ∧
  (∀ (s : State) (fn : Fin 16) (c : Completion), s.dev.cricket.phase = .voted → s.dev.host.done = [(fn.val, c)] →
    s.dev.host.held = [] →
    (s.dev.ringOn fn = false ∨
      s.dev.cqSize fn ≤ (s.dev.host.cqTail.get zeroWord fn - s.dev.host.cqHead.get zeroWord fn).toNat) →
    ∃ d, exec .completionPost s = .next ⟨s.pending, d⟩ ∧ d.cricket.phase = .posted ∧ d.host.done = [] ∧
      d.host.held = [(fn.val, c)] ∧ d.host.out = s.dev.host.out ∧
      (s.dev.ringOn fn = true → d.flag (oErrsum HST.page) 9 = true))

/-- R61, R62, R371: with one candidate of the resident tenancy and no switch, admission admits what the seven checks let
through, and refuses the job with the first code that applies otherwise. -/
def Obligations.AdmissionDecides : Prop :=
  ∀ (s : State) (j : Job), s.dev.cricket.phase = .marked → s.dev.host.fetched = [] → s.dev.host.waiting = [] →
    s.dev.hive.switching = none → s.dev.hive.request = none → s.dev.hive.badLoad = [] →
    s.dev.flag HIV.SCHEDCTRL 0 = false → s.dev.gridStops = false → s.dev.host.jobs = [j] →
    j.fn = s.dev.resident → s.dev.heldBack j ((s.dev.beatNum + 1) % 2 ^ 64) = false →
    (∀ x, s.dev.judgeJob j ((s.dev.beatNum + 1) % 2 ^ 64) = .ok x → x.image.passKind ≠ 3 →
      ∃ d, exec .admission s = .next ⟨s.pending, d⟩ ∧ d.cricket.phase = .admitted ∧ d.cricket.next = some x ∧
        d.host.jobs = [{ j with admitted := true }] ∧ d.mem.dram = s.dev.mem.dram) ∧
    (∀ c, s.dev.judgeJob j ((s.dev.beatNum + 1) % 2 ^ 64) = .error c →
      ∃ d, exec .admission s = .next ⟨s.pending, d⟩ ∧ d.cricket.phase = .admitted ∧ d.cricket.next = none ∧
        d.host.jobs = [] ∧ d.host.done = s.dev.host.done ++ [(j.fn, ⟨j.job, c, 1, 0, s.dev.beatNum, j.lastBeat⟩)] ∧
        d.flag (oErrsum CKT.page) 11 = true ∧ d.mem.dram = s.dev.mem.dram)

/-- R54, R56, R41, R294: at B(n + 1) the beat that admission chose begins with BEATNUM and SYSTIME there, empty where none was
chosen; a HOLD that came late fails it with LINK_TIMEOUT; with ENABLE = 0 in effect no beat begins. -/
def Obligations.BeatBegins : Prop :=
  (∀ s : State, s.dev.cricket.phase = .posted → s.dev.gridStops = false → s.dev.hive.switching = none →
    s.dev.hive.switchTo = none →
    ∃ d b, exec .beatStart s = .next ⟨s.pending, d⟩ ∧ d.cricket.phase = .run ∧ d.cricket.cur = some b ∧
      d.cricket.next = none ∧ b.n = (s.dev.beatNum + 1) % 2 ^ 64 ∧ d.beatNum = (s.dev.beatNum + 1) % 2 ^ 64 ∧
      b.issued = 0 ∧ b.dispatched = 0 ∧ b.switchBeat = false ∧
      (s.dev.cricket.next = none → b.image = none ∧ b.code = none) ∧
      (∀ x, s.dev.cricket.next = some x → b.image = some x.image ∧ b.job = x.job ∧ b.fn = x.fn ∧ b.scramble = x.scramble ∧
        b.code = (if x.late = true then some 0x50 else none)) ∧
      (s.dev.clocked = true → s.dev.now ≤ s.dev.beatStartAt ((s.dev.beatNum + 1) % 2 ^ 64) →
        s.dev.beatStartAt ((s.dev.beatNum + 1) % 2 ^ 64) < 2 ^ 64 →
        d.now = s.dev.beatStartAt ((s.dev.beatNum + 1) % 2 ^ 64))) ∧
  (∀ s : State, s.dev.cricket.phase = .posted → (CKT.page, false) ∈ s.dev.enPend → s.dev.inReset CKT.page = false →
    ∃ d, exec .beatStart s = .next ⟨s.pending, d⟩ ∧ d.cricket.phase = .off ∧ d.cricket.cur = none ∧
      d.beatNum = s.dev.beatNum ∧ d.enableInEffect CKT.page = s.dev.enable CKT.page)

/-- R410: the next descriptor of the stream, where its queue has room and its bytes can be read, enters the queue of its engine
under its number, in every cluster that its CLMASK selects; with no room nothing happens. -/
def Obligations.DispatchEnqueues : Prop :=
  (∀ (s : State) (b : Beat) (bs : List Byte) (a : Nat), s.dev.issuing = true → s.dev.cricket.cur = some b →
    s.dev.nextDesc = some (bs, a) → s.dev.roomFor bs = true →
    (∀ k ∈ blocksOf a bs.length, s.dev.blockBad k = false ∧ ¬(s.dev.pinned (256 * k) = true ∧ k ∈ s.dev.mem.pinUE)) →
    ∃ d, exec .descriptorDispatch s = .next ⟨s.pending, d⟩ ∧
      d.cricket.cur = some { b with dispatched := b.dispatched + 1, pos := b.pos + bs.length } ∧
      d.mem.dram = s.dev.mem.dram ∧
      d.massif.queue = s.dev.massif.queue ++ (if engineOf bs = 0x0F then [⟨bs, b.dispatched⟩] else []) ∧
      d.weevil.queue = s.dev.weevil.queue ++ (if engineOf bs = 0x11 then [⟨bs, b.dispatched⟩] else []) ∧
      d.col.queue = s.dev.col.queue ++ (if engineOf bs = 0x10 then [⟨bs, b.dispatched⟩] else []) ∧
      d.stag.queue = s.dev.stag.queue ++ (if engineOf bs = 0x0E then [⟨bs, b.dispatched⟩] else []) ∧
      d.mem.copyQ = s.dev.mem.copyQ ++ (if engineOf bs = 0x0C then [⟨bs, b.dispatched⟩] else []) ∧
      (engineOf bs = 0x0A → d.forager.queue = s.dev.forager.queue ++ [⟨bs, b.dispatched⟩]) ∧
      (∀ k, k < 64 → (d.scb k).queue = (s.dev.scb k).queue ++
        (if engineOf bs = 0x12 ∧ k ∈ queueClusters bs then [⟨bs, b.dispatched⟩] else [])) ∧
      (∀ k, k < 64 → (d.tls k).queue = (s.dev.tls k).queue ++
        (if engineOf bs = 0x13 ∧ k ∈ queueClusters bs then [⟨bs, b.dispatched⟩] else []))) ∧
  (∀ (s : State) (bs : List Byte) (a : Nat), s.dev.nextDesc = some (bs, a) → s.dev.roomFor bs = false →
    exec .descriptorDispatch s = .next s)

/-! ### Job descriptors (18) -/

/-- R369, R370: the descriptor at the head of a function's fetched ones, met by no gate: RUN enters the jobs, CANCEL ends a job
with ABORTED, IMGREG enters the registrations, IMGDEREG takes an image out of the table; a RUN with a reserved field or a
JOB in use is refused with BAD_DESCRIPTOR. R60: a registration whose checks pass enters the image in the table and completes with OK; one that fails leaves the table
as it is, completes with its code and sets ERRSUM; the bytes of memory do not change, but for a pinned line whose uncorrectable error
the registration meets (R211). -/
def Obligations.JobsAndImages : Prop :=
  ((∀ (s : State) (fn : Fin 16) (b : List Byte), s.dev.headJob fn (fun x => jType x == 1) = some b → s.dev.jobGate b = none →
    jobReservedBad fn b = false → s.dev.jobNamed (BitVec.ofNat 32 (jJob b)) = false → jAddr b % 64 = 0 →
    s.dev.inRegion fn (jAddr b) (8 * jArg b) = true → (s.dev.quietRead (jAddr b) (8 * jArg b)).1 = false →
    scriptBad (s.dev.mem.dram.readN (jAddr b) (8 * jArg b)) (jArg b) = false →
    s.dev.scriptMode (bit (jdFlags b) 0) (scriptSteps (s.dev.mem.dram.readN (jAddr b) (8 * jArg b)) (jArg b)) = false →
    ∃ d lb, exec (.run fn) s = .next ⟨s.pending, d⟩ ∧ d.host.seq = s.dev.host.seq + 1 ∧
      (if activeOf s.dev.host.jobs fn < 16 ∧ activeOf s.dev.host.waiting fn = 0 then
        d.host.jobs = s.dev.host.jobs ++ [⟨s.dev.host.seq, fn, bit (jdFlags b) 0, BitVec.ofNat 32 (jJob b),
          scriptSteps (s.dev.mem.dram.readN (jAddr b) (8 * jArg b)) (jArg b), 0,
          ((scriptSteps (s.dev.mem.dram.readN (jAddr b) (8 * jArg b)) (jArg b)).head?.map (fun st => st.count)).getD 0, lb,
          false⟩]
       else d.host.jobs = s.dev.host.jobs ∧ d.host.waiting.length = s.dev.host.waiting.length + 1) ∧
      d.mem.dram = s.dev.mem.dram) ∧
  (∀ (s : State) (fn : Fin 16) (b : List Byte), s.dev.headJob fn (fun x => jType x == 1) = some b → s.dev.jobGate b = none →
    (jobReservedBad fn b = true ∨ s.dev.jobNamed (BitVec.ofNat 32 (jJob b)) = true) →
    ∃ d info, exec (.run fn) s = .next ⟨s.pending, d⟩ ∧ d.host.jobs = s.dev.host.jobs ∧
      (fn.val, ⟨BitVec.ofNat 32 (jJob b), 0x10, 1, 0, s.dev.beatNum, info⟩) ∈ d.host.done) ∧
  (∀ (s : State) (fn : Fin 16) (b : List Byte) (j : Job), s.dev.headJob fn (fun x => jType x == 2) = some b →
    s.dev.jobGate b = none → jobReservedBad fn b = false →
    (s.dev.host.jobs ++ s.dev.host.waiting).find? (fun x => x.fn == fn.val && x.job == BitVec.ofNat 32 (jArg b)) = some j →
    ∃ d, exec (.cancel fn) s = .next ⟨s.pending, d⟩ ∧
      d.host.jobs = s.dev.host.jobs.filter (fun x => !(x.fn == j.fn && x.job == j.job)) ∧
      (j.fn, ⟨j.job, 0x24, 1, 0, s.dev.beatNum, j.lastBeat⟩) ∈ d.host.done ∧
      (fn.val, ⟨BitVec.ofNat 32 (jJob b), 0, 2, 0, s.dev.beatNum, 0⟩) ∈ d.host.done) ∧
  (∀ (s : State) (fn : Fin 16) (b : List Byte), s.dev.headJob fn (fun x => jType x == 3) = some b → s.dev.jobGate b = none →
    jobReservedBad fn b = false → s.dev.indexUsed (jImage b) = false → jAddr b % 64 = 0 →
    s.dev.inRegion fn (jAddr b) 256 = true →
    ∃ d, exec (.imgreg fn) s = .next ⟨s.pending, d⟩ ∧
      d.host.regs = s.dev.host.regs ++ [⟨fn, jImage b, bit (jdFlags b) 1, BitVec.ofNat 32 (jJob b), jAddr b⟩]) ∧
  (∀ (s : State) (fn : Fin 16) (b : List Byte) (i : Image), s.dev.headJob fn (fun x => jType x == 4) = some b →
    s.dev.jobGate b = none → jobReservedBad fn b = false → s.dev.imageAt (jImage b) = some i → i.owner = fn.val →
    ∃ d, exec (.imgdereg fn) s = .next ⟨s.pending, d⟩ ∧ d.imageAt (jImage b) = none ∧
      d.num CKT.IMGCOUNT = d.cricket.images.length % 2 ^ 32 ∧
      (∀ k x, k ≠ jImage b → s.dev.imageAt k = some x → x.subst ≠ some (jImage b) → d.imageAt k = some x) ∧
      (fn.val, ⟨BitVec.ofNat 32 (jJob b), 0, 4, jImage b, s.dev.beatNum, 0⟩) ∈ d.host.done)) ∧
  (∀ (s : State) (r : ImgReg) (rest : List ImgReg), s.dev.host.regs = r :: rest →
    ∃ d, exec .imageRegistrationDone s = .next ⟨s.pending, d⟩ ∧ d.host.regs = rest ∧
      (∀ a, a / 256 ∉ s.dev.mem.pinUE → d.mem.dram.read a = s.dev.mem.dram.read a) ∧
      (∀ i, (s.dev.checkImage r).1 = .ok i → d.cricket.images = s.dev.cricket.images ++ [i] ∧ i.index = r.index ∧
        i.owner = r.fn ∧ d.host.done = s.dev.host.done ++ [(r.fn, ⟨r.job, 0, 3, r.index, s.dev.beatNum, 0⟩)]) ∧
      (∀ c, (s.dev.checkImage r).1 = .error c → d.cricket = s.dev.cricket ∧ d.flag (oErrsum CKT.page) 11 = true ∧
        d.host.done = s.dev.host.done ++ [(r.fn, ⟨r.job, c, 3, r.index, s.dev.beatNum, 0⟩)]))

/-! ### The Massif (04, 05, 06, 08, 09) -/

/-- R84, R85, R88, R91, R94, R98, R173, R179, R181, R182, R190-R192, R202: a Massif descriptor at the head of its queue that
passes its checks, whose wait is satisfied and that nothing before it holds back begins and leaves the queue; one that fails
a check fails the beat with the check's code and sets DESCFAULT and LASTOP on its partitions; one whose wait is not satisfied
changes nothing. A CROPRESIZE reads its box list first, an ATTN or KVAPPEND its sequence list and page directory. R81, R82, R86, R89, R98, R124, R126-R129, R140, R175, R177, R181, R183: a wave begins in the banks of its tiles, which
become ACTIVE; at the end of its fold each bank holds the folded (or pooled, or resampled) tile, HELD with KEEP and FULL
without, and an operation that writes nothing out is done with it (R94); the exit takes a FULL bank, and the bank is FREE when the tile's rows stand in memory or the tile stands in its
ring slot; the operation whose last tile is out completes and its signal is applied. -/
def Obligations.MassifRuns : Prop :=
  ((∀ (s : State) (c : Instr) (q : QDesc) (op : Nat) (own : Option Nat) (fence : Bool), s.dev.issuing = true →
    s.dev.massifHead op = some q →
    ((c = .matmul ∧ op = 1 ∧ own = s.dev.mmCheck q.bytes 0 ∧ fence = mFence q.bytes) ∨
      (c = .flankmm ∧ op = 2 ∧ own = s.dev.flankCheck q.bytes ∧
        fence = (mFence (half q.bytes 0) || mFence (half q.bytes 1))) ∨
      (c = .conv ∧ op = 0x10 ∧ own = s.dev.swCheck q.bytes (convBad1 q.bytes) ∧ fence = mFence q.bytes) ∨
      (c = .pool ∧ op = 0x11 ∧ own = s.dev.swCheck q.bytes (poolBad1 q.bytes) ∧ fence = mFence q.bytes)) →
    (s.dev.headCode q.bytes own = none → s.dev.waitOk q.bytes = true → s.dev.mayStart fence = true →
      ∃ d, exec c s = .next ⟨s.pending, d⟩ ∧ d.massif.queue = s.dev.massif.queue.drop 1 ∧
        d.massif.op = some ⟨q, s.dev.massif.seq, List.replicate (flanksOf q.bytes) 0,
          List.replicate (flanksOf q.bytes) none, exitsOf q.bytes, 0, 0, false⟩ ∧ d.massif.seq = s.dev.massif.seq + 1 ∧
        s.dev.Issued d ∧ d.massif.banks = s.dev.massif.banks ∧ d.massif.store = s.dev.massif.store ∧
        s.dev.KeepsBut [.cricket, .massif, .weevil] d) ∧
    (s.dev.headCode q.bytes own = none → s.dev.waitOk q.bytes = false → exec c s = .next s) ∧
    (∀ (x : Nat) (ps : List Nat), s.dev.headCode q.bytes own = some x →
      ps = (if op = 2 ∨ 8 < mGrid q.bytes then [0, 1, 2, 3] else (regionOf (mGrid q.bytes)).parts) →
      ∃ d, exec c s = .next ⟨s.pending, d⟩ ∧ d.massif.queue = s.dev.massif.queue.drop 1 ∧ d.massif.op = none ∧
        s.dev.FailedWith d x (blockName .msf (ps.headD 0)) 0 ∧
        (∀ p ∈ ps, d.flag (oErrsum (MSF.page p)) 11 = true ∧ d.num (MSF.LASTOP p) = (op + 256 * x) % 2 ^ 32) ∧
        (∀ a, s.dev.Outside a → d.mem.dram.read a = s.dev.mem.dram.read a))) ∧
  (∀ (s : State) (q : QDesc), s.dev.issuing = true → s.dev.massifHead 4 = some q →
    s.dev.headCode q.bytes (if syncBad q.bytes then some 0x10 else none) = none → s.dev.waitOk q.bytes = true →
    s.dev.massif.unwritten = [] →
    ∃ d, exec .sync s = .next ⟨s.pending, d⟩ ∧ d.massif = { s.dev.massif with queue := s.dev.massif.queue.drop 1 } ∧
      s.dev.Issued d ∧ s.dev.Signalled q.bytes d ∧ s.dev.KeepsBut [.regs, .cricket, .massif] d) ∧
  (∀ (s : State) (q : QDesc), s.dev.issuing = true → s.dev.massifHead 0x12 = some q →
    s.dev.headCode q.bytes (s.dev.swCheck q.bytes (cropBad1 q.bytes)) = none → s.dev.waitOk q.bytes = true →
    s.dev.mayStart (mFence q.bytes) = true → s.dev.Clean (swWaddr q.bytes) (32 * cNbox q.bytes) →
    (firstBadBox (cNimg q.bytes) (cNbox q.bytes) (s.dev.mem.dram.readN (swWaddr q.bytes) (32 * cNbox q.bytes)) = none →
      ∃ d o, exec .cropresize s = .next ⟨s.pending, d⟩ ∧ d.massif.queue = s.dev.massif.queue.drop 1 ∧
        d.massif.op = some o ∧ o.number = s.dev.massif.seq ∧ d.massif.seq = s.dev.massif.seq + 1 ∧
        o.desc = ⟨padTo 192 0#8 q.bytes ++ s.dev.mem.dram.readN (swWaddr q.bytes) (32 * cNbox q.bytes), q.idx⟩ ∧
        s.dev.Issued d ∧ d.mem.dram = s.dev.mem.dram) ∧
    (∀ i, firstBadBox (cNimg q.bytes) (cNbox q.bytes) (s.dev.mem.dram.readN (swWaddr q.bytes) (32 * cNbox q.bytes)) = some i →
      ∃ d, exec .cropresize s = .next ⟨s.pending, d⟩ ∧ d.massif.queue = s.dev.massif.queue.drop 1 ∧
        s.dev.FailedWith d 0x10 (blockName .msf ((regionOf (mGrid q.bytes)).parts.headD 0)) (swWaddr q.bytes + 32 * i))) ∧
  (∀ (s : State) (c : Instr) (q : QDesc) (op : Nat) (l : List Byte), s.dev.issuing = true →
    ((c = .attn ∧ op = 0x20) ∨ (c = .kvappend ∧ op = 0x21)) → s.dev.massifHead op = some q →
    s.dev.headCode q.bytes (s.dev.kvCheck q.bytes) = none → s.dev.waitOk q.bytes = true →
    s.dev.mayStart (mFence q.bytes) = true → (op = 0x20 → s.dev.col.run = none) → s.dev.Clean (aList q.bytes) (32 * aNseq q.bytes) →
    l = s.dev.mem.dram.readN (aList q.bytes) (32 * aNseq q.bytes) →
    (s.dev.listCheck q.bytes l (aNseq q.bytes) 0 0 = none →
      s.dev.badFrame q.bytes ((List.range (aNseq q.bytes)).map (attEntry l)) = none →
      ∃ d o b b', exec c s = .next ⟨s.pending, d⟩ ∧ d.massif.queue = s.dev.massif.queue.drop 1 ∧
        d.massif.unwritten = s.dev.massif.unwritten ++ [o] ∧ o.desc = q ∧ o.number = s.dev.massif.seq ∧ o.exits = 0 ∧
        d.massif.seq = s.dev.massif.seq + 1 ∧ d.massif.banks = s.dev.massif.banks ∧ s.dev.cricket.cur = some b ∧
        d.cricket.cur = some b' ∧ b'.issued = b.issued + 1) ∧
    (∀ f, s.dev.listCheck q.bytes l (aNseq q.bytes) 0 0 = some f →
      ∃ d, exec c s = .next ⟨s.pending, d⟩ ∧ d.massif.queue = s.dev.massif.queue.drop 1 ∧
        s.dev.FailedWith d f.2 (blockName .msf ((regionOf (mGrid q.bytes)).parts.headD 0)) (aList q.bytes + 32 * f.1)) ∧
    (∀ a, s.dev.listCheck q.bytes l (aNseq q.bytes) 0 0 = none →
      s.dev.badFrame q.bytes ((List.range (aNseq q.bytes)).map (attEntry l)) = some a →
      ∃ d, exec c s = .next ⟨s.pending, d⟩ ∧ d.massif.queue = s.dev.massif.queue.drop 1 ∧
        s.dev.FailedWith d 0x12 (blockName .msf ((regionOf (mGrid q.bytes)).parts.headD 0)) a))) ∧
  ((∀ (s : State) (f : Fin 2) (o : MassifOp) (g : Geo) (w : Nat), s.dev.running = true → s.dev.massif.op = some o →
    g = geoOf o.desc.bytes f → w = o.waves.getD f 0 → f.val < o.waves.length → w < g.w → o.folding.getD f none = none →
    (opcodeOf o.desc.bytes = 0x10 → o.group < o.fetched) →
    (∀ t ∈ g.tiles w, ∀ k, k < g.s →
      s.dev.chooseBank (g.cellOf k t.1 t.2) t.1 t.2 (startOf o.desc.bytes f == 2 && !isWindow o.desc.bytes)
        (isFp64 o.desc.bytes f) ≠ none) →
    ∃ d, exec (.waveBegin f) s = .next ⟨s.pending, d⟩ ∧
      d.massif.op = some { o with waves := o.waves.set f (w + 1), folding := o.folding.set f (some w) } ∧
      (∀ t ∈ g.tiles w, ∀ k, k < g.s → ∃ b, b < 2 ∧ (d.bank (g.cellOf k t.1 t.2) b).state = .active ∧
        (d.bank (g.cellOf k t.1 t.2) b).tileR = t.1 ∧ (d.bank (g.cellOf k t.1 t.2) b).tileC = colOfOp o g t.2 ∧
        (d.bank (g.cellOf k t.1 t.2) b).op = o.number ∧ (d.bank (g.cellOf k t.1 t.2) b).flank = f.val) ∧
      (∀ x b, b < 2 → (∀ t ∈ g.tiles w, ∀ k, k < g.s → x ≠ g.cellOf k t.1 t.2) → d.bank x b = s.dev.bank x b)) ∧
  (∀ (s : State) (o : MassifOp), s.dev.running = true → s.dev.massif.op = some o → opcodeOf o.desc.bytes = 0x10 →
    o.fetched ≤ o.group → s.dev.col.run = none →
    ∃ d, exec .windowFetchEnd s = .next ⟨s.pending, d⟩ ∧ d.massif.op = some { o with fetched := o.fetched + 1 } ∧
      d.massif.banks = s.dev.massif.banks ∧ d.massif.queue = s.dev.massif.queue) ∧
  (∀ (s : State) (f : Fin 2) (o : MassifOp) (g : Geo) (w : Nat) (win : Bool), s.dev.running = true →
    s.dev.massif.op = some o → g = geoOf o.desc.bytes f → o.folding.getD f none = some w →
    win = decide (opcodeOf o.desc.bytes = 0x11 ∨ opcodeOf o.desc.bytes = 0x12) →
    (win = true → s.dev.col.run = none) →
    ∃ d, exec (.waveFoldEnd f) s = .next ⟨s.pending, d⟩ ∧
      (∀ o', d.massif.op = some o' → o'.number = o.number ∧ o'.folding.getD f none = none) ∧
      (opFolded { o with folding := o.folding.set f none } = true → d.massif.op = none ∧
        (o.exits ≠ 0 → d.massif.unwritten = s.dev.massif.unwritten ++ [{ o with folding := o.folding.set f none }]) ∧
        (o.exits = 0 → d.massif.unwritten = s.dev.massif.unwritten ∧ s.dev.Signalled o.desc.bytes d ∧
          ∀ p ∈ descParts o.desc.bytes, d.num (MSF.OPCOUNT p) = min (s.dev.num (MSF.OPCOUNT p) + 1) 0xFFFFFFFF)) ∧
      (g.s = 1 → isFp64 o.desc.bytes f = false → ∀ t ∈ g.tiles w, ∀ b k,
        s.dev.activeBank (g.cellOf 0 t.1 t.2) o.number t.1 (colOfOp o g t.2) = some b →
        k = (if win then s.dev.windowTile o.desc.bytes g t.1 t.2 (s.dev.bank (g.cellOf 0 t.1 t.2) b)
          else s.dev.foldTile o.desc.bytes f g 0 t.1 t.2 (s.dev.bank (g.cellOf 0 t.1 t.2) b)) →
        d.bank (g.cellOf 0 t.1 t.2) b =
          if keepOf o.desc.bytes f then { k with state := .held } else { reduceBands false g t.1 t.2 k [] with state := .full }) ∧
      (∀ p, p < 4 → d.num64 (MSF.COMPCYC p) = (s.dev.num64 (MSF.COMPCYC p) +
        ((List.range g.s).filter (fun k => (g.tiles w).any (fun t => partOfCell (g.cellOf k t.1 t.2) == p))).foldl
          (fun n k => max n (if win then swTaps o.desc.bytes else g.foldCycles (foldedChunks o.desc.bytes g (g.tiles w) k)
            (opndA o.desc.bytes f).fmt (opndB o.desc.bytes f).fmt)) 0) % 2 ^ 64)) ∧
  (∀ (s : State) (f : Fin 2) (o : MassifOp), s.dev.massif.op = some o → o.folding.getD f none ≠ none →
    (opcodeOf o.desc.bytes = 0x11 ∨ opcodeOf o.desc.bytes = 0x12) → s.dev.col.run ≠ none →
    ∃ d, exec (.waveFoldEnd f) s = .next ⟨s.pending, d⟩ ∧ d.massif = s.dev.massif) ∧
  (∀ (s : State) (x : Fin 4096) (b : Nat) (o : MassifOp) (ex : List Byte), s.dev.running = true →
    s.dev.bankIn x .exiting = none → s.dev.bankIn x .full = some b → s.dev.opOf (s.dev.bank x b).op = some o →
    ex = exitOf o.desc.bytes (s.dev.bank x b).flank → isFp64 o.desc.bytes (s.dev.bank x b).flank = false →
    (xDest ex ≠ 2 → ∃ d, exec (.exitAccept x) s = .next ⟨s.pending, d⟩ ∧
      d.bank x b = { s.dev.bank x b with state := .exiting } ∧ d.weevil = s.dev.weevil) ∧
    (∀ w, xDest ex = 2 → s.dev.ringAccepts o (s.dev.bank x b) (clusterOfCell x) = some w →
      ∃ d, exec (.exitAccept x) s = .next ⟨s.pending, d⟩ ∧ d.bank x b = { s.dev.bank x b with state := .exiting } ∧
        d.wvl (clusterOfCell x) = w) ∧
    (xDest ex = 2 → s.dev.ringAccepts o (s.dev.bank x b) (clusterOfCell x) = none →
      exec (.exitAccept x) s = .next s)) ∧
  (∀ (s : State) (x : Fin 4096) (b : Nat) (k : Bank) (o : MassifOp) (ex : List Byte) (g : Geo), s.dev.running = true →
    s.dev.bankIn x .exiting = some b → k = s.dev.bank x b → s.dev.opOf k.op = some o → ex = exitOf o.desc.bytes k.flank →
    g = geoOf o.desc.bytes k.flank → xDest ex ≠ 2 →
    ∃ d v, exec (.exitWriteEnd x) s = .next ⟨s.pending, d⟩ ∧ (d.bank x b).state = .free ∧
      d.massif.unwritten = s.dev.massif.unwritten.map (fun u =>
        if u.number = k.op then { u with exits := u.exits - 1, ovf := u.ovf || v } else u) ∧
      d.massif.op = s.dev.massif.op.map (fun u =>
        if u.number = k.op then { u with exits := u.exits - 1, ovf := u.ovf || v } else u) ∧
      (∀ row : Nat → Nat × List Byte, xDest ex = 0 → fmtIsMx (xOut ex) = false → fmtBytes (xOut ex) 32 ≤ xOpitch ex →
        (∀ i, row i = (xOaddr ex + (32 * k.tileR + i) * xOpitch ex + fmtBits (xOut ex) *
            (groupOfTile o.desc.bytes k.tileC * g.n + 32 * colInGroup o.desc.bytes k.tileC) / 8,
          packElems (xOut ex) ((convRow (xOut ex) (xSat ex) ((s.dev.tileValues o x k).1.getD i [])).1.take
            (min 32 (g.n - 32 * colInGroup o.desc.bytes k.tileC))))) →
        (∀ i, i < 32 → 32 * k.tileR + i < g.m → s.dev.windowed (row i).1 (row i).2.length = true) →
        (∀ i, i < 32 → 32 * k.tileR + i < g.m → d.mem.dram.readN (row i).1 (row i).2.length = (row i).2) ∧
        (s.dev.massif.storeUE = [] → ∀ a,
          (∀ i, i < 32 → 32 * k.tileR + i < g.m → ¬((row i).1 ≤ a ∧ a < (row i).1 + (row i).2.length)) →
          d.mem.dram.read a = s.dev.mem.dram.read a))) ∧
  (∀ (s : State) (x : Fin 4096) (b : Nat) (k : Bank) (o : MassifOp) (ex : List Byte) (g : Geo), s.dev.running = true →
    s.dev.bankIn x .exiting = some b → k = s.dev.bank x b → s.dev.opOf k.op = some o → ex = exitOf o.desc.bytes k.flank →
    g = geoOf o.desc.bytes k.flank → xDest ex = 2 →
    ∃ d fl, exec (.ringTileDeliver x) s = .next ⟨s.pending, d⟩ ∧ (d.bank x b).state = .free ∧
      d.wvl (clusterOfCell x) = deliverTile (s.dev.wvl (clusterOfCell x))
        (ringTag k.tileR k.tileC (min 32 (g.m - 32 * k.tileR)) (min 32 (g.n - 32 * colInGroup o.desc.bytes k.tileC)) fl
          o.number k.flank)
        (((s.dev.tileValues o x k).1.flatMap (fun r => (convRow 0x20 (xSat ex) r).1)).map (fun n => BitVec.ofNat 32 n)) ∧
      (s.dev.massif.storeUE = [] → d.mem.dram = s.dev.mem.dram)) ∧
  (∀ (s : State) (o : MassifOp), s.dev.running = true → s.dev.massif.unwritten.find? (fun u => u.exits == 0) = some o →
    ∃ d, exec .massifOpComplete s = .next ⟨s.pending, d⟩ ∧
      d.massif.unwritten = s.dev.massif.unwritten.filter (fun u => u.number != o.number) ∧
      (∀ p ∈ descParts o.desc.bytes, d.num (MSF.OPCOUNT p) = min (s.dev.num (MSF.OPCOUNT p) + 1) 0xFFFFFFFF ∧
        d.num (MSF.LASTOP p) = opcodeOf o.desc.bytes + if o.ovf then 0x300 else 0) ∧
      s.dev.Signalled o.desc.bytes d ∧ d.mem = s.dev.mem))

/-! ### Sync objects and windows (02, 04, 06, 07, 18) -/

/-- R93, R100, R365: a write of SIGPORT adds INC to the object of its page that OBJ names, modulo 2 to the 32, and counts in
SIGCOUNT; a write of an object gives it the value. A VF reaches the pages of its grant alone. R35, R99, R147, R168: a window read returns the entry that the index register names and moves the index on; a window
write replaces that entry and moves the index on; both only while the page's CTRL.ENABLE is 0 (a read then returns 0 and a
write is discarded). A write of the low half is kept until the high half's write performs both. A VF has no window. -/
def Obligations.RegisterWindows : Prop :=
  ((∀ (s : State) (r : Requester) (g : Fin 256) (v : Word), requesterIsPf r = true → s.dev.inReset (SYN.page g) = false →
    ∃ d, exec (.sigportWrite r g v) s = .next ⟨s.pending, d⟩ ∧
      d.obj (512 * g + field v.toNat 8 0) = (s.dev.obj (512 * g + field v.toNat 8 0) + field v.toNat 31 16) % 2 ^ 32 ∧
      d.num (SYN.SIGCOUNT g) = min (s.dev.num (SYN.SIGCOUNT g) + 1) 0xFFFFFFFF ∧
      s.dev.RegsBut [SYN.OBJ (512 * g + field v.toNat 8 0), SYN.SIGCOUNT g] d ∧ s.dev.KeepsBut [.regs] d) ∧
  (∀ (s : State) (r : Requester) (o : Fin 131072) (v : Word), requesterIsPf r = true →
    ∃ d, exec (.syncObjectWrite r o v) s = .next ⟨s.pending, d⟩ ∧ d.obj o = v.toNat ∧
      s.dev.RegsBut [SYN.OBJ o] d ∧ s.dev.KeepsBut [.regs] d) ∧
  (∀ (s : State) (vf : Fin 16) (o : Fin 131072) (g : Fin 256) (v : Word) (lo n : Nat), lo = s.dev.fld (HST.SYNGRANT vf) 7 0 →
    n = s.dev.fld (HST.SYNGRANT vf) 15 8 → 1 ≤ vf.val →
    (lo ≤ o.val / 512 → o.val / 512 < lo + n →
      ∃ d, exec (.syncObjectWrite (.vf vf) o v) s = .next ⟨s.pending, d⟩ ∧ d.obj o = v.toNat) ∧
    (¬(lo ≤ o.val / 512 ∧ o.val / 512 < lo + n) → exec (.syncObjectWrite (.vf vf) o v) s = .next s) ∧
    (¬(lo ≤ g.val ∧ g.val < lo + n) → exec (.sigportWrite (.vf vf) g v) s = .next s))) ∧
  ((∀ (s : State) (r : Requester) (p : Fin 4) (x o : Nat), requesterIsPf r = true → x = s.dev.csWinCell p → o = s.dev.csWinOff p →
    s.dev.enableInEffect (MSF.page p) = false → o < storeSize →
    (s.dev.badWords x o 8 = [] → ∃ d, exec (.csdataRead r p .whole) s = .next ⟨s.pending, d⟩ ∧
      d.bus = { s.dev.bus with readData := s.dev.storeBytes x o 8, resp := .ok } ∧
      d.fld (MSF.CSADDR p) 17 0 = (s.dev.fld (MSF.CSADDR p) 17 0 + 8) % 2 ^ 18 ∧ s.dev.RegsBut [MSF.CSADDR p] d ∧
      s.dev.KeepsBut [.regs, .bus] d) ∧
    (s.dev.badWords x o 8 ≠ [] → ∃ d, exec (.csdataRead r p .whole) s = .next ⟨s.pending, d⟩ ∧
      d.bus.readData = List.replicate 8 0#8 ∧ d.flag (oErrsum (MSF.page p)) 8 = true) ∧
    (∀ v : DWord, ∃ d, exec (.csdataWrite r p (.whole v)) s = .next ⟨s.pending, d⟩ ∧
      d.storeBytes x o 8 = leBytes 8 v.toNat ∧
      (∀ a, ¬(storeKey x o ≤ a ∧ a < storeKey x o + 8) → d.massif.store.read a = s.dev.massif.store.read a) ∧
      d.massif.banks = s.dev.massif.banks ∧ storeKey x o ∉ d.massif.storeUE ∧
      d.fld (MSF.CSADDR p) 17 0 = (s.dev.fld (MSF.CSADDR p) 17 0 + 8) % 2 ^ 18 ∧ s.dev.RegsBut [MSF.CSADDR p] d)) ∧
  (∀ (s : State) (r : Requester) (p : Fin 4) (v : DWord), requesterIsPf r = true →
    (s.dev.enableInEffect (MSF.page p) = true ∨ storeSize ≤ s.dev.csWinOff p) →
    exec (.csdataRead r p .whole) s = .next { s with dev := { s.dev with bus := { s.dev.bus with
      readData := List.replicate 8 0#8, resp := .ok } } } ∧
    exec (.csdataWrite r p (.whole v)) s = .next s) ∧
  (∀ (s : State) (r : Requester) (p : Fin 4) (lo hi : Word), requesterIsPf r = true →
    (∃ d, exec (.csdataWrite r p (.half false lo)) s = .next ⟨s.pending, d⟩ ∧
      d.bufferOf r (MSF.CSDATA p) = some lo ∧ s.dev.KeepsBut [.bus] d) ∧
    (s.dev.bufferOf r (MSF.CSDATA p) = some lo → s.dev.enableInEffect (MSF.page p) = false →
      s.dev.csWinOff p < storeSize →
      ∃ d, exec (.csdataWrite r p (.half true hi)) s = .next ⟨s.pending, d⟩ ∧
        d.storeBytes (s.dev.csWinCell p) (s.dev.csWinOff p) 8 = leBytes 8 (lo.toNat + 2 ^ 32 * hi.toNat) ∧
        d.bufferOf r (MSF.CSDATA p) = none)) ∧
  (∀ (s : State) (r : Requester) (k : Fin 64) (i : Nat), requesterIsPf r = true → i = s.dev.fld (WVL.PWLINDEX k) 7 0 →
    s.dev.enableInEffect (WVL.page k) = false →
    (∃ d, exec (.pwldataAccess r k (.read .whole)) s = .next ⟨s.pending, d⟩ ∧
      d.bus.readData = leBytes 8 ((s.dev.wvl k).pwl.get zeroDWord i).toNat ∧
      d.fld (WVL.PWLINDEX k) 7 0 = (i + 1) % 256 ∧ s.dev.RegsBut [WVL.PWLINDEX k] d ∧ s.dev.KeepsBut [.regs, .bus] d) ∧
    (∀ v : DWord, ∃ d, exec (.pwldataAccess r k (.write (.whole v))) s = .next ⟨s.pending, d⟩ ∧
      (d.wvl k).pwl.get zeroDWord i = v ∧ (∀ j, j ≠ i → (d.wvl k).pwl.get zeroDWord j = (s.dev.wvl k).pwl.get zeroDWord j) ∧
      (d.wvl k).treg = (s.dev.wvl k).treg ∧ (∀ j, j ≠ k.val → d.wvl j = s.dev.wvl j) ∧
      d.fld (WVL.PWLINDEX k) 7 0 = (i + 1) % 256 ∧ s.dev.KeepsBut [.regs, .weevil] d)) ∧
  (∀ (s : State) (r : Requester) (k : Fin 64) (n : Nat), requesterIsPf r = true → n = s.dev.trWord k →
    s.dev.enableInEffect (WVL.page k) = false →
    ((s.dev.wvl k).tregUE.contains (2 * n) = false → ∃ d, exec (.trdataAccess r k (.read .whole)) s = .next ⟨s.pending, d⟩ ∧
      d.bus.readData = leBytes 8 (((s.dev.wvl k).treg.get zeroWord (2 * n)).toNat +
        2 ^ 32 * ((s.dev.wvl k).treg.get zeroWord (2 * n + 1)).toNat) ∧
      d.trWord k = (n + 1) % 2 ^ 14 ∧ s.dev.RegsBut [WVL.TRADDR k] d ∧ s.dev.KeepsBut [.regs, .bus] d) ∧
    (∀ v : DWord, ∃ d, exec (.trdataAccess r k (.write (.whole v))) s = .next ⟨s.pending, d⟩ ∧
      (d.wvl k).treg.get zeroWord (2 * n) = loWord v.toNat ∧ (d.wvl k).treg.get zeroWord (2 * n + 1) = hiWord v.toNat ∧
      (∀ j, j ≠ 2 * n → j ≠ 2 * n + 1 → (d.wvl k).treg.get zeroWord j = (s.dev.wvl k).treg.get zeroWord j) ∧
      2 * n ∉ (d.wvl k).tregUE ∧ d.trWord k = (n + 1) % 2 ^ 14 ∧ s.dev.KeepsBut [.regs, .weevil] d)) ∧
  (∀ (s : State) (r : Requester) (k : Fin 64) (e : Nat), requesterIsPf r = true → e = s.dev.fld (SCB.STATINDEX k) 14 0 →
    s.dev.enableInEffect (SCB.page k) = false →
    ((s.dev.scb k).statUE.contains e = false → ∃ d, exec (.statdataAccess r k (.read .whole)) s = .next ⟨s.pending, d⟩ ∧
      d.bus.readData = leBytes 8 ((s.dev.scb k).stat.get zeroDWord e).toNat ∧
      d.fld (SCB.STATINDEX k) 14 0 = (e + 1) % 2 ^ 15 ∧ s.dev.RegsBut [SCB.STATINDEX k] d ∧ s.dev.KeepsBut [.regs, .bus] d) ∧
    (∀ v : DWord, ∃ d, exec (.statdataAccess r k (.write (.whole v))) s = .next ⟨s.pending, d⟩ ∧
      (d.scb k).stat.get zeroDWord e = v ∧ (∀ j, j ≠ e → (d.scb k).stat.get zeroDWord j = (s.dev.scb k).stat.get zeroDWord j) ∧
      e ∉ (d.scb k).statUE ∧ (d.scb k).queue = (s.dev.scb k).queue ∧ d.fld (SCB.STATINDEX k) 14 0 = (e + 1) % 2 ^ 15 ∧
      s.dev.KeepsBut [.regs, .scarab] d)) ∧
  (∀ (s : State) (vf : Fin 16) (k : Fin 64) (p : Fin 4) (v : DWord),
    exec (.csdataWrite (.vf vf) p (.whole v)) s = .next s ∧ exec (.pwldataAccess (.vf vf) k (.write (.whole v))) s = .next s ∧
    exec (.trdataAccess (.vf vf) k (.write (.whole v))) s = .next s ∧
    exec (.statdataAccess (.vf vf) k (.write (.whole v))) s = .next s))

/-! ### Weevil, Col and the copy engine (06, 07, 10) -/

/-- R136, R137: an arithmetic instruction computes every position of register D that the mask lets through from the positions
that its operands' modes name, each result by the instruction's own function of the operands, and no other register word;
WFLAGS takes the flags of the results it wrote. -/
def Obligations.WeevilArithmetic : Prop :=
  ∀ (s : State) (k : Fin 64) (c : Instr) (op i : Nat) (w : Wvl) (A B C : Nat → Nat → FVal) (g : Nat → Nat → FVal × Nat),
    s.dev.WvlReady k op i → w = s.dev.wvl k → A = opnd w i 0 → B = opnd w i 1 → C = opnd w i 2 →
    ((c = .wvlAdd k ∧ op = 0x01 ∧ g = fun x y => judged (fAdd grid32 (A x y) (B x y))) ∨
      (c = .wvlSub k ∧ op = 0x02 ∧ g = fun x y => judged (fAdd grid32 (A x y) (B x y).negate)) ∨
      (c = .wvlMul k ∧ op = 0x03 ∧ g = fun x y => judged (fMul grid32 (A x y) (B x y))) ∨
      (c = .wvlFma k ∧ op = 0x04 ∧ g = fun x y => judged (fFma grid32 (A x y) (B x y) (C x y))) ∨
      (c = .wvlMin k ∧ op = 0x05 ∧ g = fun x y => judged (fMin (A x y) (B x y), false)) ∨
      (c = .wvlMax k ∧ op = 0x06 ∧ g = fun x y => judged (fMax (A x y) (B x y), false)) ∨
      (c = .wvlAbs k ∧ op = 0x07 ∧ g = fun x y => judged ((A x y).abs, false)) ∨
      (c = .wvlNeg k ∧ op = 0x08 ∧ g = fun x y => judged ((A x y).negate, false)) ∨
      (c = .wvlRcp k ∧ op = 0x09 ∧ g = fun x y => judged (crRcp (A x y))) ∨
      (c = .wvlRsqrt k ∧ op = 0x0A ∧ g = fun x y => judged (crRsqrt (A x y))) ∨
      (c = .wvlSqrt k ∧ op = 0x0B ∧ g = fun x y => judged (crSqrt (A x y))) ∨
      (c = .wvlExp k ∧ op = 0x0C ∧ g = fun x y => judged (crExp (A x y))) ∨
      (c = .wvlLog k ∧ op = 0x0D ∧ g = fun x y => judged (crLog (A x y))) ∨
      (c = .wvlAct k ∧ op = 0x0E ∧ g = fun x y => judged (activation (s.dev.pwlOf k) (iImm8 i)
        (val32 (w.word (iB i) 0 (iBidx i))) (val32 (w.word (iC i) 0 (iCidx i))) (A x y), false)) ∨
      (c = .wvlTrn k ∧ op = 0x13 ∧ g = fun x y => judged (val32 (w.word (iA i) y x), false)) ∨
      (c = .wvlRred k ∧ op = 0x14 ∧ g = fun x _ => reduce32 (iSub i) (tabulate 32 (fun y => A x y))) ∨
      (c = .wvlCred k ∧ op = 0x15 ∧ g = fun _ y => reduce32 (iSub i) (tabulate 32 (fun x => A x y))) ∨
      (c = .wvlRint k ∧ op = 0x16 ∧ g = fun x y => judged (roundInt (iSub i) (A x y), false)) ∨
      (c = .wvlCvtw k ∧ op = 0x18 ∧ g = fun x y => judged ((imageVal (iImm8 i) (w.regBytes (iA i)) x y).round grid32))) →
    ∃ d, exec c s = .next ⟨s.pending, d⟩ ∧ s.dev.WvlWentOn k i d ∧
      (∀ e, e < 1024 → (d.wvl k).treg.get zeroWord (1024 * iD i + e) =
        if written w i e then BitVec.ofNat 32 (enc32 (g (e / 32) (e % 32)).1) else w.treg.get zeroWord (1024 * iD i + e)) ∧
      (∀ a, a / 1024 ≠ iD i → (d.wvl k).treg.get zeroWord a = w.treg.get zeroWord a) ∧
      (∀ j, d.flag (WVL.WFLAGS k) j = (s.dev.flag (WVL.WFLAGS k) j ||
        (List.range 1024).any (fun e => written w i e && bit (g (e / 32) (e % 32)).2 j))) ∧
      (d.wvl k).masks = w.masks ∧ (d.wvl k).areg = w.areg ∧ (d.wvl k).tag = w.tag ∧ (d.wvl k).loops = w.loops ∧
      (d.wvl k).ring = w.ring ∧ (∀ j, j ≠ k.val → d.wvl j = s.dev.wvl j) ∧ s.dev.KeepsBut [.regs, .cricket, .weevil] d

/-- R134, R136-R139: MOV and SEL copy bits and judge them, CMP writes a mask register, CVTN packs an image whose rest is 0; LD fills
a register from the ranges that its fields name, ST and STN write those ranges and no other byte; one that R139 refuses fails
the beat without ILLEGAL (R146). -/
def Obligations.WeevilMoves : Prop :=
  (∀ (s : State) (k : Fin 64) (i : Nat) (w : Wvl), w = s.dev.wvl k →
    (s.dev.WvlReady k 0x12 i → ∃ d, exec (.wvlMov k) s = .next ⟨s.pending, d⟩ ∧ s.dev.WvlWentOn k i d ∧
      (∀ e, e < 1024 → (d.wvl k).treg.get zeroWord (1024 * iD i + e) =
        if written w i e then BitVec.ofNat 32 (opndBits w i 0 (e / 32) (e % 32)) else w.treg.get zeroWord (1024 * iD i + e)) ∧
      (∀ a, a / 1024 ≠ iD i → (d.wvl k).treg.get zeroWord a = w.treg.get zeroWord a) ∧
      (∀ j, d.flag (WVL.WFLAGS k) j = (s.dev.flag (WVL.WFLAGS k) j || (List.range 1024).any (fun e =>
        written w i e && bit (infNan (val32 (opndBits w i 0 (e / 32) (e % 32)))) j))) ∧
      s.dev.KeepsBut [.regs, .cricket, .weevil] d) ∧
    (s.dev.WvlReady k 0x11 i → ∃ d, exec (.wvlSel k) s = .next ⟨s.pending, d⟩ ∧ s.dev.WvlWentOn k i d ∧
      (∀ e, e < 1024 → (d.wvl k).treg.get zeroWord (1024 * iD i + e) =
        if written w i e then
          BitVec.ofNat 32 (opndBits w i (if w.mask (iMsel i) (e / 32) (e % 32) then 0 else 1) (e / 32) (e % 32))
        else w.treg.get zeroWord (1024 * iD i + e)) ∧
      (∀ j, d.flag (WVL.WFLAGS k) j = (s.dev.flag (WVL.WFLAGS k) j || (List.range 1024).any (fun e => written w i e &&
        bit (infNan (val32 (opndBits w i (if w.mask (iMsel i) (e / 32) (e % 32) then 0 else 1) (e / 32) (e % 32)))) j))) ∧
      (∀ a, a / 1024 ≠ iD i → (d.wvl k).treg.get zeroWord a = w.treg.get zeroWord a)) ∧
    (s.dev.WvlReady k 0x10 i → ∃ d, exec (.wvlCmp k) s = .next ⟨s.pending, d⟩ ∧ s.dev.WvlWentOn k i d ∧
      (∀ e, e < 1024 → (d.wvl k).mask (iD i % 4) (e / 32) (e % 32) =
        if written w i e then compare (iSub i) (opnd w i 0 (e / 32) (e % 32)) (opnd w i 1 (e / 32) (e % 32))
        else w.mask (iD i % 4) (e / 32) (e % 32)) ∧
      (∀ m x y, m ≠ iD i % 4 → x < 32 → y < 32 → (d.wvl k).mask m x y = w.mask m x y) ∧ (d.wvl k).treg = w.treg) ∧
    (s.dev.WvlReady k 0x19 i → ∃ d, exec (.wvlCvtn k) s = .next ⟨s.pending, d⟩ ∧ s.dev.WvlWentOn k i d ∧
      (∀ e, e < 1024 → (d.wvl k).treg.get zeroWord (1024 * iD i + e) =
        if written w i e then BitVec.ofNat 32 (fieldAt (padTo 4096 0#8 (packImage (iImm8 i) (bit (iSub i) 0)
          (tabulate 32 (fun r => tabulate 32 (fun j => opnd w i 0 r j)))).1) (4 * e) 4)
        else w.treg.get zeroWord (1024 * iD i + e)) ∧
      (∀ a, a / 1024 ≠ iD i → (d.wvl k).treg.get zeroWord a = w.treg.get zeroWord a))) ∧
  (∀ (s : State) (k : Fin 64) (i : Nat) (w : Wvl), w = s.dev.wvl k → s.dev.memBad k i = none →
    (s.dev.WvlReady k 0x20 i → ∃ d, exec (.wvlLd k) s = .next ⟨s.pending, d⟩ ∧ s.dev.WvlWentOn k i d ∧
      (∀ a, a / 1024 ≠ iD i → (d.wvl k).treg.get zeroWord a = w.treg.get zeroWord a) ∧
      (iSpace i = 0 → (∀ r ∈ memRanges w k i, s.dev.Clean r.1 r.2) → d.mem.dram = s.dev.mem.dram ∧
        ((d.wvl k).regBytes (iD i)).take (imageBytes (iFmt i)) =
          (memRanges w k i).flatMap (fun r => s.dev.mem.dram.readN r.1 r.2))) ∧
    (s.dev.WvlReady k 0x21 i → ∃ d, exec (.wvlSt k) s = .next ⟨s.pending, d⟩ ∧ s.dev.WvlWentOn k i d ∧
      (d.wvl k).treg = w.treg ∧
      (iSpace i = 0 → ∀ a, (∀ r ∈ memRanges w k i, ¬(r.1 ≤ a ∧ a < r.1 + r.2)) →
        d.mem.dram.read a = s.dev.mem.dram.read a) ∧
      (iSpace i = 0 → iTagrel i = false → fmtIsMx (iFmt i) = false →
        (∀ x y, x < 32 → y < 32 → x ≠ y → rangesMeet (memRow w k i x) (memRowBytes w i) (memRow w k i y) (memRowBytes w i) = false) →
        ∀ x, x < 32 → d.mem.dram.readN (memRow w k i x) (memRowBytes w i) =
          ((w.regBytes (iD i)).drop (memRowBytes w i * x)).take (memRowBytes w i))) ∧
    (s.dev.WvlReady k 0x22 i → ∃ d, exec (.wvlStn k) s = .next ⟨s.pending, d⟩ ∧ s.dev.WvlWentOn k i d ∧
      (d.wvl k).treg = w.treg ∧
      (iSpace i = 0 → ∀ a, (∀ r ∈ memRanges w k i, ¬(r.1 ≤ a ∧ a < r.1 + r.2)) →
        d.mem.dram.read a = s.dev.mem.dram.read a) ∧
      (iSpace i = 0 → iTagrel i = false → fmtIsMx (iFmt i) = false →
        (∀ x y, x < 32 → y < 32 → x ≠ y → rangesMeet (memRow w k i x) (memRowBytes w i) (memRow w k i y) (memRowBytes w i) = false) →
        ∀ x, x < 32 → d.mem.dram.readN (memRow w k i x) (memRowBytes w i) =
          packElems (iFmt i) ((tabulate 32 (fun y => (convertTo (iFmt i) (val32 (w.word (iD i) x y)) (iSat i)).1)))))) ∧
  (∀ (s : State) (k : Fin 64) (i : Nat) (x : Nat × Nat) (c : Instr) (op : Nat), s.dev.WvlReady k op i →
    ((c = .wvlLd k ∧ op = 0x20) ∨ (c = .wvlSt k ∧ op = 0x21) ∨ (c = .wvlStn k ∧ op = 0x22)) → s.dev.memBad k i = some x →
    ∃ d, exec c s = .next ⟨s.pending, d⟩ ∧ (d.wvl k).run = .idle ∧ s.dev.FailedWith d x.1 (blockName .wvl k) x.2 ∧
      d.flag (oErrsum (WVL.page k)) 8 = s.dev.flag (oErrsum (WVL.page k)) 8 ∧
      (x.1 = 0x12 → iSpace i = 1 → d.flag (oErrsum (TLS.page k)) 10 = true) ∧
      (∀ a, s.dev.Outside a → d.mem.dram.read a = s.dev.mem.dram.read a))

/-- R136, R140, R143: the control instructions. TWAIT takes the next FILLED slot as HELD with its tag, or blocks; TREL frees
the oldest HELD slot; SETA and ADDA write an address register; LOOP opens a level, ENDL repeats or closes it, END ends the
program. A fifth LOOP, an ENDL without a level and an END inside one fail the beat with BAD_DESCRIPTOR. -/
def Obligations.WeevilControl : Prop :=
  ∀ (s : State) (k : Fin 64) (i : Nat) (w : Wvl), w = s.dev.wvl k →
    (s.dev.WvlReady k 0x00 i → ∃ d, exec (.wvlNop k) s = .next ⟨s.pending, d⟩ ∧ s.dev.WvlWentOn k i d ∧
      d.wvl k = { w with pc := (w.pc + 1) % 2048, run := .running } ∧ s.dev.KeepsBut [.regs, .cricket, .weevil] d) ∧
    (s.dev.WvlReady k 0x28 i →
      (∀ j rest, w.ringFill = j :: rest → ∃ d, exec (.wvlTwait k) s = .next ⟨s.pending, d⟩ ∧ s.dev.WvlWentOn k i d ∧
        d.wvl k = { w with
          tag := (w.ring.getD j slotFree).tag
          ring := w.ring.set j { w.ring.getD j slotFree with state := .held }
          ringFill := rest
          ringHeld := w.ringHeld ++ [j]
          pc := (w.pc + 1) % 2048
          run := .running }) ∧
      (w.ringFill = [] → ∃ d, exec (.wvlTwait k) s = .next ⟨s.pending, d⟩ ∧ d.wvl k = { w with run := .blocked } ∧
        d.regs = s.dev.regs)) ∧
    (s.dev.WvlReady k 0x29 i →
      (∀ j rest, w.ringHeld = j :: rest → ∃ d, exec (.wvlTrel k) s = .next ⟨s.pending, d⟩ ∧ s.dev.WvlWentOn k i d ∧
        (d.wvl k).ring = w.ring.set j slotFree ∧ (d.wvl k).ringHeld = rest) ∧
      (w.ringHeld = [] → ∃ d, exec (.wvlTrel k) s = .next ⟨s.pending, d⟩ ∧ s.dev.WvlWentOn k i d ∧
        d.wvl k = { w with pc := (w.pc + 1) % 2048, run := .running })) ∧
    (s.dev.WvlReady k 0x30 i → ∃ d, exec (.wvlSeta k) s = .next ⟨s.pending, d⟩ ∧ s.dev.WvlWentOn k i d ∧
      (iD i % 8 ≠ 7 → (d.wvl k).addr k (iD i % 8) = ofSigned 64 (iOffset i)) ∧
      (∀ a, a ≠ iD i % 8 ∨ a = 7 → (d.wvl k).addr k a = w.addr k a)) ∧
    (s.dev.WvlReady k 0x31 i → ∃ d, exec (.wvlAdda k) s = .next ⟨s.pending, d⟩ ∧ s.dev.WvlWentOn k i d ∧
      (iD i % 8 ≠ 7 → (d.wvl k).addr k (iD i % 8) = ofSigned 64 ((w.addr k (iD i % 8) : Int) + iOffset i)) ∧
      (∀ a, a ≠ iD i % 8 ∨ a = 7 → (d.wvl k).addr k a = w.addr k a)) ∧
    (s.dev.WvlReady k 0x38 i → w.loops.length < 4 → ∃ d, exec (.wvlLoop k) s = .next ⟨s.pending, d⟩ ∧
      s.dev.WvlWentOn k i d ∧ (d.wvl k).loops = ⟨(w.pc + 1) % 2048, iImm16 i⟩ :: w.loops) ∧
    (s.dev.WvlReady k 0x39 i → ∀ l rest, w.loops = l :: rest →
      (l.left = 0 → ∃ d, exec (.wvlEndl k) s = .next ⟨s.pending, d⟩ ∧ s.dev.WvlWentOn k i d ∧ (d.wvl k).loops = rest) ∧
      (l.left ≠ 0 → ∃ d, exec (.wvlEndl k) s = .next ⟨s.pending, d⟩ ∧
        (d.wvl k).loops = { l with left := l.left - 1 } :: rest ∧ (d.wvl k).pc = l.start ∧
        d.num64 (WVL.INSTRCNT k) = (s.dev.num64 (WVL.INSTRCNT k) + 1) % 2 ^ 64)) ∧
    (s.dev.WvlReady k 0x3F i → w.loops = [] → ∃ d, exec (.wvlEnd k) s = .next ⟨s.pending, d⟩ ∧ (d.wvl k).run = .idle ∧
      d.weevil.run = clearMaskBit k s.dev.weevil.run ∧
      d.num64 (WVL.INSTRCNT k) = (s.dev.num64 (WVL.INSTRCNT k) + 1) % 2 ^ 64) ∧
    (∀ c op, s.dev.WvlReady k op i →
      ((c = .wvlLoop k ∧ op = 0x38 ∧ 4 ≤ w.loops.length) ∨ (c = .wvlEndl k ∧ op = 0x39 ∧ w.loops = []) ∨
        (c = .wvlEnd k ∧ op = 0x3F ∧ w.loops ≠ [])) →
      ∃ d, exec c s = .next ⟨s.pending, d⟩ ∧ (d.wvl k).run = .idle ∧ d.flag (oErrsum (WVL.page k)) 8 = true ∧
        s.dev.FailedWith d 0x10 (blockName .wvl k) 0)

/-- R144, R145, R150-R153, R214, R215: WEEVIL_RUN and PWLLOAD load their clusters and count as issued; PLACE, DUAL and COPY
issue when nothing of their engine runs before them; each completes with its bytes in place, and its signal is applied. -/
def Obligations.DescriptorsRun : Prop :=
  (∀ (s : State) (q : QDesc) (bs : List Byte), s.dev.issuing = true → s.dev.waitOk q.bytes = true →
    s.dev.clustersIdle (dClmask q.bytes) = true →
    (s.dev.weevilHead 1 = some q → s.dev.headCode q.bytes (s.dev.weevilBad q.bytes (8 * wNinstr q.bytes)) = none →
      s.dev.Clean (wPaddr q.bytes) (8 * wNinstr q.bytes) →
      bs = s.dev.mem.dram.readN (wPaddr q.bytes) (8 * wNinstr q.bytes) →
      ∃ d, exec .weevilRun s = .next ⟨s.pending, d⟩ ∧ d.weevil.queue = s.dev.weevil.queue.drop 1 ∧
        d.weevil.run = s.dev.weevil.run ++ [(q, dClmask q.bytes)] ∧
        (∀ k, k < 64 → bit (dClmask q.bytes) k = true →
          d.wvl k = startProgram (s.dev.wvl k) q.bytes (dwordsOf bs (wNinstr q.bytes))) ∧
        (∀ k, bit (dClmask q.bytes) k = false → d.wvl k = s.dev.wvl k) ∧ s.dev.Issued d ∧ d.mem.dram = s.dev.mem.dram) ∧
    (s.dev.weevilHead 2 = some q → s.dev.headCode q.bytes (s.dev.weevilBad q.bytes 2048) = none →
      s.dev.Clean (wPaddr q.bytes) 2048 → bs = s.dev.mem.dram.readN (wPaddr q.bytes) 2048 →
      ∃ d, exec .pwlload s = .next ⟨s.pending, d⟩ ∧ d.weevil.queue = s.dev.weevil.queue.drop 1 ∧
        d.weevil.run = s.dev.weevil.run ++ [(q, 0)] ∧
        (∀ k i, k < 64 → i < 256 → bit (dClmask q.bytes) k = true →
          (d.wvl k).pwl.get zeroDWord i = BitVec.ofNat 64 (fieldAt bs (8 * i) 8)) ∧
        (∀ k, bit (dClmask q.bytes) k = false → d.wvl k = s.dev.wvl k) ∧ s.dev.Issued d ∧ d.mem.dram = s.dev.mem.dram)) ∧
  (∀ (s : State) (e : QDesc × Nat), s.dev.running = true → s.dev.weevil.run.find? (fun x => x.2 == 0) = some e →
    ∃ d, exec .weevilDescComplete s = .next ⟨s.pending, d⟩ ∧
      d.weevil = { s.dev.weevil with run := s.dev.weevil.run.filter (fun x => x.1.idx != e.1.idx) } ∧
      (opcodeOf e.1.bytes = 1 → ∀ k, k < 64 → bit (dClmask e.1.bytes) k = true →
        d.num (WVL.RUNCOUNT k) = min (s.dev.num (WVL.RUNCOUNT k) + 1) 0xFFFFFFFF) ∧
      s.dev.Signalled e.1.bytes d ∧ s.dev.KeepsBut [.regs, .cricket, .weevil] d) ∧
  (∀ (s : State) (c : Instr) (op : Nat) (q : QDesc), s.dev.issuing = true → ((c = .place ∧ op = 1) ∨ (c = .dual ∧ op = 2)) →
    s.dev.colHead op = some q →
    (s.dev.headCode q.bytes (s.dev.placeCheck q.bytes) = none → s.dev.waitOk q.bytes = true → s.dev.col.run = none →
      s.dev.fetching = false →
      ∃ d, exec c s = .next ⟨s.pending, d⟩ ∧ d.col = { s.dev.col with queue := s.dev.col.queue.drop 1, run := some q } ∧
        s.dev.Issued d ∧ s.dev.KeepsBut [.cricket, .col] d) ∧
    (∀ x, s.dev.headCode q.bytes (s.dev.placeCheck q.bytes) = some x →
      ∃ d, exec c s = .next ⟨s.pending, d⟩ ∧ d.col = { s.dev.col with queue := s.dev.col.queue.drop 1 } ∧
        s.dev.FailedWith d x (blockName .col ((placeBufs q.bytes).headD 0)) 0 ∧
        (∀ i ∈ placeBufs q.bytes, d.flag (oErrsum (COL.page i)) 10 = true ∧
          d.num (COL.LASTDESC i) = (op + 256 * x) % 2 ^ 32))) ∧
  (∀ (s : State) (q : QDesc), s.dev.running = true → s.dev.col.run = some q →
    ∃ d, exec .colDescComplete s = .next ⟨s.pending, d⟩ ∧ d.col.run = none ∧ d.col.queue = s.dev.col.queue ∧
      s.dev.Signalled q.bytes d ∧ d.massif.banks = s.dev.massif.banks ∧
      (∀ mn k p f, isDual q.bytes = false → s.dev.placeCheck q.bytes = none → s.dev.massif.storeUE = [] →
        fmtIsMx (pDfmt q.bytes) = false → f = pDfmt q.bytes → mn < setMn q.bytes 0 → k < setK q.bytes 0 →
        p = (if setRole q.bytes 0 = 0 then (setGeo q.bytes 0).placeA (mn / 32) k
          else (setGeo q.bytes 0).placeB k (mn / 32)) →
        unpackElem f (d.storeBytes p.1 (setBase q.bytes 0 + fmtBytes f 32 * (setKchunk q.bytes 0 * p.2.1 + p.2.2))
          (fmtBytes f 32)) (mn % 32) = (s.dev.placedElem q.bytes 0 mn k).1)) ∧
  (∀ (s : State) (q : QDesc) (rest : List QDesc), s.dev.issuing = true → s.dev.mem.copyQ = q :: rest →
    (s.dev.headCode q.bytes (s.dev.copyCheck q.bytes) = none → s.dev.waitOk q.bytes = true → s.dev.mem.copyRun = none →
      ∃ d, exec .copy s = .next ⟨s.pending, d⟩ ∧ d.mem = { s.dev.mem with copyQ := rest, copyRun := some q } ∧
        s.dev.Issued d ∧ d.regs = s.dev.regs) ∧
    (∀ x, s.dev.headCode q.bytes (s.dev.copyCheck q.bytes) = some x →
      ∃ d, exec .copy s = .next ⟨s.pending, d⟩ ∧ d.mem.copyQ = rest ∧ s.dev.FailedWith d x (blockName .stk 0) 0)) ∧
  (∀ (s : State) (q : QDesc) (v : List Byte × List Byte × Bool), s.dev.running = true → s.dev.mem.copyRun = some q →
    v = s.dev.copied q.bytes → s.dev.windowed (cpDst q.bytes) v.1.length = true →
    (fmtIsMx (cpDfmt q.bytes) = true → s.dev.windowed (cpDscale q.bytes) v.2.1.length = true ∧
      rangesMeet (cpDst q.bytes) v.1.length (cpDscale q.bytes) v.2.1.length = false) →
    (∀ r ∈ cpReads q.bytes, s.dev.Clean r.1 r.2) →
    ∃ d, exec .copyComplete s = .next ⟨s.pending, d⟩ ∧ d.mem.copyRun = none ∧ d.mem.copyQ = s.dev.mem.copyQ ∧
      d.mem.dram.readN (cpDst q.bytes) v.1.length = v.1 ∧
      (fmtIsMx (cpDfmt q.bytes) = true → d.mem.dram.readN (cpDscale q.bytes) v.2.1.length = v.2.1) ∧
      (∀ a, ¬(cpDst q.bytes ≤ a ∧ a < cpDst q.bytes + v.1.length) →
        (fmtIsMx (cpDfmt q.bytes) = true → ¬(cpDscale q.bytes ≤ a ∧ a < cpDscale q.bytes + v.2.1.length)) →
        d.mem.dram.read a = s.dev.mem.dram.read a) ∧
      (v.2.2 = true → d.flag (oErrsum (STK.page 0)) 12 = true) ∧ s.dev.Signalled q.bytes d)

/-! ### Scarab and Talus (07) -/

/-- R155-R160: a Scarab descriptor at the head of cluster k's queue that passes its checks and whose wait is satisfied is done
there with DEST = 0: it leaves the queue, one cluster fewer is left to it, LASTOP holds its opcode. A forward operation of
one band has written each row's outputs, and each row's statistics where STATEN asks for them. With DEST = 2 it waits for
the ring and fills its next slot. A descriptor that fails its checks, which are made before its tiles begin to fill the ring,
fails the beat. -/
def Obligations.ScarabOperations : Prop :=
  (∀ (s : State) (k : Fin 64) (c : Instr) (op : Nat) (q : QDesc), s.dev.issuing = true → s.dev.scbHead k op = some q →
    ((c = .lnfwd k ∧ op = 0x01) ∨ (c = .rmsfwd k ∧ op = 0x02) ∨ (c = .smfwd k ∧ op = 0x03) ∨ (c = .lnbwd k ∧ op = 0x11) ∨
      (c = .rmsbwd k ∧ op = 0x12) ∨ (c = .smbwd k ∧ op = 0x13) ∨ (c = .bandsum k ∧ op = 0x20) ∨ (c = .statsave k ∧ op = 0x21) ∨
      (c = .statload k ∧ op = 0x22)) →
    (s.dev.headCode q.bytes (s.dev.scbCheck q.bytes) = none → s.dev.waitOk q.bytes = true → (sDest q.bytes ≠ 2 ∨ 0x20 ≤ op) →
      ∃ d, exec c s = .next ⟨s.pending, d⟩ ∧ (d.scb k).queue = (s.dev.scb k).queue.drop 1 ∧
        d.scarab.fin = oneFewer s.dev.scarab.fin q ∧ (d.num (SCB.LASTOP k) = op ∨ d.num (SCB.LASTOP k) = op + 0x300) ∧
        (∀ j, j ≠ k.val → d.scb j = s.dev.scb j)) ∧
    (s.dev.headCode q.bytes (s.dev.scbCheck q.bytes) = none → s.dev.waitOk q.bytes = false → s.dev.scbFilling k = false →
      exec c s = .next s) ∧
    (∀ x, s.dev.headCode q.bytes (s.dev.scbCheck q.bytes) = some x → s.dev.scbFilling k = false →
      ∃ d, exec c s = .next ⟨s.pending, d⟩ ∧ (d.scb k).queue = (s.dev.scb k).queue.drop 1 ∧
        d.num (SCB.LASTOP k) = (op + 256 * x) % 2 ^ 32 ∧ d.flag (oErrsum (SCB.page k)) 10 = true ∧
        s.dev.FailedWith d x (blockName .scb k) 0) ∧
    (s.dev.headCode q.bytes (s.dev.scbCheck q.bytes) = none → s.dev.waitOk q.bytes = true → sDest q.bytes = 2 → op < 0x20 →
      (s.dev.scbRing q.bytes k = none → exec c s = .next s) ∧
      (∀ w t, s.dev.scbRing q.bytes k = some w → (scbTiles q.bytes k)[w.ringNext]? = some t → slotReady w = true →
        ∃ d r, exec c s = .next ⟨s.pending, d⟩ ∧ (d.wvl k).ring[w.ringNext % w.ring.length]? = some r ∧
          r.state = .filled))) ∧
  (∀ (s : State) (k : Fin 64) (c : Instr) (op : Nat) (q : QDesc) (b : List Byte) (x : Nat → List JVal) (g be : List JVal)
      (y : Nat → List JVal × JVal × JVal),
    s.dev.issuing = true → s.dev.scbHead k op = some q → b = q.bytes → s.dev.headCode b (s.dev.scbCheck b) = none →
    s.dev.waitOk b = true → (s.dev.scb k).bufUE = false → sDest b = 0 → sTalus b = false → sRows b ≤ 32 → sPos b k = 0 → 4 * sD b ≤ sOpitch b →
    (∀ r, r < sRows b → s.dev.Clean (sXaddr b + r * sXpitch b) (sE b * sD b) ∧
      s.dev.windowed (sOaddr b + r * sOpitch b) (4 * sD b) = true) →
    (sAffine b = true → s.dev.Clean (sGaddr b) (sE b * sD b) ∧ s.dev.Clean (sBaddr b) (sE b * sD b)) →
    x = (fun r => widen (sXfmt b) (sD b) (s.dev.mem.dram.readN (sXaddr b + r * sXpitch b) (sE b * sD b))) →
    g = (if sAffine b then widen (sXfmt b) (sD b) (s.dev.mem.dram.readN (sGaddr b) (sE b * sD b))
      else List.replicate (sD b) jOne) →
    be = widen (sXfmt b) (sD b) (s.dev.mem.dram.readN (sBaddr b) (sE b * sD b)) →
    ((c = .lnfwd k ∧ op = 0x01 ∧ y = fun r => lnfwd false (sEps b) (x r) g (if sAffine b then some be else none)) ∨
      (c = .rmsfwd k ∧ op = 0x02 ∧ y = fun r => lnfwd true (sEps b) (x r) g (if sAffine b then some be else none)) ∨
      (c = .smfwd k ∧ op = 0x03 ∧ y = fun r => smfwd b r (x r))) →
    ∃ d, exec c s = .next ⟨s.pending, d⟩ ∧
      (∀ r, r < sRows b → d.mem.dram.readN (sOaddr b + r * sOpitch b) (4 * sD b) = jBytes (y r).1) ∧
      (∀ a, (∀ r, r < sRows b → ¬(sOaddr b + r * sOpitch b ≤ a ∧ a < sOaddr b + r * sOpitch b + 4 * sD b)) →
        d.mem.dram.read a = s.dev.mem.dram.read a) ∧
      (sStaten b = true → ∀ r, r < sRows b →
        (d.scb k).stat.get zeroDWord (sStatbase b + r) = statWord (y r).2.1.1 (y r).2.2.1) ∧
      (sStaten b = false → (d.scb k).stat = (s.dev.scb k).stat) ∧
      d.num (SCB.ROWCOUNT k) = min (s.dev.num (SCB.ROWCOUNT k) + sRows b) 0xFFFFFFFF) ∧
  (∀ (s : State) (k : Fin 64) (q : QDesc) (b : List Byte), s.dev.issuing = true → b = q.bytes →
    s.dev.headCode b (s.dev.scbCheck b) = none → s.dev.waitOk b = true →
    (s.dev.scbHead k 0x21 = some q → s.dev.windowed (sXaddr b + k * sXpitch b) (8 * sCount b) = true →
      ∃ d, exec (.statsave k) s = .next ⟨s.pending, d⟩ ∧ (d.scb k).stat = (s.dev.scb k).stat ∧
        ∀ i, i < sCount b → leNat (d.mem.dram.readN (sXaddr b + k * sXpitch b + 8 * i) 8) =
          ((s.dev.scb k).stat.get zeroDWord (sStatbase b + i)).toNat) ∧
    (s.dev.scbHead k 0x22 = some q → s.dev.Clean (sXaddr b + k * sXpitch b) (8 * sCount b) →
      ∃ d, exec (.statload k) s = .next ⟨s.pending, d⟩ ∧ d.mem.dram = s.dev.mem.dram ∧
        ∀ i, i < sCount b → ((d.scb k).stat.get zeroDWord (sStatbase b + i)).toNat =
          leNat (s.dev.mem.dram.readN (sXaddr b + k * sXpitch b + 8 * i) 8))) ∧
  (∀ (s : State) (e : QDesc × Nat), s.dev.running = true → s.dev.scarab.fin.find? (fun x => x.2 == 0) = some e →
    ∃ d, exec .scarabDescComplete s = .next ⟨s.pending, d⟩ ∧
      d.scarab = { s.dev.scarab with fin := s.dev.scarab.fin.filter (fun x => x.1.idx != e.1.idx) } ∧
      s.dev.Signalled e.1.bytes d ∧ s.dev.KeepsBut [.regs, .cricket, .scarab] d)

/-- R161-R166, R169: OPEN makes a FREE entry OPEN when its pages are free, and otherwise begins the spill of the entry whose
CLOSE is oldest, or stops the queue where the stash region is full; CLOSE makes an OPEN entry RESIDENT, narrowed in BEDROCK;
RELEASE frees an entry, but for a SPILLED one that the top of the stash covers; a spill's end writes the image, frees the
pages and counts. FREEPAGES follows. -/
def Obligations.TalusEntries : Prop :=
  (∀ (s : State) (k : Fin 64) (q : QDesc) (e p : Nat), s.dev.issuing = true → e = tEntry q.bytes → p = pagesFor (tSize q.bytes) →
    s.dev.talusHead k 1 = some q → talusBad q.bytes = false → s.dev.grantsOk q.bytes = true → s.dev.waitOk q.bytes = true →
    ((s.dev.tls k).ent e).state = .free → (s.dev.tls k).firmPages + p ≤ 1024 →
    ((s.dev.tls k).usedPages + p ≤ 1024 →
      ∃ d, exec (.talusOpen k) s = .next ⟨s.pending, d⟩ ∧
        (d.tls k).ent e = ⟨.opened, tSpillable q.bytes, false, tFmt q.bytes, tSize q.bytes, p, 0, 0⟩ ∧
        (∀ j, j ≠ e → (d.tls k).ent j = (s.dev.tls k).ent j) ∧ (d.tls k).queue = (s.dev.tls k).queue.drop 1 ∧
        d.talus.fin = oneFewer s.dev.talus.fin q ∧ d.num (TLS.FREEPAGES k) = 1024 - (d.tls k).usedPages ∧
        d.mem = s.dev.mem) ∧
    (∀ v n, 1024 < (s.dev.tls k).usedPages + p → (s.dev.tls k).oldest = some v →
      (s.dev.tls k).spilling = [] → (∀ x ∈ (s.dev.tls k).ents, x.2.state ≠ .spilling) →
      n = 4096 * pagesFor (spillBytes ((s.dev.tls k).ent v).fmt ((s.dev.tls k).ent v).size) →
      (s.dev.num64 (TLS.STASHTOP k) + n ≤ s.dev.num64 (TLS.STASHSIZE k) →
        ∃ d, exec (.talusOpen k) s = .next ⟨s.pending, d⟩ ∧ ((d.tls k).ent v).state = .spilling ∧
          ((d.tls k).ent v).stash = s.dev.num64 (TLS.STASHTOP k) ∧ (d.tls k).spilling.head? = some v ∧
          (d.tls k).queue = (s.dev.tls k).queue) ∧
      (s.dev.num64 (TLS.STASHSIZE k) < s.dev.num64 (TLS.STASHTOP k) + n →
        ∃ d, exec (.talusOpen k) s = .next ⟨s.pending, d⟩ ∧ (d.tls k).stuck = true ∧
          d.flag (oErrsum (TLS.page k)) 8 = true ∧ (d.tls k).ents = (s.dev.tls k).ents))) ∧
  (∀ (s : State) (k : Fin 64) (q : QDesc) (v : TlsEnt), s.dev.issuing = true → v = (s.dev.tls k).ent (tEntry q.bytes) →
    s.dev.talusHead k 2 = some q → talusBad q.bytes = false → s.dev.grantsOk q.bytes = true → s.dev.waitOk q.bytes = true →
    v.state = .opened →
    ∃ d, exec (.talusClose k) s = .next ⟨s.pending, d⟩ ∧ (d.tls k).queue = (s.dev.tls k).queue.drop 1 ∧
      d.talus.fin = oneFewer s.dev.talus.fin q ∧ (d.tls k).seq = (s.dev.tls k).seq + 1 ∧
      (s.dev.bedrock = false → (d.tls k).ent (tEntry q.bytes) = { v with state := .resident, order := (s.dev.tls k).seq } ∧
        (d.tls k).data = (s.dev.tls k).data) ∧
      (s.dev.bedrock = true → (d.tls k).ent (tEntry q.bytes) =
        { v with state := .resident, narrowed := true, order := (s.dev.tls k).seq, pages := pagesFor (spillBytes v.fmt v.size) } ∧
        (d.tls k).data.readN (entKey (tEntry q.bytes) 0) ((s.dev.tls k).image (tEntry q.bytes)).length =
          (s.dev.tls k).image (tEntry q.bytes))) ∧
  (∀ (s : State) (k : Fin 64) (q : QDesc) (v : TlsEnt), s.dev.issuing = true → v = (s.dev.tls k).ent (tEntry q.bytes) →
    s.dev.talusHead k 3 = some q → talusBad q.bytes = false → s.dev.grantsOk q.bytes = true → s.dev.waitOk q.bytes = true →
    (v.state = .opened ∨ v.state = .resident →
      ∃ d, exec (.talusRelease k) s = .next ⟨s.pending, d⟩ ∧ (d.tls k).ent (tEntry q.bytes) = ent0 0 ∧
        (d.tls k).queue = (s.dev.tls k).queue.drop 1 ∧ d.num64 (TLS.STASHTOP k) = s.dev.num64 (TLS.STASHTOP k)) ∧
    (v.state = .spilled →
      ∃ d, exec (.talusRelease k) s = .next ⟨s.pending, d⟩ ∧ (d.tls k).queue = (s.dev.tls k).queue.drop 1 ∧
        ((s.dev.tls k).stack.head? = some (tEntry q.bytes) → (d.tls k).ent (tEntry q.bytes) = ent0 0) ∧
        (∀ j rest, (s.dev.tls k).stack = j :: rest → j ≠ tEntry q.bytes → ((s.dev.tls k).ent j).state ≠ .released →
          ((d.tls k).ent (tEntry q.bytes)).state = .released ∧ d.num64 (TLS.STASHTOP k) = s.dev.num64 (TLS.STASHTOP k))) ∧
    (v.state = .spilling → exec (.talusRelease k) s = .next s)) ∧
  (∀ (s : State) (k : Fin 64) (c : Instr) (op : Nat) (q : QDesc) (bad : Bool), s.dev.issuing = true → s.dev.talusHead k op = some q →
    talusBad q.bytes = false → s.dev.grantsOk q.bytes = true → s.dev.waitOk q.bytes = true →
    ((c = .talusOpen k ∧ op = 1 ∧ bad = (decide (((s.dev.tls k).ent (tEntry q.bytes)).state ≠ .free) ||
        decide (1024 < (s.dev.tls k).firmPages + pagesFor (tSize q.bytes)))) ∨
      (c = .talusClose k ∧ op = 2 ∧ bad = decide (((s.dev.tls k).ent (tEntry q.bytes)).state ≠ .opened)) ∨
      (c = .talusRelease k ∧ op = 3 ∧ bad = decide (((s.dev.tls k).ent (tEntry q.bytes)).state = .free))) → bad = true →
    ∃ d, exec c s = .next ⟨s.pending, d⟩ ∧ d.flag (oErrsum (TLS.page k)) 11 = true ∧
      (d.tls k).queue = (s.dev.tls k).queue.drop 1 ∧ (d.tls k).ents = (s.dev.tls k).ents ∧
      s.dev.FailedWith d 0x10 (blockName .tls k) 0) ∧
  (∀ (s : State) (k : Fin 64) (e : Nat) (rest : List Nat) (v : TlsEnt) (base : Nat) (im : List Byte), s.dev.running = true →
    (s.dev.tls k).spilling = e :: rest → e ∉ (s.dev.tls k).ue → v = (s.dev.tls k).ent e →
    base = s.dev.num64 (TLS.STASHBASE k) + v.stash → im = (s.dev.tls k).image e → s.dev.windowed base im.length = true →
    ∃ d, exec (.spillEnd k) s = .next ⟨s.pending, d⟩ ∧ (d.tls k).ent e = { v with state := .spilled, pages := 0 } ∧
      (d.tls k).spilling = rest ∧ d.num (TLS.SPILLCNT k) = min (s.dev.num (TLS.SPILLCNT k) + 1) 0xFFFFFFFF ∧
      d.num64 (TLS.SPILLBYTES k) = (s.dev.num64 (TLS.SPILLBYTES k) + spillBytes v.fmt v.size) % 2 ^ 64 ∧
      d.num (TLS.FREEPAGES k) = 1024 - (d.tls k).usedPages ∧ d.mem.dram.readN base im.length = im ∧
      (∀ a, ¬(base ≤ a ∧ a < base + im.length) → d.mem.dram.read a = s.dev.mem.dram.read a)) ∧
  (∀ (s : State) (e : QDesc × Nat), s.dev.running = true → s.dev.talus.fin.find? (fun x => x.2 == 0) = some e →
    ∃ d, exec .talusDescComplete s = .next ⟨s.pending, d⟩ ∧
      d.talus = { s.dev.talus with fin := s.dev.talus.fin.filter (fun x => x.1.idx != e.1.idx) } ∧
      s.dev.Signalled e.1.bytes d ∧ s.dev.KeepsBut [.regs, .cricket, .talus] d)

/-! ### Stacks, atomics and pins (10) -/

/-- R212, R213, R224: an atomic that its checks admit replaces every element that its mask names by the operation's result
on the old value and the operand, and no other byte; SWAP64 and CAS64 return the old values. One that a check refuses in a
running beat fails it and changes no byte outside its windows. -/
def Obligations.AtomicsUpdate : Prop :=
  ∀ (s : State) (q : AtomicReq) (c : Instr) (code n : Nat) (f : Nat → Nat → Nat → Nat),
    ((c = .iadd32 q ∧ code = 0x01 ∧ n = 4 ∧ f = fun o a _ => (o + a) % 2 ^ 32) ∨
      (c = .iadd64 q ∧ code = 0x02 ∧ n = 8 ∧ f = fun o a _ => (o + a) % 2 ^ 64) ∨
      (c = .iadd64s32 q ∧ code = 0x03 ∧ n = 8 ∧ f = fun (o a _ : Nat) => ofSigned 64 ((o : Int) + toSigned 32 a)) ∨
      (c = .imax32 q ∧ code = 0x04 ∧ n = 4 ∧ f = fun o a _ => ofSigned 32 (max (toSigned 32 o) (toSigned 32 a))) ∨
      (c = .umax32 q ∧ code = 0x05 ∧ n = 4 ∧ f = fun o a _ => max o (a % 2 ^ 32)) ∨
      (c = .swap64 q ∧ code = 0x08 ∧ n = 8 ∧ f = fun _ a _ => a) ∨
      (c = .cas64 q ∧ code = 0x09 ∧ n = 8 ∧ f = fun o a b => if o = a then b else o) ∨
      (c = .fadd32 q ∧ code = 0x10 ∧ n = 4 ∧ f = fun o a _ => enc32 (fAdd grid32 (val32 o) (val32 a)).1)) →
    (s.dev.atomBad code q = none → (∀ i, i < 256 / n → q.mask.getLsbD i = true → s.dev.Clean (q.addr + n * i) n) →
      ∃ d, exec c s = .next ⟨s.pending, d⟩ ∧
        (∀ i, i < 256 / n → q.mask.getLsbD i = true → leNat (d.mem.dram.readN (q.addr + n * i) n) =
          f (leNat (s.dev.mem.dram.readN (q.addr + n * i) n))
            (q.operands.getD (if code = 0x09 then 2 * i else i) 0#64).toNat (q.operands.getD (2 * i + 1) 0#64).toNat) ∧
        (∀ a, (∀ i, i < 256 / n → q.mask.getLsbD i = true → ¬(q.addr + n * i ≤ a ∧ a < q.addr + n * i + n)) →
          d.mem.dram.read a = s.dev.mem.dram.read a) ∧
        (code = 0x08 ∨ code = 0x09 → d.bus.readData =
          ((List.range 32).filter (fun i => q.mask.getLsbD i)).flatMap (fun i => s.dev.mem.dram.readN (q.addr + 8 * i) 8)) ∧
        d.cricket = s.dev.cricket) ∧
    (∀ x, s.dev.atomBad code q = some x → s.dev.running = true →
      ∃ d, exec c s = .next ⟨s.pending, d⟩ ∧ s.dev.FailedWith d x.1 (blockName .msc (stackOf q.addr)) q.addr ∧
        d.flag (oErrsum (MSC.page (stackOf q.addr))) x.2 = true ∧
        (∀ a, s.dev.Outside a → d.mem.dram.read a = s.dev.mem.dram.read a))

/-- R211, R218, R219, R221-R223, R225: what the stacks and slices do beside the beat's traffic: a pin commit captures the
staged table and a slice's background work ends; a temperature reading moves the thermal state, and STOP ends READY and the
beat; the patrol scrub counts and lists what it finds; a GO starts its long operation unless it may not, and the operation's
end leaves its results: a scrub's corrections count and enter their rows' repair counts, and a traffic-generator pass counts
its errors and the first failing block of each channel, ending the operation unless LOOP is set. -/
def Obligations.StackOperations : Prop :=
  (∀ (s : State) (r : Requester) (v : Word), requesterIsPf r = true →
    (v.getLsbD 0 = true → s.dev.flag (MSC.PINCTRL 0) 0 = false →
      ∃ d, exec (.pinCommit r v) s = .next ⟨s.pending, d⟩ ∧ d.mem = { s.dev.mem with captured := some s.dev.stagedPins } ∧
        d.flag (MSC.PINCTRL 0) 0 = true ∧ s.dev.RegsBut [MSC.PINCTRL 0] d) ∧
    (v.getLsbD 0 = false ∨ s.dev.flag (MSC.PINCTRL 0) 0 = true → exec (.pinCommit r v) s = .next s)) ∧
  (∀ (s : State) (i : Fin 12), s.dev.mem.pinWork.get zeroNat i ≠ 0 →
    ∃ d, exec (.pinFetchDone i) s = .next ⟨s.pending, d⟩ ∧ d.mem.pinWork.get zeroNat i = 0 ∧ d.busy (MSC.page i) = false ∧
      d.num64 (oPosition (MSC.page i)) = s.dev.num64 (oTotal (MSC.page i)) ∧ d.mem.dram = s.dev.mem.dram ∧
      d.mem.pins = s.dev.mem.pins) ∧
  (∀ (s : State) (i : Fin 12) (t : Int) (n : Nat), n = s.dev.thermalNext i (s.dev.fld (STK.TEMP i) 18 16) t →
    ∃ d, exec (.stackTempReading i t) s = .next ⟨s.pending, d⟩ ∧ d.fld (STK.TEMP i) 15 0 = ofSigned 16 t ∧
      d.fld (STK.TEMP i) 18 16 = n ∧ (s.dev.thr i 2 ≤ t → n = 3) ∧
      (t < s.dev.thr i 0 - 24 → t < s.dev.thr i 1 - 24 → t < s.dev.thr i 2 - 24 → n = 0) ∧
      (n = 0 → d.fld (STK.SHARE i) 7 0 = 100) ∧ (n = 2 → d.fld (STK.SHARE i) 7 0 = 25) ∧
      (n = 3 → d.fld (STK.SHARE i) 7 0 = 0) ∧
      (s.dev.fld (STK.TEMP i) 18 16 < n → d.flag (oErrsum (STK.page i)) 5 = true ∧ d.flag (oIrqsum (STK.page i)) 1 = true) ∧
      (n = 3 → s.dev.fld (STK.TEMP i) 18 16 ≠ 3 → d.ready (STK.page i) = false ∧
        (s.dev.running = true → s.dev.FailedWith d 0x40 (blockName .stk i) 0)) ∧
      (n ≠ 3 → d.cricket = s.dev.cricket ∧ d.mem = s.dev.mem)) ∧
  (∀ (s : State) (i : Fin 12) (lb : BitVec 28) (o : ScrubOutcome) (blk : Nat), blk = 12 * lb.toNat + i →
    (s.dev.flag (STK.SCRUBCTRL i) 0 = false ∨ s.dev.fld (STK.TRAINSTAT i) 3 0 ≠ 9 →
      exec (.patrolScrubRead i lb o) s = .next s) ∧
    (s.dev.flag (STK.SCRUBCTRL i) 0 = true → s.dev.fld (STK.TRAINSTAT i) 3 0 = 9 →
      (o = .uncorrectable ∨ s.dev.mem.stackUE.contains blk = true →
        ∃ d, exec (.patrolScrubRead i lb o) s = .next ⟨s.pending, d⟩ ∧
          d.num (STK.UECOUNT i) = min (s.dev.num (STK.UECOUNT i) + 1) 0xFFFFFFFF ∧ d.num64 (STK.LASTUE i) = 256 * blk ∧
          d.flag (oErrsum (STK.page i)) 10 = true ∧ d.blockBad blk = true ∧ d.cricket = s.dev.cricket ∧
          d.mem.dram = s.dev.mem.dram) ∧
      (o = .corrected → s.dev.mem.stackUE.contains blk = false →
        ∃ d, exec (.patrolScrubRead i lb o) s = .next ⟨s.pending, d⟩ ∧
          d.num (STK.CECOUNT i) = min (s.dev.num (STK.CECOUNT i) + 1) 0xFFFFFFFF ∧
          d.flag (oErrsum (STK.page i)) 0 = true ∧
          d.mem.rowFix.get zeroNat (rowKey blk) = s.dev.mem.rowFix.get zeroNat (rowKey blk) + 1 ∧
          d.mem.dram = s.dev.mem.dram))) ∧
  (∀ (s : State) (r : Requester) (i : Fin 12) (v : Word), requesterIsPf r = true →
    (v.getLsbD 1 = true → s.dev.busy (STK.page i) = false →
      ∃ d, exec (.scrubGo r i v) s = .next ⟨s.pending, d⟩ ∧ d.stkOp i = some .scrub ∧ d.busy (STK.page i) = true ∧
        d.flag (STK.SCRUBCTRL i) 1 = true ∧ d.flag (STK.SCRUBCTRL i) 0 = v.getLsbD 0 ∧
        d.num64 (oTotal (STK.page i)) = s.dev.num64 (STK.SCRUBLEN i) / 256 ∧ d.num64 (oPosition (STK.page i)) = 0) ∧
    (v.getLsbD 1 = true → s.dev.busy (STK.page i) = true →
      ∃ d, exec (.scrubGo r i v) s = .next ⟨s.pending, d⟩ ∧ d.flag (oErrsum (STK.page i)) 2 = true ∧ d.mem = s.dev.mem) ∧
    (v.getLsbD 8 = true → s.dev.busy (STK.page i) = false → s.dev.enableInEffect (STK.page i) = false →
      s.dev.trained i = true →
      ∃ d, exec (.marginGo r i v) s = .next ⟨s.pending, d⟩ ∧ d.stkOp i = some .margin ∧ d.busy (STK.page i) = true ∧
        d.flag (STK.MGCTRL i) 8 = true ∧ d.fld (STK.MGCTRL i) 7 0 = field v.toNat 7 0 ∧
        d.num64 (oTotal (STK.page i)) = (if v.getLsbD 5 then 2048 else 64) ∧
        (∀ pin, pin < 2048 → d.mem.margins.get zeroWord (2048 * i + pin) = 0#32)) ∧
    (v.getLsbD 8 = true → (s.dev.busy (STK.page i) = true ∨ s.dev.enableInEffect (STK.page i) = true ∨
        s.dev.trained i = false) →
      ∃ d, exec (.marginGo r i v) s = .next ⟨s.pending, d⟩ ∧ d.flag (oErrsum (STK.page i)) 2 = true ∧ d.mem = s.dev.mem) ∧
    (v.getLsbD 0 = true → s.dev.busy (STK.page i) = false → s.dev.enableInEffect (STK.page i) = false →
      s.dev.trained i = true → field v.toNat 2 1 ≠ 3 → field v.toNat 6 4 < 6 → s.dev.num64 (STK.TGBLOCKS i) < 2 ^ 32 →
      ∃ d, exec (.tgGo r i v) s = .next ⟨s.pending, d⟩ ∧ d.stkOp i = some .traffic ∧ d.busy (STK.page i) = true ∧
        d.flag (STK.TGCTRL i) 0 = true ∧
        d.num64 (oTotal (STK.page i)) = 2 * (if s.dev.num64 (STK.TGBLOCKS i) = 0 then 2 ^ 22
          else s.dev.num64 (STK.TGBLOCKS i)) * (s.dev.tgChannels i).length ∧
        (field v.toNat 2 1 = 2 → d.mem.dram = s.dev.mem.dram) ∧
        (∀ a, (s.dev.tgPart i).has a = false → d.mem.dram.read a = s.dev.mem.dram.read a)) ∧
    (v.getLsbD 0 = true → (s.dev.busy (STK.page i) = true ∨ s.dev.enableInEffect (STK.page i) = true ∨
        s.dev.trained i = false ∨ field v.toNat 2 1 = 3 ∨ 6 ≤ field v.toNat 6 4) →
      ∃ d, exec (.tgGo r i v) s = .next ⟨s.pending, d⟩ ∧ d.flag (oErrsum (STK.page i)) 2 = true ∧ d.mem = s.dev.mem)) ∧
  (∀ (s : State) (i : Fin 12),
    (∀ l, s.dev.stkOp i = some .scrub →
      ∃ d, exec (.scrubDone i l) s = .next ⟨s.pending, d⟩ ∧ d.stkOp i = none ∧ d.busy (STK.page i) = false ∧
        d.fld (oStatus (STK.page i)) 15 8 = 0 ∧ d.num64 (oPosition (STK.page i)) = s.dev.num64 (oTotal (STK.page i)) ∧
        d.flag (oIrqsum (STK.page i)) 2 = true ∧ d.flag (STK.SCRUBCTRL i) 1 = false ∧
        d.num (STK.CECOUNT i) = min (s.dev.num (STK.CECOUNT i) + (s.dev.scrubFixed i l).length) 0xFFFFFFFF ∧
        (∀ blk ∈ s.dev.scrubFixed i l, d.mem.rowFix.get zeroNat (rowKey blk) ≠ 0) ∧ d.mem.dram = s.dev.mem.dram) ∧
    (∀ data, s.dev.stkOp i = some .margin →
      ∃ d, exec (.marginDone i data) s = .next ⟨s.pending, d⟩ ∧ d.stkOp i = none ∧ d.busy (STK.page i) = false ∧
        d.flag (STK.MGCTRL i) 8 = false ∧ d.flag (oIrqsum (STK.page i)) 2 = true ∧
        (∀ c j, (s.dev.flag (STK.MGCTRL i) 5 = true → c < 32) → (s.dev.flag (STK.MGCTRL i) 5 = false →
            c = s.dev.fld (STK.MGCTRL i) 4 0) → j < 64 →
          d.mem.margins.get zeroWord (2048 * i + (64 * c + j)) = marginWord (s.dev.fld (STK.MGCTRL i) 7 6)
            (data.getD (if s.dev.flag (STK.MGCTRL i) 5 then 64 * c + j else j) 0#32))) ∧
    (∀ errs firsts, s.dev.stkOp i = some .traffic →
      ∃ d, exec (.tgDone i errs firsts) s = .next ⟨s.pending, d⟩ ∧
        (s.dev.flag (STK.TGCTRL i) 3 = false →
          d.stkOp i = none ∧ d.busy (STK.page i) = false ∧ d.flag (STK.TGCTRL i) 0 = false) ∧
        (s.dev.flag (STK.TGCTRL i) 3 = true → d.stkOp i = some .traffic ∧
          d.busy (STK.page i) = s.dev.busy (STK.page i) ∧ d.flag (STK.TGCTRL i) 0 = s.dev.flag (STK.TGCTRL i) 0) ∧
        (∀ c, c < 32 → d.num (STK.TGERR i c) = if s.dev.flag (STK.TGCHMASK i) c then
          min (s.dev.num (STK.TGERR i c) + errs.getD c 0) 0xFFFFFFFF else s.dev.num (STK.TGERR i c)) ∧
        (∀ c, c < 32 → s.dev.flag (STK.TGCHMASK i) c = true → errs.getD c 0 ≠ 0 →
          d.flag (oErrsum (STK.page i)) 11 = true ∧ d.mem.tgFirst.get zeroNat (32 * i + c) =
            if s.dev.mem.tgFirst.get zeroNat (32 * i + c) = 0 then 2 ^ 63 + firsts.getD c 0 % 2 ^ 28
            else s.dev.mem.tgFirst.get zeroNat (32 * i + c))))

/-! ### Stag (11) -/

/-- R231-R233, R239-R241: an ARM that passes its checks clears the arrays it names, allocates its bits and leaves its slot
ARMED; REDUCE and UPDATE become active descriptors; an active descriptor that is done leaves, its slot returns to IDLE with
its tag remembered, and its signal is applied. -/
def Obligations.StagDescriptors : Prop :=
  (∀ (s : State) (q : QDesc) (rest : List QDesc) (g : List Byte) (t : Nat),
    s.dev.issuing = true → s.dev.stag.queue = q :: rest → s.dev.waitOk q.bytes = true → t = sgSlot q.bytes →
    g = s.dev.grpTable (sgGroup q.bytes) → s.dev.Clean (sgGroup q.bytes) (grpExtent (s.dev.grpHead (sgGroup q.bytes))) →
    (opcodeOf q.bytes = 1 → s.dev.headCode q.bytes (s.dev.armCheck q.bytes) = none →
      ∃ d, exec .arm s = .next ⟨s.pending, d⟩ ∧ d.stag.queue = rest ∧ (d.slot t).arm = some q ∧ (d.slot t).group = g ∧
        (d.slot t).arrived = [] ∧ (d.slot t).named = false ∧
        (∀ u, u < 12 → (d.slot t).units.getD u .idle =
          if (expected q.bytes g none).any (fun k => stackOf k.addr == u) then .armed else .complete) ∧
        (∀ u, u < 12 → d.num (STG.BITMAPFREE u) =
          s.dev.num (STG.BITMAPFREE u) - ((expected q.bytes g none).filter (fun k => stackOf k.addr == u)).length) ∧
        (sgFmt q.bytes = 0 → ∀ a,
          d.mem.dram.read a = if (armAcc q.bytes ≤ a ∧ a < armAcc q.bytes + 32768 * myBlocks q.bytes g) ∨
              (armExp q.bytes ≤ a ∧ a < armExp q.bytes + 4 * myBlocks q.bytes g) then 0#8
            else s.dev.mem.dram.read a) ∧
        (sgFmt q.bytes ≠ 0 → d.mem.dram = s.dev.mem.dram) ∧
        (∀ t', t' ≠ t → d.slot t' = s.dev.slot t') ∧ d.stag.act = s.dev.stag.act ∧
        s.dev.Issued d ∧ s.dev.Signalled q.bytes d) ∧
    (opcodeOf q.bytes = 2 → s.dev.headCode q.bytes (if s.dev.stagGrants q.bytes then s.dev.redCheck q.bytes
        else some (min 0x19 ((s.dev.redCheck q.bytes).getD 0x19))) = none →
      ∃ d a, exec .reduce s = .next ⟨s.pending, d⟩ ∧ d.stag.queue = rest ∧ (d.slot t).named = true ∧
        d.stag.act.length = s.dev.stag.act.length + 1 ∧ d.stag.act.getLast? = some a ∧ a.desc = q ∧ a.group = g ∧
        a.slot = t ∧ a.converted = (ownerIdx g).isNone ∧ a.updated = ((ownerIdx g).isNone || !sgUpd q.bytes) ∧
        (∀ b, s.dev.cricket.cur = some b → ∃ b', d.cricket.cur = some b' ∧ b'.issued = b.issued + 1)) ∧
    (opcodeOf q.bytes = 3 → s.dev.headCode q.bytes (if s.dev.stagGrants q.bytes then s.dev.redCheck q.bytes
        else some (min 0x19 ((s.dev.redCheck q.bytes).getD 0x19))) = none →
      s.dev.earlierConverted q.idx = true → s.dev.stag.micro.running = false →
      ∃ d a, exec .update s = .next ⟨s.pending, d⟩ ∧ d.stag.queue = rest ∧
        d.stag.act.length = s.dev.stag.act.length + 1 ∧ d.stag.act.getLast? = some a ∧ a.desc = q ∧ a.slot = 16 ∧
        a.converted = true ∧ ((ownerIdx g).isNone = true ∨ ubOpt (s.dev.updBlock q.bytes) ≠ 6 → a.updated = true) ∧
        ((ownerIdx g).isNone = true → s.dev.Issued d ∧ d.mem.dram = s.dev.mem.dram))) ∧
  (∀ (s : State) (a : StagAct), s.dev.running = true → s.dev.stag.act.find? s.dev.actDone = some a →
    ∃ d, exec .stagDescComplete s = .next ⟨s.pending, d⟩ ∧
      d.stag.act = s.dev.stag.act.filter (fun x => x.desc.idx != a.desc.idx) ∧ s.dev.Signalled a.desc.bytes d ∧
      (∀ q, a.slot < 16 → (s.dev.slot a.slot).arm = some q →
        d.slot a.slot = { slot0 a.slot with lastTag := some (sgBtag q.bytes) } ∧
        (∀ u, u < 12 → d.num (STG.LASTDONE u) = sgBtag q.bytes + 2 ^ 16 * a.slot ∧
          d.num (STG.BUCKETCNT u) = min (s.dev.num (STG.BUCKETCNT u) + 1) 0xFFFFFFFF) ∧
        (sgFmt q.bytes = 0 → d.mem = s.dev.mem)) ∧
      (16 ≤ a.slot → d.stag.slots = s.dev.stag.slots ∧ d.mem = s.dev.mem))

/-- R235, R237, R241, R244, R246: the steps of an active REDUCE. Step 2 sends the agreed words, step 3 the value lines, step
4 converts the shard's sums and leaves them in GACC, step 5 updates the shard's weights or starts the microprogram; in FLOAT
a delivery that has arrived whole is added to the device's own partial sum. -/
def Obligations.StagSteps : Prop :=
  ∀ (s : State) (t : Fin 16) (a : StagAct) (b : List Byte) (g : List Byte), s.dev.running = true → s.dev.actOf t = some a →
    b = a.desc.bytes → g = a.group →
    (∀ ws, (s.dev.slot t).words = some ws → a.agreed = false →
      ∃ d a', exec (.agreedWordsSend t) s = .next ⟨s.pending, d⟩ ∧ d.actOf t = some a' ∧ a'.agreed = true ∧ a'.desc = a.desc ∧
        a'.converted = a.converted ∧ d.stag.slots = s.dev.stag.slots) ∧
    (s.dev.stepThreeReady a = true → a.sentVal = false →
      ∃ d a', exec (.valueLinesSend t) s = .next ⟨s.pending, d⟩ ∧ d.actOf t = some a' ∧ a'.sentVal = true ∧ a'.desc = a.desc ∧
        a'.wordsRead = (List.range (myBlocks b g)).map
          (fun i => leNat (s.dev.mem.dram.readN (sgEaddr b + 4 * (myFirst b g + i)) 4)) ∧
        d.stag.slots = s.dev.stag.slots) ∧
    (s.dev.sumReady a = true → s.dev.earlierConverted a.desc.idx = true → a.converted = false →
      ∃ d a', exec (.shardConvert t) s = .next ⟨s.pending, d⟩ ∧ d.actOf t = some a' ∧ a'.converted = true ∧
        (∀ ws, ws = ((s.dev.slot t).words).getD [] → sgFmt b = 0 → a.misread ws = false →
          s.dev.windowed (sgGacc b) (4 * myValues b g) = true → s.dev.Clean (sgAcc b) (32768 * myBlocks b g) →
          s.dev.Clean (sgGacc b) (4 * myValues b g) →
          (∀ i x, i < myValues b g →
            x = (exactOwner (toSigned 64 (leNat (s.dev.mem.dram.readN (sgAcc b + 8 * i) 8))) (ws.getD (i / 4096) 0)).1 →
            leNat (d.mem.dram.readN (sgGacc b + 4 * i) 4) = enc32 (if sgAccStart b then x
              else (jAdd (jOf (val32 (leNat (s.dev.mem.dram.readN (sgGacc b + 4 * i) 4)))) (jOf x)).1)) ∧
          (∀ x, ¬(sgGacc b ≤ x ∧ x < sgGacc b + 4 * myValues b g) → d.mem.dram.read x = s.dev.mem.dram.read x))) ∧
    (∀ u n, u = s.dev.updBlock b → n = myValues b g → a.converted = true → a.updated = false →
      s.dev.stag.micro.running = false →
      (∀ r ∈ (sgUpdaddr b, 128) :: (ubReads u ++ (sgGacc b, 4 * n) :: (ubWaddr u, 4 * n) :: ubStateRanges u n),
        s.dev.Clean r.1 r.2) →
      ∃ d a', exec (.shardUpdate t) s = .next ⟨s.pending, d⟩ ∧ d.actOf t = some a' ∧
        (ubOpt u ≠ 6 → a'.updated = true) ∧
        (1 ≤ ubOpt u → ubOpt u ≤ 4 → ubWfmt u = 0 → sgDist b = false →
          (∀ r ∈ (ubWaddr u, 4 * n) :: ubStateRanges u n, s.dev.windowed r.1 r.2 = true) →
          (∀ r ∈ ubStateRanges u n, rangesMeet (ubWaddr u) (4 * n) r.1 r.2 = false) →
          ∀ i, i < n → leNat (d.mem.dram.readN (ubWaddr u + 4 * i) 4) =
            enc32 (optimise u (s.dev.f32At (sgGacc b) i) (s.dev.f32At (ubWaddr u) i)
              (tabulate (ubStreams u) (fun j => s.dev.f32At (ubSaddr u + j * ubSpitch u) i))).1.1) ∧
        (ubOpt u = 6 → s.dev.microLegal u = true → 0 < n →
          a'.updated = false ∧ d.stag.micro.running = true ∧ d.stag.micro.owner = a.desc.idx ∧ d.stag.micro.pc = 0 ∧
          d.stag.micro.idx = 0 ∧ d.stag.micro.count = n ∧
          d.stag.micro.x.get zeroWord 0 =
            BitVec.ofNat 32 (enc32 (jMul (jOf (s.dev.f32At (sgGacc b) 0)) (jOf (ubConst u 7))).1) ∧
          d.stag.micro.x.get zeroWord 1 = BitVec.ofNat 32 (enc32 (s.dev.f32At (ubWaddr u) 0)))) ∧
    (∀ self j v, ownerIdx g = some self → sgFmt b ≠ 0 → sgSlot b = t → j < grpNown g → j < a.levels.length →
      v = a.levels.getD j 0 → v < treeLevels (grpNown g) → s.dev.childHere a self j v = true →
      ∃ d a', exec (.floatTreeAdd t) s = .next ⟨s.pending, d⟩ ∧ d.actOf t = some a' ∧ v < a'.levels.getD j 0 ∧
        ((∀ j', j' < grpNown g → j' ≠ j → ¬(a.levels.getD j' 0 < treeLevels (grpNown g) ∧
            s.dev.childHere a self j' (a.levels.getD j' 0) = true)) →
          ∀ x ∈ shardLines j (sgNval b) (grpNown g), ∀ own kid, own = s.dev.treeLine b x →
            kid = tabulate own.length (fun i => BitVec.ofNat 32
              (leNat (s.dev.mem.dram.readN (stagingLine (sgAcc b) (sgNval b) (grpNown g) self v x + 4 * i) 4))) →
            d.stag.tree.get noLine (treeKey t x) = (addLines own kid).1))

/-- R244, R246: an instruction of the update microprogram writes register D with its function of the operand registers or
constants, and the program goes on to the next instruction; END writes X1 and the state registers back and begins the next
value, or ends the update. -/
def Obligations.MicroprogramRuns : Prop :=
  (∀ (s : State) (a : StagAct) (c : Instr) (op w : Nat) (m : Micro) (u : List Byte) (A B C : FVal) (r : FVal × Nat),
    s.dev.running = true → s.dev.microAct = some a → m = s.dev.stag.micro → u = s.dev.updBlock a.desc.bytes →
    w = s.dev.microWord u m.pc → field w 7 0 = op → A = s.dev.microArg u (field w 17 13) →
    B = s.dev.microArg u (field w 22 18) → C = s.dev.microArg u (field w 27 23) →
    ((c = .microAdd ∧ op = 0x01 ∧ r = judged (fAdd grid32 A B)) ∨
      (c = .microSub ∧ op = 0x02 ∧ r = judged (fAdd grid32 A B.negate)) ∨
      (c = .microMul ∧ op = 0x03 ∧ r = judged (fMul grid32 A B)) ∨
      (c = .microFma ∧ op = 0x04 ∧ r = judged (fFma grid32 A B C)) ∨
      (c = .microDiv ∧ op = 0x05 ∧ r = judged (divVal A B)) ∨
      (c = .microSqrt ∧ op = 0x06 ∧ r = judged (crSqrt A)) ∨
      (c = .microRsqrt ∧ op = 0x07 ∧ r = judged (crRsqrt A)) ∨
      (c = .microMin ∧ op = 0x08 ∧ r = judged (fMin A B, false)) ∨
      (c = .microMax ∧ op = 0x09 ∧ r = judged (fMax A B, false)) ∨
      (c = .microSign ∧ op = 0x0A ∧ r = judged (signVal A, false)) ∨
      (c = .microAbs ∧ op = 0x0B ∧ r = judged (A.abs, false)) ∨
      (c = .microNeg ∧ op = 0x0C ∧ r = judged (A.negate, false)) ∨
      (c = .microSel ∧ op = 0x0D ∧ r = judged (selVal A B C)) ∨
      (c = .microExp ∧ op = 0x0E ∧ r = judged (crExp A)) ∨
      (c = .microLog ∧ op = 0x0F ∧ r = judged (crLog A))) →
    ∃ d, exec c s = .next ⟨s.pending, d⟩ ∧ d.stag.micro.pc = m.pc + 1 ∧
      (∀ k, d.stag.micro.x.get zeroWord k =
        if k = field w 12 8 % 16 then BitVec.ofNat 32 (enc32 r.1) else m.x.get zeroWord k) ∧
      d.stag = { s.dev.stag with micro := { m with x := d.stag.micro.x, pc := d.stag.micro.pc } } ∧
      d.num (STG.RFLAGS (stackOf (sgGacc a.desc.bytes + 4 * m.idx))) =
        s.dev.num (STG.RFLAGS (stackOf (sgGacc a.desc.bytes + 4 * m.idx))) ||| updFlags r.2 ∧
      s.dev.KeepsBut [.regs, .cricket, .stag] d) ∧
  (∀ (s : State) (a : StagAct) (m : Micro) (u : List Byte), s.dev.running = true → s.dev.microAct = some a →
    m = s.dev.stag.micro → u = s.dev.updBlock a.desc.bytes → field (s.dev.microWord u m.pc) 7 0 = 0x3F →
    ∃ d, exec .microEnd s = .next ⟨s.pending, d⟩ ∧
      d.num64 (STG.UPDCNT (stackOf (sgGacc a.desc.bytes + 4 * m.idx))) =
        (s.dev.num64 (STG.UPDCNT (stackOf (sgGacc a.desc.bytes + 4 * m.idx))) + 1) % 2 ^ 64 ∧
      (m.count ≤ m.idx + 1 → d.stag.micro = { m with running := false } ∧
        ∃ a', d.actNo m.owner = some a' ∧ a'.updated = true ∧ a'.desc = a.desc) ∧
      (m.idx + 1 < m.count → d.stag.micro.running = true ∧ d.stag.micro.idx = m.idx + 1 ∧ d.stag.micro.pc = 0 ∧
        d.stag.micro.owner = m.owner ∧ d.stag.micro.count = m.count ∧ d.stag.act = s.dev.stag.act ∧
        (s.dev.windowed (ubWaddr u + 4 * m.idx) 4 = true →
          (∀ k, k < ubNstate u → s.dev.windowed (ubSaddr u + k * ubSpitch u + 4 * m.idx) 4 = true ∧
            rangesMeet (ubWaddr u + 4 * m.idx) 4 (ubSaddr u + k * ubSpitch u + 4 * m.idx) 4 = false) →
          leNat (d.mem.dram.readN (ubWaddr u + 4 * m.idx) 4) = (m.x.get zeroWord 1).toNat ∧
          (∀ x, ¬(ubWaddr u + 4 * m.idx ≤ x ∧ x < ubWaddr u + 4 * m.idx + 4) →
            (∀ k, k < ubNstate u → ¬(ubSaddr u + k * ubSpitch u + 4 * m.idx ≤ x ∧
              x < ubSaddr u + k * ubSpitch u + 4 * m.idx + 4)) → d.mem.dram.read x = s.dev.mem.dram.read x))))

/-! ### The Hive (12) -/

/-- R253-R262, R268, R269: a Hive command that its checks admit changes its own entry alone, moves the frames it names and
completes with OK; a switch request and a write of TENCFG.ENABLED take effect as the Hive's state lets them; the end of a
save writes the parts of the image into the save area and goes on to the load or to cleared on-die state; the end of a load
brings cell stores, statistics, tile registers, Talus entries and configuration registers back from the bytes of the area, or
leaves cleared state with 0x31, and ends the switch. (Which bytes stand for the header and the control records, and the order
of the pages, are log entry 26's.) -/
def Obligations.HiveCommands : Prop :=
  (∀ (s : State) (fn : Fin 16) (op : Nat) (c : Instr) (b : List Byte),
    ((op = 1 ∧ c = .hiveAdd fn) ∨ (op = 2 ∧ c = .hiveRetire fn) ∨ (op = 3 ∧ c = .hivePause fn) ∨
      (op = 4 ∧ c = .hiveResume fn) ∨ (op = 5 ∧ c = .hiveFork fn)) →
    s.dev.headJob fn (fun x => jType x == 5 && jOp x == op) = some b → s.dev.jobGate b = none →
    (∀ code, s.dev.hiveCheck fn b = some code →
      ∃ d, exec c s = .next ⟨s.pending, d⟩ ∧ d.hive = s.dev.hive ∧ d.mem.dram = s.dev.mem.dram ∧
        (fn.val, ⟨BitVec.ofNat 32 (jJob b), code, 5, hEntry b, s.dev.beatNum, hSeq b⟩) ∈ d.host.done) ∧
    (s.dev.hiveCheck fn b = none → ∀ e, (if op = 1 ∨ op = 5 then s.dev.idleEnt fn = some e else e = hEntry b) →
      ∃ d, exec c s = .next ⟨s.pending, d⟩ ∧
        (fn.val, ⟨BitVec.ofNat 32 (jJob b), 0, 5, e, s.dev.beatNum, if op = 1 ∨ op = 5 then hSeq b else s.dev.entSeq e⟩) ∈
          d.host.done ∧
        (∀ a, a / 32 ≠ e → d.hive.ents.get zeroByte a = s.dev.hive.ents.get zeroByte a) ∧
        (op = 1 ∨ op = 5 → d.entState e = 1 ∧ d.entSeq e = hSeq b ∧ d.entPos e = s.dev.startPos b ∧
          d.entPfrem e = hPfrem b ∧ d.entGen e = hGen b ∧ d.entDir e = hDir b ∧ d.entPrio e = hPrio b % 8) ∧
        (op = 2 → d.entState e = 0) ∧
        (op = 3 → d.entState e = 3 ∧ (s.dev.entState e = 1 ∨ s.dev.entState e = 2 →
          bit (d.entFlags e) 6 = (s.dev.entState e == 2))) ∧
        (op = 4 → d.entState e = if bit (s.dev.entFlags e) 6 then 2 else 1) ∧
        (op = 2 ∨ op = 3 ∨ op = 4 → d.entSeq e = s.dev.entSeq e ∧ d.entPos e = s.dev.entPos e ∧
          d.entDir e = s.dev.entDir e) ∧
        (op = 1 ∨ op = 3 ∨ op = 4 → d.mem = s.dev.mem ∧ d.num (TEN.FREEFRAMES fn) = s.dev.num (TEN.FREEFRAMES fn)) ∧
        (∀ a f r k n, op = 2 → a = s.dev.entDir e → f = leNat (s.dev.mem.dram.readN a 4) → r = s.dev.poolRef fn + 2 * f →
          k = s.dev.poolFree fn + 4 * s.dev.num (TEN.FREEFRAMES fn) → n = leNat (s.dev.mem.dram.readN r 2) →
          s.dev.poolLayers fn = 1 → 0 < s.dev.entPos e → s.dev.entPos e ≤ 256 → f ≠ noFrame → 0 < n →
          s.dev.inRegion fn a 4 = true → s.dev.inRegion fn r 2 = true → s.dev.inRegion fn k 4 = true →
          rangesMeet a 4 r 2 = false → rangesMeet a 4 k 4 = false → rangesMeet r 2 k 4 = false →
          leNat (d.mem.dram.readN a 4) = noFrame ∧ leNat (d.mem.dram.readN r 2) = n - 1 ∧
          (if n = 1 then d.num (TEN.FREEFRAMES fn) = (s.dev.num (TEN.FREEFRAMES fn) + 1) % 2 ^ 32 ∧
            leNat (d.mem.dram.readN k 4) = f else d.num (TEN.FREEFRAMES fn) = s.dev.num (TEN.FREEFRAMES fn))) ∧
        (∀ a a' f r, op = 5 → a = s.dev.entDir (hEntry b) → a' = hDir b → f = leNat (s.dev.mem.dram.readN a 4) →
          r = s.dev.poolRef fn + 2 * f → s.dev.poolLayers fn = 1 → 256 ≤ s.dev.entPos (hEntry b) →
          s.dev.entPos (hEntry b) < 512 → f ≠ noFrame → s.dev.inRegion fn a' 4 = true → s.dev.inRegion fn r 2 = true →
          rangesMeet a' 4 r 2 = false →
          leNat (d.mem.dram.readN a' 4) = f ∧ leNat (d.mem.dram.readN r 2) = leNat (s.dev.mem.dram.readN r 2) + 1 ∧
          d.num (TEN.FREEFRAMES fn) = s.dev.num (TEN.FREEFRAMES fn)))) ∧
  (∀ (s : State) (r : Requester) (v : Word), requesterIsPf r = true →
    ∃ d, exec (.preemptGo r v) s = .next ⟨s.pending, d⟩ ∧
      (s.dev.flag HIV.SCHEDCTRL 0 = false → d.fld HIV.PREEMPT 3 0 = field v.toNat 3 0 ∧ d.flag HIV.PREEMPT 4 = true ∧
        s.dev.RegsBut [HIV.PREEMPT] d) ∧
      (s.dev.flag HIV.SCHEDCTRL 0 = true → d.num HIV.PREEMPT = s.dev.num HIV.PREEMPT ∧ d.flag HIV.ERRSUM 8 = true)) ∧
  (∀ (s : State) (r : Requester) (t : Fin 16) (v : Word) (held : Bool), requesterIsPf r = true →
    held = (s.dev.entRange t).any (fun e => s.dev.entState e != 0) →
    ∃ d, exec (.tencfgEnabled r t v) s = .next ⟨s.pending, d⟩ ∧ d.hive.ents = s.dev.hive.ents ∧
      d.mem.dram = s.dev.mem.dram ∧
      (∀ opened, opened = (!s.dev.tenEnabled t && !s.dev.flag (TEN.TENCFG t) 0) →
        d.flag (TEN.TENCFG t) 1 = (if opened then v.getLsbD 1 else s.dev.flag (TEN.TENCFG t) 1) ∧
        d.fld (TEN.TENCFG t) 13 8 = if opened ∧ field v.toNat 13 8 ≤ 40 then field v.toNat 13 8
          else s.dev.fld (TEN.TENCFG t) 13 8) ∧
      (v.getLsbD 0 = false → (s.dev.resident = t.val ∨ held = true) →
        d.flag (TEN.TENCFG t) 0 = s.dev.flag (TEN.TENCFG t) 0 ∧ d.tenEnabled t = s.dev.tenEnabled t) ∧
      (v.getLsbD 0 = true ∨ (s.dev.resident ≠ t.val ∧ held = false) → d.flag (TEN.TENCFG t) 0 = v.getLsbD 0 ∧
        (s.dev.cricket.phase = .off → d.tenEnabled t = v.getLsbD 0) ∧
        (s.dev.cricket.phase ≠ .off → d.tenEnabled t = s.dev.tenEnabled t) ∧
        (s.dev.cricket.phase = .off → s.dev.tenEnabled t = false → v.getLsbD 0 = true →
          s.dev.inRegion t (s.dev.num64 (TEN.POOLCFG t)) 64 = true →
          d.pool t = s.dev.mem.dram.readN (s.dev.num64 (TEN.POOLCFG t)) 64 ∧
          d.num (TEN.FREEFRAMES t) = fieldAt (d.pool t) 0x1C 4) ∧
        (s.dev.cricket.phase = .off → s.dev.tenEnabled t = true → v.getLsbD 0 = false →
          d.flag (TEN.TENSTAT t) 0 = false))) ∧
  (∀ (s : State) (ok : Bool) (w : Switch), s.dev.hive.switching = some w → w.outgoing < 16 → w.incoming < 16 →
    w.outgoing ≠ w.incoming →
    (∀ area parts inside good, area = s.dev.num64 (TEN.SAVEADDR w.outgoing) →
      parts = contextParts (s.dev.cshwm w.outgoing) s.dev.talus.cl → inside = s.dev.inRegion w.outgoing area contextBytes →
      good = (ok && s.dev.busy HIV.page && !s.dev.onDieBad w.outgoing && inside) → w.stage = 0 →
      ∃ d, exec (.contextSaveDone ok) s = .next ⟨s.pending, d⟩ ∧
      (good = true → d.flag (TEN.TENSTAT w.outgoing) 0 = true ∧ d.fld (TEN.TENSTAT w.outgoing) 15 8 = 0 ∧
        (∀ p ∈ parts, ∀ x, x < p.2 → d.mem.dram.read (area + (p.1 + x)) = (s.dev.contextImage s.dev.freeCtr).read (p.1 + x)) ∧
        ∃ c, d.hive.saved.get noContext w.outgoing = some c ∧ c = s.dev.contextOf s.dev.freeCtr ∧ c.beat = s.dev.beatNum) ∧
      (good = false → d.flag (TEN.TENSTAT w.outgoing) 0 = false ∧ d.fld (TEN.TENSTAT w.outgoing) 15 8 = 0x81 ∧
        d.flag HIV.ERRSUM 9 = true) ∧
      (∀ a, inside = false ∨ (∀ p ∈ parts, ¬(area + p.1 ≤ a ∧ a < area + p.1 + p.2)) →
        d.mem.dram.read a = s.dev.mem.dram.read a) ∧
      (if (s.dev.context w.incoming).isSome = true then d.hive.switching = some { w with stage := 1 } ∧ d.busy HIV.page = true ∧
        d.num64 (oPosition HIV.page) = 0
       else d.hive.switching = some { w with stage := 2 } ∧ d.busy HIV.page = false ∧ d.massif.store = ⟨[], []⟩ ∧
        d.weevil.cl = [] ∧ d.scarab.cl = [] ∧ d.talus.cl = [] ∧ d.flag HIV.RESIDENT 4 = false ∧
        d.flag (TEN.TENSTAT w.incoming) 1 = true ∧ d.num HIV.LASTSWITCH = w.cycles % 2 ^ 32 ∧
        d.num HIV.SWITCHCNT = min (s.dev.num HIV.SWITCHCNT + 1) 0xFFFFFFFF)) ∧
    (∀ area oc good, area = s.dev.num64 (TEN.SAVEADDR w.incoming) → oc = s.dev.context w.incoming →
      good = (ok && s.dev.busy HIV.page && !(s.dev.moverRead area
        (contextParts (s.dev.cshwm w.incoming) ((oc.map (fun c => c.talus)).getD []))).1) → w.stage = 1 →
      ∃ d, exec (.contextLoadDone ok) s = .next ⟨s.pending, d⟩ ∧ d.mem.dram = s.dev.mem.dram ∧
      d.hive.switching = some { w with stage := 2 } ∧ d.busy HIV.page = false ∧ d.flag HIV.RESIDENT 4 = false ∧
      d.flag (TEN.TENSTAT w.incoming) 1 = true ∧ d.num HIV.LASTSWITCH = w.cycles % 2 ^ 32 ∧
      (∀ c, good = true → oc = some c →
        d.fld (TEN.TENSTAT w.incoming) 15 8 = 0 ∧ d.hive.badLoad = s.dev.hive.badLoad ∧
        (∀ x y, x < 4096 → y < storeSize → y < 4096 * s.dev.cshwm w.incoming →
          d.massif.store.read (storeKey x y) = s.dev.mem.dram.read (area + (imgCells + storeKey x y))) ∧
        (∀ k, k < 64 → (d.tls k).ents = (c.talus.get tls0 k).ents ∧ (d.wvl k).masks = (c.weevil.get wvl0 k).masks ∧
          (∀ i, i < 0x8000 → ((d.scb k).stat.get zeroDWord i).toNat =
            leNat (s.dev.mem.dram.readN (area + (imgStat + 0x40000 * k + 8 * i)) 8)) ∧
          (∀ i, i < 0x8000 → ((d.wvl k).treg.get zeroWord i).toNat =
            leNat (s.dev.mem.dram.readN (area + (imgTreg + 0x20000 * k + 4 * i)) 4))) ∧
        (∀ p ∈ contextWords, d.num p = (SMap.get resetWord c.regs.reverse p).toNat)) ∧
      (good = false ∨ oc = none → d.massif.store = ⟨[], []⟩ ∧ d.weevil.cl = [] ∧ d.scarab.cl = [] ∧ d.talus.cl = [] ∧
        d.fld (TEN.TENSTAT w.incoming) 15 8 = 0x31 ∧ d.flag HIV.ERRSUM 10 = true ∧
        d.hive.badLoad = w.incoming :: s.dev.hive.badLoad)))

/-! ### The Forager (13) -/

/-- R270-R301: a FORCMD that its check admits opens, extends or closes its feed, or begins an encode; a waiting CLOSE takes
effect; the warm-up ends; a sample's decode begins and ends with its outcome, and one found in the cache under another
SAMPLEID has outcome 0x70; ASSEMBLE writes the next batch, and a masked slot is zeros of weight 0 whose KIND is the type of
its field where that is known, otherwise one of the four; a stream's entries are read, and a stream is lost and reopened; an encode writes its record; the
vote decides the next batch or holds the job's next beat. -/
def Obligations.ForagerWorks : Prop :=
  (∀ (s : State) (fn : Fin 16) (op : Nat) (c : Instr) (b : List Byte) (act : Nat → Dev → List Byte → Option Nat × Dev),
    ((op = 1 ∧ c = .forcmdOpen fn ∧ act = Dev.forOpen) ∨ (op = 2 ∧ c = .forcmdList fn ∧ act = Dev.forList) ∨
      (op = 3 ∧ c = .forcmdClose fn ∧ act = Dev.forClose) ∨ (op = 4 ∧ c = .forcmdEncode fn ∧ act = Dev.forEncode)) →
    s.dev.headJob fn (fun x => jType x == 6 && jOp x == op) = some b → s.dev.jobGate b = none →
    (∀ code, (act fn (s.dev.popFetched fn) b).1 = some code →
      ∃ d, exec c s = .next ⟨s.pending, d⟩ ∧ (fn.val, ⟨BitVec.ofNat 32 (jJob b), code, 6, 0, s.dev.beatNum, 0⟩) ∈ d.host.done ∧
        (∀ k, (d.feed k).state = (s.dev.feed k).state ∧ (d.feed k).records = (s.dev.feed k).records ∧
          (d.feed k).closing = (s.dev.feed k).closing) ∧ d.forager.enc = s.dev.forager.enc ∧ d.mem.dram = s.dev.mem.dram) ∧
    ((act fn (s.dev.popFetched fn) b).1 = none →
      ∃ d, exec c s = .next ⟨s.pending, d⟩ ∧ d.mem.dram = s.dev.mem.dram ∧
        (op ≠ 4 → (fn.val, ⟨BitVec.ofNat 32 (jJob b), 0, 6, 0, s.dev.beatNum, 0⟩) ∈ d.host.done ∧
          d.forager.enc = s.dev.forager.enc) ∧
        (op = 1 → (d.feed (fcFeed b)).state = 1 ∧ (d.feed (fcFeed b)).fn = fn ∧
          (d.feed (fcFeed b)).block = s.dev.mem.dram.readN (fcAddr b) 128 ∧ (d.feed (fcFeed b)).records = [] ∧
          (d.feed (fcFeed b)).next = 0 ∧ d.forager.warm = some (fcFeed b) ∧ d.busy (FOR.page 0) = true ∧
          d.num64 (oPosition (FOR.page 0)) = 0 ∧
          d.num64 (oTotal (FOR.page 0)) = fbLook (d.feed (fcFeed b)).block * fbSlots (d.feed (fcFeed b)).block) ∧
        (op = 2 → (d.feed (fcFeed b)).records = (s.dev.feed (fcFeed b)).records ++ (List.range (fcCount b)).map
            (fun i => s.dev.mem.dram.readN (fcAddr b + 64 * i) 64) ∧
          (d.feed (fcFeed b)).state = (s.dev.feed (fcFeed b)).state ∧
          (d.feed (fcFeed b)).outcomes = (s.dev.feed (fcFeed b)).outcomes) ∧
        (op = 3 → (d.feed (fcFeed b)).closing = true ∧ (d.feed (fcFeed b)).state = (s.dev.feed (fcFeed b)).state) ∧
        (op = 4 → d.forager.enc = s.dev.forager.enc ++
          [⟨fn, BitVec.ofNat 32 (jJob b), s.dev.mem.dram.readN (fcAddr b) 64⟩]))) ∧
  (∀ (s : State) (k : Fin 16) (f : Feed), f = s.dev.feed k →
    (f.closing = true → s.dev.inClose = true →
      (∀ x, s.dev.cricket.next = some x → x.image.feeds.contains k.val = false) →
      ∃ d, exec (.feedCloseApply k) s = .next ⟨s.pending, d⟩ ∧ d.feed k = feed0 k ∧ (∀ j, j ≠ k.val → d.feed j = s.dev.feed j) ∧
        (s.dev.forager.warm = some k.val → d.forager.warm = none ∧ d.busy (FOR.page 0) = false)) ∧
    (s.dev.forager.warm = some k.val → (∀ b, b < fbLook f.block → f.batchReady b = true) →
      ∃ d, exec (.warmupDone k) s = .next ⟨s.pending, d⟩ ∧ d.forager.warm = none ∧ d.busy (FOR.page 0) = false ∧
        d.num64 (oPosition (FOR.page 0)) = s.dev.num64 (oTotal (FOR.page 0)) ∧ d.flag (oIrqsum (FOR.page 0)) 3 = true) ∧
    (∀ pos, f.mayDecode pos = true → s.dev.inReset (FOR.page 0) = false →
      ∃ d, exec (.sampleDecodeStart k pos) s = .next ⟨s.pending, d⟩ ∧ d.mem.dram = s.dev.mem.dram ∧
        (∀ code, (s.dev.shardCheck f.fn (srShard (f.sample pos))).1 = some code → (d.feed k).outcome pos = some code) ∧
        (∀ key, (s.dev.shardCheck f.fn (srShard (f.sample pos))).1 = none →
          key = cacheKey (s.dev.mem.dram.readN (srShard (f.sample pos)) 64) (f.sample pos) →
          (f.cached key (f.sample pos) = true → f.cachedId key = srId (f.sample pos) →
            (d.feed k).outcome pos = some 0 ∧ (pos, key) ∈ (d.feed k).keys ∧
            d.num (FOR.CACHEHITS 0) = min (s.dev.num (FOR.CACHEHITS 0) + 1) 0xFFFFFFFF) ∧
          (f.cached key (f.sample pos) = true → f.cachedId key ≠ srId (f.sample pos) → (d.feed k).outcome pos = some 0x70) ∧
          (f.cached key (f.sample pos) = false → f.cache = [] → cacheBytes ((s.dev.shardCheck f.fn (srShard (f.sample pos))).2.decodeSample
              f (f.sample pos)).2.2 ≤ fbCacheSize f.block →
            (d.feed k).decoding = f.decoding ++ [(pos, s.dev.now)] ∧ (d.feed k).outcome pos = none))) ∧
    (∀ pos w, f.decoding.find? (fun x => x.1 == pos) = some w → f.outcome pos = none → s.dev.inReset (FOR.page 0) = false →
      s.dev.forager.engUE = [] →
      (∀ code, (s.dev.decodeSample f (f.sample pos)).2.1 = code → code ≠ 0 →
        ∃ d, exec (.sampleDecodeDone k pos) s = .next ⟨s.pending, d⟩ ∧ (d.feed k).outcome pos = some code ∧
          d.mem.dram = s.dev.mem.dram ∧ (d.feed k).cache = f.cache) ∧
      (∀ l es, s.dev.decodeSample f (f.sample pos) = ((s.dev.decodeSample f (f.sample pos)).1, 0, es) →
        f.roomFor (cacheBytes es) = some l →
        ∃ d, exec (.sampleDecodeDone k pos) s = .next ⟨s.pending, d⟩ ∧ (d.feed k).outcome pos = some 0 ∧
          (d.feed k).cache = l ++ es ∧ (d.feed k).decoding = f.decoding.filter (fun x => x.1 != pos) ∧
          (∃ e, e < 2 ∧ d.num (FOR.DECODED e) = min (s.dev.num (FOR.DECODED e) + 1) 0xFFFFFFFF) ∧
          (∀ a, ¬(fbCache f.block ≤ a ∧ a < fbCache f.block + fbCacheSize f.block) →
            d.mem.dram.read a = s.dev.mem.dram.read a)))) ∧
  (∀ (s : State) (q : QDesc) (rest : List QDesc) (f : Feed), s.dev.issuing = true → s.dev.forager.queue = q :: rest →
    s.dev.forager.run = none → s.dev.headCode q.bytes (s.dev.asmCheck q.bytes) = none → s.dev.waitOk q.bytes = true →
    f = s.dev.feed (asmFeed q.bytes) → f.batchReady f.next = true →
    ∃ d, exec .assemble s = .next ⟨s.pending, d⟩ ∧ d.forager.queue = rest ∧ d.forager.run = some (q, f.next) ∧
      (∀ b, s.dev.cricket.cur = some b → ∃ b', d.cricket.cur = some b' ∧ b'.issued = b.issued + 1) ∧
      (∀ p r dst at_, f.next < f.voted → f.batch f.next = [p] → r = f.sample p → f.live p = false →
        dst = asmDst q.bytes + srSlot r * fbPitch f.block → at_ = asmRec q.bytes + 16 * srSlot r → s.dev.windowed at_ 16 = true →
        s.dev.mem.stackUE = [] → s.dev.mem.badList = [] → s.dev.mem.pinUE = [] → s.dev.forager.engUE = [] →
        (srId r).length = 8 →
        (f.outcome p ≠ some 0 → s.dev.windowed dst (fbPitch f.block) = true → rangesMeet dst (fbPitch f.block) at_ 16 = false →
          d.mem.dram.readN dst (fbPitch f.block) = List.replicate (fbPitch f.block) 0#8 ∧
          leNat (d.mem.dram.readN at_ 4) = 0 ∧ d.mem.dram.readN (at_ + 8) 8 = srId r ∧
          (∀ n, n = leNat (d.mem.dram.readN (at_ + 4) 1) →
            (f.kinds.find? (fun x => x.1 == p) = none → 1 ≤ n ∧ n ≤ 4) ∧
            (∀ x, f.kinds.find? (fun x => x.1 == p) = some x → n = x.2 % 256))) ∧
        (∀ e, f.outcome p = some 0 → f.entries p = [e] → e.kind = 4 → srParam r = 0 →
          s.dev.windowed dst (4 * fbMaxtok f.block) = true → rangesMeet dst (4 * fbMaxtok f.block) at_ 16 = false →
          d.mem.dram.readN dst (4 * fbMaxtok f.block) = textSlot f.block e.data ∧
          leNat (d.mem.dram.readN at_ 4) = 0x3F800000 ∧ leNat (d.mem.dram.readN (at_ + 4) 1) = 4 ∧
          d.mem.dram.readN (at_ + 8) 8 = srId r))) ∧
  (∀ (s : State) (q : QDesc) (b : Nat), s.dev.running = true → s.dev.forager.run = some (q, b) →
    ∃ d, exec .assembleComplete s = .next ⟨s.pending, d⟩ ∧ d.forager.run = none ∧ s.dev.Signalled q.bytes d ∧
      d.feed (asmFeed q.bytes) = { s.dev.feed (asmFeed q.bytes) with next := b + 1 } ∧ d.mem = s.dev.mem) ∧
  (∀ (s : State) (k : Fin 4) (p a len cap : Nat), s.dev.flag (FOR.STRMCTRL 0 k) 0 = true → s.dev.inReset (FOR.page 0) = false →
    s.dev.num (FOR.STRMTAIL 0 k) < s.dev.num (FOR.STRMHEAD 0 k) → p = s.dev.entryStart k →
    a = s.dev.num64 (FOR.STRMBASE 0 k) + p → len = fieldAt (s.dev.mem.dram.readN a 64) 8 4 →
    cap = fieldAt (s.dev.mem.dram.readN a 64) 0 8 → 0 < len → s.dev.num (FOR.STRMTAIL 0 k) ≤ p →
    p + 64 + len ≤ s.dev.num (FOR.STRMHEAD 0 k) → s.dev.inRegion (s.dev.fld (FOR.STRMCTRL 0 k) 11 8) a 64 = true →
    s.dev.inRegion (s.dev.fld (FOR.STRMCTRL 0 k) 11 8) (a + 64) len = true → s.dev.Clean a 64 → s.dev.Clean (a + 64) len →
    s.dev.forager.engUE = [] →
    ∃ d, exec (.streamEntryRead k) s = .next ⟨s.pending, d⟩ ∧ d.num (FOR.STRMTAIL 0 k) = p + 64 + len ∧
      (d.stream k).last = s.dev.now ∧ d.mem.dram = s.dev.mem.dram ∧
      (s.dev.num (FOR.MAXAGE 0 k) < s.dev.now - cap → (d.stream k).frames = (s.dev.stream k).frames ∧
        d.num (FOR.STALECNT 0) = min (s.dev.num (FOR.STALECNT 0) + 1) 0xFFFFFFFF ∧ d.flag (oErrsum (FOR.page 0)) 10 = true) ∧
      (s.dev.now - cap ≤ s.dev.num (FOR.MAXAGE 0 k) →
        (∀ c, decodeLive (s.dev.mem.dram.readN (a + 64) len) = some c →
          (d.stream k).frames = (s.dev.stream k).frames ++ [(cap, c)]) ∧
        (decodeLive (s.dev.mem.dram.readN (a + 64) len) = none → (d.stream k).frames = (s.dev.stream k).frames ∧
          d.flag (oErrsum (FOR.page 0)) 9 = true))) ∧
  (∀ (s : State) (k : Fin 4),
    (s.dev.flag (FOR.STRMCTRL 0 k) 0 = true → s.dev.flag (FOR.STRMCTRL 0 k) 1 = false →
      s.dev.num (FOR.LOSTTICKS 0 k) ≤ s.dev.now - (s.dev.stream k).last →
      ∃ d, exec (.streamLost k) s = .next ⟨s.pending, d⟩ ∧ d.flag (FOR.STRMCTRL 0 k) 1 = true ∧
        d.flag (oErrsum (FOR.page 0)) 11 = true ∧ d.flag (oIrqsum (FOR.page 0)) 2 = true ∧ d.forager = s.dev.forager) ∧
    (s.dev.now - (s.dev.stream k).last < s.dev.num (FOR.LOSTTICKS 0 k) → exec (.streamLost k) s = .next s) ∧
    (∀ (r : Requester) (v : Word), requesterIsPf r = true →
      ∃ d, exec (.strmctrlReopen r k v) s = .next ⟨s.pending, d⟩ ∧ d.flag (FOR.STRMCTRL 0 k) 0 = v.getLsbD 0 ∧
        (s.dev.flag (FOR.STRMCTRL 0 k) 0 = false → d.fld (FOR.STRMCTRL 0 k) 11 8 = field v.toNat 11 8) ∧
        (s.dev.flag (FOR.STRMCTRL 0 k) 0 = true → d.fld (FOR.STRMCTRL 0 k) 11 8 = s.dev.fld (FOR.STRMCTRL 0 k) 11 8) ∧
        (s.dev.cricket.phase = .off → d.flag (FOR.STRMCTRL 0 k) 1 = false ∧ d.flag (FOR.STRMCTRL 0 k) 2 = false ∧
          (d.stream k).reopen = false ∧ (d.stream k).last = s.dev.now) ∧
        (s.dev.cricket.phase ≠ .off → d.flag (FOR.STRMCTRL 0 k) 1 = s.dev.flag (FOR.STRMCTRL 0 k) 1 ∧
          d.flag (FOR.STRMCTRL 0 k) 2 = true ∧ (d.stream k).reopen = true) ∧
        s.dev.RegsBut [FOR.STRMCTRL 0 k] d)) ∧
  (∀ (s : State) (e : Enc) (rest : List Enc), s.dev.forager.enc = e :: rest → s.dev.inReset (FOR.page 0) = false →
    (encUnsupported e.block = true → ∃ d, exec .encodeDone s = .next ⟨s.pending, d⟩ ∧ d.forager.enc = rest ∧
      d.host.done = s.dev.host.done ++ [(e.fn, ⟨e.job, 0x71, 6, 0, s.dev.beatNum, 0⟩)] ∧ d.mem = s.dev.mem) ∧
    (∀ src rec_, encUnsupported e.block = false → src = fmtBytes (ebSfmt e.block) (ebCount e.block) →
      s.dev.Clean (ebSrc e.block) src → s.dev.forager.engUE = [] →
      rec_ = encRecord e.block (Config.encode (ebCodec e.block) (encForm e.block) ((List.range (ebCount e.block)).map (fun i =>
        encCode (ebFlac e.block) (ebDepth e.block) (decodeElem (ebSfmt e.block)
          (unpackElem (ebSfmt e.block) (s.dev.mem.dram.readN (ebSrc e.block) src) i))))) →
      ∃ d, exec .encodeDone s = .next ⟨s.pending, d⟩ ∧ d.forager.enc = rest ∧
        (ebCap e.block < rec_.length → d.mem.dram = s.dev.mem.dram ∧
          d.host.done = s.dev.host.done ++ [(e.fn, ⟨e.job, 0x12, 6, 0, s.dev.beatNum, 0⟩)]) ∧
        (rec_.length ≤ ebCap e.block → s.dev.inRegion e.fn (ebDst e.block) rec_.length = true →
          d.mem.dram = s.dev.mem.dram.write (ebDst e.block) rec_ ∧
          d.host.done = s.dev.host.done ++ [(e.fn, ⟨e.job, 0, 6, 0, s.dev.beatNum, rec_.length⟩)] ∧
          (∃ g, g < 2 ∧ d.num (FOR.ENCODED g) = min (s.dev.num (FOR.ENCODED g) + 1) 0xFFFFFFFF)))) ∧
  (∀ (s : State), s.dev.cricket.phase = .admitted →
    ∃ d, exec .foragerVote s = .next ⟨s.pending, d⟩ ∧ d.cricket.phase = .voted ∧
      ((∀ k, k < 16 → (s.dev.feed k).state ≠ 1) → d = { s.dev with cricket := { s.dev.cricket with phase := .voted } }) ∧
      (∀ k f b, k < 16 → (∀ j, j < 16 → j ≠ k → (s.dev.feed j).state ≠ 1) → f = s.dev.feed k → f.state = 1 →
        fbMode f.block = 0 →
        b = (if ∃ x, s.dev.cricket.next = some x ∧ x.image.feeds.contains k = true then f.next + 1 else f.next) →
        (f.batchReady b = true → b < (d.feed k).voted ∧ d.num (FOR.HOLDCNT 0) = s.dev.num (FOR.HOLDCNT 0)) ∧
        (f.batchReady b = false → (BitVec.ofNat 32 (fbJob f.block), s.dev.beatNum + 2) ∈ d.cricket.holds ∧
          d.num (FOR.HOLDCNT 0) = min (s.dev.num (FOR.HOLDCNT 0) + 1) 0xFFFFFFFF)))

/-! ### Carodlink and power (14, 15) -/

/-- R304-R311, R317, R319, R325: what an event does to a port. Training starts, steps on, ends in IDENT or falls to DARK;
IDENT leads to ACTIVE; ACTIVE falls to RECOVERY and comes back through a replay, or trains again with what is kept; an error
in the replay buffer disables the port; a flit is accepted only intact and in order, one that is not intact counts and is
answered with one NAK, and a NAK or a timeout starts a replay, but in RECOVERY none. (IDLE flits, and which of the credits
due a flit carries, are log entry 16's.) -/
def Obligations.PortsTrainAndReplay : Prop :=
  ∀ (s : State) (p : Fin 24) (q : Port), q = s.dev.port p →
    (∀ rev, (s.dev.portState p = 1 → ∃ d, exec (.linkSignalDetect p rev) s = .next ⟨s.pending, d⟩ ∧ d.portState p = 2 ∧
        d.flag (LNK.PORTSTAT p) 5 = rev ∧ (d.port p).step = 1 ∧
        (d.port p).maxWidth = s.dev.fld (LNK.PORTCFG p) 3 2 ∧ d.busy (LNK.page p) = true ∧ d.num64 (oTotal (LNK.page p)) = 5 ∧
        d.num (LNK.TRAINCNT p) = min (s.dev.num (LNK.TRAINCNT p) + 1) 0xFFFFFFFF) ∧
      (s.dev.portState p ≠ 1 → exec (.linkSignalDetect p rev) s = .next s)) ∧
    (∀ lanes pol, s.dev.portState p = 2 →
      (∀ c, (if q.step = 3 then widthCode lanes q.maxWidth else if q.step = 4 then
          widthCode lanes (s.dev.fld (LNK.PORTSTAT p) 4 3) else some (s.dev.fld (LNK.PORTSTAT p) 4 3)) = some c →
        ∃ d, exec (.trainStepPass p lanes pol) s = .next ⟨s.pending, d⟩ ∧ d.fld (LNK.PORTSTAT p) 4 3 = c ∧
          (q.step = 1 → d.fld (LNK.PORTSTAT p) 13 6 = pol.toNat) ∧
          (q.step ≠ 5 → d.portState p = 2 ∧ (d.port p).step = q.step + 1) ∧
          (q.step = 5 → d.portState p = 3 ∧ d.busy (LNK.page p) = false ∧ d.fld (oStatus (LNK.page p)) 15 8 = 0 ∧
            (d.port p).replayBuf = [] ∧ (d.port p).creditReq = 2048 ∧ (d.port p).creditCpl = 1024 ∧
            (d.port p).sendQ = q.sendQ ∧ (d.port p).table = q.table ∧ (d.port p).received = q.received ∧
            (d.port p).tx = q.tx ++ [.ident s.dev.rank p (s.dev.num (LNK.TIMEDIST 0)) s.dev.rankValid])) ∧
      (q.step = 3 → widthCode lanes q.maxWidth = none →
        exec (.trainStepPass p lanes pol) s = .next s)) ∧
    (∀ c, (c = .trainStepLimit p ∧ s.dev.portState p = 2) ∨ (c = .linkEnergyLoss p ∧ (s.dev.portState p = 2 ∨ s.dev.portState p = 3)) ∨
        (c = .codewordLockLoss p ∧ s.dev.portState p = 3) →
      ∃ d, exec c s = .next ⟨s.pending, d⟩ ∧ d.portState p = 1 ∧ d.flag (oErrsum (LNK.page p)) 12 = true ∧ (d.port p).table = [] ∧
        (d.port p).sendQ = [] ∧ (d.port p).replayBuf = [] ∧ (s.dev.portState p = 2 → d.busy (LNK.page p) = false) ∧
        (d.port p).received = q.received ∧ (q.table ≠ [] → s.dev.running = true →
          s.dev.FailedWith d 0x50 (blockName .stg ((q.table.map (fun o => o.unit)).foldl min 11)) 0)) ∧
    (∀ rank port dist valid, s.dev.portState p = 3 →
      ∃ d, exec (.identExchange p rank port dist valid) s = .next ⟨s.pending, d⟩ ∧
        d.num64 (LNK.NBRID p) = rank.toNat + 2 ^ 14 * port.toNat + 2 ^ 19 ∧ d.nbrDist p = dist.toNat ∧
        d.portState p = if valid = true ∧ s.dev.rankValid = true then 4 else 3) ∧
    (s.dev.portState p = 4 → ∃ d, exec (.codewordLockLoss p) s = .next ⟨s.pending, d⟩ ∧ d.portState p = 5 ∧
      d.num (LNK.RECOVERCNT p) = min (s.dev.num (LNK.RECOVERCNT p) + 1) 0xFFFFFFFF ∧
      d.flag (oErrsum (LNK.page p)) 10 = true ∧ d.port p = q) ∧
    (∀ e buf, s.dev.portState p = 5 → buf = ackThrough ((e.toNat + 4095) % 4096) q.replayBuf →
      ∃ d, exec (.recoveryLockRegained p e) s = .next ⟨s.pending, d⟩ ∧ d.portState p = 4 ∧
        Sent.nak ⟨0#12, BitVec.ofNat 12 q.expected, false, 0#5⟩ ∈ (d.port p).tx ∧
        (buf ≠ [] → (d.port p).replaying = buf.length ∧ (d.port p).replayBuf = buf ∧ (d.port p).naks = 0 ∧
          d.num (LNK.REPLAYS p) = min (s.dev.num (LNK.REPLAYS p) + 1) 0xFFFFFFFF)) ∧
    (s.dev.portState p = 5 → ∃ d, exec (.recoveryTimeout p) s = .next ⟨s.pending, d⟩ ∧ d.portState p = 2 ∧ (d.port p).step = 2 ∧
      (d.port p).sendQ = q.kept ∧ (d.port p).replayBuf = [] ∧ (d.port p).table = q.table ∧ (d.port p).received = q.received ∧
      d.flag (oErrsum (LNK.page p)) 11 = true ∧ d.num64 (oTotal (LNK.page p)) = 4) ∧
    (s.dev.portState p ≠ 0 → ∃ d, exec (.replayBufferUe p) s = .next ⟨s.pending, d⟩ ∧ d.portState p = 0 ∧
      d.isFault (LNK.page p) = true ∧ (d.port p).table = [] ∧ (d.port p).sendQ = [] ∧ (d.port p).replayBuf = []) ∧
    (s.dev.flitsFlow p = true → ∀ (h : FlitHdr) (body : List Byte),
      (∀ c, c = .flitData p h false body ∨ c = .flitIdle p h false ∨ c = .flitNak p h false →
        ∃ d, exec c s = .next ⟨s.pending, d⟩ ∧
        d.num (LNK.CRCERR p) = min (s.dev.num (LNK.CRCERR p) + 1) 0xFFFFFFFF ∧ d.flag (oErrsum (LNK.page p)) 8 = true ∧
        d.port p = if q.discarding then q else
          { q with discarding := true, tx := q.tx ++ [.nak ⟨0#12, BitVec.ofNat 12 q.expected, false, 0#5⟩] }) ∧
      (h.fseq.toNat = q.expected → ∀ l, l = (parseSlots 9 (q.partialRx ++ body)).1 →
        ∃ d, exec (.flitData p h true body) s = .next ⟨s.pending, d⟩ ∧
        (d.port p).expected = (q.expected + 1) % 4096 ∧ (d.port p).ackseq = q.expected ∧ (d.port p).discarding = false ∧
        (d.port p).received = q.received ++ (if q.dropFirst then l.drop 1 else l).filter (fun t => !t.isCtl) ∧
        d.num64 (LNK.RXBYTES p) = (s.dev.num64 (LNK.RXBYTES p) + 256) % 2 ^ 64) ∧
      (h.fseq.toNat ≠ q.expected → ∃ d, exec (.flitData p h true body) s = .next ⟨s.pending, d⟩ ∧
        (d.port p).expected = q.expected ∧ (d.port p).received = q.received) ∧
      (∃ d, exec (.flitIdle p h true) s = .next ⟨s.pending, d⟩ ∧ (d.port p).received = q.received ∧
        (d.port p).expected = q.expected ∧
        (q.sendQ = [] → (d.port p).replayBuf = ackThrough h.ackseq.toNat q.replayBuf ∧
          (d.port p).creditReq = (if h.cvc then q.creditReq else min 2048 (q.creditReq + 64 * h.credit.toNat)) ∧
          (d.port p).creditCpl = (if h.cvc then min 1024 (q.creditCpl + 64 * h.credit.toNat) else q.creditCpl))) ∧
      (∀ n buf, n = (if q.nakSeq = h.ackseq.toNat then q.naks + 1 else 1) →
        buf = ackThrough ((h.ackseq.toNat + 4095) % 4096) q.replayBuf →
        ∃ d, exec (.flitNak p h true) s = .next ⟨s.pending, d⟩ ∧ (d.port p).replayBuf = buf ∧ (d.port p).naks = n ∧
          (d.port p).creditReq = (if h.cvc then q.creditReq else min 2048 (q.creditReq + 64 * h.credit.toNat)) ∧
          (s.dev.portState p = 4 → s.dev.fld (LNK.PORTCFG p) 8 5 ≤ n → d.portState p = 5) ∧
          (s.dev.portState p = 4 → n < s.dev.fld (LNK.PORTCFG p) 8 5 → d.portState p = 4 ∧
            (buf ≠ [] → (d.port p).replaying = buf.length ∧
              d.num (LNK.REPLAYS p) = min (s.dev.num (LNK.REPLAYS p) + 1) 0xFFFFFFFF)) ∧
          (s.dev.portState p = 5 → d.portState p = 5 ∧ (d.port p).tx = q.tx ∧ d.regs = s.dev.regs))) ∧
    (s.dev.portState p = 4 → q.replaying = 0 → q.replayBuf ≠ [] →
      ∃ d, exec (.ackTimeout p) s = .next ⟨s.pending, d⟩ ∧ (d.port p).replaying = q.replayBuf.length ∧
        (d.port p).tx = q.tx ++ q.replayBuf.map
          (fun e => Sent.data ⟨BitVec.ofNat 12 e.fseq, BitVec.ofNat 12 q.ackseq, false, 0#5⟩ e.txns e.cont) ∧
        d.num64 (LNK.TXBYTES p) = (s.dev.num64 (LNK.TXBYTES p) + 256 * q.replayBuf.length) % 2 ^ 64 ∧
        (d.port p).replayBuf = q.replayBuf ∧ d.num (LNK.REPLAYS p) = min (s.dev.num (LNK.REPLAYS p) + 1) 0xFFFFFFFF) ∧
    (q.replaying ≠ 0 → ∃ d, exec (.replayEnd p) s = .next ⟨s.pending, d⟩ ∧ (d.port p).replaying = 0 ∧
      (q.sendQ = [] → d.port p = if s.dev.portActive p then Port.idle { q with replaying := 0 } else { q with replaying := 0 }))

/-- R63, R212, R232, R313-R321: a received request is performed where its destination's checks allow it and answered with its
code: RWRITE stores its bytes and no other, RREAD stores none and answers with the bytes, RACC is applied once, SYNC signals
once; a completion ends the request it matches, and a SYNC that waited for it goes, or it is late; a request whose age reaches
TXLIMIT fails its beat, unless its completion has arrived; a marker is noted once, goes on one hop further on every other
ACTIVE port, stops a job or holds its beat. -/
def Obligations.TransactionsComplete : Prop :=
  (∀ (s : State) (p : Option (Fin 24)) (t : Txn), s.dev.mayTake (p.map (fun q => q.val)) t = true → t.dstRank = s.dev.rank →
    t.wellFormed = true → s.dev.judgeTag (p.map (fun q => q.val)) t = .deliver → t.resent = false →
    (t.kindN = 1 → s.dev.windowed t.addrN t.bytesN = true → t.addrN + t.bytesN ≤ memTop → s.dev.stackInReset t.addrN = false →
      ∃ d, exec (.rwrite p t) s = .next ⟨s.pending, d⟩ ∧ s.dev.Answered t 0 [] d ∧
        d.mem.dram = s.dev.mem.dram.write t.addrN (t.payload.take t.bytesN)) ∧
    (t.kindN = 1 → s.dev.windowed t.addrN t.bytesN = false → t.srcRank ≠ s.dev.rank →
      ∃ d, exec (.rwrite p t) s = .next ⟨s.pending, d⟩ ∧ s.dev.Answered t 0x12 [] d ∧ d.mem = s.dev.mem) ∧
    (t.kindN = 2 → t.ten = s.dev.num HIV.RESIDENT % 16 → (t.ten = 0 ∨ s.dev.inRegion t.ten t.addrN t.bytesN = true) →
      t.addrN + t.bytesN ≤ memTop → s.dev.stackInReset t.addrN = false → s.dev.Clean t.addrN t.bytesN →
      ∃ d, exec (.rread p t) s = .next ⟨s.pending, d⟩ ∧ d.mem.dram = s.dev.mem.dram ∧
        s.dev.Answered t 0 (s.dev.mem.dram.readN t.addrN t.bytesN) d) ∧
    (∀ q, t.kindN = 3 → s.dev.windowed t.addrN (raccTarget t) = true → t.addrN + raccTarget t ≤ memTop →
      s.dev.inReset (STG.page (stackOf t.addrN)) = false → s.dev.stackInReset t.addrN = false →
      (s.dev.slot t.raccSlot).arm = some q → sgBtag q.bytes = t.btag →
      ((t.raccSrc, lineKeyOf q.bytes (s.dev.slot t.raccSlot).group t) ∉ (s.dev.slot t.raccSlot).arrived → s.dev.lineExpected t.raccSlot t = true → ∀ a,
        a = (⟨t.addrN, BitVec.ofNat 64 (2 ^ t.elems - 1), raccOperands t, s.dev.bedrock⟩ : AtomicReq) →
        (t.op ≠ 0x20 → s.dev.atomBad t.op a = none) →
        ∃ d, exec (.racc p t) s = .next ⟨s.pending, d⟩ ∧ s.dev.Answered t 0 [] d ∧
          (d.slot t.raccSlot).arrived = (t.raccSrc, lineKeyOf q.bytes (s.dev.slot t.raccSlot).group t) :: (s.dev.slot t.raccSlot).arrived ∧
          (t.op = 0x20 → d.mem.dram = s.dev.mem.dram.write t.addrN (t.payload.take (4 * t.elems))) ∧
          (t.op ≠ 0x20 → d.mem.dram = (s.dev.atomDo t.op a).2.mem.dram) ∧
          d.num64 (STG.LINESIN (stackOf t.addrN)) = (s.dev.num64 (STG.LINESIN (stackOf t.addrN)) + 1) % 2 ^ 64) ∧
      ((t.raccSrc, lineKeyOf q.bytes (s.dev.slot t.raccSlot).group t) ∈ (s.dev.slot t.raccSlot).arrived →
        sgFmt q.bytes = 0 ∨ s.dev.lineExpected t.raccSlot t = true →
        ∃ d, exec (.racc p t) s = .next ⟨s.pending, d⟩ ∧ s.dev.Answered t 6 [] d ∧ d.mem = s.dev.mem ∧
          d.stag = s.dev.stag ∧
          d.num (STG.DUPCNT (stackOf t.addrN)) = min (s.dev.num (STG.DUPCNT (stackOf t.addrN)) + 1) 0xFFFFFFFF)) ∧
    (t.kindN = 4 → t.ten = s.dev.num HIV.RESIDENT % 16 → s.dev.granted t.ten t.addrN = true →
      s.dev.inReset (SYN.page (t.addrN / 512)) = false →
      ∃ d, exec (.linkSync p t) s = .next ⟨s.pending, d⟩ ∧ s.dev.Answered t 0 [] d ∧ d.mem = s.dev.mem ∧
        (if s.dev.link.syncRec.contains ⟨t.srcRank, t.tag, t.gen⟩ then d.obj t.addrN = s.dev.obj t.addrN
         else d.obj t.addrN = (s.dev.obj t.addrN + field t.arg0.toNat 15 0) % 2 ^ 32 ∧
          d.link.syncRec.contains ⟨t.srcRank, t.tag, t.gen⟩ = true))) ∧
  (∀ (s : State) (p : Option (Fin 24)) (t : Txn), t.isCpl = true → s.dev.mayTake (p.map (fun q => q.val)) t = true →
    t.dstRank = s.dev.rank → (t.iport < 24 ∨ t.iport = 31) →
    (∀ o, (s.dev.table t.iport).find? (fun o => o.tag == t.tag && o.gen == t.gen) = some o →
      ∃ d, exec (.cpl p t) s = .next ⟨s.pending, d⟩ ∧ d.table t.iport = (s.dev.table t.iport).erase o ∧
        (t.proto = false → field t.arg0.toNat 7 0 = 0 ∨ field t.arg0.toNat 7 0 = 6 → d.mem = s.dev.mem ∧
          (o.txn.kindN ≠ 4 ∨ s.dev.link.syncWait = [] → d.regs = s.dev.regs)) ∧
        (∀ w, o.txn.kindN = 4 → s.dev.link.syncWait.find? (fun w => w.2.dstRank == o.txn.dstRank) = some w →
          d.link.syncWait = s.dev.link.syncWait.erase w) ∧
        (t.proto = false → field t.arg0.toNat 7 0 ≠ 0 → field t.arg0.toNat 7 0 ≠ 6 → s.dev.running = true →
          s.dev.FailedWith d (field t.arg0.toNat 7 0) (blockName .stg o.unit) o.txn.addrN) ∧
        (t.proto = true → s.dev.running = true → s.dev.FailedWith d 0x50 (blockName .stg o.unit) o.txn.addrN)) ∧
    ((s.dev.table t.iport).find? (fun o => o.tag == t.tag && o.gen == t.gen) = none → ∀ pg, pg = t.iport % 31 →
      ∃ d, exec (.cpl p t) s = .next ⟨s.pending, d⟩ ∧ d.table t.iport = s.dev.table t.iport ∧ d.mem = s.dev.mem ∧
        d.num (LNK.LATECPL pg) = min (s.dev.num (LNK.LATECPL pg) + 1) 0xFFFFFFFF ∧
        d.flag (oErrsum (LNK.page pg)) 14 = true)) ∧
  (∀ (s : State) (p : Option (Fin 24)) (tag : BitVec 16) (ip pg : Nat) (o : Outst), ip = (p.map (fun q => q.val)).getD 31 →
    pg = (p.map (fun q => q.val)).getD 0 → (s.dev.table ip).find? (fun o => o.tag == tag.toNat) = some o →
    (s.dev.cplWaits ip o = true → exec (.requestTimeout p tag) s = .next s) ∧
    (s.dev.cplWaits ip o = false → s.dev.num (LNK.TXLIMIT pg) ≤ o.age → ∃ d, exec (.requestTimeout p tag) s = .next ⟨s.pending, d⟩ ∧
      d.table ip = (s.dev.table ip).erase o ∧ d.num (LNK.TIMEOUTS pg) = min (s.dev.num (LNK.TIMEOUTS pg) + 1) 0xFFFFFFFF ∧
      d.flag (oErrsum (LNK.page pg)) 3 = true ∧
      (s.dev.running = true → s.dev.FailedWith d 0x50 (blockName .stg o.unit) o.txn.addrN)) ∧
    (o.age < s.dev.num (LNK.TXLIMIT pg) → exec (.requestTimeout p tag) s = .next s)) ∧
  (∀ (s : State) (p : Fin 24) (t : Txn), s.dev.portActive p = true → markerOk t = true → mkFwd t = true →
    (s.dev.cricket.seen.contains (mkKey t) = true → ∃ d, exec (.beatmark p t) s = .next ⟨s.pending, d⟩ ∧
      d.cricket = s.dev.cricket ∧ d.link = s.dev.link ∧ d.host = s.dev.host) ∧
    (s.dev.cricket.seen.contains (mkKey t) = false → ∃ d, exec (.beatmark p t) s = .next ⟨s.pending, d⟩ ∧
      d.cricket.seen = mkKey t :: s.dev.cricket.seen ∧
      (t.hops < 63 → ∀ j, j < 24 → j ≠ p.val → s.dev.portActive j = true → (d.port j).Holds (t.setHops (t.hops + 1)) ∧
        ((s.dev.port j).sendQ = [] → (s.dev.port j).replaying = 0 → (s.dev.port j).replayBuf.length < 1024 →
          (d.port j).sendQ = [])) ∧
      (63 ≤ t.hops → d.link = s.dev.link ∧ d.flag (oErrsum (LNK.page p)) 13 = true) ∧
      (d.port p).tx = (s.dev.port p).tx ∧
      (mkHold t = true → d.cricket.holds = (mkJob t, mkBeat t) :: s.dev.cricket.holds) ∧
      (mkHold t = false → 0x10 ≤ mkCode t → s.dev.host.jobs.any (fun j => j.job == mkJob t) = true →
        d.cricket.stops = s.dev.cricket.stops ++ [⟨mkJob t, mkCode t, mkOrigin t, mkBeat t⟩])))

/-- R55, R323, R324, R326, R327: TIME transactions leave with this device's distance, a follower records its times and
corrects its offset, stepping SYSTIME only beyond one microsecond and otherwise steering its rate within 100 ppm, against the
offset (the sign and that the amount is free are log entry 28's); a write of ROUTEDATA is staged, a field that names no
port alone discarded, and moves ROUTEIDX on. -/
def Obligations.TimeAndRoutes : Prop :=
  (∀ (s : State) (p : Fin 24) (t : Txn) (x : DWord), s.dev.portActive p = true → s.dev.timeEn p = true →
    (s.dev.dist < 63 →
      (∃ d, exec (.timeSyncSend p x) s = .next ⟨s.pending, d⟩ ∧
        (d.port p).Holds (s.dev.timeTxn 0 s.dev.dist x.toNat 0) ∧ s.dev.RegsBut [LNK.TXBYTES p, LNK.TXBYTES p + 4] d) ∧
      (∃ d, exec (.timeDelayreq p t x) s = .next ⟨s.pending, d⟩ ∧
        (d.port p).Holds (s.dev.timeTxn 2 s.dev.dist x.toNat (timeTs t)) ∧ s.dev.RegsBut [LNK.TXBYTES p, LNK.TXBYTES p + 4] d)) ∧
    (63 ≤ s.dev.dist → exec (.timeSyncSend p x) s = .next s ∧ exec (.timeDelayreq p t x) s = .next s) ∧
    (∀ t3, s.dev.grandmaster = true → ∃ d, exec (.timeSync p t x t3) s = .next ⟨s.pending, d⟩ ∧
      (if timeDist t = 0 then d.nbrDist p = s.dev.nbrDist p ∧ d.flag (oErrsum (LNK.page 0)) 16 = true
       else d.nbrDist p = timeDist t) ∧ d.link = s.dev.link) ∧
    (∀ t3, s.dev.grandmaster = false → ∃ d, exec (.timeSync p t x t3) s = .next ⟨s.pending, d⟩ ∧ d.nbrDist p = timeDist t ∧
      (s.dev.srcPort = p.val → d.srcPort = p.val ∧ d.link.time.t1 = timeTs t ∧ d.link.time.t2 = x.toNat ∧
        d.link.time.t3 = t3.toNat ∧
        (d.port p).Holds (s.dev.timeTxn 1 d.dist t3.toNat 0))) ∧
    (∀ off, s.dev.grandmaster = false → s.dev.srcPort = p.val → timeEcho t = s.dev.link.time.t3 →
      off = timeOffset s.dev.link.time.t1 s.dev.link.time.t2 s.dev.link.time.t3 (timeTs t) (toSigned 32 (s.dev.num (LNK.ASYM p))) →
      ∃ d, exec (.timeDelayresp p t) s = .next ⟨s.pending, d⟩ ∧ d.fld CKT.TIMESTAT 31 16 = ofSigned 16 (clampOffset off) ∧
        d.flag CKT.TIMESTAT 1 = decide (-200 ≤ off ∧ off ≤ 200) ∧
        d.now = (if off < -10000 ∨ 10000 < off then ((s.dev.now : Int) - off / 100).toNat % 2 ^ 64 else s.dev.now) ∧
        (-10000 ≤ off → off ≤ 10000 → -100000 ≤ d.link.time.rate ∧ d.link.time.rate ≤ 100000 ∧
          (0 < off → d.link.time.rate ≤ 0) ∧ (off < 0 → 0 ≤ d.link.time.rate)))) ∧
  (∀ (s : State) (r : Requester) (v : Word), requesterIsPf r = true →
    ∃ d, exec (.routedataWrite r v) s = .next ⟨s.pending, d⟩ ∧ d.link.routes = s.dev.link.routes ∧
      (∀ i e, e = s.dev.link.staged.get route0 i → d.link.staged.get route0 i = if i = s.dev.num (LNK.ROUTEIDX 0) then
        ⟨if routeFieldOk (field v.toNat 4 0) then field v.toNat 4 0 else e.primary,
          if routeFieldOk (field v.toNat 9 5) then field v.toNat 9 5 else e.alternate, false⟩ else e) ∧
      d.num (LNK.ROUTEIDX 0) = (s.dev.num (LNK.ROUTEIDX 0) + 1) % 16384 ∧ s.dev.RegsBut [LNK.ROUTEIDX 0] d)

/-- R329, R330, R336, R339: a power sample enters the window of ten, moves the throttle by its rule, adds to ENERGY and shows
in the telemetry registers; a hot die and an input voltage out of range set their bits. Nothing is sampled without power. -/
def Obligations.PowerIsSampled : Prop :=
  ∀ (s : State) (t : Telemetry) (win : List Nat) (q q' : Nat) (thr : Int), win = (t.inputMw :: s.dev.power.samples).take 10 →
    q = s.dev.fld PWR.THROTTLE 7 0 → thr = 8 * (s.dev.fld PWR.DIETHR 7 0 : Int) →
    q' = nextQ q (win.foldl (· + ·) 0) win.length (s.dev.fld PWR.LIMIT 11 0) (t.dies.any (fun x => decide (thr ≤ x)))
      (t.dies.all (fun x => decide (x < thr - 16))) →
    (s.dev.module.conv = false → exec (.powerSample t) s = .next s) ∧
    (s.dev.module.conv = true → ∃ d, exec (.powerSample t) s = .next ⟨s.pending, d⟩ ∧ d.power.samples = win ∧
      d.power.last = t ∧ d.fld PWR.THROTTLE 7 0 = q' % 256 ∧ q' ≤ max 192 q ∧
      (s.dev.fld PWR.LIMIT 11 0 * 1000 * win.length < win.foldl (· + ·) 0 → q' = min 192 (q + 16)) ∧
      d.num64 PWR.ENERGY = (s.dev.num64 PWR.ENERGY + (s.dev.power.energyFrac + t.inputMw) / 1000) % 2 ^ 64 ∧
      d.power.energyFrac = (s.dev.power.energyFrac + t.inputMw) % 1000 ∧
      d.fld PWR.INPUTPWR 15 0 = win.foldl (· + ·) 0 / win.length / 100 % 2 ^ 16 ∧
      (∀ i, i < 3 → d.num (PWR.DIETEMP i) = ofSigned 16 (t.dies.getD i 0)) ∧
      (t.dies.any (fun x => decide (thr ≤ x)) = true → d.flag (oErrsum PWR.page) 10 = true) ∧
      (t.inputMv < 60000 ∨ 80000 < t.inputMv → d.flag (oErrsum PWR.page) 11 = true) ∧
      s.dev.KeepsBut [.regs, .power] d)

/-! ### The whole machine -/

/-- R229: a REDUCE in FLOAT format whose group has NSRC other than P, or a SRCDEV entry other than the OWNER entry, leaves its
queue and fails its beat with BAD_DESCRIPTOR. -/
def Obligations.FloatGroupsMatch : Prop :=
  ∀ (s : State) (q : QDesc) (rest : List QDesc) (g : List Byte), s.dev.issuing = true → s.dev.stag.queue = q :: rest →
    opcodeOf q.bytes = 2 → sgFmt q.bytes = 1 → s.dev.grpInside (sgGroup q.bytes) = true →
    g = s.dev.grpTable (sgGroup q.bytes) →
    (grpNsrc g ≠ grpNown g ∨ ∃ i, i < grpNsrc g ∧ (grpSrcdev g).getD i 0 ≠ (grpOwners g).getD i 0) →
    ∃ d, exec .reduce s = .next ⟨s.pending, d⟩ ∧ d.stag.queue = rest ∧ d.stag.act = s.dev.stag.act ∧
      s.dev.FailedWith d 0x10 (blockName .stg 0) 0

/-- R123: a MATMUL, or the half of a FLANKMM that is judged, with START = preload and KEEP = 1 leaves the queue, begins nothing
and fails its beat with BAD_DESCRIPTOR. The east half is judged where the west half has passed its checks. -/
def Obligations.PreloadKeepsNothing : Prop :=
  ∀ (s : State) (c : Instr) (q : QDesc) (b : List Byte), s.dev.issuing = true →
    ((c = .matmul ∧ s.dev.massifHead 1 = some q ∧ b = q.bytes) ∨
      (c = .flankmm ∧ s.dev.massifHead 2 = some q ∧
        (b = half q.bytes 0 ∨ (b = half q.bytes 1 ∧ s.dev.mmCheck q.bytes 0 = none)))) →
    mStart b = 1 → mKeep b = true →
    ∃ d, exec c s = .next ⟨s.pending, d⟩ ∧ d.massif.queue = s.dev.massif.queue.drop 1 ∧ d.massif.op = none ∧
      d.massif.banks = s.dev.massif.banks ∧ (∃ p, s.dev.FailedWith d 0x10 (blockName .msf p) 0)

/-- A step takes the command at the front of the queue and is its meaning on the state with the queue's rest. With an empty
queue one tick of 10 ns passes, which is the model's choice (log entry 1): while the clocks run SYSTIME counts at the rate it
is steered to, requests age, and one physical event may befall, which is free (log entry 34); otherwise nothing changes. -/
def Obligations.StepRunsTheFront : Prop :=
  (∀ (c : Instr) (rest : List Instr) (d : Dev), step ⟨c :: rest, d⟩ = exec c ⟨rest, d⟩) ∧
  (∀ d : Dev, ∃ e, step ⟨[], d⟩ = .next ⟨[], e⟩ ∧
    d.KeepsBut [.regs, .ascent, .mem, .dram, .cricket, .massif, .weevil, .col, .scarab, .talus, .forager, .link, .freeCtr] e ∧
    (d.apex.phase = .running →
      e.now = ((d.now : Int) + 1 + (d.link.time.frac + d.link.time.rate) / 1000000000).toNat % 2 ^ 64 ∧
      (Config.physical d.freeCtr = .quiet → d.KeepsBut [.regs, .link, .freeCtr] e)) ∧
    (d.apex.phase ≠ .running → e = d))

/-- Every command answers a next state: it leaves the rest of the queue as it was, and of the device it changes at most the
parts that `changes` lists for it (the registers, the module, the clocks, the bring-up, the trust state, the host interface,
the memory and its bookkeeping, the beat, each engine, the Hive, the Forager, the links, power and interrupts are parts). -/
def Obligations.CommandsKeepTheirFrame : Prop :=
  ∀ (c : Instr) (s : State), ∃ d, exec c s = .next ⟨s.pending, d⟩ ∧ s.dev.KeepsBut (changes c) d

/-- After reset no command waits, the register file and memory are canonical, every register reads its reset value, no stack
byte is listed, the converters and clocks are off and the Cricket runs no beat. That memory reads 0 before any write is the
model's choice (log entry 11). -/
def Obligations.ResetState : Prop :=
  State.reset.pending = [] ∧ State.reset.dev.Canonical ∧ (∀ a, State.reset.dev.rd a = resetWord a) ∧
  (∀ a, State.reset.dev.mem.dram.read a = 0#8) ∧ State.reset.dev.module.conv = false ∧
  State.reset.dev.module.pwrgd = false ∧ State.reset.dev.apex.phase = .stopped ∧ State.reset.dev.cricket.phase = .off ∧
  State.reset.dev.cricket.cur = none ∧ (∀ n, State.reset.dev.irqState n = .idle) ∧
  (∀ p, p < 24 → State.reset.dev.portState p = 0) ∧ State.reset.dev.num ASC.STAGE = 0

/-- The register file and device memory stay in their canonical form over every step, from every state that has it: keys rise
strictly, no entry equals what an unlisted one reads as, and no listed byte lies in a range whose contents are open. -/
def Obligations.StepKeepsCanonical : Prop :=
  ∀ s t : State, s.dev.Canonical → step s = .next t → t.dev.Canonical

/-- R64: an engine of the running image writes no byte of device memory outside the image's write windows, whatever its
descriptors say and whether or not its operation succeeds. (A line pinned in the MSC with an uncorrectable error is another
matter: a read of it leaves its own 256 bytes open, R211.) -/
def Obligations.EnginesWriteInWindows : Prop :=
  ∀ (c : Instr) (s t : State) (a : Nat), engineCommand c = true → exec c s = .next t → s.dev.Outside a →
    a / 256 ∉ s.dev.mem.pinUE → t.dev.mem.dram.read a = s.dev.mem.dram.read a
end

