-- ==== Sys2Proof/Laws/Sparse.lean ====
section
/-!
SUPPORT. The sparse contents: the canonical form as a list property, every operation keeps it, and what a read sees after
a write or a clear.
-/
namespace Sys2Proof.Machine

variable {α : Type} [DecidableEq α]

/-- The canonical form as a property of the list. -/
theorem SMap.wfFrom_iff (f : Nat → α) (lo : Nat) (m : SMap α) :
    SMap.wfFrom f lo m = true ↔ m.Pairwise (fun p q => p.1 < q.1) ∧ ∀ p ∈ m, lo ≤ p.1 ∧ p.2 ≠ f p.1 := by
  induction m generalizing lo with
  | nil => simp [SMap.wfFrom]
  | cons e m ih =>
    obtain ⟨k, v⟩ := e
    simp only [SMap.wfFrom, Bool.and_eq_true, decide_eq_true_eq, ih, List.pairwise_cons, List.mem_cons, forall_eq_or_imp]
    constructor
    · rintro ⟨⟨h1, h2⟩, h3, h4⟩
      exact ⟨⟨fun q hq => by have := (h4 q hq).1; omega, h3⟩, ⟨h1, h2⟩, fun q hq => ⟨by have := (h4 q hq).1; omega, (h4 q hq).2⟩⟩
    · rintro ⟨⟨h1, h2⟩, ⟨h3, h4⟩, h5⟩
      exact ⟨⟨h3, h4⟩, h2, fun q hq => ⟨by have := h1 q hq; omega, (h5 q hq).2⟩⟩

theorem SMap.wf_iff (f : Nat → α) (m : SMap α) :
    SMap.wf f m = true ↔ m.Pairwise (fun p q => p.1 < q.1) ∧ ∀ p ∈ m, p.2 ≠ f p.1 := by
  simp [SMap.wf, SMap.wfFrom_iff]

theorem SMap.wf_nil (f : Nat → α) : SMap.wf f [] = true := rfl

theorem SMap.wf_filter {f : Nat → α} {m : SMap α} (p : Nat × α → Bool) (h : SMap.wf f m = true) :
    SMap.wf f (m.filter p) = true := by
  rw [SMap.wf_iff] at h ⊢
  exact ⟨h.1.sublist List.filter_sublist, fun q hq => h.2 q (List.mem_filter.1 hq).1⟩

omit [DecidableEq α] in
theorem SMap.mem_below {m : SMap α} {k : Nat} {p : Nat × α} : p ∈ m.below k ↔ p ∈ m ∧ p.1 < k := by
  simp [SMap.below]

omit [DecidableEq α] in
theorem SMap.mem_above {m : SMap α} {k : Nat} {p : Nat × α} : p ∈ m.above k ↔ p ∈ m ∧ k ≤ p.1 := by
  simp [SMap.above]

theorem SMap.mem_seg {f : Nat → α} {k : Nat} {vs : List α} {p : Nat × α} (h : p ∈ SMap.seg f k vs) :
    k ≤ p.1 ∧ p.1 < k + vs.length ∧ p.2 ≠ f p.1 := by
  induction vs generalizing k with
  | nil => simp [SMap.seg] at h
  | cons v vs ih =>
    simp only [SMap.seg] at h
    split at h
    · have := ih h; simp only [List.length_cons]; exact ⟨by omega, by omega, this.2.2⟩
    · rename_i hv
      rcases List.mem_cons.1 h with rfl | h
      · simp [hv]
      · have := ih h; simp only [List.length_cons]; refine ⟨by omega, by omega, this.2.2⟩

theorem SMap.pairwise_seg (f : Nat → α) (k : Nat) (vs : List α) :
    (SMap.seg f k vs).Pairwise (fun p q => p.1 < q.1) := by
  induction vs generalizing k with
  | nil => simp [SMap.seg]
  | cons v vs ih =>
    simp only [SMap.seg]
    split
    · exact ih _
    · exact List.pairwise_cons.2 ⟨fun q hq => by have := SMap.mem_seg hq; simp only; omega, ih _⟩

/-- A write of consecutive values keeps the canonical form. -/
theorem SMap.wf_setRange {f : Nat → α} {m : SMap α} (k : Nat) (vs : List α) (h : SMap.wf f m = true) :
    SMap.wf f (SMap.setRange f m k vs) = true := by
  rw [SMap.wf_iff] at h ⊢
  simp only [SMap.setRange, List.pairwise_append, List.mem_append]
  refine ⟨⟨h.1.sublist List.filter_sublist, ⟨SMap.pairwise_seg f k vs, h.1.sublist List.filter_sublist, ?_⟩, ?_⟩, ?_⟩
  · intro a ha b hb
    have := SMap.mem_seg ha
    have := SMap.mem_above.1 hb
    omega
  · intro a ha b hb
    have h1 := SMap.mem_below.1 ha
    rcases hb with hb | hb
    · have := SMap.mem_seg hb; omega
    · have := SMap.mem_above.1 hb; omega
  · rintro p (hp | hp | hp)
    · exact h.2 p (SMap.mem_below.1 hp).1
    · exact (SMap.mem_seg hp).2.2
    · exact h.2 p (SMap.mem_above.1 hp).1

theorem SMap.wf_set {f : Nat → α} {m : SMap α} (k : Nat) (v : α) (h : SMap.wf f m = true) :
    SMap.wf f (SMap.set f m k v) = true := SMap.wf_setRange k [v] h

theorem SMap.wf_clear {f : Nat → α} {m : SMap α} (lo hi : Nat) (h : SMap.wf f m = true) :
    SMap.wf f (SMap.clear m lo hi) = true := by
  rw [SMap.wf_iff] at h ⊢
  simp only [SMap.clear, List.pairwise_append, List.mem_append]
  refine ⟨⟨h.1.sublist List.filter_sublist, h.1.sublist List.filter_sublist, ?_⟩, ?_⟩
  · intro a ha b hb
    have := SMap.mem_below.1 ha
    have := SMap.mem_above.1 hb
    omega
  · rintro p (hp | hp)
    · exact h.2 p (SMap.mem_below.1 hp).1
    · exact h.2 p (SMap.mem_above.1 hp).1

/-! ### Reads -/

omit [DecidableEq α] in
@[simp] theorem SMap.get_nil (f : Nat → α) (k : Nat) : SMap.get f [] k = f k := rfl

omit [DecidableEq α] in
theorem SMap.get_of_notMem {f : Nat → α} {m : SMap α} {k : Nat} (h : ∀ p ∈ m, p.1 ≠ k) : m.get f k = f k := by
  induction m with
  | nil => rfl
  | cons e m ih =>
    obtain ⟨j, v⟩ := e
    have hj : j ≠ k := h (j, v) (by simp)
    simp only [SMap.get, if_neg hj]
    exact ih fun p hp => h p (by simp [hp])

omit [DecidableEq α] in
theorem SMap.get_append {f : Nat → α} {a b : SMap α} {k : Nat} (h : ∀ p ∈ a, p.1 ≠ k) :
    SMap.get f (a ++ b) k = SMap.get f b k := by
  induction a with
  | nil => rfl
  | cons e a ih =>
    obtain ⟨j, v⟩ := e
    have hj : j ≠ k := h (j, v) (by simp)
    simp only [List.cons_append, SMap.get, if_neg hj]
    exact ih fun p hp => h p (by simp [hp])

omit [DecidableEq α] in
theorem SMap.get_append_left {f : Nat → α} {a b : SMap α} {k : Nat} (h : ∀ p ∈ b, p.1 ≠ k) :
    SMap.get f (a ++ b) k = SMap.get f a k := by
  induction a with
  | nil => simpa using SMap.get_of_notMem h
  | cons e a ih =>
    obtain ⟨j, v⟩ := e
    simp only [List.cons_append, SMap.get, ih]

omit [DecidableEq α] in
theorem SMap.get_filter {f : Nat → α} {m : SMap α} {k : Nat} {p : Nat → Bool} (h : p k = true) :
    SMap.get f (m.filter (fun e => p e.1)) k = SMap.get f m k := by
  induction m with
  | nil => rfl
  | cons e m ih =>
    obtain ⟨j, v⟩ := e
    by_cases hj : j = k
    · subst hj; simp [h, SMap.get]
    · cases hp : p j with
      | true => simp only [List.filter_cons, hp, ↓reduceIte, SMap.get, if_neg hj, ih]
      | false => simp only [List.filter_cons, hp, Bool.false_eq_true, ↓reduceIte, SMap.get, if_neg hj, ih]

theorem SMap.get_seg (f : Nat → α) (k : Nat) (vs : List α) (j : Nat) (h : k ≤ j) :
    SMap.get f (SMap.seg f k vs) j = (vs[j - k]?).getD (f j) := by
  induction vs generalizing k with
  | nil => simp [SMap.seg]
  | cons v vs ih =>
    simp only [SMap.seg]
    rcases Nat.eq_or_lt_of_le h with rfl | hlt
    · split
      · rename_i hv
        rw [SMap.get_of_notMem fun p hp => by have := (SMap.mem_seg hp).1; omega]
        simp [hv]
      · simp [SMap.get]
    · have hne : k ≠ j := by omega
      have hidx : j - k = (j - (k + 1)) + 1 := by omega
      split
      · rw [ih (k + 1) hlt, hidx]; simp
      · simp only [SMap.get, if_neg hne]
        rw [ih (k + 1) hlt, hidx]; simp

/-- A read after a write of consecutive values. -/
theorem SMap.get_setRange (f : Nat → α) (m : SMap α) (k : Nat) (vs : List α) (j : Nat) :
    SMap.get f (SMap.setRange f m k vs) j = if k ≤ j ∧ j < k + vs.length then (vs[j - k]?).getD (f j) else SMap.get f m j := by
  unfold SMap.setRange
  split
  · rename_i h
    rw [SMap.get_append fun p hp => by have := SMap.mem_below.1 hp; omega,
      SMap.get_append_left fun p hp => by have := SMap.mem_above.1 hp; omega, SMap.get_seg f k vs j h.1]
  · rename_i h
    by_cases hj : j < k
    · rw [SMap.get_append_left]
      · exact SMap.get_filter (p := fun i => decide (i < k)) (by simpa using hj)
      · intro p hp
        rcases List.mem_append.1 hp with hp | hp
        · have := (SMap.mem_seg hp).1; omega
        · have := (SMap.mem_above.1 hp).2; omega
    · rw [SMap.get_append fun p hp => by have := SMap.mem_below.1 hp; omega,
        SMap.get_append fun p hp => by have := SMap.mem_seg hp; omega]
      exact SMap.get_filter (p := fun i => decide (k + vs.length ≤ i)) (by simp; omega)

/-- A read after a write of one value. -/
theorem SMap.get_set (f : Nat → α) (m : SMap α) (k : Nat) (v : α) (j : Nat) :
    SMap.get f (SMap.set f m k v) j = if j = k then v else SMap.get f m j := by
  rw [SMap.set, SMap.get_setRange]
  by_cases h : j = k
  · subst h; simp
  · rw [if_neg (by simp; omega), if_neg h]

theorem SMap.get_set_eq (f : Nat → α) (m : SMap α) (k : Nat) (v : α) : SMap.get f (SMap.set f m k v) k = v := by
  rw [SMap.get_set, if_pos rfl]

theorem SMap.get_set_ne (f : Nat → α) (m : SMap α) {k j : Nat} (v : α) (h : j ≠ k) :
    SMap.get f (SMap.set f m k v) j = SMap.get f m j := by
  rw [SMap.get_set, if_neg h]

omit [DecidableEq α] in
/-- A read after a clear. -/
theorem SMap.get_clear (f : Nat → α) (m : SMap α) (lo hi j : Nat) :
    SMap.get f (SMap.clear m lo hi) j = if lo ≤ j ∧ j < hi then f j else SMap.get f m j := by
  unfold SMap.clear
  split
  · rename_i h
    refine SMap.get_of_notMem fun p hp => ?_
    rcases List.mem_append.1 hp with hp | hp
    · have := SMap.mem_below.1 hp; omega
    · have := SMap.mem_above.1 hp; omega
  · rename_i h
    by_cases hj : j < lo
    · rw [SMap.get_append_left fun p hp => by have := (SMap.mem_above.1 hp).2; omega]
      exact SMap.get_filter (p := fun i => decide (i < lo)) (by simpa using hj)
    · rw [SMap.get_append fun p hp => by have := (SMap.mem_below.1 hp).2; omega]
      exact SMap.get_filter (p := fun i => decide (max lo hi ≤ i)) (by simp; omega)

end Sys2Proof.Machine
end

