-- ==== Sys2Proof/Laws/Memory.lean ====
section
/-!
SUPPORT. The byte memories: every operation keeps the canonical form, and what a read sees after each.
-/
namespace Sys2Proof.Machine

/-! ### Open ranges -/

/-- The byte that an open range shows at address `a`. -/
def OpenRange.byte (o : OpenRange) (a : Nat) : Byte := Config.freeByte o.seed (o.key a)

theorem openAt_eq (opens : List OpenRange) (a : Nat) : openAt opens a = opens.find? (fun o => o.holds a) := rfl

theorem openAt_eq_none (opens : List OpenRange) (a : Nat) : openAt opens a = none ↔ ∀ o ∈ opens, o.holds a = false := by
  simp [openAt_eq, List.find?_eq_none]

/-- The pieces of a carved range hold an address that the range held and the cut does not. -/
theorem OpenRange.holds_carve (o : OpenRange) (lo hi a : Nat) :
    (∃ p ∈ o.carve lo hi, p.holds a = true) ↔ o.holds a = true ∧ ¬(lo ≤ a ∧ a < hi) := by
  unfold OpenRange.carve
  simp only [List.mem_append, OpenRange.holds, Bool.and_eq_true, decide_eq_true_eq]
  constructor
  · rintro ⟨p, hp | hp, h1, h2⟩
    all_goals
      split at hp
      · simp only [List.mem_singleton] at hp; subst hp; simp only at h1 h2; exact ⟨⟨by omega, h2⟩, by omega⟩
      · simp at hp
  · rintro ⟨⟨h1, h2⟩, h3⟩
    by_cases ha : a < lo
    · exact ⟨{ o with hi := min o.hi lo }, .inl (by rw [if_pos (by omega)]; simp), by simp only; omega, h2⟩
    · exact ⟨{ o with lo := max o.lo hi }, .inr (by rw [if_pos (by omega)]; simp), by simp only; omega, h2⟩

theorem OpenRange.byte_carve {o p : OpenRange} {lo hi : Nat} (h : p ∈ o.carve lo hi) (a : Nat) : p.byte a = o.byte a := by
  unfold OpenRange.carve at h
  rcases List.mem_append.1 h with h | h
  all_goals
    split at h
    · simp only [List.mem_singleton] at h; subst h; rfl
    · simp at h

theorem OpenRange.lt_carve {o p : OpenRange} {lo hi : Nat} (h : p ∈ o.carve lo hi) : p.lo < p.hi := by
  unfold OpenRange.carve at h
  rcases List.mem_append.1 h with h | h
  all_goals
    split at h
    · simp only [List.mem_singleton] at h; subst h; assumption
    · simp at h

/-- Inside the cut no open range holds an address. -/
theorem openAt_carveAll_inside (opens : List OpenRange) {lo hi a : Nat} (h : lo ≤ a ∧ a < hi) :
    openAt (carveAll opens lo hi) a = none := by
  rw [openAt_eq_none]
  intro p hp
  obtain ⟨o, _, hp⟩ := List.mem_flatMap.1 hp
  cases hh : p.holds a with
  | false => rfl
  | true => exact absurd h ((OpenRange.holds_carve o lo hi a).1 ⟨p, hp, hh⟩).2

/-- Outside the cut an open address shows the same byte. -/
theorem openAt_carveAll_outside (opens : List OpenRange) {lo hi a : Nat} (h : ¬(lo ≤ a ∧ a < hi)) :
    (openAt (carveAll opens lo hi) a).map (·.byte a) = (openAt opens a).map (·.byte a) := by
  induction opens with
  | nil => rfl
  | cons o l ih =>
    simp only [openAt_eq, carveAll, List.flatMap_cons, List.find?_append, List.find?_cons] at ih ⊢
    cases ho : o.holds a with
    | true =>
      obtain ⟨p, hp, hpa⟩ := (OpenRange.holds_carve o lo hi a).2 ⟨ho, h⟩
      cases hf : (o.carve lo hi).find? (fun o => o.holds a) with
      | none => exact absurd hpa (by simpa using List.find?_eq_none.1 hf p hp)
      | some q => simp [OpenRange.byte_carve (List.mem_of_find?_eq_some hf)]
    | false =>
      have : (o.carve lo hi).find? (fun o => o.holds a) = none := by
        rw [List.find?_eq_none]
        intro p hp hpa
        have := (OpenRange.holds_carve o lo hi a).1 ⟨p, hp, hpa⟩
        simp [ho] at this
      simp only [this, Option.none_or]
      exact ih

theorem openAt_carveAll_none {opens : List OpenRange} {lo hi a : Nat} (h : openAt opens a = none) :
    openAt (carveAll opens lo hi) a = none := by
  by_cases ha : lo ≤ a ∧ a < hi
  · exact openAt_carveAll_inside opens ha
  · have := openAt_carveAll_outside opens ha
    rw [h] at this
    simpa using this

/-! ### The canonical form -/

theorem ByteMem.wf_iff (m : ByteMem) :
    m.wf = true ↔ SMap.wf zeroByte m.cells = true ∧ (∀ c ∈ m.cells, openAt m.opens c.1 = none) ∧ ∀ o ∈ m.opens, o.lo < o.hi := by
  simp [ByteMem.wf, and_assoc]

theorem ByteMem.wf_carve (m : ByteMem) (lo hi : Nat) : ∀ o ∈ carveAll m.opens lo hi, o.lo < o.hi := by
  intro p hp
  obtain ⟨o, _, hp⟩ := List.mem_flatMap.1 hp
  exact OpenRange.lt_carve hp

/-- A write keeps the canonical form. -/
theorem ByteMem.wf_write {m : ByteMem} (a : Nat) (bs : List Byte) (h : m.wf = true) : (m.write a bs).wf = true := by
  unfold ByteMem.write
  split
  · exact h
  · have h0 := (ByteMem.wf_iff m).1 h
    refine (ByteMem.wf_iff _).2 ⟨SMap.wf_setRange a bs h0.1, ?_, ByteMem.wf_carve m _ _⟩
    intro c hc
    simp only [SMap.setRange, List.mem_append] at hc
    rcases hc with hc | hc | hc
    · exact openAt_carveAll_none (h0.2.1 c (SMap.mem_below.1 hc).1)
    · have := SMap.mem_seg hc
      exact openAt_carveAll_inside _ ⟨this.1, this.2.1⟩
    · exact openAt_carveAll_none (h0.2.1 c (SMap.mem_above.1 hc).1)

/-- Making a range indeterminate keeps the canonical form. -/
theorem ByteMem.wf_openUp {m : ByteMem} (lo hi seed : Nat) (h : m.wf = true) : (m.openUp lo hi seed).wf = true := by
  unfold ByteMem.openUp
  split
  · rename_i hlt
    have h0 := (ByteMem.wf_iff m).1 h
    refine (ByteMem.wf_iff _).2 ⟨SMap.wf_clear lo hi h0.1, ?_, ?_⟩
    · intro c hc
      have hout : c ∈ m.cells ∧ ¬(lo ≤ c.1 ∧ c.1 < hi) := by
        simp only [SMap.clear, List.mem_append] at hc
        rcases hc with hc | hc
        · have := SMap.mem_below.1 hc; exact ⟨this.1, by omega⟩
        · have := SMap.mem_above.1 hc; exact ⟨this.1, by omega⟩
      rw [openAt_eq_none]
      intro o ho
      rcases List.mem_cons.1 ho with rfl | ho
      · simp [OpenRange.holds]; omega
      · exact (openAt_eq_none _ _).1 (openAt_carveAll_none (h0.2.1 c hout.1)) o ho
    · intro o ho
      rcases List.mem_cons.1 ho with rfl | ho
      · exact hlt
      · exact ByteMem.wf_carve m _ _ o ho
  · exact h

/-- Making a part of a stack indeterminate keeps the canonical form. -/
theorem ByteMem.wf_openStack {m : ByteMem} (p : StackPart) (top seed : Nat) (h : m.wf = true) : (m.openStack p top seed).wf = true := by
  have h0 := (ByteMem.wf_iff m).1 h
  refine (ByteMem.wf_iff _).2 ⟨SMap.wf_filter _ h0.1, ?_, ?_⟩
  · intro c hc
    have hc' := List.mem_filter.1 hc
    rw [openAt_eq_none]
    intro o ho
    rcases List.mem_cons.1 ho with rfl | ho
    · have : p.has c.1 = false := by simpa using hc'.2
      simp [OpenRange.holds, OpenRange.key, this]
    · exact (openAt_eq_none _ _).1 (h0.2.1 c hc'.1) o ho
  · intro o ho
    rcases List.mem_cons.1 ho with rfl | ho
    · simp only; omega
    · exact h0.2.2 o ho

/-- Zeroing a range keeps the canonical form. -/
theorem ByteMem.wf_zero {m : ByteMem} (lo hi : Nat) (h : m.wf = true) : (m.zero lo hi).wf = true := by
  unfold ByteMem.zero
  split
  · have h0 := (ByteMem.wf_iff m).1 h
    refine (ByteMem.wf_iff _).2 ⟨SMap.wf_clear lo hi h0.1, ?_, ByteMem.wf_carve m _ _⟩
    intro c hc
    simp only [SMap.clear, List.mem_append] at hc
    rcases hc with hc | hc
    · exact openAt_carveAll_none (h0.2.1 c (SMap.mem_below.1 hc).1)
    · exact openAt_carveAll_none (h0.2.1 c (SMap.mem_above.1 hc).1)
  · exact h

/-- The canonical form of any bytes. -/
theorem ByteMem.wf_tidy (m : ByteMem) : m.tidy.wf = true := by
  refine (ByteMem.wf_iff _).2 ⟨SMap.wf_filter _ ?_, ?_, ?_⟩
  · induction m.cells with
    | nil => rfl
    | cons c l ih => exact SMap.wf_set _ _ ih
  · intro c hc
    have h := (List.mem_filter.1 hc).2
    rw [Option.isNone_iff_eq_none] at h
    exact h
  · intro o ho
    simpa using (List.mem_filter.1 ho).2

/-- A range moved holds an address where the range held the one it came from. -/
theorem OpenRange.holds_moved {o p : OpenRange} {lo hi dst a : Nat} (hp : p ∈ o.moved lo hi dst) (ha : lo ≤ a) :
    p.holds (a - lo + dst) = true → o.holds a = true := by
  unfold OpenRange.moved at hp
  split at hp
  · simp only [List.mem_singleton] at hp
    subst hp
    have hk : (OpenRange.key { o with lo := max o.lo lo - lo + dst, hi := min o.hi hi - lo + dst, shift := o.shift + (lo : Int) - (dst : Int) }
        (a - lo + dst)) = o.key a := by
      simp only [OpenRange.key]
      congr 1
      omega
    simp only [OpenRange.holds, hk, Bool.and_eq_true, decide_eq_true_eq]
    rintro ⟨h1, h2⟩
    exact ⟨by omega, h2⟩
  · simp at hp

theorem OpenRange.inside_moved {o p : OpenRange} {lo hi dst : Nat} (hp : p ∈ o.moved lo hi dst) :
    dst ≤ p.lo ∧ p.lo < p.hi ∧ p.hi ≤ hi - lo + dst := by
  unfold OpenRange.moved at hp
  split at hp
  · simp only [List.mem_singleton] at hp
    subst hp
    simp only
    omega
  · simp at hp

/-- Copying bytes keeps the canonical form. -/
theorem ByteMem.wf_blit {m src : ByteMem} (lo n dst : Nat) (h : m.wf = true) (hs : src.wf = true) :
    (m.blit src lo n dst).wf = true := by
  unfold ByteMem.blit
  split
  · exact h
  · have h0 := (ByteMem.wf_iff m).1 h
    have h1 := (ByteMem.wf_iff src).1 hs
    have c0 := (SMap.wf_iff _ _).1 h0.1
    have c1 := (SMap.wf_iff _ _).1 h1.1
    have outside : ∀ x, ¬(dst ≤ x ∧ x < dst + n) → openAt m.opens x = none →
        openAt (src.opens.flatMap (fun o => o.moved lo (lo + n) dst) ++ carveAll m.opens dst (dst + n)) x = none := by
      intro x hx hm
      rw [openAt_eq_none]
      intro o ho
      rcases List.mem_append.1 ho with ho | ho
      · obtain ⟨p, _, hp⟩ := List.mem_flatMap.1 ho
        have := OpenRange.inside_moved hp
        simp only [OpenRange.holds]
        have hf : decide (o.lo ≤ x ∧ x < o.hi) = false := by simp only [decide_eq_false_iff_not]; omega
        rw [hf]; rfl
      · exact (openAt_eq_none _ _).1 (openAt_carveAll_none hm) o ho
    refine (ByteMem.wf_iff _).2 ⟨(SMap.wf_iff _ _).2 ⟨?_, ?_⟩, ?_, ?_⟩
    · refine List.pairwise_append.2 ⟨c0.1.filter _, List.pairwise_append.2 ⟨?_, c0.1.filter _, ?_⟩, ?_⟩
      · refine List.pairwise_map.2 (((c1.1.filter _).filter _).imp_of_mem ?_)
        intro a b ha hb hab
        have ha' := SMap.mem_above.1 (SMap.mem_below.1 ha).1
        have hb' := SMap.mem_above.1 (SMap.mem_below.1 hb).1
        simp only; omega
      · intro a ha b hb
        obtain ⟨c, hc, rfl⟩ := List.mem_map.1 ha
        have hc1 := SMap.mem_below.1 hc
        have hc2 := SMap.mem_above.1 hc1.1
        have hb' := SMap.mem_above.1 hb
        simp only; omega
      · intro a ha b hb
        have ha' := SMap.mem_below.1 ha
        rcases List.mem_append.1 hb with hb | hb
        · obtain ⟨c, hc, rfl⟩ := List.mem_map.1 hb
          simp only; omega
        · have hb' := SMap.mem_above.1 hb; omega
    · intro c hc
      rcases List.mem_append.1 hc with hc | hc
      · exact c0.2 c (SMap.mem_below.1 hc).1
      · rcases List.mem_append.1 hc with hc | hc
        · obtain ⟨e, he, rfl⟩ := List.mem_map.1 hc
          exact c1.2 e (SMap.mem_above.1 (SMap.mem_below.1 he).1).1
        · exact c0.2 c (SMap.mem_above.1 hc).1
    · intro c hc
      rcases List.mem_append.1 hc with hc | hc
      · have := SMap.mem_below.1 hc
        exact outside c.1 (by omega) (h0.2.1 c this.1)
      · rcases List.mem_append.1 hc with hc | hc
        · obtain ⟨e, he, rfl⟩ := List.mem_map.1 hc
          have he1 := SMap.mem_below.1 he
          have he2 := SMap.mem_above.1 he1.1
          have hn := (openAt_eq_none _ _).1 (h1.2.1 e he2.1)
          rw [openAt_eq_none]
          intro o ho
          cases hh : o.holds (e.1 - lo + dst) with
          | false => rfl
          | true =>
            rcases List.mem_append.1 ho with ho | ho
            · obtain ⟨p, hp, hpo⟩ := List.mem_flatMap.1 ho
              have := OpenRange.holds_moved hpo he2.2 hh
              rw [hn p hp] at this
              exact absurd this (by decide)
            · have := (openAt_eq_none _ _).1 (openAt_carveAll_inside m.opens (lo := dst) (hi := dst + n)
                (a := e.1 - lo + dst) (by omega)) o ho
              rw [hh] at this
              exact absurd this (by decide)
        · have := SMap.mem_above.1 hc
          exact outside c.1 (by omega) (h0.2.1 c this.1)
    · intro o ho
      rcases List.mem_append.1 ho with ho | ho
      · obtain ⟨p, _, hp⟩ := List.mem_flatMap.1 ho
        exact (OpenRange.inside_moved hp).2.1
      · exact ByteMem.wf_carve m _ _ o ho

/-- Steps that keep the canonical form keep it together. -/
theorem ByteMem.wf_foldl {α : Type} {g : ByteMem → α → ByteMem} (hg : ∀ m a, m.wf = true → (g m a).wf = true) {l : List α}
    {m : ByteMem} (h : m.wf = true) : (l.foldl g m).wf = true := by
  induction l generalizing m with
  | nil => exact h
  | cons a l ih => exact ih (hg m a h)

/-! ### Reads -/

/-- A byte read through the open range that holds it. -/
theorem ByteMem.read_eq (m : ByteMem) (a : Nat) :
    m.read a = match (openAt m.opens a).map (·.byte a) with
      | some b => b
      | none => SMap.get zeroByte m.cells a := by
  unfold ByteMem.read
  cases openAt m.opens a <;> rfl

/-- A read after a write: the byte written, and every other byte as before. -/
theorem ByteMem.read_write (m : ByteMem) (a : Nat) (bs : List Byte) (x : Nat) :
    (m.write a bs).read x = if a ≤ x ∧ x < a + bs.length then (bs[x - a]?).getD 0#8 else m.read x := by
  unfold ByteMem.write
  split
  · rename_i h; subst h; simp only [List.length_nil, Nat.add_zero]; rw [if_neg (by omega)]
  · rw [ByteMem.read_eq]
    by_cases hx : a ≤ x ∧ x < a + bs.length
    · rw [if_pos hx, openAt_carveAll_inside _ hx]
      simp only [Option.map_none, SMap.get_setRange, if_pos hx]
      rfl
    · rw [if_neg hx, openAt_carveAll_outside _ hx, ByteMem.read_eq m x]
      simp only [SMap.get_setRange, if_neg hx]

/-- A write leaves every byte outside it as it was. -/
theorem ByteMem.read_write_outside (m : ByteMem) {a : Nat} {bs : List Byte} {x : Nat} (h : x < a ∨ a + bs.length ≤ x) :
    (m.write a bs).read x = m.read x := by rw [ByteMem.read_write, if_neg (by omega)]

/-- Consecutive bytes read back after they were written. -/
theorem ByteMem.readN_write (m : ByteMem) (a : Nat) (bs : List Byte) : (m.write a bs).readN a bs.length = bs := by
  unfold ByteMem.readN
  apply List.ext_getElem
  · simp
  · intro i h1 h2
    simp only [List.getElem_map, List.getElem_range, ByteMem.read_write]
    rw [if_pos ⟨by omega, by omega⟩, Nat.add_sub_cancel_left, List.getElem?_eq_getElem h2]; rfl

/-- Opening a range leaves every byte outside it as it was. -/
theorem ByteMem.read_openUp_outside (m : ByteMem) {lo hi seed x : Nat} (h : x < lo ∨ hi ≤ x) :
    (m.openUp lo hi seed).read x = m.read x := by
  unfold ByteMem.openUp
  split
  · rw [ByteMem.read_eq, ByteMem.read_eq m x]
    have hx : ¬(lo ≤ x ∧ x < hi) := by omega
    have : openAt (⟨lo, hi, seed, none, 0⟩ :: carveAll m.opens lo hi) x = openAt (carveAll m.opens lo hi) x := by
      simp [openAt_eq, OpenRange.holds, hx]
    rw [this, openAt_carveAll_outside _ hx]
    simp only [SMap.get_clear, if_neg hx]
  · rfl

end Sys2Proof.Machine
end

