-- ==== Sys2Proof/Laws/Canon.lean ====
section
/-!
SUPPORT. The canonical form of a device: what a record update, a fold and a register write do to it.
-/
namespace Sys2Proof.Machine

/-- An update that leaves the registers and the memory block alone. -/
theorem Dev.canonical_mk (d : Dev) (b : BusSt) (m : ModuleSt) (a : ApexSt) (s : AscentSt) (t : TrustSt) (h : HostSt)
    (c : CricketSt) (ms : MassifSt) (w : WeevilSt) (co : ColSt) (sc : ScarabSt) (ta : TalusSt) (st : StagSt) (hi : HiveSt)
    (fo : ForagerSt) (l : LinkSt) (p : PowerSt) (f : FireflySt) (e : List (Nat × Bool)) (n : Nat) :
    (Dev.mk d.regs b m a s t h d.mem c ms w co sc ta st hi fo l p f e n).Canonical ↔ d.Canonical := Iff.rfl

/-- An update that leaves the registers and device memory alone. -/
theorem Dev.canonical_mk_mem (d : Dev) (b : BusSt) (m : ModuleSt) (a : ApexSt) (s : AscentSt) (t : TrustSt) (h : HostSt)
    (c : CricketSt) (ms : MassifSt) (w : WeevilSt) (co : ColSt) (sc : ScarabSt) (ta : TalusSt) (st : StagSt) (hi : HiveSt)
    (fo : ForagerSt) (l : LinkSt) (p : PowerSt) (f : FireflySt) (e : List (Nat × Bool)) (n : Nat)
    (x1 : List Nat) (x2 : List (Nat × Nat)) (x3 : SMap Nat) (x4 : List Nat) (x5 : List (Nat × Nat)) (x6 : Option (List (Nat × Nat)))
    (x7 : SMap (List Nat)) (x8 : List Nat) (x9 : SMap Word) (x10 : SMap Nat) (x11 : SMap (Option StkOp)) (x12 : SMap Nat)
    (x13 x14 : List (Nat × Nat)) (x15 : List QDesc) (x16 : Option QDesc) :
    (Dev.mk d.regs b m a s t h ⟨d.mem.dram, x1, x2, x3, x4, x5, x6, x7, x8, x9, x10, x11, x12, x13, x14, x15, x16⟩
      c ms w co sc ta st hi fo l p f e n).Canonical ↔ d.Canonical := Iff.rfl

theorem Dev.canonical_foldl {α : Type} {g : Dev → α → Dev} (hg : ∀ d a, d.Canonical → (g d a).Canonical) {l : List α} {d : Dev}
    (h : d.Canonical) : (l.foldl g d).Canonical := by
  induction l generalizing d with
  | nil => exact h
  | cons a l ih => exact ih (hg d a h)

theorem Dev.canonical_foldl_snd {α β : Type} {g : β × Dev → α → β × Dev} (hg : ∀ p a, p.2.Canonical → (g p a).2.Canonical)
    {l : List α} {p : β × Dev} (h : p.2.Canonical) : (l.foldl g p).2.Canonical := by
  induction l generalizing p with
  | nil => exact h
  | cons a l ih => exact ih (hg p a h)

theorem Dev.wr_canon {d : Dev} (h : d.Canonical) (a : Nat) (v : Word) : (d.wr a v).Canonical :=
  ⟨SMap.wf_set a v h.1, h.2⟩

/-- Words written one after another. -/
theorem Dev.canonical_words {m : SMap Word} (l : List (Nat × Word)) (h : SMap.wf resetWord m = true) :
    SMap.wf resetWord (l.foldl (fun (m : SMap Word) (p : Nat × Word) => m.set resetWord p.1 p.2) m) = true := by
  induction l generalizing m with
  | nil => exact h
  | cons a l ih => exact ih (SMap.wf_set _ _ h)

/-- The canonical form of a device given field by field. -/
theorem Dev.canonical_iff (r : SMap Word) (b : BusSt) (m : ModuleSt) (a : ApexSt) (s : AscentSt) (t : TrustSt) (h : HostSt)
    (me : MemSt) (c : CricketSt) (ms : MassifSt) (w : WeevilSt) (co : ColSt) (sc : ScarabSt) (ta : TalusSt) (st : StagSt)
    (hi : HiveSt) (fo : ForagerSt) (l : LinkSt) (p : PowerSt) (f : FireflySt) (e : List (Nat × Bool)) (n : Nat) :
    (Dev.mk r b m a s t h me c ms w co sc ta st hi fo l p f e n).Canonical ↔
      SMap.wf resetWord r = true ∧ me.dram.wf = true := Iff.rfl

theorem Dev.canonical_regs {d : Dev} (h : d.Canonical) : SMap.wf resetWord d.regs = true := h.1

theorem Dev.canonical_dram {d : Dev} (h : d.Canonical) : d.mem.dram.wf = true := h.2

theorem Dev.canonical_reset : Dev.reset.Canonical := ⟨rfl, rfl⟩

end Sys2Proof.Machine
end

