-- ==== Sys2Proof/Laws/CanonOps.lean ====
section
/-!
SUPPORT. Every operation of Machine/Ops.lean keeps the canonical form.
-/
namespace Sys2Proof.Machine


theorem Dev.setNum_canon {d : Dev} (hd : d.Canonical) (a : Nat) (n : Nat) : (Dev.setNum d a n).Canonical := by
  unfold Dev.setNum
  try dsimp only
  repeat' first | with_reducible assumption | with_reducible apply Dev.wr_canon | with_reducible refine Dev.canonical_foldl (fun _ _ _ => ?_) ?_ | with_reducible refine Dev.canonical_foldl_snd (fun _ _ _ => ?_) ?_ | simp only [Dev.canonical_mk] | simp only [Dev.canonical_mk_mem] | split | simp only [Dev.canonical_iff] | refine ⟨?_, ?_⟩ | with_reducible apply SMap.wf_filter | with_reducible apply Dev.canonical_words | with_reducible apply SMap.wf_set | with_reducible apply ByteMem.wf_openUp | with_reducible apply ByteMem.wf_openStack | with_reducible apply ByteMem.wf_write | with_reducible refine ByteMem.wf_foldl (fun _ _ _ => ?_) ?_ | with_reducible apply ByteMem.wf_blit | with_reducible exact ByteMem.wf_tidy _ | with_reducible apply Dev.canonical_regs | with_reducible apply Dev.canonical_dram | intro

theorem Dev.setNum64_canon {d : Dev} (hd : d.Canonical) (a : Nat) (n : Nat) : (Dev.setNum64 d a n).Canonical := by
  unfold Dev.setNum64
  try dsimp only
  repeat' first | with_reducible assumption | with_reducible apply Dev.setNum_canon | with_reducible refine Dev.canonical_foldl (fun _ _ _ => ?_) ?_ | with_reducible refine Dev.canonical_foldl_snd (fun _ _ _ => ?_) ?_ | simp only [Dev.canonical_mk] | simp only [Dev.canonical_mk_mem] | split | simp only [Dev.canonical_iff] | refine ⟨?_, ?_⟩ | with_reducible apply SMap.wf_filter | with_reducible apply Dev.canonical_words | with_reducible apply SMap.wf_set | with_reducible apply ByteMem.wf_openUp | with_reducible apply ByteMem.wf_openStack | with_reducible apply ByteMem.wf_write | with_reducible refine ByteMem.wf_foldl (fun _ _ _ => ?_) ?_ | with_reducible apply ByteMem.wf_blit | with_reducible exact ByteMem.wf_tidy _ | with_reducible apply Dev.canonical_regs | with_reducible apply Dev.canonical_dram | intro

theorem Dev.setFld_canon {d : Dev} (hd : d.Canonical) (a : Nat) (hi : Nat) (lo : Nat) (v : Nat) : (Dev.setFld d a hi lo v).Canonical := by
  unfold Dev.setFld
  try dsimp only
  repeat' first | with_reducible assumption | with_reducible apply Dev.setNum_canon | with_reducible refine Dev.canonical_foldl (fun _ _ _ => ?_) ?_ | with_reducible refine Dev.canonical_foldl_snd (fun _ _ _ => ?_) ?_ | simp only [Dev.canonical_mk] | simp only [Dev.canonical_mk_mem] | split | simp only [Dev.canonical_iff] | refine ⟨?_, ?_⟩ | with_reducible apply SMap.wf_filter | with_reducible apply Dev.canonical_words | with_reducible apply SMap.wf_set | with_reducible apply ByteMem.wf_openUp | with_reducible apply ByteMem.wf_openStack | with_reducible apply ByteMem.wf_write | with_reducible refine ByteMem.wf_foldl (fun _ _ _ => ?_) ?_ | with_reducible apply ByteMem.wf_blit | with_reducible exact ByteMem.wf_tidy _ | with_reducible apply Dev.canonical_regs | with_reducible apply Dev.canonical_dram | intro

theorem Dev.setFlag_canon {d : Dev} (hd : d.Canonical) (a : Nat) (i : Nat) (b : Bool) : (Dev.setFlag d a i b).Canonical := by
  unfold Dev.setFlag
  try dsimp only
  repeat' first | with_reducible assumption | with_reducible apply Dev.setFld_canon | with_reducible refine Dev.canonical_foldl (fun _ _ _ => ?_) ?_ | with_reducible refine Dev.canonical_foldl_snd (fun _ _ _ => ?_) ?_ | simp only [Dev.canonical_mk] | simp only [Dev.canonical_mk_mem] | split | simp only [Dev.canonical_iff] | refine ⟨?_, ?_⟩ | with_reducible apply SMap.wf_filter | with_reducible apply Dev.canonical_words | with_reducible apply SMap.wf_set | with_reducible apply ByteMem.wf_openUp | with_reducible apply ByteMem.wf_openStack | with_reducible apply ByteMem.wf_write | with_reducible refine ByteMem.wf_foldl (fun _ _ _ => ?_) ?_ | with_reducible apply ByteMem.wf_blit | with_reducible exact ByteMem.wf_tidy _ | with_reducible apply Dev.canonical_regs | with_reducible apply Dev.canonical_dram | intro

theorem Dev.raise_canon {d : Dev} (hd : d.Canonical) (a : Nat) (i : Nat) : (Dev.raise d a i).Canonical := by
  unfold Dev.raise
  try dsimp only
  repeat' first | with_reducible assumption | with_reducible apply Dev.setFlag_canon | with_reducible refine Dev.canonical_foldl (fun _ _ _ => ?_) ?_ | with_reducible refine Dev.canonical_foldl_snd (fun _ _ _ => ?_) ?_ | simp only [Dev.canonical_mk] | simp only [Dev.canonical_mk_mem] | split | simp only [Dev.canonical_iff] | refine ⟨?_, ?_⟩ | with_reducible apply SMap.wf_filter | with_reducible apply Dev.canonical_words | with_reducible apply SMap.wf_set | with_reducible apply ByteMem.wf_openUp | with_reducible apply ByteMem.wf_openStack | with_reducible apply ByteMem.wf_write | with_reducible refine ByteMem.wf_foldl (fun _ _ _ => ?_) ?_ | with_reducible apply ByteMem.wf_blit | with_reducible exact ByteMem.wf_tidy _ | with_reducible apply Dev.canonical_regs | with_reducible apply Dev.canonical_dram | intro

theorem Dev.drop_canon {d : Dev} (hd : d.Canonical) (a : Nat) (i : Nat) : (Dev.drop d a i).Canonical := by
  unfold Dev.drop
  try dsimp only
  repeat' first | with_reducible assumption | with_reducible apply Dev.setFlag_canon | with_reducible refine Dev.canonical_foldl (fun _ _ _ => ?_) ?_ | with_reducible refine Dev.canonical_foldl_snd (fun _ _ _ => ?_) ?_ | simp only [Dev.canonical_mk] | simp only [Dev.canonical_mk_mem] | split | simp only [Dev.canonical_iff] | refine ⟨?_, ?_⟩ | with_reducible apply SMap.wf_filter | with_reducible apply Dev.canonical_words | with_reducible apply SMap.wf_set | with_reducible apply ByteMem.wf_openUp | with_reducible apply ByteMem.wf_openStack | with_reducible apply ByteMem.wf_write | with_reducible refine ByteMem.wf_foldl (fun _ _ _ => ?_) ?_ | with_reducible apply ByteMem.wf_blit | with_reducible exact ByteMem.wf_tidy _ | with_reducible apply Dev.canonical_regs | with_reducible apply Dev.canonical_dram | intro

theorem Dev.countSat_canon {d : Dev} (hd : d.Canonical) (a : Nat) (n : Nat) : (Dev.countSat d a n).Canonical := by
  unfold Dev.countSat
  try dsimp only
  repeat' first | with_reducible assumption | with_reducible apply Dev.setNum_canon | with_reducible refine Dev.canonical_foldl (fun _ _ _ => ?_) ?_ | with_reducible refine Dev.canonical_foldl_snd (fun _ _ _ => ?_) ?_ | simp only [Dev.canonical_mk] | simp only [Dev.canonical_mk_mem] | split | simp only [Dev.canonical_iff] | refine ⟨?_, ?_⟩ | with_reducible apply SMap.wf_filter | with_reducible apply Dev.canonical_words | with_reducible apply SMap.wf_set | with_reducible apply ByteMem.wf_openUp | with_reducible apply ByteMem.wf_openStack | with_reducible apply ByteMem.wf_write | with_reducible refine ByteMem.wf_foldl (fun _ _ _ => ?_) ?_ | with_reducible apply ByteMem.wf_blit | with_reducible exact ByteMem.wf_tidy _ | with_reducible apply Dev.canonical_regs | with_reducible apply Dev.canonical_dram | intro

theorem Dev.count64_canon {d : Dev} (hd : d.Canonical) (a : Nat) (n : Nat) : (Dev.count64 d a n).Canonical := by
  unfold Dev.count64
  try dsimp only
  repeat' first | with_reducible assumption | with_reducible apply Dev.setNum64_canon | with_reducible refine Dev.canonical_foldl (fun _ _ _ => ?_) ?_ | with_reducible refine Dev.canonical_foldl_snd (fun _ _ _ => ?_) ?_ | simp only [Dev.canonical_mk] | simp only [Dev.canonical_mk_mem] | split | simp only [Dev.canonical_iff] | refine ⟨?_, ?_⟩ | with_reducible apply SMap.wf_filter | with_reducible apply Dev.canonical_words | with_reducible apply SMap.wf_set | with_reducible apply ByteMem.wf_openUp | with_reducible apply ByteMem.wf_openStack | with_reducible apply ByteMem.wf_write | with_reducible refine ByteMem.wf_foldl (fun _ _ _ => ?_) ?_ | with_reducible apply ByteMem.wf_blit | with_reducible exact ByteMem.wf_tidy _ | with_reducible apply Dev.canonical_regs | with_reducible apply Dev.canonical_dram | intro

theorem Dev.err_canon {d : Dev} (hd : d.Canonical) (b : Nat) (i : Nat) : (Dev.err d b i).Canonical := by
  unfold Dev.err
  try dsimp only
  repeat' first | with_reducible assumption | with_reducible apply Dev.raise_canon | with_reducible refine Dev.canonical_foldl (fun _ _ _ => ?_) ?_ | with_reducible refine Dev.canonical_foldl_snd (fun _ _ _ => ?_) ?_ | simp only [Dev.canonical_mk] | simp only [Dev.canonical_mk_mem] | split | simp only [Dev.canonical_iff] | refine ⟨?_, ?_⟩ | with_reducible apply SMap.wf_filter | with_reducible apply Dev.canonical_words | with_reducible apply SMap.wf_set | with_reducible apply ByteMem.wf_openUp | with_reducible apply ByteMem.wf_openStack | with_reducible apply ByteMem.wf_write | with_reducible refine ByteMem.wf_foldl (fun _ _ _ => ?_) ?_ | with_reducible apply ByteMem.wf_blit | with_reducible exact ByteMem.wf_tidy _ | with_reducible apply Dev.canonical_regs | with_reducible apply Dev.canonical_dram | intro

theorem Dev.errData_canon {d : Dev} (hd : d.Canonical) (b : Nat) (i : Nat) : (Dev.errData d b i).Canonical := by
  unfold Dev.errData
  try dsimp only
  repeat' first | with_reducible assumption | with_reducible apply Dev.err_canon | with_reducible refine Dev.canonical_foldl (fun _ _ _ => ?_) ?_ | with_reducible refine Dev.canonical_foldl_snd (fun _ _ _ => ?_) ?_ | simp only [Dev.canonical_mk] | simp only [Dev.canonical_mk_mem] | split | simp only [Dev.canonical_iff] | refine ⟨?_, ?_⟩ | with_reducible apply SMap.wf_filter | with_reducible apply Dev.canonical_words | with_reducible apply SMap.wf_set | with_reducible apply ByteMem.wf_openUp | with_reducible apply ByteMem.wf_openStack | with_reducible apply ByteMem.wf_write | with_reducible refine ByteMem.wf_foldl (fun _ _ _ => ?_) ?_ | with_reducible apply ByteMem.wf_blit | with_reducible exact ByteMem.wf_tidy _ | with_reducible apply Dev.canonical_regs | with_reducible apply Dev.canonical_dram | intro

theorem Dev.irq_canon {d : Dev} (hd : d.Canonical) (b : Nat) (i : Nat) : (Dev.irq d b i).Canonical := by
  unfold Dev.irq
  try dsimp only
  repeat' first | with_reducible assumption | with_reducible apply Dev.raise_canon | with_reducible refine Dev.canonical_foldl (fun _ _ _ => ?_) ?_ | with_reducible refine Dev.canonical_foldl_snd (fun _ _ _ => ?_) ?_ | simp only [Dev.canonical_mk] | simp only [Dev.canonical_mk_mem] | split | simp only [Dev.canonical_iff] | refine ⟨?_, ?_⟩ | with_reducible apply SMap.wf_filter | with_reducible apply Dev.canonical_words | with_reducible apply SMap.wf_set | with_reducible apply ByteMem.wf_openUp | with_reducible apply ByteMem.wf_openStack | with_reducible apply ByteMem.wf_write | with_reducible refine ByteMem.wf_foldl (fun _ _ _ => ?_) ?_ | with_reducible apply ByteMem.wf_blit | with_reducible exact ByteMem.wf_tidy _ | with_reducible apply Dev.canonical_regs | with_reducible apply Dev.canonical_dram | intro

theorem Dev.setReady_canon {d : Dev} (hd : d.Canonical) (b : Nat) (v : Bool) : (Dev.setReady d b v).Canonical := by
  unfold Dev.setReady
  try dsimp only
  repeat' first | with_reducible assumption | with_reducible apply Dev.setFlag_canon | with_reducible refine Dev.canonical_foldl (fun _ _ _ => ?_) ?_ | with_reducible refine Dev.canonical_foldl_snd (fun _ _ _ => ?_) ?_ | simp only [Dev.canonical_mk] | simp only [Dev.canonical_mk_mem] | split | simp only [Dev.canonical_iff] | refine ⟨?_, ?_⟩ | with_reducible apply SMap.wf_filter | with_reducible apply Dev.canonical_words | with_reducible apply SMap.wf_set | with_reducible apply ByteMem.wf_openUp | with_reducible apply ByteMem.wf_openStack | with_reducible apply ByteMem.wf_write | with_reducible refine ByteMem.wf_foldl (fun _ _ _ => ?_) ?_ | with_reducible apply ByteMem.wf_blit | with_reducible exact ByteMem.wf_tidy _ | with_reducible apply Dev.canonical_regs | with_reducible apply Dev.canonical_dram | intro

theorem Dev.setBusy_canon {d : Dev} (hd : d.Canonical) (b : Nat) (v : Bool) : (Dev.setBusy d b v).Canonical := by
  unfold Dev.setBusy
  try dsimp only
  repeat' first | with_reducible assumption | with_reducible apply Dev.setFlag_canon | with_reducible refine Dev.canonical_foldl (fun _ _ _ => ?_) ?_ | with_reducible refine Dev.canonical_foldl_snd (fun _ _ _ => ?_) ?_ | simp only [Dev.canonical_mk] | simp only [Dev.canonical_mk_mem] | split | simp only [Dev.canonical_iff] | refine ⟨?_, ?_⟩ | with_reducible apply SMap.wf_filter | with_reducible apply Dev.canonical_words | with_reducible apply SMap.wf_set | with_reducible apply ByteMem.wf_openUp | with_reducible apply ByteMem.wf_openStack | with_reducible apply ByteMem.wf_write | with_reducible refine ByteMem.wf_foldl (fun _ _ _ => ?_) ?_ | with_reducible apply ByteMem.wf_blit | with_reducible exact ByteMem.wf_tidy _ | with_reducible apply Dev.canonical_regs | with_reducible apply Dev.canonical_dram | intro

theorem Dev.setFault_canon {d : Dev} (hd : d.Canonical) (b : Nat) : (Dev.setFault d b).Canonical := by
  unfold Dev.setFault
  try dsimp only
  repeat' first | with_reducible assumption | with_reducible apply Dev.raise_canon | with_reducible apply Dev.drop_canon | with_reducible apply Dev.irq_canon | with_reducible refine Dev.canonical_foldl (fun _ _ _ => ?_) ?_ | with_reducible refine Dev.canonical_foldl_snd (fun _ _ _ => ?_) ?_ | simp only [Dev.canonical_mk] | simp only [Dev.canonical_mk_mem] | split | simp only [Dev.canonical_iff] | refine ⟨?_, ?_⟩ | with_reducible apply SMap.wf_filter | with_reducible apply Dev.canonical_words | with_reducible apply SMap.wf_set | with_reducible apply ByteMem.wf_openUp | with_reducible apply ByteMem.wf_openStack | with_reducible apply ByteMem.wf_write | with_reducible refine ByteMem.wf_foldl (fun _ _ _ => ?_) ?_ | with_reducible apply ByteMem.wf_blit | with_reducible exact ByteMem.wf_tidy _ | with_reducible apply Dev.canonical_regs | with_reducible apply Dev.canonical_dram | intro

theorem Dev.clearFault_canon {d : Dev} (hd : d.Canonical) (b : Nat) : (Dev.clearFault d b).Canonical := by
  unfold Dev.clearFault
  try dsimp only
  repeat' first | with_reducible assumption | with_reducible apply Dev.drop_canon | with_reducible refine Dev.canonical_foldl (fun _ _ _ => ?_) ?_ | with_reducible refine Dev.canonical_foldl_snd (fun _ _ _ => ?_) ?_ | simp only [Dev.canonical_mk] | simp only [Dev.canonical_mk_mem] | split | simp only [Dev.canonical_iff] | refine ⟨?_, ?_⟩ | with_reducible apply SMap.wf_filter | with_reducible apply Dev.canonical_words | with_reducible apply SMap.wf_set | with_reducible apply ByteMem.wf_openUp | with_reducible apply ByteMem.wf_openStack | with_reducible apply ByteMem.wf_write | with_reducible refine ByteMem.wf_foldl (fun _ _ _ => ?_) ?_ | with_reducible apply ByteMem.wf_blit | with_reducible exact ByteMem.wf_tidy _ | with_reducible apply Dev.canonical_regs | with_reducible apply Dev.canonical_dram | intro

theorem Dev.setDegraded_canon {d : Dev} (hd : d.Canonical) (b : Nat) (v : Bool) : (Dev.setDegraded d b v).Canonical := by
  unfold Dev.setDegraded
  try dsimp only
  repeat' first | with_reducible assumption | with_reducible apply Dev.setFlag_canon | with_reducible refine Dev.canonical_foldl (fun _ _ _ => ?_) ?_ | with_reducible refine Dev.canonical_foldl_snd (fun _ _ _ => ?_) ?_ | simp only [Dev.canonical_mk] | simp only [Dev.canonical_mk_mem] | split | simp only [Dev.canonical_iff] | refine ⟨?_, ?_⟩ | with_reducible apply SMap.wf_filter | with_reducible apply Dev.canonical_words | with_reducible apply SMap.wf_set | with_reducible apply ByteMem.wf_openUp | with_reducible apply ByteMem.wf_openStack | with_reducible apply ByteMem.wf_write | with_reducible refine ByteMem.wf_foldl (fun _ _ _ => ?_) ?_ | with_reducible apply ByteMem.wf_blit | with_reducible exact ByteMem.wf_tidy _ | with_reducible apply Dev.canonical_regs | with_reducible apply Dev.canonical_dram | intro

theorem Dev.noteDegraded_canon {d : Dev} (hd : d.Canonical) (b : Nat) (v : Bool) : (Dev.noteDegraded d b v).Canonical := by
  unfold Dev.noteDegraded
  try dsimp only
  repeat' first | with_reducible assumption | with_reducible apply Dev.irq_canon | with_reducible apply Dev.setDegraded_canon | with_reducible refine Dev.canonical_foldl (fun _ _ _ => ?_) ?_ | with_reducible refine Dev.canonical_foldl_snd (fun _ _ _ => ?_) ?_ | simp only [Dev.canonical_mk] | simp only [Dev.canonical_mk_mem] | split | simp only [Dev.canonical_iff] | refine ⟨?_, ?_⟩ | with_reducible apply SMap.wf_filter | with_reducible apply Dev.canonical_words | with_reducible apply SMap.wf_set | with_reducible apply ByteMem.wf_openUp | with_reducible apply ByteMem.wf_openStack | with_reducible apply ByteMem.wf_write | with_reducible refine ByteMem.wf_foldl (fun _ _ _ => ?_) ?_ | with_reducible apply ByteMem.wf_blit | with_reducible exact ByteMem.wf_tidy _ | with_reducible apply Dev.canonical_regs | with_reducible apply Dev.canonical_dram | intro

theorem Dev.lastCode_canon {d : Dev} (hd : d.Canonical) (b : Nat) (code : Nat) : (Dev.lastCode d b code).Canonical := by
  unfold Dev.lastCode
  try dsimp only
  repeat' first | with_reducible assumption | with_reducible apply Dev.setFld_canon | with_reducible refine Dev.canonical_foldl (fun _ _ _ => ?_) ?_ | with_reducible refine Dev.canonical_foldl_snd (fun _ _ _ => ?_) ?_ | simp only [Dev.canonical_mk] | simp only [Dev.canonical_mk_mem] | split | simp only [Dev.canonical_iff] | refine ⟨?_, ?_⟩ | with_reducible apply SMap.wf_filter | with_reducible apply Dev.canonical_words | with_reducible apply SMap.wf_set | with_reducible apply ByteMem.wf_openUp | with_reducible apply ByteMem.wf_openStack | with_reducible apply ByteMem.wf_write | with_reducible refine ByteMem.wf_foldl (fun _ _ _ => ?_) ?_ | with_reducible apply ByteMem.wf_blit | with_reducible exact ByteMem.wf_tidy _ | with_reducible apply Dev.canonical_regs | with_reducible apply Dev.canonical_dram | intro

theorem Dev.startLong_canon {d : Dev} (hd : d.Canonical) (b : Nat) (total : Nat) : (Dev.startLong d b total).Canonical := by
  unfold Dev.startLong
  try dsimp only
  repeat' first | with_reducible assumption | with_reducible apply Dev.setNum_canon | with_reducible apply Dev.setNum64_canon | with_reducible apply Dev.setBusy_canon | with_reducible refine Dev.canonical_foldl (fun _ _ _ => ?_) ?_ | with_reducible refine Dev.canonical_foldl_snd (fun _ _ _ => ?_) ?_ | simp only [Dev.canonical_mk] | simp only [Dev.canonical_mk_mem] | split | simp only [Dev.canonical_iff] | refine ⟨?_, ?_⟩ | with_reducible apply SMap.wf_filter | with_reducible apply Dev.canonical_words | with_reducible apply SMap.wf_set | with_reducible apply ByteMem.wf_openUp | with_reducible apply ByteMem.wf_openStack | with_reducible apply ByteMem.wf_write | with_reducible refine ByteMem.wf_foldl (fun _ _ _ => ?_) ?_ | with_reducible apply ByteMem.wf_blit | with_reducible exact ByteMem.wf_tidy _ | with_reducible apply Dev.canonical_regs | with_reducible apply Dev.canonical_dram | intro

theorem Dev.position_canon {d : Dev} (hd : d.Canonical) (b : Nat) (pos : Nat) : (Dev.position d b pos).Canonical := by
  unfold Dev.position
  try dsimp only
  repeat' first | with_reducible assumption | with_reducible apply Dev.setNum_canon | with_reducible apply Dev.setNum64_canon | with_reducible refine Dev.canonical_foldl (fun _ _ _ => ?_) ?_ | with_reducible refine Dev.canonical_foldl_snd (fun _ _ _ => ?_) ?_ | simp only [Dev.canonical_mk] | simp only [Dev.canonical_mk_mem] | split | simp only [Dev.canonical_iff] | refine ⟨?_, ?_⟩ | with_reducible apply SMap.wf_filter | with_reducible apply Dev.canonical_words | with_reducible apply SMap.wf_set | with_reducible apply ByteMem.wf_openUp | with_reducible apply ByteMem.wf_openStack | with_reducible apply ByteMem.wf_write | with_reducible refine ByteMem.wf_foldl (fun _ _ _ => ?_) ?_ | with_reducible apply ByteMem.wf_blit | with_reducible exact ByteMem.wf_tidy _ | with_reducible apply Dev.canonical_regs | with_reducible apply Dev.canonical_dram | intro

theorem Dev.endLong_canon {d : Dev} (hd : d.Canonical) (b : Nat) (code : Nat) : (Dev.endLong d b code).Canonical := by
  unfold Dev.endLong
  try dsimp only
  repeat' first | with_reducible assumption | with_reducible apply Dev.setBusy_canon | with_reducible apply Dev.lastCode_canon | with_reducible refine Dev.canonical_foldl (fun _ _ _ => ?_) ?_ | with_reducible refine Dev.canonical_foldl_snd (fun _ _ _ => ?_) ?_ | simp only [Dev.canonical_mk] | simp only [Dev.canonical_mk_mem] | split | simp only [Dev.canonical_iff] | refine ⟨?_, ?_⟩ | with_reducible apply SMap.wf_filter | with_reducible apply Dev.canonical_words | with_reducible apply SMap.wf_set | with_reducible apply ByteMem.wf_openUp | with_reducible apply ByteMem.wf_openStack | with_reducible apply ByteMem.wf_write | with_reducible refine ByteMem.wf_foldl (fun _ _ _ => ?_) ?_ | with_reducible apply ByteMem.wf_blit | with_reducible exact ByteMem.wf_tidy _ | with_reducible apply Dev.canonical_regs | with_reducible apply Dev.canonical_dram | intro

theorem Dev.setNow_canon {d : Dev} (hd : d.Canonical) (t : Nat) : (Dev.setNow d t).Canonical := by
  unfold Dev.setNow
  try dsimp only
  repeat' first | with_reducible assumption | with_reducible apply Dev.setNum64_canon | with_reducible refine Dev.canonical_foldl (fun _ _ _ => ?_) ?_ | with_reducible refine Dev.canonical_foldl_snd (fun _ _ _ => ?_) ?_ | simp only [Dev.canonical_mk] | simp only [Dev.canonical_mk_mem] | split | simp only [Dev.canonical_iff] | refine ⟨?_, ?_⟩ | with_reducible apply SMap.wf_filter | with_reducible apply Dev.canonical_words | with_reducible apply SMap.wf_set | with_reducible apply ByteMem.wf_openUp | with_reducible apply ByteMem.wf_openStack | with_reducible apply ByteMem.wf_write | with_reducible refine ByteMem.wf_foldl (fun _ _ _ => ?_) ?_ | with_reducible apply ByteMem.wf_blit | with_reducible exact ByteMem.wf_tidy _ | with_reducible apply Dev.canonical_regs | with_reducible apply Dev.canonical_dram | intro

theorem Dev.advanceTo_canon {d : Dev} (hd : d.Canonical) (t : Nat) : (Dev.advanceTo d t).Canonical := by
  unfold Dev.advanceTo
  try dsimp only
  repeat' first | with_reducible assumption | with_reducible apply Dev.setNow_canon | with_reducible refine Dev.canonical_foldl (fun _ _ _ => ?_) ?_ | with_reducible refine Dev.canonical_foldl_snd (fun _ _ _ => ?_) ?_ | simp only [Dev.canonical_mk] | simp only [Dev.canonical_mk_mem] | split | simp only [Dev.canonical_iff] | refine ⟨?_, ?_⟩ | with_reducible apply SMap.wf_filter | with_reducible apply Dev.canonical_words | with_reducible apply SMap.wf_set | with_reducible apply ByteMem.wf_openUp | with_reducible apply ByteMem.wf_openStack | with_reducible apply ByteMem.wf_write | with_reducible refine ByteMem.wf_foldl (fun _ _ _ => ?_) ?_ | with_reducible apply ByteMem.wf_blit | with_reducible exact ByteMem.wf_tidy _ | with_reducible apply Dev.canonical_regs | with_reducible apply Dev.canonical_dram | intro

theorem Dev.freshWord_canon {d : Dev} (hd : d.Canonical) : (Dev.freshWord d).2.Canonical := by
  unfold Dev.freshWord
  try dsimp only
  repeat' first | with_reducible assumption | with_reducible refine Dev.canonical_foldl (fun _ _ _ => ?_) ?_ | with_reducible refine Dev.canonical_foldl_snd (fun _ _ _ => ?_) ?_ | simp only [Dev.canonical_mk] | simp only [Dev.canonical_mk_mem] | split | simp only [Dev.canonical_iff] | refine ⟨?_, ?_⟩ | with_reducible apply SMap.wf_filter | with_reducible apply Dev.canonical_words | with_reducible apply SMap.wf_set | with_reducible apply ByteMem.wf_openUp | with_reducible apply ByteMem.wf_openStack | with_reducible apply ByteMem.wf_write | with_reducible refine ByteMem.wf_foldl (fun _ _ _ => ?_) ?_ | with_reducible apply ByteMem.wf_blit | with_reducible exact ByteMem.wf_tidy _ | with_reducible apply Dev.canonical_regs | with_reducible apply Dev.canonical_dram | intro

theorem Dev.freshNat_canon {d : Dev} (hd : d.Canonical) : (Dev.freshNat d).2.Canonical := by
  unfold Dev.freshNat
  try dsimp only
  repeat' first | with_reducible assumption | with_reducible refine Dev.canonical_foldl (fun _ _ _ => ?_) ?_ | with_reducible refine Dev.canonical_foldl_snd (fun _ _ _ => ?_) ?_ | simp only [Dev.canonical_mk] | simp only [Dev.canonical_mk_mem] | split | simp only [Dev.canonical_iff] | refine ⟨?_, ?_⟩ | with_reducible apply SMap.wf_filter | with_reducible apply Dev.canonical_words | with_reducible apply SMap.wf_set | with_reducible apply ByteMem.wf_openUp | with_reducible apply ByteMem.wf_openStack | with_reducible apply ByteMem.wf_write | with_reducible refine ByteMem.wf_foldl (fun _ _ _ => ?_) ?_ | with_reducible apply ByteMem.wf_blit | with_reducible exact ByteMem.wf_tidy _ | with_reducible apply Dev.canonical_regs | with_reducible apply Dev.canonical_dram | intro

theorem Dev.countFree64_canon {d : Dev} (hd : d.Canonical) (a : Nat) : (Dev.countFree64 d a).Canonical := by
  unfold Dev.countFree64
  try dsimp only
  repeat' first | with_reducible assumption | with_reducible apply Dev.count64_canon | with_reducible apply Dev.freshNat_canon | with_reducible refine Dev.canonical_foldl (fun _ _ _ => ?_) ?_ | with_reducible refine Dev.canonical_foldl_snd (fun _ _ _ => ?_) ?_ | simp only [Dev.canonical_mk] | simp only [Dev.canonical_mk_mem] | split | simp only [Dev.canonical_iff] | refine ⟨?_, ?_⟩ | with_reducible apply SMap.wf_filter | with_reducible apply Dev.canonical_words | with_reducible apply SMap.wf_set | with_reducible apply ByteMem.wf_openUp | with_reducible apply ByteMem.wf_openStack | with_reducible apply ByteMem.wf_write | with_reducible refine ByteMem.wf_foldl (fun _ _ _ => ?_) ?_ | with_reducible apply ByteMem.wf_blit | with_reducible exact ByteMem.wf_tidy _ | with_reducible apply Dev.canonical_regs | with_reducible apply Dev.canonical_dram | intro

end Sys2Proof.Machine
end

