-- ==== Sys2Proof/Laws/CanonBeatOps.lean ====
section
/-!
SUPPORT. Every operation of Machine/BeatOps.lean keeps the canonical form.
-/
namespace Sys2Proof.Machine

theorem Dev.openRanges_canon {d : Dev} (hd : d.Canonical) (ws : List (Nat × Nat)) : (Dev.openRanges d ws).Canonical := by
  unfold Dev.openRanges
  try dsimp only
  repeat' first | with_reducible assumption | with_reducible refine Dev.canonical_foldl (fun _ _ _ => ?_) ?_ | with_reducible refine Dev.canonical_foldl_snd (fun _ _ _ => ?_) ?_ | simp only [Dev.canonical_mk] | simp only [Dev.canonical_mk_mem] | split | simp only [Dev.canonical_iff] | refine ⟨?_, ?_⟩ | with_reducible apply SMap.wf_filter | with_reducible apply Dev.canonical_words | with_reducible apply SMap.wf_set | with_reducible apply ByteMem.wf_openUp | with_reducible apply ByteMem.wf_openStack | with_reducible apply ByteMem.wf_write | with_reducible refine ByteMem.wf_foldl (fun _ _ _ => ?_) ?_ | with_reducible apply ByteMem.wf_blit | with_reducible exact ByteMem.wf_tidy _ | with_reducible apply Dev.canonical_regs | with_reducible apply Dev.canonical_dram | intro

theorem Dev.openWindows_canon {d : Dev} (hd : d.Canonical) (i : Image) : (Dev.openWindows d i).Canonical := by
  unfold Dev.openWindows
  try dsimp only
  repeat' first | with_reducible assumption | with_reducible apply Dev.openRanges_canon | with_reducible refine Dev.canonical_foldl (fun _ _ _ => ?_) ?_ | with_reducible refine Dev.canonical_foldl_snd (fun _ _ _ => ?_) ?_ | simp only [Dev.canonical_mk] | simp only [Dev.canonical_mk_mem] | split | simp only [Dev.canonical_iff] | refine ⟨?_, ?_⟩ | with_reducible apply SMap.wf_filter | with_reducible apply Dev.canonical_words | with_reducible apply SMap.wf_set | with_reducible apply ByteMem.wf_openUp | with_reducible apply ByteMem.wf_openStack | with_reducible apply ByteMem.wf_write | with_reducible refine ByteMem.wf_foldl (fun _ _ _ => ?_) ?_ | with_reducible apply ByteMem.wf_blit | with_reducible exact ByteMem.wf_tidy _ | with_reducible apply Dev.canonical_regs | with_reducible apply Dev.canonical_dram | intro

theorem Dev.beatFail_canon {d : Dev} (hd : d.Canonical) (code : Nat) (fblk : Nat) (faddr : Nat) : (Dev.beatFail d code fblk faddr).Canonical := by
  unfold Dev.beatFail
  try dsimp only
  repeat' first | with_reducible assumption | with_reducible apply Dev.openWindows_canon | with_reducible refine Dev.canonical_foldl (fun _ _ _ => ?_) ?_ | with_reducible refine Dev.canonical_foldl_snd (fun _ _ _ => ?_) ?_ | simp only [Dev.canonical_mk] | simp only [Dev.canonical_mk_mem] | split | simp only [Dev.canonical_iff] | refine ⟨?_, ?_⟩ | with_reducible apply SMap.wf_filter | with_reducible apply Dev.canonical_words | with_reducible apply SMap.wf_set | with_reducible apply ByteMem.wf_openUp | with_reducible apply ByteMem.wf_openStack | with_reducible apply ByteMem.wf_write | with_reducible refine ByteMem.wf_foldl (fun _ _ _ => ?_) ?_ | with_reducible apply ByteMem.wf_blit | with_reducible exact ByteMem.wf_tidy _ | with_reducible apply Dev.canonical_regs | with_reducible apply Dev.canonical_dram | intro

theorem Dev.success_canon {d : Dev} (hd : d.Canonical) (code : Nat) : (Dev.success d code).Canonical := by
  unfold Dev.success
  try dsimp only
  repeat' first | with_reducible assumption | with_reducible refine Dev.canonical_foldl (fun _ _ _ => ?_) ?_ | with_reducible refine Dev.canonical_foldl_snd (fun _ _ _ => ?_) ?_ | simp only [Dev.canonical_mk] | simp only [Dev.canonical_mk_mem] | split | simp only [Dev.canonical_iff] | refine ⟨?_, ?_⟩ | with_reducible apply SMap.wf_filter | with_reducible apply Dev.canonical_words | with_reducible apply SMap.wf_set | with_reducible apply ByteMem.wf_openUp | with_reducible apply ByteMem.wf_openStack | with_reducible apply ByteMem.wf_write | with_reducible refine ByteMem.wf_foldl (fun _ _ _ => ?_) ?_ | with_reducible apply ByteMem.wf_blit | with_reducible exact ByteMem.wf_tidy _ | with_reducible apply Dev.canonical_regs | with_reducible apply Dev.canonical_dram | intro

theorem Dev.countIssue_canon {d : Dev} (hd : d.Canonical) : (Dev.countIssue d).Canonical := by
  unfold Dev.countIssue
  try dsimp only
  repeat' first | with_reducible assumption | with_reducible refine Dev.canonical_foldl (fun _ _ _ => ?_) ?_ | with_reducible refine Dev.canonical_foldl_snd (fun _ _ _ => ?_) ?_ | simp only [Dev.canonical_mk] | simp only [Dev.canonical_mk_mem] | split | simp only [Dev.canonical_iff] | refine ⟨?_, ?_⟩ | with_reducible apply SMap.wf_filter | with_reducible apply Dev.canonical_words | with_reducible apply SMap.wf_set | with_reducible apply ByteMem.wf_openUp | with_reducible apply ByteMem.wf_openStack | with_reducible apply ByteMem.wf_write | with_reducible refine ByteMem.wf_foldl (fun _ _ _ => ?_) ?_ | with_reducible apply ByteMem.wf_blit | with_reducible exact ByteMem.wf_tidy _ | with_reducible apply Dev.canonical_regs | with_reducible apply Dev.canonical_dram | intro

end Sys2Proof.Machine
end

