-- ==== Sys2Proof/Laws/CanonMem.lean ====
section
/-!
SUPPORT. Every operation of Machine/Mem.lean keeps the canonical form.
-/
namespace Sys2Proof.Machine

theorem Dev.mscTouch_canon {d : Dev} (hd : d.Canonical) (blk : Nat) (isWrite : Bool) (bytes : Nat) : (Dev.mscTouch d blk isWrite bytes).Canonical := by
  unfold Dev.mscTouch
  try dsimp only
  repeat' first | with_reducible assumption | with_reducible apply Dev.count64_canon | with_reducible refine Dev.canonical_foldl (fun _ _ _ => ?_) ?_ | with_reducible refine Dev.canonical_foldl_snd (fun _ _ _ => ?_) ?_ | simp only [Dev.canonical_mk] | simp only [Dev.canonical_mk_mem] | split | simp only [Dev.canonical_iff] | refine ⟨?_, ?_⟩ | with_reducible apply SMap.wf_filter | with_reducible apply Dev.canonical_words | with_reducible apply SMap.wf_set | with_reducible apply ByteMem.wf_openUp | with_reducible apply ByteMem.wf_openStack | with_reducible apply ByteMem.wf_write | with_reducible refine ByteMem.wf_foldl (fun _ _ _ => ?_) ?_ | with_reducible apply ByteMem.wf_blit | with_reducible exact ByteMem.wf_tidy _ | with_reducible apply Dev.canonical_regs | with_reducible apply Dev.canonical_dram | intro

theorem Dev.listBad_canon {d : Dev} (hd : d.Canonical) (blk : Nat) : (Dev.listBad d blk).Canonical := by
  unfold Dev.listBad
  try dsimp only
  repeat' first | with_reducible assumption | with_reducible apply Dev.drop_canon | with_reducible apply Dev.err_canon | with_reducible apply Dev.setDegraded_canon | with_reducible refine Dev.canonical_foldl (fun _ _ _ => ?_) ?_ | with_reducible refine Dev.canonical_foldl_snd (fun _ _ _ => ?_) ?_ | simp only [Dev.canonical_mk] | simp only [Dev.canonical_mk_mem] | split | simp only [Dev.canonical_iff] | refine ⟨?_, ?_⟩ | with_reducible apply SMap.wf_filter | with_reducible apply Dev.canonical_words | with_reducible apply SMap.wf_set | with_reducible apply ByteMem.wf_openUp | with_reducible apply ByteMem.wf_openStack | with_reducible apply ByteMem.wf_write | with_reducible refine ByteMem.wf_foldl (fun _ _ _ => ?_) ?_ | with_reducible apply ByteMem.wf_blit | with_reducible exact ByteMem.wf_tidy _ | with_reducible apply Dev.canonical_regs | with_reducible apply Dev.canonical_dram | intro

theorem Dev.noteUE_canon {d : Dev} (hd : d.Canonical) (blk : Nat) : (Dev.noteUE d blk).Canonical := by
  unfold Dev.noteUE
  try dsimp only
  repeat' first | with_reducible assumption | with_reducible apply Dev.setNum64_canon | with_reducible apply Dev.countSat_canon | with_reducible apply Dev.err_canon | with_reducible apply Dev.listBad_canon | with_reducible refine Dev.canonical_foldl (fun _ _ _ => ?_) ?_ | with_reducible refine Dev.canonical_foldl_snd (fun _ _ _ => ?_) ?_ | simp only [Dev.canonical_mk] | simp only [Dev.canonical_mk_mem] | split | simp only [Dev.canonical_iff] | refine ⟨?_, ?_⟩ | with_reducible apply SMap.wf_filter | with_reducible apply Dev.canonical_words | with_reducible apply SMap.wf_set | with_reducible apply ByteMem.wf_openUp | with_reducible apply ByteMem.wf_openStack | with_reducible apply ByteMem.wf_write | with_reducible refine ByteMem.wf_foldl (fun _ _ _ => ?_) ?_ | with_reducible apply ByteMem.wf_blit | with_reducible exact ByteMem.wf_tidy _ | with_reducible apply Dev.canonical_regs | with_reducible apply Dev.canonical_dram | intro

theorem Dev.pinnedBad_canon {d : Dev} (hd : d.Canonical) (blk : Nat) : (Dev.pinnedBad d blk).Canonical := by
  unfold Dev.pinnedBad
  try dsimp only
  repeat' first | with_reducible assumption | with_reducible apply Dev.setNum64_canon | with_reducible apply Dev.errData_canon | with_reducible refine Dev.canonical_foldl (fun _ _ _ => ?_) ?_ | with_reducible refine Dev.canonical_foldl_snd (fun _ _ _ => ?_) ?_ | simp only [Dev.canonical_mk] | simp only [Dev.canonical_mk_mem] | split | simp only [Dev.canonical_iff] | refine ⟨?_, ?_⟩ | with_reducible apply SMap.wf_filter | with_reducible apply Dev.canonical_words | with_reducible apply SMap.wf_set | with_reducible apply ByteMem.wf_openUp | with_reducible apply ByteMem.wf_openStack | with_reducible apply ByteMem.wf_write | with_reducible refine ByteMem.wf_foldl (fun _ _ _ => ?_) ?_ | with_reducible apply ByteMem.wf_blit | with_reducible exact ByteMem.wf_tidy _ | with_reducible apply Dev.canonical_regs | with_reducible apply Dev.canonical_dram | intro

theorem Dev.pinnedFail_canon {d : Dev} (hd : d.Canonical) (blk : Nat) : (Dev.pinnedFail d blk).Canonical := by
  unfold Dev.pinnedFail
  try dsimp only
  repeat' first | with_reducible assumption | with_reducible apply Dev.beatFail_canon | with_reducible apply Dev.pinnedBad_canon | with_reducible refine Dev.canonical_foldl (fun _ _ _ => ?_) ?_ | with_reducible refine Dev.canonical_foldl_snd (fun _ _ _ => ?_) ?_ | simp only [Dev.canonical_mk] | simp only [Dev.canonical_mk_mem] | split | simp only [Dev.canonical_iff] | refine ⟨?_, ?_⟩ | with_reducible apply SMap.wf_filter | with_reducible apply Dev.canonical_words | with_reducible apply SMap.wf_set | with_reducible apply ByteMem.wf_openUp | with_reducible apply ByteMem.wf_openStack | with_reducible apply ByteMem.wf_write | with_reducible refine ByteMem.wf_foldl (fun _ _ _ => ?_) ?_ | with_reducible apply ByteMem.wf_blit | with_reducible exact ByteMem.wf_tidy _ | with_reducible apply Dev.canonical_regs | with_reducible apply Dev.canonical_dram | intro

theorem Dev.readBlock_canon {d : Dev} (hd : d.Canonical) (blk : Nat) : (Dev.readBlock d blk).Canonical := by
  unfold Dev.readBlock
  try dsimp only
  repeat' first | with_reducible assumption | with_reducible apply Dev.beatFail_canon | with_reducible apply Dev.mscTouch_canon | with_reducible apply Dev.noteUE_canon | with_reducible apply Dev.pinnedFail_canon | with_reducible refine Dev.canonical_foldl (fun _ _ _ => ?_) ?_ | with_reducible refine Dev.canonical_foldl_snd (fun _ _ _ => ?_) ?_ | simp only [Dev.canonical_mk] | simp only [Dev.canonical_mk_mem] | split | simp only [Dev.canonical_iff] | refine ⟨?_, ?_⟩ | with_reducible apply SMap.wf_filter | with_reducible apply Dev.canonical_words | with_reducible apply SMap.wf_set | with_reducible apply ByteMem.wf_openUp | with_reducible apply ByteMem.wf_openStack | with_reducible apply ByteMem.wf_write | with_reducible refine ByteMem.wf_foldl (fun _ _ _ => ?_) ?_ | with_reducible apply ByteMem.wf_blit | with_reducible exact ByteMem.wf_tidy _ | with_reducible apply Dev.canonical_regs | with_reducible apply Dev.canonical_dram | intro

theorem Dev.engRead_canon {d : Dev} (hd : d.Canonical) (a : Nat) (n : Nat) : (Dev.engRead d a n).2.Canonical := by
  unfold Dev.engRead
  try dsimp only
  repeat' first | with_reducible assumption | with_reducible apply Dev.readBlock_canon | with_reducible refine Dev.canonical_foldl (fun _ _ _ => ?_) ?_ | with_reducible refine Dev.canonical_foldl_snd (fun _ _ _ => ?_) ?_ | simp only [Dev.canonical_mk] | simp only [Dev.canonical_mk_mem] | split | simp only [Dev.canonical_iff] | refine ⟨?_, ?_⟩ | with_reducible apply SMap.wf_filter | with_reducible apply Dev.canonical_words | with_reducible apply SMap.wf_set | with_reducible apply ByteMem.wf_openUp | with_reducible apply ByteMem.wf_openStack | with_reducible apply ByteMem.wf_write | with_reducible refine ByteMem.wf_foldl (fun _ _ _ => ?_) ?_ | with_reducible apply ByteMem.wf_blit | with_reducible exact ByteMem.wf_tidy _ | with_reducible apply Dev.canonical_regs | with_reducible apply Dev.canonical_dram | intro

theorem Dev.writeBlock_canon (a : Nat) (n : Nat) {d : Dev} (hd : d.Canonical) (blk : Nat) : (Dev.writeBlock a n d blk).Canonical := by
  unfold Dev.writeBlock
  try dsimp only
  repeat' first | with_reducible assumption | with_reducible apply Dev.mscTouch_canon | with_reducible refine Dev.canonical_foldl (fun _ _ _ => ?_) ?_ | with_reducible refine Dev.canonical_foldl_snd (fun _ _ _ => ?_) ?_ | simp only [Dev.canonical_mk] | simp only [Dev.canonical_mk_mem] | split | simp only [Dev.canonical_iff] | refine ⟨?_, ?_⟩ | with_reducible apply SMap.wf_filter | with_reducible apply Dev.canonical_words | with_reducible apply SMap.wf_set | with_reducible apply ByteMem.wf_openUp | with_reducible apply ByteMem.wf_openStack | with_reducible apply ByteMem.wf_write | with_reducible refine ByteMem.wf_foldl (fun _ _ _ => ?_) ?_ | with_reducible apply ByteMem.wf_blit | with_reducible exact ByteMem.wf_tidy _ | with_reducible apply Dev.canonical_regs | with_reducible apply Dev.canonical_dram | intro

theorem Dev.memWrite_canon {d : Dev} (hd : d.Canonical) (a : Nat) (bs : List Byte) : (Dev.memWrite d a bs).Canonical := by
  unfold Dev.memWrite
  try dsimp only
  repeat' first | with_reducible assumption | with_reducible apply Dev.writeBlock_canon | with_reducible refine Dev.canonical_foldl (fun _ _ _ => ?_) ?_ | with_reducible refine Dev.canonical_foldl_snd (fun _ _ _ => ?_) ?_ | simp only [Dev.canonical_mk] | simp only [Dev.canonical_mk_mem] | split | simp only [Dev.canonical_iff] | refine ⟨?_, ?_⟩ | with_reducible apply SMap.wf_filter | with_reducible apply Dev.canonical_words | with_reducible apply SMap.wf_set | with_reducible apply ByteMem.wf_openUp | with_reducible apply ByteMem.wf_openStack | with_reducible apply ByteMem.wf_write | with_reducible refine ByteMem.wf_foldl (fun _ _ _ => ?_) ?_ | with_reducible apply ByteMem.wf_blit | with_reducible exact ByteMem.wf_tidy _ | with_reducible apply Dev.canonical_regs | with_reducible apply Dev.canonical_dram | intro

theorem Dev.memBlit_canon {d : Dev} (hd : d.Canonical) (src : ByteMem) (lo : Nat) (n : Nat) (a : Nat) : (Dev.memBlit d src lo n a).Canonical := by
  unfold Dev.memBlit
  try dsimp only
  repeat' first | with_reducible assumption | with_reducible apply Dev.writeBlock_canon | with_reducible refine Dev.canonical_foldl (fun _ _ _ => ?_) ?_ | with_reducible refine Dev.canonical_foldl_snd (fun _ _ _ => ?_) ?_ | simp only [Dev.canonical_mk] | simp only [Dev.canonical_mk_mem] | split | simp only [Dev.canonical_iff] | refine ⟨?_, ?_⟩ | with_reducible apply SMap.wf_filter | with_reducible apply Dev.canonical_words | with_reducible apply SMap.wf_set | with_reducible apply ByteMem.wf_openUp | with_reducible apply ByteMem.wf_openStack | with_reducible apply ByteMem.wf_write | with_reducible refine ByteMem.wf_foldl (fun _ _ _ => ?_) ?_ | with_reducible apply ByteMem.wf_blit | with_reducible exact ByteMem.wf_tidy _ | with_reducible apply Dev.canonical_regs | with_reducible apply Dev.canonical_dram | intro

theorem Dev.engWrite_canon {d : Dev} (hd : d.Canonical) (a : Nat) (bs : List Byte) (fblk : Nat) : (Dev.engWrite d a bs fblk).Canonical := by
  unfold Dev.engWrite
  try dsimp only
  repeat' first | with_reducible assumption | with_reducible apply Dev.beatFail_canon | with_reducible apply Dev.memWrite_canon | with_reducible refine Dev.canonical_foldl (fun _ _ _ => ?_) ?_ | with_reducible refine Dev.canonical_foldl_snd (fun _ _ _ => ?_) ?_ | simp only [Dev.canonical_mk] | simp only [Dev.canonical_mk_mem] | split | simp only [Dev.canonical_iff] | refine ⟨?_, ?_⟩ | with_reducible apply SMap.wf_filter | with_reducible apply Dev.canonical_words | with_reducible apply SMap.wf_set | with_reducible apply ByteMem.wf_openUp | with_reducible apply ByteMem.wf_openStack | with_reducible apply ByteMem.wf_write | with_reducible refine ByteMem.wf_foldl (fun _ _ _ => ?_) ?_ | with_reducible apply ByteMem.wf_blit | with_reducible exact ByteMem.wf_tidy _ | with_reducible apply Dev.canonical_regs | with_reducible apply Dev.canonical_dram | intro

theorem Dev.quietTouch_canon {d : Dev} (hd : d.Canonical) (a : Nat) (n : Nat) : (Dev.quietTouch d a n).2.Canonical := by
  unfold Dev.quietTouch
  try dsimp only
  repeat' first | with_reducible assumption | with_reducible apply Dev.mscTouch_canon | with_reducible apply Dev.noteUE_canon | with_reducible apply Dev.pinnedBad_canon | with_reducible refine Dev.canonical_foldl (fun _ _ _ => ?_) ?_ | with_reducible refine Dev.canonical_foldl_snd (fun _ _ _ => ?_) ?_ | simp only [Dev.canonical_mk] | simp only [Dev.canonical_mk_mem] | split | simp only [Dev.canonical_iff] | refine ⟨?_, ?_⟩ | with_reducible apply SMap.wf_filter | with_reducible apply Dev.canonical_words | with_reducible apply SMap.wf_set | with_reducible apply ByteMem.wf_openUp | with_reducible apply ByteMem.wf_openStack | with_reducible apply ByteMem.wf_write | with_reducible refine ByteMem.wf_foldl (fun _ _ _ => ?_) ?_ | with_reducible apply ByteMem.wf_blit | with_reducible exact ByteMem.wf_tidy _ | with_reducible apply Dev.canonical_regs | with_reducible apply Dev.canonical_dram | intro

theorem Dev.quietRead_canon {d : Dev} (hd : d.Canonical) (a : Nat) (n : Nat) : (Dev.quietRead d a n).2.2.Canonical := by
  unfold Dev.quietRead
  try dsimp only
  repeat' first | with_reducible assumption | with_reducible apply Dev.quietTouch_canon | with_reducible refine Dev.canonical_foldl (fun _ _ _ => ?_) ?_ | with_reducible refine Dev.canonical_foldl_snd (fun _ _ _ => ?_) ?_ | simp only [Dev.canonical_mk] | simp only [Dev.canonical_mk_mem] | split | simp only [Dev.canonical_iff] | refine ⟨?_, ?_⟩ | with_reducible apply SMap.wf_filter | with_reducible apply Dev.canonical_words | with_reducible apply SMap.wf_set | with_reducible apply ByteMem.wf_openUp | with_reducible apply ByteMem.wf_openStack | with_reducible apply ByteMem.wf_write | with_reducible refine ByteMem.wf_foldl (fun _ _ _ => ?_) ?_ | with_reducible apply ByteMem.wf_blit | with_reducible exact ByteMem.wf_tidy _ | with_reducible apply Dev.canonical_regs | with_reducible apply Dev.canonical_dram | intro

end Sys2Proof.Machine
end

