-- ==== Sys2Proof/Laws/CanonAccess.lean ====
section
/-!
SUPPORT. Every operation of Machine/Access.lean keeps the canonical form.
-/
namespace Sys2Proof.Machine

theorem Dev.setWvl_canon {d : Dev} (hd : d.Canonical) (k : Nat) (w : Wvl) : (Dev.setWvl d k w).Canonical := by
  unfold Dev.setWvl
  try dsimp only
  repeat' first | with_reducible assumption | with_reducible refine Dev.canonical_foldl (fun _ _ _ => ?_) ?_ | with_reducible refine Dev.canonical_foldl_snd (fun _ _ _ => ?_) ?_ | simp only [Dev.canonical_mk] | simp only [Dev.canonical_mk_mem] | split | simp only [Dev.canonical_iff] | refine ⟨?_, ?_⟩ | with_reducible apply SMap.wf_filter | with_reducible apply Dev.canonical_words | with_reducible apply SMap.wf_set | with_reducible apply ByteMem.wf_openUp | with_reducible apply ByteMem.wf_openStack | with_reducible apply ByteMem.wf_write | with_reducible refine ByteMem.wf_foldl (fun _ _ _ => ?_) ?_ | with_reducible apply ByteMem.wf_blit | with_reducible exact ByteMem.wf_tidy _ | with_reducible apply Dev.canonical_regs | with_reducible apply Dev.canonical_dram | intro

theorem Dev.setScb_canon {d : Dev} (hd : d.Canonical) (k : Nat) (w : Scb) : (Dev.setScb d k w).Canonical := by
  unfold Dev.setScb
  try dsimp only
  repeat' first | with_reducible assumption | with_reducible refine Dev.canonical_foldl (fun _ _ _ => ?_) ?_ | with_reducible refine Dev.canonical_foldl_snd (fun _ _ _ => ?_) ?_ | simp only [Dev.canonical_mk] | simp only [Dev.canonical_mk_mem] | split | simp only [Dev.canonical_iff] | refine ⟨?_, ?_⟩ | with_reducible apply SMap.wf_filter | with_reducible apply Dev.canonical_words | with_reducible apply SMap.wf_set | with_reducible apply ByteMem.wf_openUp | with_reducible apply ByteMem.wf_openStack | with_reducible apply ByteMem.wf_write | with_reducible refine ByteMem.wf_foldl (fun _ _ _ => ?_) ?_ | with_reducible apply ByteMem.wf_blit | with_reducible exact ByteMem.wf_tidy _ | with_reducible apply Dev.canonical_regs | with_reducible apply Dev.canonical_dram | intro

theorem Dev.setTls_canon {d : Dev} (hd : d.Canonical) (k : Nat) (w : Tls) : (Dev.setTls d k w).Canonical := by
  unfold Dev.setTls
  try dsimp only
  repeat' first | with_reducible assumption | with_reducible refine Dev.canonical_foldl (fun _ _ _ => ?_) ?_ | with_reducible refine Dev.canonical_foldl_snd (fun _ _ _ => ?_) ?_ | simp only [Dev.canonical_mk] | simp only [Dev.canonical_mk_mem] | split | simp only [Dev.canonical_iff] | refine ⟨?_, ?_⟩ | with_reducible apply SMap.wf_filter | with_reducible apply Dev.canonical_words | with_reducible apply SMap.wf_set | with_reducible apply ByteMem.wf_openUp | with_reducible apply ByteMem.wf_openStack | with_reducible apply ByteMem.wf_write | with_reducible refine ByteMem.wf_foldl (fun _ _ _ => ?_) ?_ | with_reducible apply ByteMem.wf_blit | with_reducible exact ByteMem.wf_tidy _ | with_reducible apply Dev.canonical_regs | with_reducible apply Dev.canonical_dram | intro

theorem Dev.setBank_canon {d : Dev} (hd : d.Canonical) (c : Nat) (b : Nat) (v : Bank) : (Dev.setBank d c b v).Canonical := by
  unfold Dev.setBank
  try dsimp only
  repeat' first | with_reducible assumption | with_reducible refine Dev.canonical_foldl (fun _ _ _ => ?_) ?_ | with_reducible refine Dev.canonical_foldl_snd (fun _ _ _ => ?_) ?_ | simp only [Dev.canonical_mk] | simp only [Dev.canonical_mk_mem] | split | simp only [Dev.canonical_iff] | refine ⟨?_, ?_⟩ | with_reducible apply SMap.wf_filter | with_reducible apply Dev.canonical_words | with_reducible apply SMap.wf_set | with_reducible apply ByteMem.wf_openUp | with_reducible apply ByteMem.wf_openStack | with_reducible apply ByteMem.wf_write | with_reducible refine ByteMem.wf_foldl (fun _ _ _ => ?_) ?_ | with_reducible apply ByteMem.wf_blit | with_reducible exact ByteMem.wf_tidy _ | with_reducible apply Dev.canonical_regs | with_reducible apply Dev.canonical_dram | intro

theorem Dev.setSlot_canon {d : Dev} (hd : d.Canonical) (i : Nat) (v : StagSlot) : (Dev.setSlot d i v).Canonical := by
  unfold Dev.setSlot
  try dsimp only
  repeat' first | with_reducible assumption | with_reducible refine Dev.canonical_foldl (fun _ _ _ => ?_) ?_ | with_reducible refine Dev.canonical_foldl_snd (fun _ _ _ => ?_) ?_ | simp only [Dev.canonical_mk] | simp only [Dev.canonical_mk_mem] | split | simp only [Dev.canonical_iff] | refine ⟨?_, ?_⟩ | with_reducible apply SMap.wf_filter | with_reducible apply Dev.canonical_words | with_reducible apply SMap.wf_set | with_reducible apply ByteMem.wf_openUp | with_reducible apply ByteMem.wf_openStack | with_reducible apply ByteMem.wf_write | with_reducible refine ByteMem.wf_foldl (fun _ _ _ => ?_) ?_ | with_reducible apply ByteMem.wf_blit | with_reducible exact ByteMem.wf_tidy _ | with_reducible apply Dev.canonical_regs | with_reducible apply Dev.canonical_dram | intro

theorem Dev.setFeed_canon {d : Dev} (hd : d.Canonical) (f : Nat) (v : Feed) : (Dev.setFeed d f v).Canonical := by
  unfold Dev.setFeed
  try dsimp only
  repeat' first | with_reducible assumption | with_reducible refine Dev.canonical_foldl (fun _ _ _ => ?_) ?_ | with_reducible refine Dev.canonical_foldl_snd (fun _ _ _ => ?_) ?_ | simp only [Dev.canonical_mk] | simp only [Dev.canonical_mk_mem] | split | simp only [Dev.canonical_iff] | refine ⟨?_, ?_⟩ | with_reducible apply SMap.wf_filter | with_reducible apply Dev.canonical_words | with_reducible apply SMap.wf_set | with_reducible apply ByteMem.wf_openUp | with_reducible apply ByteMem.wf_openStack | with_reducible apply ByteMem.wf_write | with_reducible refine ByteMem.wf_foldl (fun _ _ _ => ?_) ?_ | with_reducible apply ByteMem.wf_blit | with_reducible exact ByteMem.wf_tidy _ | with_reducible apply Dev.canonical_regs | with_reducible apply Dev.canonical_dram | intro

theorem Dev.setStream_canon {d : Dev} (hd : d.Canonical) (s : Nat) (v : Stream) : (Dev.setStream d s v).Canonical := by
  unfold Dev.setStream
  try dsimp only
  repeat' first | with_reducible assumption | with_reducible refine Dev.canonical_foldl (fun _ _ _ => ?_) ?_ | with_reducible refine Dev.canonical_foldl_snd (fun _ _ _ => ?_) ?_ | simp only [Dev.canonical_mk] | simp only [Dev.canonical_mk_mem] | split | simp only [Dev.canonical_iff] | refine ⟨?_, ?_⟩ | with_reducible apply SMap.wf_filter | with_reducible apply Dev.canonical_words | with_reducible apply SMap.wf_set | with_reducible apply ByteMem.wf_openUp | with_reducible apply ByteMem.wf_openStack | with_reducible apply ByteMem.wf_write | with_reducible refine ByteMem.wf_foldl (fun _ _ _ => ?_) ?_ | with_reducible apply ByteMem.wf_blit | with_reducible exact ByteMem.wf_tidy _ | with_reducible apply Dev.canonical_regs | with_reducible apply Dev.canonical_dram | intro

theorem Dev.setPort_canon {d : Dev} (hd : d.Canonical) (p : Nat) (v : Port) : (Dev.setPort d p v).Canonical := by
  unfold Dev.setPort
  try dsimp only
  repeat' first | with_reducible assumption | with_reducible refine Dev.canonical_foldl (fun _ _ _ => ?_) ?_ | with_reducible refine Dev.canonical_foldl_snd (fun _ _ _ => ?_) ?_ | simp only [Dev.canonical_mk] | simp only [Dev.canonical_mk_mem] | split | simp only [Dev.canonical_iff] | refine ⟨?_, ?_⟩ | with_reducible apply SMap.wf_filter | with_reducible apply Dev.canonical_words | with_reducible apply SMap.wf_set | with_reducible apply ByteMem.wf_openUp | with_reducible apply ByteMem.wf_openStack | with_reducible apply ByteMem.wf_write | with_reducible refine ByteMem.wf_foldl (fun _ _ _ => ?_) ?_ | with_reducible apply ByteMem.wf_blit | with_reducible exact ByteMem.wf_tidy _ | with_reducible apply Dev.canonical_regs | with_reducible apply Dev.canonical_dram | intro

theorem Dev.setIrqState_canon {d : Dev} (hd : d.Canonical) (n : Nat) (v : IrqState) : (Dev.setIrqState d n v).Canonical := by
  unfold Dev.setIrqState
  try dsimp only
  repeat' first | with_reducible assumption | with_reducible refine Dev.canonical_foldl (fun _ _ _ => ?_) ?_ | with_reducible refine Dev.canonical_foldl_snd (fun _ _ _ => ?_) ?_ | simp only [Dev.canonical_mk] | simp only [Dev.canonical_mk_mem] | split | simp only [Dev.canonical_iff] | refine ⟨?_, ?_⟩ | with_reducible apply SMap.wf_filter | with_reducible apply Dev.canonical_words | with_reducible apply SMap.wf_set | with_reducible apply ByteMem.wf_openUp | with_reducible apply ByteMem.wf_openStack | with_reducible apply ByteMem.wf_write | with_reducible refine ByteMem.wf_foldl (fun _ _ _ => ?_) ?_ | with_reducible apply ByteMem.wf_blit | with_reducible exact ByteMem.wf_tidy _ | with_reducible apply Dev.canonical_regs | with_reducible apply Dev.canonical_dram | intro

theorem Dev.clearPage_canon {d : Dev} (hd : d.Canonical) (b : Nat) (keep : Nat → Bool) : (Dev.clearPage d b keep).Canonical := by
  unfold Dev.clearPage
  try dsimp only
  repeat' first | with_reducible assumption | with_reducible refine Dev.canonical_foldl (fun _ _ _ => ?_) ?_ | with_reducible refine Dev.canonical_foldl_snd (fun _ _ _ => ?_) ?_ | simp only [Dev.canonical_mk] | simp only [Dev.canonical_mk_mem] | split | simp only [Dev.canonical_iff] | refine ⟨?_, ?_⟩ | with_reducible apply SMap.wf_filter | with_reducible apply Dev.canonical_words | with_reducible apply SMap.wf_set | with_reducible apply ByteMem.wf_openUp | with_reducible apply ByteMem.wf_openStack | with_reducible apply ByteMem.wf_write | with_reducible refine ByteMem.wf_foldl (fun _ _ _ => ?_) ?_ | with_reducible apply ByteMem.wf_blit | with_reducible exact ByteMem.wf_tidy _ | with_reducible apply Dev.canonical_regs | with_reducible apply Dev.canonical_dram | intro

theorem Dev.clearWords_canon {d : Dev} (hd : d.Canonical) (os : List Nat) : (Dev.clearWords d os).Canonical := by
  unfold Dev.clearWords
  try dsimp only
  repeat' first | with_reducible assumption | with_reducible refine Dev.canonical_foldl (fun _ _ _ => ?_) ?_ | with_reducible refine Dev.canonical_foldl_snd (fun _ _ _ => ?_) ?_ | simp only [Dev.canonical_mk] | simp only [Dev.canonical_mk_mem] | split | simp only [Dev.canonical_iff] | refine ⟨?_, ?_⟩ | with_reducible apply SMap.wf_filter | with_reducible apply Dev.canonical_words | with_reducible apply SMap.wf_set | with_reducible apply ByteMem.wf_openUp | with_reducible apply ByteMem.wf_openStack | with_reducible apply ByteMem.wf_write | with_reducible refine ByteMem.wf_foldl (fun _ _ _ => ?_) ?_ | with_reducible apply ByteMem.wf_blit | with_reducible exact ByteMem.wf_tidy _ | with_reducible apply Dev.canonical_regs | with_reducible apply Dev.canonical_dram | intro

theorem Dev.readyAll_canon {d : Dev} (hd : d.Canonical) (bs : List Nat) (v : Bool) : (Dev.readyAll d bs v).Canonical := by
  unfold Dev.readyAll
  try dsimp only
  repeat' first | with_reducible assumption | with_reducible apply Dev.setReady_canon | with_reducible refine Dev.canonical_foldl (fun _ _ _ => ?_) ?_ | with_reducible refine Dev.canonical_foldl_snd (fun _ _ _ => ?_) ?_ | simp only [Dev.canonical_mk] | simp only [Dev.canonical_mk_mem] | split | simp only [Dev.canonical_iff] | refine ⟨?_, ?_⟩ | with_reducible apply SMap.wf_filter | with_reducible apply Dev.canonical_words | with_reducible apply SMap.wf_set | with_reducible apply ByteMem.wf_openUp | with_reducible apply ByteMem.wf_openStack | with_reducible apply ByteMem.wf_write | with_reducible refine ByteMem.wf_foldl (fun _ _ _ => ?_) ?_ | with_reducible apply ByteMem.wf_blit | with_reducible exact ByteMem.wf_tidy _ | with_reducible apply Dev.canonical_regs | with_reducible apply Dev.canonical_dram | intro

end Sys2Proof.Machine
end

