-- ==== Sys2Proof/Laws/CanonResets.lean ====
section
/-!
SUPPORT. Every operation of Machine/Resets.lean keeps the canonical form.
-/
namespace Sys2Proof.Machine

theorem Dev.clearCell_canon {d : Dev} (hd : d.Canonical) (c : Nat) : (Dev.clearCell d c).Canonical := by
  unfold Dev.clearCell
  try dsimp only
  repeat' first | with_reducible assumption | with_reducible refine Dev.canonical_foldl (fun _ _ _ => ?_) ?_ | with_reducible refine Dev.canonical_foldl_snd (fun _ _ _ => ?_) ?_ | simp only [Dev.canonical_mk] | simp only [Dev.canonical_mk_mem] | split | simp only [Dev.canonical_iff] | refine ⟨?_, ?_⟩ | with_reducible apply SMap.wf_filter | with_reducible apply Dev.canonical_words | with_reducible apply SMap.wf_set | with_reducible apply ByteMem.wf_openUp | with_reducible apply ByteMem.wf_openStack | with_reducible apply ByteMem.wf_write | with_reducible refine ByteMem.wf_foldl (fun _ _ _ => ?_) ?_ | with_reducible apply ByteMem.wf_blit | with_reducible exact ByteMem.wf_tidy _ | with_reducible apply Dev.canonical_regs | with_reducible apply Dev.canonical_dram | intro

theorem Dev.clearWvl_canon {d : Dev} (hd : d.Canonical) (k : Nat) : (Dev.clearWvl d k).Canonical := by
  unfold Dev.clearWvl
  try dsimp only
  repeat' first | with_reducible assumption | with_reducible apply Dev.setWvl_canon | with_reducible refine Dev.canonical_foldl (fun _ _ _ => ?_) ?_ | with_reducible refine Dev.canonical_foldl_snd (fun _ _ _ => ?_) ?_ | simp only [Dev.canonical_mk] | simp only [Dev.canonical_mk_mem] | split | simp only [Dev.canonical_iff] | refine ⟨?_, ?_⟩ | with_reducible apply SMap.wf_filter | with_reducible apply Dev.canonical_words | with_reducible apply SMap.wf_set | with_reducible apply ByteMem.wf_openUp | with_reducible apply ByteMem.wf_openStack | with_reducible apply ByteMem.wf_write | with_reducible refine ByteMem.wf_foldl (fun _ _ _ => ?_) ?_ | with_reducible apply ByteMem.wf_blit | with_reducible exact ByteMem.wf_tidy _ | with_reducible apply Dev.canonical_regs | with_reducible apply Dev.canonical_dram | intro

theorem Dev.clearScb_canon {d : Dev} (hd : d.Canonical) (k : Nat) : (Dev.clearScb d k).Canonical := by
  unfold Dev.clearScb
  try dsimp only
  repeat' first | with_reducible assumption | with_reducible apply Dev.setScb_canon | with_reducible refine Dev.canonical_foldl (fun _ _ _ => ?_) ?_ | with_reducible refine Dev.canonical_foldl_snd (fun _ _ _ => ?_) ?_ | simp only [Dev.canonical_mk] | simp only [Dev.canonical_mk_mem] | split | simp only [Dev.canonical_iff] | refine ⟨?_, ?_⟩ | with_reducible apply SMap.wf_filter | with_reducible apply Dev.canonical_words | with_reducible apply SMap.wf_set | with_reducible apply ByteMem.wf_openUp | with_reducible apply ByteMem.wf_openStack | with_reducible apply ByteMem.wf_write | with_reducible refine ByteMem.wf_foldl (fun _ _ _ => ?_) ?_ | with_reducible apply ByteMem.wf_blit | with_reducible exact ByteMem.wf_tidy _ | with_reducible apply Dev.canonical_regs | with_reducible apply Dev.canonical_dram | intro

theorem Dev.clearTls_canon {d : Dev} (hd : d.Canonical) (k : Nat) : (Dev.clearTls d k).Canonical := by
  unfold Dev.clearTls
  try dsimp only
  repeat' first | with_reducible assumption | with_reducible apply Dev.setTls_canon | with_reducible apply Dev.clearWords_canon | with_reducible refine Dev.canonical_foldl (fun _ _ _ => ?_) ?_ | with_reducible refine Dev.canonical_foldl_snd (fun _ _ _ => ?_) ?_ | simp only [Dev.canonical_mk] | simp only [Dev.canonical_mk_mem] | split | simp only [Dev.canonical_iff] | refine ⟨?_, ?_⟩ | with_reducible apply SMap.wf_filter | with_reducible apply Dev.canonical_words | with_reducible apply SMap.wf_set | with_reducible apply ByteMem.wf_openUp | with_reducible apply ByteMem.wf_openStack | with_reducible apply ByteMem.wf_write | with_reducible refine ByteMem.wf_foldl (fun _ _ _ => ?_) ?_ | with_reducible apply ByteMem.wf_blit | with_reducible exact ByteMem.wf_tidy _ | with_reducible apply Dev.canonical_regs | with_reducible apply Dev.canonical_dram | intro

theorem Dev.clearCluster_canon {d : Dev} (hd : d.Canonical) (k : Nat) : (Dev.clearCluster d k).Canonical := by
  unfold Dev.clearCluster
  try dsimp only
  repeat' first | with_reducible assumption | with_reducible apply Dev.clearCell_canon | with_reducible apply Dev.clearWvl_canon | with_reducible apply Dev.clearScb_canon | with_reducible apply Dev.clearTls_canon | with_reducible refine Dev.canonical_foldl (fun _ _ _ => ?_) ?_ | with_reducible refine Dev.canonical_foldl_snd (fun _ _ _ => ?_) ?_ | simp only [Dev.canonical_mk] | simp only [Dev.canonical_mk_mem] | split | simp only [Dev.canonical_iff] | refine ⟨?_, ?_⟩ | with_reducible apply SMap.wf_filter | with_reducible apply Dev.canonical_words | with_reducible apply SMap.wf_set | with_reducible apply ByteMem.wf_openUp | with_reducible apply ByteMem.wf_openStack | with_reducible apply ByteMem.wf_write | with_reducible refine ByteMem.wf_foldl (fun _ _ _ => ?_) ?_ | with_reducible apply ByteMem.wf_blit | with_reducible exact ByteMem.wf_tidy _ | with_reducible apply Dev.canonical_regs | with_reducible apply Dev.canonical_dram | intro

theorem Dev.clearPartition_canon {d : Dev} (hd : d.Canonical) (p : Nat) : (Dev.clearPartition d p).Canonical := by
  unfold Dev.clearPartition
  try dsimp only
  repeat' first | with_reducible assumption | with_reducible apply Dev.clearWords_canon | with_reducible apply Dev.clearCluster_canon | with_reducible refine Dev.canonical_foldl (fun _ _ _ => ?_) ?_ | with_reducible refine Dev.canonical_foldl_snd (fun _ _ _ => ?_) ?_ | simp only [Dev.canonical_mk] | simp only [Dev.canonical_mk_mem] | split | simp only [Dev.canonical_iff] | refine ⟨?_, ?_⟩ | with_reducible apply SMap.wf_filter | with_reducible apply Dev.canonical_words | with_reducible apply SMap.wf_set | with_reducible apply ByteMem.wf_openUp | with_reducible apply ByteMem.wf_openStack | with_reducible apply ByteMem.wf_write | with_reducible refine ByteMem.wf_foldl (fun _ _ _ => ?_) ?_ | with_reducible apply ByteMem.wf_blit | with_reducible exact ByteMem.wf_tidy _ | with_reducible apply Dev.canonical_regs | with_reducible apply Dev.canonical_dram | intro

theorem Dev.clearSyn_canon {d : Dev} (hd : d.Canonical) (g : Nat) : (Dev.clearSyn d g).Canonical := by
  unfold Dev.clearSyn
  try dsimp only
  repeat' first | with_reducible assumption | with_reducible apply Dev.clearPage_canon | with_reducible refine Dev.canonical_foldl (fun _ _ _ => ?_) ?_ | with_reducible refine Dev.canonical_foldl_snd (fun _ _ _ => ?_) ?_ | simp only [Dev.canonical_mk] | simp only [Dev.canonical_mk_mem] | split | simp only [Dev.canonical_iff] | refine ⟨?_, ?_⟩ | with_reducible apply SMap.wf_filter | with_reducible apply Dev.canonical_words | with_reducible apply SMap.wf_set | with_reducible apply ByteMem.wf_openUp | with_reducible apply ByteMem.wf_openStack | with_reducible apply ByteMem.wf_write | with_reducible refine ByteMem.wf_foldl (fun _ _ _ => ?_) ?_ | with_reducible apply ByteMem.wf_blit | with_reducible exact ByteMem.wf_tidy _ | with_reducible apply Dev.canonical_regs | with_reducible apply Dev.canonical_dram | intro

theorem Dev.clearStag_canon {d : Dev} (hd : d.Canonical) : (Dev.clearStag d).Canonical := by
  unfold Dev.clearStag
  try dsimp only
  repeat' first | with_reducible assumption | with_reducible apply Dev.clearPage_canon | with_reducible refine Dev.canonical_foldl (fun _ _ _ => ?_) ?_ | with_reducible refine Dev.canonical_foldl_snd (fun _ _ _ => ?_) ?_ | simp only [Dev.canonical_mk] | simp only [Dev.canonical_mk_mem] | split | simp only [Dev.canonical_iff] | refine ⟨?_, ?_⟩ | with_reducible apply SMap.wf_filter | with_reducible apply Dev.canonical_words | with_reducible apply SMap.wf_set | with_reducible apply ByteMem.wf_openUp | with_reducible apply ByteMem.wf_openStack | with_reducible apply ByteMem.wf_write | with_reducible refine ByteMem.wf_foldl (fun _ _ _ => ?_) ?_ | with_reducible apply ByteMem.wf_blit | with_reducible exact ByteMem.wf_tidy _ | with_reducible apply Dev.canonical_regs | with_reducible apply Dev.canonical_dram | intro

theorem Dev.clearOnDie_canon {d : Dev} (hd : d.Canonical) : (Dev.clearOnDie d).Canonical := by
  unfold Dev.clearOnDie
  try dsimp only
  repeat' first | with_reducible assumption | with_reducible apply Dev.clearWords_canon | with_reducible refine Dev.canonical_foldl (fun _ _ _ => ?_) ?_ | with_reducible refine Dev.canonical_foldl_snd (fun _ _ _ => ?_) ?_ | simp only [Dev.canonical_mk] | simp only [Dev.canonical_mk_mem] | split | simp only [Dev.canonical_iff] | refine ⟨?_, ?_⟩ | with_reducible apply SMap.wf_filter | with_reducible apply Dev.canonical_words | with_reducible apply SMap.wf_set | with_reducible apply ByteMem.wf_openUp | with_reducible apply ByteMem.wf_openStack | with_reducible apply ByteMem.wf_write | with_reducible refine ByteMem.wf_foldl (fun _ _ _ => ?_) ?_ | with_reducible apply ByteMem.wf_blit | with_reducible exact ByteMem.wf_tidy _ | with_reducible apply Dev.canonical_regs | with_reducible apply Dev.canonical_dram | intro

theorem Dev.absorb_canon {d : Dev} (hd : d.Canonical) : (Dev.absorb d).Canonical := by
  unfold Dev.absorb
  try dsimp only
  repeat' first | with_reducible assumption | with_reducible apply Dev.countSat_canon | with_reducible refine Dev.canonical_foldl (fun _ _ _ => ?_) ?_ | with_reducible refine Dev.canonical_foldl_snd (fun _ _ _ => ?_) ?_ | simp only [Dev.canonical_mk] | simp only [Dev.canonical_mk_mem] | split | simp only [Dev.canonical_iff] | refine ⟨?_, ?_⟩ | with_reducible apply SMap.wf_filter | with_reducible apply Dev.canonical_words | with_reducible apply SMap.wf_set | with_reducible apply ByteMem.wf_openUp | with_reducible apply ByteMem.wf_openStack | with_reducible apply ByteMem.wf_write | with_reducible refine ByteMem.wf_foldl (fun _ _ _ => ?_) ?_ | with_reducible apply ByteMem.wf_blit | with_reducible exact ByteMem.wf_tidy _ | with_reducible apply Dev.canonical_regs | with_reducible apply Dev.canonical_dram | intro

theorem Dev.readPool_canon {d : Dev} (hd : d.Canonical) (t : Nat) : (Dev.readPool d t).Canonical := by
  unfold Dev.readPool
  try dsimp only
  repeat' first | with_reducible assumption | with_reducible apply Dev.setNum_canon | with_reducible apply Dev.quietRead_canon | with_reducible refine Dev.canonical_foldl (fun _ _ _ => ?_) ?_ | with_reducible refine Dev.canonical_foldl_snd (fun _ _ _ => ?_) ?_ | simp only [Dev.canonical_mk] | simp only [Dev.canonical_mk_mem] | split | simp only [Dev.canonical_iff] | refine ⟨?_, ?_⟩ | with_reducible apply SMap.wf_filter | with_reducible apply Dev.canonical_words | with_reducible apply SMap.wf_set | with_reducible apply ByteMem.wf_openUp | with_reducible apply ByteMem.wf_openStack | with_reducible apply ByteMem.wf_write | with_reducible refine ByteMem.wf_foldl (fun _ _ _ => ?_) ?_ | with_reducible apply ByteMem.wf_blit | with_reducible exact ByteMem.wf_tidy _ | with_reducible apply Dev.canonical_regs | with_reducible apply Dev.canonical_dram | intro

theorem Dev.clearHive_canon {d : Dev} (hd : d.Canonical) : (Dev.clearHive d).Canonical := by
  unfold Dev.clearHive
  try dsimp only
  repeat' first | with_reducible assumption | with_reducible apply Dev.setNum_canon | with_reducible apply Dev.setFld_canon | with_reducible apply Dev.drop_canon | with_reducible apply Dev.clearOnDie_canon | with_reducible refine Dev.canonical_foldl (fun _ _ _ => ?_) ?_ | with_reducible refine Dev.canonical_foldl_snd (fun _ _ _ => ?_) ?_ | simp only [Dev.canonical_mk] | simp only [Dev.canonical_mk_mem] | split | simp only [Dev.canonical_iff] | refine ⟨?_, ?_⟩ | with_reducible apply SMap.wf_filter | with_reducible apply Dev.canonical_words | with_reducible apply SMap.wf_set | with_reducible apply ByteMem.wf_openUp | with_reducible apply ByteMem.wf_openStack | with_reducible apply ByteMem.wf_write | with_reducible refine ByteMem.wf_foldl (fun _ _ _ => ?_) ?_ | with_reducible apply ByteMem.wf_blit | with_reducible exact ByteMem.wf_tidy _ | with_reducible apply Dev.canonical_regs | with_reducible apply Dev.canonical_dram | intro

theorem Dev.hiveReleased_canon {d : Dev} (hd : d.Canonical) : (Dev.hiveReleased d).Canonical := by
  unfold Dev.hiveReleased
  try dsimp only
  repeat' first | with_reducible assumption | with_reducible apply Dev.readPool_canon | with_reducible refine Dev.canonical_foldl (fun _ _ _ => ?_) ?_ | with_reducible refine Dev.canonical_foldl_snd (fun _ _ _ => ?_) ?_ | simp only [Dev.canonical_mk] | simp only [Dev.canonical_mk_mem] | split | simp only [Dev.canonical_iff] | refine ⟨?_, ?_⟩ | with_reducible apply SMap.wf_filter | with_reducible apply Dev.canonical_words | with_reducible apply SMap.wf_set | with_reducible apply ByteMem.wf_openUp | with_reducible apply ByteMem.wf_openStack | with_reducible apply ByteMem.wf_write | with_reducible refine ByteMem.wf_foldl (fun _ _ _ => ?_) ?_ | with_reducible apply ByteMem.wf_blit | with_reducible exact ByteMem.wf_tidy _ | with_reducible apply Dev.canonical_regs | with_reducible apply Dev.canonical_dram | intro

theorem Dev.dropFlitState_canon {d : Dev} (hd : d.Canonical) (p : Nat) : (Dev.dropFlitState d p).Canonical := by
  unfold Dev.dropFlitState
  try dsimp only
  repeat' first | with_reducible assumption | with_reducible apply Dev.setPort_canon | with_reducible refine Dev.canonical_foldl (fun _ _ _ => ?_) ?_ | with_reducible refine Dev.canonical_foldl_snd (fun _ _ _ => ?_) ?_ | simp only [Dev.canonical_mk] | simp only [Dev.canonical_mk_mem] | split | simp only [Dev.canonical_iff] | refine ⟨?_, ?_⟩ | with_reducible apply SMap.wf_filter | with_reducible apply Dev.canonical_words | with_reducible apply SMap.wf_set | with_reducible apply ByteMem.wf_openUp | with_reducible apply ByteMem.wf_openStack | with_reducible apply ByteMem.wf_write | with_reducible refine ByteMem.wf_foldl (fun _ _ _ => ?_) ?_ | with_reducible apply ByteMem.wf_blit | with_reducible exact ByteMem.wf_tidy _ | with_reducible apply Dev.canonical_regs | with_reducible apply Dev.canonical_dram | intro

theorem Dev.clearLnk_canon {d : Dev} (hd : d.Canonical) (p : Nat) : (Dev.clearLnk d p).Canonical := by
  unfold Dev.clearLnk
  try dsimp only
  repeat' first | with_reducible assumption | with_reducible apply Dev.setFld_canon | with_reducible apply Dev.irq_canon | with_reducible apply Dev.clearFault_canon | with_reducible apply Dev.setDegraded_canon | with_reducible apply Dev.dropFlitState_canon | with_reducible refine Dev.canonical_foldl (fun _ _ _ => ?_) ?_ | with_reducible refine Dev.canonical_foldl_snd (fun _ _ _ => ?_) ?_ | simp only [Dev.canonical_mk] | simp only [Dev.canonical_mk_mem] | split | simp only [Dev.canonical_iff] | refine ⟨?_, ?_⟩ | with_reducible apply SMap.wf_filter | with_reducible apply Dev.canonical_words | with_reducible apply SMap.wf_set | with_reducible apply ByteMem.wf_openUp | with_reducible apply ByteMem.wf_openStack | with_reducible apply ByteMem.wf_write | with_reducible refine ByteMem.wf_foldl (fun _ _ _ => ?_) ?_ | with_reducible apply ByteMem.wf_blit | with_reducible exact ByteMem.wf_tidy _ | with_reducible apply Dev.canonical_regs | with_reducible apply Dev.canonical_dram | intro

theorem Dev.clearStk_canon {d : Dev} (hd : d.Canonical) (s : Nat) : (Dev.clearStk d s).Canonical := by
  unfold Dev.clearStk
  try dsimp only
  repeat' first | with_reducible assumption | with_reducible apply Dev.setNum_canon | with_reducible apply Dev.setNum64_canon | with_reducible apply Dev.clearFault_canon | with_reducible apply Dev.setDegraded_canon | with_reducible refine Dev.canonical_foldl (fun _ _ _ => ?_) ?_ | with_reducible refine Dev.canonical_foldl_snd (fun _ _ _ => ?_) ?_ | simp only [Dev.canonical_mk] | simp only [Dev.canonical_mk_mem] | split | simp only [Dev.canonical_iff] | refine ⟨?_, ?_⟩ | with_reducible apply SMap.wf_filter | with_reducible apply Dev.canonical_words | with_reducible apply SMap.wf_set | with_reducible apply ByteMem.wf_openUp | with_reducible apply ByteMem.wf_openStack | with_reducible apply ByteMem.wf_write | with_reducible refine ByteMem.wf_foldl (fun _ _ _ => ?_) ?_ | with_reducible apply ByteMem.wf_blit | with_reducible exact ByteMem.wf_tidy _ | with_reducible apply Dev.canonical_regs | with_reducible apply Dev.canonical_dram | intro

theorem Dev.clearMsc_canon {d : Dev} (hd : d.Canonical) (s : Nat) : (Dev.clearMsc d s).Canonical := by
  unfold Dev.clearMsc
  try dsimp only
  repeat' first | with_reducible assumption | with_reducible apply Dev.count64_canon | with_reducible apply Dev.pinnedFail_canon | with_reducible refine Dev.canonical_foldl (fun _ _ _ => ?_) ?_ | with_reducible refine Dev.canonical_foldl_snd (fun _ _ _ => ?_) ?_ | simp only [Dev.canonical_mk] | simp only [Dev.canonical_mk_mem] | split | simp only [Dev.canonical_iff] | refine ⟨?_, ?_⟩ | with_reducible apply SMap.wf_filter | with_reducible apply Dev.canonical_words | with_reducible apply SMap.wf_set | with_reducible apply ByteMem.wf_openUp | with_reducible apply ByteMem.wf_openStack | with_reducible apply ByteMem.wf_write | with_reducible refine ByteMem.wf_foldl (fun _ _ _ => ?_) ?_ | with_reducible apply ByteMem.wf_blit | with_reducible exact ByteMem.wf_tidy _ | with_reducible apply Dev.canonical_regs | with_reducible apply Dev.canonical_dram | intro

theorem Dev.clearForager_canon {d : Dev} (hd : d.Canonical) : (Dev.clearForager d).Canonical := by
  unfold Dev.clearForager
  try dsimp only
  repeat' first | with_reducible assumption | with_reducible apply Dev.setFlag_canon | with_reducible apply Dev.absorb_canon | with_reducible refine Dev.canonical_foldl (fun _ _ _ => ?_) ?_ | with_reducible refine Dev.canonical_foldl_snd (fun _ _ _ => ?_) ?_ | simp only [Dev.canonical_mk] | simp only [Dev.canonical_mk_mem] | split | simp only [Dev.canonical_iff] | refine ⟨?_, ?_⟩ | with_reducible apply SMap.wf_filter | with_reducible apply Dev.canonical_words | with_reducible apply SMap.wf_set | with_reducible apply ByteMem.wf_openUp | with_reducible apply ByteMem.wf_openStack | with_reducible apply ByteMem.wf_write | with_reducible refine ByteMem.wf_foldl (fun _ _ _ => ?_) ?_ | with_reducible apply ByteMem.wf_blit | with_reducible exact ByteMem.wf_tidy _ | with_reducible apply Dev.canonical_regs | with_reducible apply Dev.canonical_dram | intro

theorem Dev.clearApx_canon {d : Dev} (hd : d.Canonical) : (Dev.clearApx d).Canonical := by
  unfold Dev.clearApx
  try dsimp only
  repeat' first | with_reducible assumption | with_reducible apply Dev.drop_canon | with_reducible apply Dev.clearWords_canon | with_reducible refine Dev.canonical_foldl (fun _ _ _ => ?_) ?_ | with_reducible refine Dev.canonical_foldl_snd (fun _ _ _ => ?_) ?_ | simp only [Dev.canonical_mk] | simp only [Dev.canonical_mk_mem] | split | simp only [Dev.canonical_iff] | refine ⟨?_, ?_⟩ | with_reducible apply SMap.wf_filter | with_reducible apply Dev.canonical_words | with_reducible apply SMap.wf_set | with_reducible apply ByteMem.wf_openUp | with_reducible apply ByteMem.wf_openStack | with_reducible apply ByteMem.wf_write | with_reducible refine ByteMem.wf_foldl (fun _ _ _ => ?_) ?_ | with_reducible apply ByteMem.wf_blit | with_reducible exact ByteMem.wf_tidy _ | with_reducible apply Dev.canonical_regs | with_reducible apply Dev.canonical_dram | intro

theorem Dev.clearPwr_canon {d : Dev} (hd : d.Canonical) : (Dev.clearPwr d).Canonical := by
  unfold Dev.clearPwr
  try dsimp only
  repeat' first | with_reducible assumption | with_reducible apply Dev.setFld_canon | with_reducible apply Dev.clearWords_canon | with_reducible refine Dev.canonical_foldl (fun _ _ _ => ?_) ?_ | with_reducible refine Dev.canonical_foldl_snd (fun _ _ _ => ?_) ?_ | simp only [Dev.canonical_mk] | simp only [Dev.canonical_mk_mem] | split | simp only [Dev.canonical_iff] | refine ⟨?_, ?_⟩ | with_reducible apply SMap.wf_filter | with_reducible apply Dev.canonical_words | with_reducible apply SMap.wf_set | with_reducible apply ByteMem.wf_openUp | with_reducible apply ByteMem.wf_openStack | with_reducible apply ByteMem.wf_write | with_reducible refine ByteMem.wf_foldl (fun _ _ _ => ?_) ?_ | with_reducible apply ByteMem.wf_blit | with_reducible exact ByteMem.wf_tidy _ | with_reducible apply Dev.canonical_regs | with_reducible apply Dev.canonical_dram | intro

theorem Dev.clearFfy_canon {d : Dev} (hd : d.Canonical) : (Dev.clearFfy d).Canonical := by
  unfold Dev.clearFfy
  try dsimp only
  repeat' first | with_reducible assumption | with_reducible apply Dev.setIrqState_canon | with_reducible refine Dev.canonical_foldl (fun _ _ _ => ?_) ?_ | with_reducible refine Dev.canonical_foldl_snd (fun _ _ _ => ?_) ?_ | simp only [Dev.canonical_mk] | simp only [Dev.canonical_mk_mem] | split | simp only [Dev.canonical_iff] | refine ⟨?_, ?_⟩ | with_reducible apply SMap.wf_filter | with_reducible apply Dev.canonical_words | with_reducible apply SMap.wf_set | with_reducible apply ByteMem.wf_openUp | with_reducible apply ByteMem.wf_openStack | with_reducible apply ByteMem.wf_write | with_reducible refine ByteMem.wf_foldl (fun _ _ _ => ?_) ?_ | with_reducible apply ByteMem.wf_blit | with_reducible exact ByteMem.wf_tidy _ | with_reducible apply Dev.canonical_regs | with_reducible apply Dev.canonical_dram | intro

theorem Dev.cpReset_canon {d : Dev} (hd : d.Canonical) (c : Nat) : (Dev.cpReset d c).Canonical := by
  unfold Dev.cpReset
  try dsimp only
  repeat' first | with_reducible assumption | with_reducible apply Dev.setNum64_canon | with_reducible apply Dev.setFld_canon | with_reducible refine Dev.canonical_foldl (fun _ _ _ => ?_) ?_ | with_reducible refine Dev.canonical_foldl_snd (fun _ _ _ => ?_) ?_ | simp only [Dev.canonical_mk] | simp only [Dev.canonical_mk_mem] | split | simp only [Dev.canonical_iff] | refine ⟨?_, ?_⟩ | with_reducible apply SMap.wf_filter | with_reducible apply Dev.canonical_words | with_reducible apply SMap.wf_set | with_reducible apply ByteMem.wf_openUp | with_reducible apply ByteMem.wf_openStack | with_reducible apply ByteMem.wf_write | with_reducible refine ByteMem.wf_foldl (fun _ _ _ => ?_) ?_ | with_reducible apply ByteMem.wf_blit | with_reducible exact ByteMem.wf_tidy _ | with_reducible apply Dev.canonical_regs | with_reducible apply Dev.canonical_dram | intro

theorem Dev.cpStart_canon {d : Dev} (hd : d.Canonical) (c : Nat) : (Dev.cpStart d c).Canonical := by
  unfold Dev.cpStart
  try dsimp only
  repeat' first | with_reducible assumption | with_reducible apply Dev.setFld_canon | with_reducible refine Dev.canonical_foldl (fun _ _ _ => ?_) ?_ | with_reducible refine Dev.canonical_foldl_snd (fun _ _ _ => ?_) ?_ | simp only [Dev.canonical_mk] | simp only [Dev.canonical_mk_mem] | split | simp only [Dev.canonical_iff] | refine ⟨?_, ?_⟩ | with_reducible apply SMap.wf_filter | with_reducible apply Dev.canonical_words | with_reducible apply SMap.wf_set | with_reducible apply ByteMem.wf_openUp | with_reducible apply ByteMem.wf_openStack | with_reducible apply ByteMem.wf_write | with_reducible refine ByteMem.wf_foldl (fun _ _ _ => ?_) ?_ | with_reducible apply ByteMem.wf_blit | with_reducible exact ByteMem.wf_tidy _ | with_reducible apply Dev.canonical_regs | with_reducible apply Dev.canonical_dram | intro

theorem Dev.clearCpu_canon {d : Dev} (hd : d.Canonical) (c : Nat) : (Dev.clearCpu d c).Canonical := by
  unfold Dev.clearCpu
  try dsimp only
  repeat' first | with_reducible assumption | with_reducible apply Dev.setNum64_canon | with_reducible apply Dev.cpReset_canon | with_reducible refine Dev.canonical_foldl (fun _ _ _ => ?_) ?_ | with_reducible refine Dev.canonical_foldl_snd (fun _ _ _ => ?_) ?_ | simp only [Dev.canonical_mk] | simp only [Dev.canonical_mk_mem] | split | simp only [Dev.canonical_iff] | refine ⟨?_, ?_⟩ | with_reducible apply SMap.wf_filter | with_reducible apply Dev.canonical_words | with_reducible apply SMap.wf_set | with_reducible apply ByteMem.wf_openUp | with_reducible apply ByteMem.wf_openStack | with_reducible apply ByteMem.wf_write | with_reducible refine ByteMem.wf_foldl (fun _ _ _ => ?_) ?_ | with_reducible apply ByteMem.wf_blit | with_reducible exact ByteMem.wf_tidy _ | with_reducible apply Dev.canonical_regs | with_reducible apply Dev.canonical_dram | intro

theorem Dev.clearHst_canon {d : Dev} (hd : d.Canonical) : (Dev.clearHst d).Canonical := by
  unfold Dev.clearHst
  try dsimp only
  repeat' first | with_reducible assumption | with_reducible apply Dev.clearWords_canon | with_reducible refine Dev.canonical_foldl (fun _ _ _ => ?_) ?_ | with_reducible refine Dev.canonical_foldl_snd (fun _ _ _ => ?_) ?_ | simp only [Dev.canonical_mk] | simp only [Dev.canonical_mk_mem] | split | simp only [Dev.canonical_iff] | refine ⟨?_, ?_⟩ | with_reducible apply SMap.wf_filter | with_reducible apply Dev.canonical_words | with_reducible apply SMap.wf_set | with_reducible apply ByteMem.wf_openUp | with_reducible apply ByteMem.wf_openStack | with_reducible apply ByteMem.wf_write | with_reducible refine ByteMem.wf_foldl (fun _ _ _ => ?_) ?_ | with_reducible apply ByteMem.wf_blit | with_reducible exact ByteMem.wf_tidy _ | with_reducible apply Dev.canonical_regs | with_reducible apply Dev.canonical_dram | intro

theorem Dev.clearCkt_canon {d : Dev} (hd : d.Canonical) : (Dev.clearCkt d).Canonical := by
  unfold Dev.clearCkt
  try dsimp only
  repeat' first | with_reducible assumption | with_reducible apply Dev.setNum_canon | with_reducible apply Dev.absorb_canon | with_reducible refine Dev.canonical_foldl (fun _ _ _ => ?_) ?_ | with_reducible refine Dev.canonical_foldl_snd (fun _ _ _ => ?_) ?_ | simp only [Dev.canonical_mk] | simp only [Dev.canonical_mk_mem] | split | simp only [Dev.canonical_iff] | refine ⟨?_, ?_⟩ | with_reducible apply SMap.wf_filter | with_reducible apply Dev.canonical_words | with_reducible apply SMap.wf_set | with_reducible apply ByteMem.wf_openUp | with_reducible apply ByteMem.wf_openStack | with_reducible apply ByteMem.wf_write | with_reducible refine ByteMem.wf_foldl (fun _ _ _ => ?_) ?_ | with_reducible apply ByteMem.wf_blit | with_reducible exact ByteMem.wf_tidy _ | with_reducible apply Dev.canonical_regs | with_reducible apply Dev.canonical_dram | intro

theorem Dev.heldByReset_canon {d : Dev} (hd : d.Canonical) {k : Dev} (hk : k.Canonical) : (Dev.heldByReset d k).Canonical := by
  unfold Dev.heldByReset
  try dsimp only
  repeat' first | with_reducible assumption | with_reducible apply Dev.setFlag_canon | with_reducible apply Dev.setReady_canon | with_reducible apply Dev.setBusy_canon | with_reducible refine Dev.canonical_foldl (fun _ _ _ => ?_) ?_ | with_reducible refine Dev.canonical_foldl_snd (fun _ _ _ => ?_) ?_ | simp only [Dev.canonical_mk] | simp only [Dev.canonical_mk_mem] | split | simp only [Dev.canonical_iff] | refine ⟨?_, ?_⟩ | with_reducible apply SMap.wf_filter | with_reducible apply Dev.canonical_words | with_reducible apply SMap.wf_set | with_reducible apply ByteMem.wf_openUp | with_reducible apply ByteMem.wf_openStack | with_reducible apply ByteMem.wf_write | with_reducible refine ByteMem.wf_foldl (fun _ _ _ => ?_) ?_ | with_reducible apply ByteMem.wf_blit | with_reducible exact ByteMem.wf_tidy _ | with_reducible apply Dev.canonical_regs | with_reducible apply Dev.canonical_dram | intro

theorem Dev.deviceClear_canon {d : Dev} (hd : d.Canonical) : (Dev.deviceClear d).Canonical := by
  unfold Dev.deviceClear
  try dsimp only
  repeat' first | with_reducible assumption | with_reducible apply Dev.setFld_canon | with_reducible apply Dev.setFlag_canon | with_reducible apply Dev.drop_canon | with_reducible apply Dev.heldByReset_canon | with_reducible refine Dev.canonical_foldl (fun _ _ _ => ?_) ?_ | with_reducible refine Dev.canonical_foldl_snd (fun _ _ _ => ?_) ?_ | simp only [Dev.canonical_mk] | simp only [Dev.canonical_mk_mem] | split | simp only [Dev.canonical_iff] | refine ⟨?_, ?_⟩ | with_reducible apply SMap.wf_filter | with_reducible apply Dev.canonical_words | with_reducible apply SMap.wf_set | with_reducible apply ByteMem.wf_openUp | with_reducible apply ByteMem.wf_openStack | with_reducible apply ByteMem.wf_write | with_reducible refine ByteMem.wf_foldl (fun _ _ _ => ?_) ?_ | with_reducible apply ByteMem.wf_blit | with_reducible exact ByteMem.wf_tidy _ | with_reducible apply Dev.canonical_regs | with_reducible apply Dev.canonical_dram | intro

theorem Dev.quiescePage_canon {d : Dev} (hd : d.Canonical) (b : Nat) : (Dev.quiescePage d b).Canonical := by
  unfold Dev.quiescePage
  try dsimp only
  repeat' first | with_reducible assumption | with_reducible apply Dev.setReady_canon | with_reducible apply Dev.setBusy_canon | with_reducible apply Dev.clearWords_canon | with_reducible refine Dev.canonical_foldl (fun _ _ _ => ?_) ?_ | with_reducible refine Dev.canonical_foldl_snd (fun _ _ _ => ?_) ?_ | simp only [Dev.canonical_mk] | simp only [Dev.canonical_mk_mem] | split | simp only [Dev.canonical_iff] | refine ⟨?_, ?_⟩ | with_reducible apply SMap.wf_filter | with_reducible apply Dev.canonical_words | with_reducible apply SMap.wf_set | with_reducible apply ByteMem.wf_openUp | with_reducible apply ByteMem.wf_openStack | with_reducible apply ByteMem.wf_write | with_reducible refine ByteMem.wf_foldl (fun _ _ _ => ?_) ?_ | with_reducible apply ByteMem.wf_blit | with_reducible exact ByteMem.wf_tidy _ | with_reducible apply Dev.canonical_regs | with_reducible apply Dev.canonical_dram | intro

theorem Dev.quiesce_canon {d : Dev} (hd : d.Canonical) (sc : ResetScope) : (Dev.quiesce d sc).Canonical := by
  unfold Dev.quiesce
  try dsimp only
  repeat' first | with_reducible assumption | with_reducible apply Dev.setFld_canon | with_reducible apply Dev.setFlag_canon | with_reducible apply Dev.quiescePage_canon | with_reducible refine Dev.canonical_foldl (fun _ _ _ => ?_) ?_ | with_reducible refine Dev.canonical_foldl_snd (fun _ _ _ => ?_) ?_ | simp only [Dev.canonical_mk] | simp only [Dev.canonical_mk_mem] | split | simp only [Dev.canonical_iff] | refine ⟨?_, ?_⟩ | with_reducible apply SMap.wf_filter | with_reducible apply Dev.canonical_words | with_reducible apply SMap.wf_set | with_reducible apply ByteMem.wf_openUp | with_reducible apply ByteMem.wf_openStack | with_reducible apply ByteMem.wf_write | with_reducible refine ByteMem.wf_foldl (fun _ _ _ => ?_) ?_ | with_reducible apply ByteMem.wf_blit | with_reducible exact ByteMem.wf_tidy _ | with_reducible apply Dev.canonical_regs | with_reducible apply Dev.canonical_dram | intro

theorem Dev.enterReset_canon {d : Dev} (hd : d.Canonical) (sc : ResetScope) (remap : Bool) (waits : Bool) : (Dev.enterReset d sc remap waits).Canonical := by
  unfold Dev.enterReset
  try dsimp only
  repeat' first | with_reducible assumption | with_reducible apply Dev.setNum_canon | with_reducible apply Dev.setFld_canon | with_reducible apply Dev.setFlag_canon | with_reducible apply Dev.quiesce_canon | with_reducible refine Dev.canonical_foldl (fun _ _ _ => ?_) ?_ | with_reducible refine Dev.canonical_foldl_snd (fun _ _ _ => ?_) ?_ | simp only [Dev.canonical_mk] | simp only [Dev.canonical_mk_mem] | split | simp only [Dev.canonical_iff] | refine ⟨?_, ?_⟩ | with_reducible apply SMap.wf_filter | with_reducible apply Dev.canonical_words | with_reducible apply SMap.wf_set | with_reducible apply ByteMem.wf_openUp | with_reducible apply ByteMem.wf_openStack | with_reducible apply ByteMem.wf_write | with_reducible refine ByteMem.wf_foldl (fun _ _ _ => ?_) ?_ | with_reducible apply ByteMem.wf_blit | with_reducible exact ByteMem.wf_tidy _ | with_reducible apply Dev.canonical_regs | with_reducible apply Dev.canonical_dram | intro

theorem Dev.startReset_canon {d : Dev} (hd : d.Canonical) (sc : ResetScope) (remap : Bool) : (Dev.startReset d sc remap).Canonical := by
  unfold Dev.startReset
  try dsimp only
  repeat' first | with_reducible assumption | with_reducible apply Dev.beatFail_canon | with_reducible apply Dev.enterReset_canon | with_reducible refine Dev.canonical_foldl (fun _ _ _ => ?_) ?_ | with_reducible refine Dev.canonical_foldl_snd (fun _ _ _ => ?_) ?_ | simp only [Dev.canonical_mk] | simp only [Dev.canonical_mk_mem] | split | simp only [Dev.canonical_iff] | refine ⟨?_, ?_⟩ | with_reducible apply SMap.wf_filter | with_reducible apply Dev.canonical_words | with_reducible apply SMap.wf_set | with_reducible apply ByteMem.wf_openUp | with_reducible apply ByteMem.wf_openStack | with_reducible apply ByteMem.wf_write | with_reducible refine ByteMem.wf_foldl (fun _ _ _ => ?_) ?_ | with_reducible apply ByteMem.wf_blit | with_reducible exact ByteMem.wf_tidy _ | with_reducible apply Dev.canonical_regs | with_reducible apply Dev.canonical_dram | intro

theorem Dev.residueReset_canon {d : Dev} (hd : d.Canonical) (sc : ResetScope) (page : Nat) : (Dev.residueReset d sc page).Canonical := by
  unfold Dev.residueReset
  try dsimp only
  repeat' first | with_reducible assumption | with_reducible apply Dev.raise_canon | with_reducible apply Dev.enterReset_canon | with_reducible refine Dev.canonical_foldl (fun _ _ _ => ?_) ?_ | with_reducible refine Dev.canonical_foldl_snd (fun _ _ _ => ?_) ?_ | simp only [Dev.canonical_mk] | simp only [Dev.canonical_mk_mem] | split | simp only [Dev.canonical_iff] | refine ⟨?_, ?_⟩ | with_reducible apply SMap.wf_filter | with_reducible apply Dev.canonical_words | with_reducible apply SMap.wf_set | with_reducible apply ByteMem.wf_openUp | with_reducible apply ByteMem.wf_openStack | with_reducible apply ByteMem.wf_write | with_reducible refine ByteMem.wf_foldl (fun _ _ _ => ?_) ?_ | with_reducible apply ByteMem.wf_blit | with_reducible exact ByteMem.wf_tidy _ | with_reducible apply Dev.canonical_regs | with_reducible apply Dev.canonical_dram | intro

theorem Dev.quiesceWaiting_canon {d : Dev} (hd : d.Canonical) : (Dev.quiesceWaiting d).Canonical := by
  unfold Dev.quiesceWaiting
  try dsimp only
  repeat' first | with_reducible assumption | with_reducible apply Dev.quiesce_canon | with_reducible refine Dev.canonical_foldl (fun _ _ _ => ?_) ?_ | with_reducible refine Dev.canonical_foldl_snd (fun _ _ _ => ?_) ?_ | simp only [Dev.canonical_mk] | simp only [Dev.canonical_mk_mem] | split | simp only [Dev.canonical_iff] | refine ⟨?_, ?_⟩ | with_reducible apply SMap.wf_filter | with_reducible apply Dev.canonical_words | with_reducible apply SMap.wf_set | with_reducible apply ByteMem.wf_openUp | with_reducible apply ByteMem.wf_openStack | with_reducible apply ByteMem.wf_write | with_reducible refine ByteMem.wf_foldl (fun _ _ _ => ?_) ?_ | with_reducible apply ByteMem.wf_blit | with_reducible exact ByteMem.wf_tidy _ | with_reducible apply Dev.canonical_regs | with_reducible apply Dev.canonical_dram | intro

theorem Dev.startGrid_canon {d : Dev} (hd : d.Canonical) : (Dev.startGrid d).Canonical := by
  unfold Dev.startGrid
  try dsimp only
  repeat' first | with_reducible assumption | with_reducible apply Dev.setNum64_canon | with_reducible refine Dev.canonical_foldl (fun _ _ _ => ?_) ?_ | with_reducible refine Dev.canonical_foldl_snd (fun _ _ _ => ?_) ?_ | simp only [Dev.canonical_mk] | simp only [Dev.canonical_mk_mem] | split | simp only [Dev.canonical_iff] | refine ⟨?_, ?_⟩ | with_reducible apply SMap.wf_filter | with_reducible apply Dev.canonical_words | with_reducible apply SMap.wf_set | with_reducible apply ByteMem.wf_openUp | with_reducible apply ByteMem.wf_openStack | with_reducible apply ByteMem.wf_write | with_reducible refine ByteMem.wf_foldl (fun _ _ _ => ?_) ?_ | with_reducible apply ByteMem.wf_blit | with_reducible exact ByteMem.wf_tidy _ | with_reducible apply Dev.canonical_regs | with_reducible apply Dev.canonical_dram | intro

theorem Dev.clearBlock_canon {d : Dev} (hd : d.Canonical) (p : Page) : (Dev.clearBlock d p).Canonical := by
  unfold Dev.clearBlock
  try dsimp only
  repeat' first | with_reducible assumption | with_reducible apply Dev.clearWords_canon | with_reducible apply Dev.clearWvl_canon | with_reducible apply Dev.clearScb_canon | with_reducible apply Dev.clearTls_canon | with_reducible apply Dev.clearPartition_canon | with_reducible apply Dev.clearSyn_canon | with_reducible apply Dev.clearStag_canon | with_reducible apply Dev.clearHive_canon | with_reducible apply Dev.clearLnk_canon | with_reducible apply Dev.clearStk_canon | with_reducible apply Dev.clearMsc_canon | with_reducible apply Dev.clearForager_canon | with_reducible apply Dev.clearApx_canon | with_reducible apply Dev.clearPwr_canon | with_reducible apply Dev.clearFfy_canon | with_reducible apply Dev.clearCpu_canon | with_reducible apply Dev.clearHst_canon | with_reducible apply Dev.clearCkt_canon | with_reducible refine Dev.canonical_foldl (fun _ _ _ => ?_) ?_ | with_reducible refine Dev.canonical_foldl_snd (fun _ _ _ => ?_) ?_ | simp only [Dev.canonical_mk] | simp only [Dev.canonical_mk_mem] | split | simp only [Dev.canonical_iff] | refine ⟨?_, ?_⟩ | with_reducible apply SMap.wf_filter | with_reducible apply Dev.canonical_words | with_reducible apply SMap.wf_set | with_reducible apply ByteMem.wf_openUp | with_reducible apply ByteMem.wf_openStack | with_reducible apply ByteMem.wf_write | with_reducible refine ByteMem.wf_foldl (fun _ _ _ => ?_) ?_ | with_reducible apply ByteMem.wf_blit | with_reducible exact ByteMem.wf_tidy _ | with_reducible apply Dev.canonical_regs | with_reducible apply Dev.canonical_dram | intro

theorem Dev.setBypass_canon {d : Dev} (hd : d.Canonical) (x : Nat) (b : Nat) : (Dev.setBypass d x b).Canonical := by
  unfold Dev.setBypass
  try dsimp only
  repeat' first | with_reducible assumption | with_reducible refine Dev.canonical_foldl (fun _ _ _ => ?_) ?_ | with_reducible refine Dev.canonical_foldl_snd (fun _ _ _ => ?_) ?_ | simp only [Dev.canonical_mk] | simp only [Dev.canonical_mk_mem] | split | simp only [Dev.canonical_iff] | refine ⟨?_, ?_⟩ | with_reducible apply SMap.wf_filter | with_reducible apply Dev.canonical_words | with_reducible apply SMap.wf_set | with_reducible apply ByteMem.wf_openUp | with_reducible apply ByteMem.wf_openStack | with_reducible apply ByteMem.wf_write | with_reducible refine ByteMem.wf_foldl (fun _ _ _ => ?_) ?_ | with_reducible apply ByteMem.wf_blit | with_reducible exact ByteMem.wf_tidy _ | with_reducible apply Dev.canonical_regs | with_reducible apply Dev.canonical_dram | intro

theorem Dev.handleCell_canon {d : Dev} (hd : d.Canonical) (x : Nat) (f : Nat) : (Dev.handleCell d x f).Canonical := by
  unfold Dev.handleCell
  try dsimp only
  repeat' first | with_reducible assumption | with_reducible apply Dev.err_canon | with_reducible apply Dev.noteDegraded_canon | with_reducible apply Dev.lastCode_canon | with_reducible apply Dev.setBypass_canon | with_reducible refine Dev.canonical_foldl (fun _ _ _ => ?_) ?_ | with_reducible refine Dev.canonical_foldl_snd (fun _ _ _ => ?_) ?_ | simp only [Dev.canonical_mk] | simp only [Dev.canonical_mk_mem] | split | simp only [Dev.canonical_iff] | refine ⟨?_, ?_⟩ | with_reducible apply SMap.wf_filter | with_reducible apply Dev.canonical_words | with_reducible apply SMap.wf_set | with_reducible apply ByteMem.wf_openUp | with_reducible apply ByteMem.wf_openStack | with_reducible apply ByteMem.wf_write | with_reducible refine ByteMem.wf_foldl (fun _ _ _ => ?_) ?_ | with_reducible apply ByteMem.wf_blit | with_reducible exact ByteMem.wf_tidy _ | with_reducible apply Dev.canonical_regs | with_reducible apply Dev.canonical_dram | intro

theorem Dev.refreshMapstat_canon {d : Dev} (hd : d.Canonical) : (Dev.refreshMapstat d).Canonical := by
  unfold Dev.refreshMapstat
  try dsimp only
  repeat' first | with_reducible assumption | with_reducible apply Dev.setFld_canon | with_reducible apply Dev.noteDegraded_canon | with_reducible refine Dev.canonical_foldl (fun _ _ _ => ?_) ?_ | with_reducible refine Dev.canonical_foldl_snd (fun _ _ _ => ?_) ?_ | simp only [Dev.canonical_mk] | simp only [Dev.canonical_mk_mem] | split | simp only [Dev.canonical_iff] | refine ⟨?_, ?_⟩ | with_reducible apply SMap.wf_filter | with_reducible apply Dev.canonical_words | with_reducible apply SMap.wf_set | with_reducible apply ByteMem.wf_openUp | with_reducible apply ByteMem.wf_openStack | with_reducible apply ByteMem.wf_write | with_reducible refine ByteMem.wf_foldl (fun _ _ _ => ?_) ?_ | with_reducible apply ByteMem.wf_blit | with_reducible exact ByteMem.wf_tidy _ | with_reducible apply Dev.canonical_regs | with_reducible apply Dev.canonical_dram | intro

theorem Dev.clearScope_canon {d : Dev} (hd : d.Canonical) (r : ResetRun) : (Dev.clearScope d r).Canonical := by
  unfold Dev.clearScope
  try dsimp only
  repeat' first | with_reducible assumption | with_reducible apply Dev.clearCell_canon | with_reducible apply Dev.clearCluster_canon | with_reducible apply Dev.clearPartition_canon | with_reducible apply Dev.deviceClear_canon | with_reducible apply Dev.clearBlock_canon | with_reducible apply Dev.handleCell_canon | with_reducible apply Dev.refreshMapstat_canon | with_reducible refine Dev.canonical_foldl (fun _ _ _ => ?_) ?_ | with_reducible refine Dev.canonical_foldl_snd (fun _ _ _ => ?_) ?_ | simp only [Dev.canonical_mk] | simp only [Dev.canonical_mk_mem] | split | simp only [Dev.canonical_iff] | refine ⟨?_, ?_⟩ | with_reducible apply SMap.wf_filter | with_reducible apply Dev.canonical_words | with_reducible apply SMap.wf_set | with_reducible apply ByteMem.wf_openUp | with_reducible apply ByteMem.wf_openStack | with_reducible apply ByteMem.wf_write | with_reducible refine ByteMem.wf_foldl (fun _ _ _ => ?_) ?_ | with_reducible apply ByteMem.wf_blit | with_reducible exact ByteMem.wf_tidy _ | with_reducible apply Dev.canonical_regs | with_reducible apply Dev.canonical_dram | intro

theorem Dev.goDark_canon {d : Dev} (hd : d.Canonical) : (Dev.goDark d).Canonical := by
  unfold Dev.goDark
  try dsimp only
  repeat' first | with_reducible assumption | with_reducible refine Dev.canonical_foldl (fun _ _ _ => ?_) ?_ | with_reducible refine Dev.canonical_foldl_snd (fun _ _ _ => ?_) ?_ | simp only [Dev.canonical_mk] | simp only [Dev.canonical_mk_mem] | split | simp only [Dev.canonical_iff] | refine ⟨?_, ?_⟩ | with_reducible apply SMap.wf_filter | with_reducible apply Dev.canonical_words | with_reducible apply SMap.wf_set | with_reducible apply ByteMem.wf_openUp | with_reducible apply ByteMem.wf_openStack | with_reducible apply ByteMem.wf_write | with_reducible refine ByteMem.wf_foldl (fun _ _ _ => ?_) ?_ | with_reducible apply ByteMem.wf_blit | with_reducible exact ByteMem.wf_tidy _ | with_reducible apply Dev.canonical_regs | with_reducible apply Dev.canonical_dram | intro

theorem Dev.powerOff_canon {d : Dev} (hd : d.Canonical) : (Dev.powerOff d).Canonical := by
  unfold Dev.powerOff
  try dsimp only
  repeat' first | with_reducible assumption | with_reducible apply Dev.goDark_canon | with_reducible refine Dev.canonical_foldl (fun _ _ _ => ?_) ?_ | with_reducible refine Dev.canonical_foldl_snd (fun _ _ _ => ?_) ?_ | simp only [Dev.canonical_mk] | simp only [Dev.canonical_mk_mem] | split | simp only [Dev.canonical_iff] | refine ⟨?_, ?_⟩ | with_reducible apply SMap.wf_filter | with_reducible apply Dev.canonical_words | with_reducible apply SMap.wf_set | with_reducible apply ByteMem.wf_openUp | with_reducible apply ByteMem.wf_openStack | with_reducible apply ByteMem.wf_write | with_reducible refine ByteMem.wf_foldl (fun _ _ _ => ?_) ?_ | with_reducible apply ByteMem.wf_blit | with_reducible exact ByteMem.wf_tidy _ | with_reducible apply Dev.canonical_regs | with_reducible apply Dev.canonical_dram | intro

end Sys2Proof.Machine
end

