-- ==== Sys2Proof/Laws/CanonSliding.lean ====
section
/-!
SUPPORT. Every operation of Machine/Sliding.lean keeps the canonical form.
-/
namespace Sys2Proof.Machine

theorem Dev.listFail_canon {d : Dev} (hd : d.Canonical) (q : QDesc) (code : Nat) (addr : Nat) : (Dev.listFail d q code addr).Canonical := by
  unfold Dev.listFail
  try dsimp only
  repeat' first | with_reducible assumption | with_reducible apply Dev.setNum_canon | with_reducible apply Dev.lastCode_canon | with_reducible apply Dev.beatFail_canon | with_reducible apply Dev.massifPop_canon | with_reducible refine Dev.canonical_foldl (fun _ _ _ => ?_) ?_ | with_reducible refine Dev.canonical_foldl_snd (fun _ _ _ => ?_) ?_ | simp only [Dev.canonical_mk] | simp only [Dev.canonical_mk_mem] | split | simp only [Dev.canonical_iff] | refine ⟨?_, ?_⟩ | with_reducible apply SMap.wf_filter | with_reducible apply Dev.canonical_words | with_reducible apply SMap.wf_set | with_reducible apply ByteMem.wf_openUp | with_reducible apply ByteMem.wf_openStack | with_reducible apply ByteMem.wf_write | with_reducible refine ByteMem.wf_foldl (fun _ _ _ => ?_) ?_ | with_reducible apply ByteMem.wf_blit | with_reducible exact ByteMem.wf_tidy _ | with_reducible apply Dev.canonical_regs | with_reducible apply Dev.canonical_dram | intro

theorem Dev.sliding_canon {d : Dev} (hd : d.Canonical) (op : Nat) (bad1 : List Byte → Bool) : (Dev.sliding d op bad1).Canonical := by
  unfold Dev.sliding
  try dsimp only
  repeat' first | with_reducible assumption | with_reducible apply Dev.engRead_canon | with_reducible apply Dev.massifFail_canon | with_reducible apply Dev.massifStart_canon | with_reducible apply Dev.listFail_canon | with_reducible refine Dev.canonical_foldl (fun _ _ _ => ?_) ?_ | with_reducible refine Dev.canonical_foldl_snd (fun _ _ _ => ?_) ?_ | simp only [Dev.canonical_mk] | simp only [Dev.canonical_mk_mem] | split | simp only [Dev.canonical_iff] | refine ⟨?_, ?_⟩ | with_reducible apply SMap.wf_filter | with_reducible apply Dev.canonical_words | with_reducible apply SMap.wf_set | with_reducible apply ByteMem.wf_openUp | with_reducible apply ByteMem.wf_openStack | with_reducible apply ByteMem.wf_write | with_reducible refine ByteMem.wf_foldl (fun _ _ _ => ?_) ?_ | with_reducible apply ByteMem.wf_blit | with_reducible exact ByteMem.wf_tidy _ | with_reducible apply Dev.canonical_regs | with_reducible apply Dev.canonical_dram | intro

theorem Dev.windowFetchEnd_canon {d : Dev} (hd : d.Canonical) : (Dev.windowFetchEnd d).Canonical := by
  unfold Dev.windowFetchEnd
  try dsimp only
  repeat' first | with_reducible assumption | with_reducible apply Dev.stageCheck_canon | with_reducible apply Dev.colBusy_canon | with_reducible apply Dev.placeOperand_canon | with_reducible apply Dev.touchAll_canon | with_reducible refine Dev.canonical_foldl (fun _ _ _ => ?_) ?_ | with_reducible refine Dev.canonical_foldl_snd (fun _ _ _ => ?_) ?_ | simp only [Dev.canonical_mk] | simp only [Dev.canonical_mk_mem] | split | simp only [Dev.canonical_iff] | refine ⟨?_, ?_⟩ | with_reducible apply SMap.wf_filter | with_reducible apply Dev.canonical_words | with_reducible apply SMap.wf_set | with_reducible apply ByteMem.wf_openUp | with_reducible apply ByteMem.wf_openStack | with_reducible apply ByteMem.wf_write | with_reducible refine ByteMem.wf_foldl (fun _ _ _ => ?_) ?_ | with_reducible apply ByteMem.wf_blit | with_reducible exact ByteMem.wf_tidy _ | with_reducible apply Dev.canonical_regs | with_reducible apply Dev.canonical_dram | intro

theorem Dev.stageTile_canon {d : Dev} (hd : d.Canonical) (b : List Byte) (g : Geo) (t : Nat × Nat) : (Dev.stageTile d b g t).Canonical := by
  unfold Dev.stageTile
  try dsimp only
  repeat' first | with_reducible assumption | with_reducible apply Dev.countPlaced_canon | with_reducible apply Dev.csOpen_canon | with_reducible refine Dev.canonical_foldl (fun _ _ _ => ?_) ?_ | with_reducible refine Dev.canonical_foldl_snd (fun _ _ _ => ?_) ?_ | simp only [Dev.canonical_mk] | simp only [Dev.canonical_mk_mem] | split | simp only [Dev.canonical_iff] | refine ⟨?_, ?_⟩ | with_reducible apply SMap.wf_filter | with_reducible apply Dev.canonical_words | with_reducible apply SMap.wf_set | with_reducible apply ByteMem.wf_openUp | with_reducible apply ByteMem.wf_openStack | with_reducible apply ByteMem.wf_write | with_reducible refine ByteMem.wf_foldl (fun _ _ _ => ?_) ?_ | with_reducible apply ByteMem.wf_blit | with_reducible exact ByteMem.wf_tidy _ | with_reducible apply Dev.canonical_regs | with_reducible apply Dev.canonical_dram | intro

theorem Dev.waveFoldEnd_canon {d : Dev} (hd : d.Canonical) (f : Nat) : (Dev.waveFoldEnd d f).Canonical := by
  unfold Dev.waveFoldEnd
  try dsimp only
  repeat' first | with_reducible assumption | with_reducible apply Dev.failWord_canon | with_reducible apply Dev.endFold_canon | with_reducible apply Dev.stageCheck_canon | with_reducible apply Dev.colBusy_canon | with_reducible apply Dev.touchAll_canon | with_reducible apply Dev.stageTile_canon | with_reducible refine Dev.canonical_foldl (fun _ _ _ => ?_) ?_ | with_reducible refine Dev.canonical_foldl_snd (fun _ _ _ => ?_) ?_ | simp only [Dev.canonical_mk] | simp only [Dev.canonical_mk_mem] | split | simp only [Dev.canonical_iff] | refine ⟨?_, ?_⟩ | with_reducible apply SMap.wf_filter | with_reducible apply Dev.canonical_words | with_reducible apply SMap.wf_set | with_reducible apply ByteMem.wf_openUp | with_reducible apply ByteMem.wf_openStack | with_reducible apply ByteMem.wf_write | with_reducible refine ByteMem.wf_foldl (fun _ _ _ => ?_) ?_ | with_reducible apply ByteMem.wf_blit | with_reducible exact ByteMem.wf_tidy _ | with_reducible apply Dev.canonical_regs | with_reducible apply Dev.canonical_dram | intro

end Sys2Proof.Machine
end

