-- ==== Sys2Proof/Laws/CanonAttention.lean ====
section
/-!
SUPPORT. Every operation of Machine/Attention.lean keeps the canonical form.
-/
namespace Sys2Proof.Machine

theorem Dev.recordIn_canon {d : Dev} (hd : d.Canonical) (k : Nat) (f : Nat) : (Dev.recordIn d k f).Canonical := by
  unfold Dev.recordIn
  try dsimp only
  repeat' first | with_reducible assumption | with_reducible apply Dev.exitFlags_canon | with_reducible apply Dev.tileOverflow_canon | with_reducible refine Dev.canonical_foldl (fun _ _ _ => ?_) ?_ | with_reducible refine Dev.canonical_foldl_snd (fun _ _ _ => ?_) ?_ | simp only [Dev.canonical_mk] | simp only [Dev.canonical_mk_mem] | split | simp only [Dev.canonical_iff] | refine ⟨?_, ?_⟩ | with_reducible apply SMap.wf_filter | with_reducible apply Dev.canonical_words | with_reducible apply SMap.wf_set | with_reducible apply ByteMem.wf_openUp | with_reducible apply ByteMem.wf_openStack | with_reducible apply ByteMem.wf_write | with_reducible refine ByteMem.wf_foldl (fun _ _ _ => ?_) ?_ | with_reducible apply ByteMem.wf_blit | with_reducible exact ByteMem.wf_tidy _ | with_reducible apply Dev.canonical_regs | with_reducible apply Dev.canonical_dram | intro

theorem Dev.writePartial_canon {d : Dev} (hd : d.Canonical) (b : List Byte) (blk : Nat) (e : AttEntry) (h : Nat) (r : Nat) (s : AttRow) : (Dev.writePartial d b blk e h r s).Canonical := by
  unfold Dev.writePartial
  try dsimp only
  repeat' first | with_reducible assumption | with_reducible apply Dev.engWrite_canon | with_reducible refine Dev.canonical_foldl (fun _ _ _ => ?_) ?_ | with_reducible refine Dev.canonical_foldl_snd (fun _ _ _ => ?_) ?_ | simp only [Dev.canonical_mk] | simp only [Dev.canonical_mk_mem] | split | simp only [Dev.canonical_iff] | refine ⟨?_, ?_⟩ | with_reducible apply SMap.wf_filter | with_reducible apply Dev.canonical_words | with_reducible apply SMap.wf_set | with_reducible apply ByteMem.wf_openUp | with_reducible apply ByteMem.wf_openStack | with_reducible apply ByteMem.wf_write | with_reducible refine ByteMem.wf_foldl (fun _ _ _ => ?_) ?_ | with_reducible apply ByteMem.wf_blit | with_reducible exact ByteMem.wf_tidy _ | with_reducible apply Dev.canonical_regs | with_reducible apply Dev.canonical_dram | intro

theorem Dev.writeAttTile_canon {d : Dev} (hd : d.Canonical) (b : List Byte) (blk : Nat) (k : Nat) (e : AttEntry) (h : Nat) (qt : Nat) (c : Nat) (rows : List (List (FVal × Bool))) : (Dev.writeAttTile d b blk k e h qt c rows).Canonical := by
  unfold Dev.writeAttTile
  try dsimp only
  repeat' first | with_reducible assumption | with_reducible apply Dev.engWrite_canon | with_reducible apply Dev.recordIn_canon | with_reducible refine Dev.canonical_foldl (fun _ _ _ => ?_) ?_ | with_reducible refine Dev.canonical_foldl_snd (fun _ _ _ => ?_) ?_ | simp only [Dev.canonical_mk] | simp only [Dev.canonical_mk_mem] | split | simp only [Dev.canonical_iff] | refine ⟨?_, ?_⟩ | with_reducible apply SMap.wf_filter | with_reducible apply Dev.canonical_words | with_reducible apply SMap.wf_set | with_reducible apply ByteMem.wf_openUp | with_reducible apply ByteMem.wf_openStack | with_reducible apply ByteMem.wf_write | with_reducible refine ByteMem.wf_foldl (fun _ _ _ => ?_) ?_ | with_reducible apply ByteMem.wf_blit | with_reducible exact ByteMem.wf_tidy _ | with_reducible apply Dev.canonical_regs | with_reducible apply Dev.canonical_dram | intro

theorem Dev.attTile_canon {d : Dev} (hd : d.Canonical) {src : Dev} (hsrc : src.Canonical) (b : List Byte) (blk : Nat) (k : Nat) (e : AttEntry) (h : Nat) (qt : Nat) : (Dev.attTile d src b blk k e h qt).Canonical := by
  unfold Dev.attTile
  try dsimp only
  repeat' first | with_reducible assumption | with_reducible apply Dev.recordIn_canon | with_reducible apply Dev.writePartial_canon | with_reducible apply Dev.writeAttTile_canon | with_reducible refine Dev.canonical_foldl (fun _ _ _ => ?_) ?_ | with_reducible refine Dev.canonical_foldl_snd (fun _ _ _ => ?_) ?_ | simp only [Dev.canonical_mk] | simp only [Dev.canonical_mk_mem] | split | simp only [Dev.canonical_iff] | refine ⟨?_, ?_⟩ | with_reducible apply SMap.wf_filter | with_reducible apply Dev.canonical_words | with_reducible apply SMap.wf_set | with_reducible apply ByteMem.wf_openUp | with_reducible apply ByteMem.wf_openStack | with_reducible apply ByteMem.wf_write | with_reducible refine ByteMem.wf_foldl (fun _ _ _ => ?_) ?_ | with_reducible apply ByteMem.wf_blit | with_reducible exact ByteMem.wf_tidy _ | with_reducible apply Dev.canonical_regs | with_reducible apply Dev.canonical_dram | intro

theorem Dev.attPages_canon {d : Dev} (hd : d.Canonical) (b : List Byte) (es : List AttEntry) : (Dev.attPages d b es).Canonical := by
  unfold Dev.attPages
  try dsimp only
  repeat' first | with_reducible assumption | with_reducible apply Dev.countPlaced_canon | with_reducible refine Dev.canonical_foldl (fun _ _ _ => ?_) ?_ | with_reducible refine Dev.canonical_foldl_snd (fun _ _ _ => ?_) ?_ | simp only [Dev.canonical_mk] | simp only [Dev.canonical_mk_mem] | split | simp only [Dev.canonical_iff] | refine ⟨?_, ?_⟩ | with_reducible apply SMap.wf_filter | with_reducible apply Dev.canonical_words | with_reducible apply SMap.wf_set | with_reducible apply ByteMem.wf_openUp | with_reducible apply ByteMem.wf_openStack | with_reducible apply ByteMem.wf_write | with_reducible refine ByteMem.wf_foldl (fun _ _ _ => ?_) ?_ | with_reducible apply ByteMem.wf_blit | with_reducible exact ByteMem.wf_tidy _ | with_reducible apply Dev.canonical_regs | with_reducible apply Dev.canonical_dram | intro

theorem Dev.attRun_canon {d : Dev} (hd : d.Canonical) (b : List Byte) (es : List AttEntry) : (Dev.attRun d b es).Canonical := by
  unfold Dev.attRun
  try dsimp only
  repeat' first | with_reducible assumption | with_reducible apply Dev.csOpen_canon | with_reducible apply Dev.attTile_canon | with_reducible refine Dev.canonical_foldl (fun _ _ _ => ?_) ?_ | with_reducible refine Dev.canonical_foldl_snd (fun _ _ _ => ?_) ?_ | simp only [Dev.canonical_mk] | simp only [Dev.canonical_mk_mem] | split | simp only [Dev.canonical_iff] | refine ⟨?_, ?_⟩ | with_reducible apply SMap.wf_filter | with_reducible apply Dev.canonical_words | with_reducible apply SMap.wf_set | with_reducible apply ByteMem.wf_openUp | with_reducible apply ByteMem.wf_openStack | with_reducible apply ByteMem.wf_write | with_reducible refine ByteMem.wf_foldl (fun _ _ _ => ?_) ?_ | with_reducible apply ByteMem.wf_blit | with_reducible exact ByteMem.wf_tidy _ | with_reducible apply Dev.canonical_regs | with_reducible apply Dev.canonical_dram | intro

theorem Dev.appendRow_canon {d : Dev} (hd : d.Canonical) (b : List Byte) (blk : Nat) (e : AttEntry) (q : Nat) (h : Nat) (v : Nat) : (Dev.appendRow d b blk e q h v).Canonical := by
  unfold Dev.appendRow
  try dsimp only
  repeat' first | with_reducible assumption | with_reducible apply Dev.freshNat_canon | with_reducible apply Dev.engWrite_canon | with_reducible apply Dev.recordIn_canon | with_reducible refine Dev.canonical_foldl (fun _ _ _ => ?_) ?_ | with_reducible refine Dev.canonical_foldl_snd (fun _ _ _ => ?_) ?_ | simp only [Dev.canonical_mk] | simp only [Dev.canonical_mk_mem] | split | simp only [Dev.canonical_iff] | refine ⟨?_, ?_⟩ | with_reducible apply SMap.wf_filter | with_reducible apply Dev.canonical_words | with_reducible apply SMap.wf_set | with_reducible apply ByteMem.wf_openUp | with_reducible apply ByteMem.wf_openStack | with_reducible apply ByteMem.wf_write | with_reducible refine ByteMem.wf_foldl (fun _ _ _ => ?_) ?_ | with_reducible apply ByteMem.wf_blit | with_reducible exact ByteMem.wf_tidy _ | with_reducible apply Dev.canonical_regs | with_reducible apply Dev.canonical_dram | intro

theorem Dev.appendRun_canon {d : Dev} (hd : d.Canonical) (b : List Byte) (es : List AttEntry) : (Dev.appendRun d b es).Canonical := by
  unfold Dev.appendRun
  try dsimp only
  repeat' first | with_reducible assumption | with_reducible apply Dev.appendRow_canon | with_reducible refine Dev.canonical_foldl (fun _ _ _ => ?_) ?_ | with_reducible refine Dev.canonical_foldl_snd (fun _ _ _ => ?_) ?_ | simp only [Dev.canonical_mk] | simp only [Dev.canonical_mk_mem] | split | simp only [Dev.canonical_iff] | refine ⟨?_, ?_⟩ | with_reducible apply SMap.wf_filter | with_reducible apply Dev.canonical_words | with_reducible apply SMap.wf_set | with_reducible apply ByteMem.wf_openUp | with_reducible apply ByteMem.wf_openStack | with_reducible apply ByteMem.wf_write | with_reducible refine ByteMem.wf_foldl (fun _ _ _ => ?_) ?_ | with_reducible apply ByteMem.wf_blit | with_reducible exact ByteMem.wf_tidy _ | with_reducible apply Dev.canonical_regs | with_reducible apply Dev.canonical_dram | intro

theorem Dev.kvCommand_canon {d : Dev} (hd : d.Canonical) (op : Nat) : (Dev.kvCommand d op).Canonical := by
  unfold Dev.kvCommand
  try dsimp only
  repeat' first | with_reducible assumption | with_reducible apply Dev.countIssue_canon | with_reducible apply Dev.engRead_canon | with_reducible apply Dev.massifPop_canon | with_reducible apply Dev.massifFail_canon | with_reducible apply Dev.niCheck_canon | with_reducible apply Dev.countFold_canon | with_reducible apply Dev.stageCheck_canon | with_reducible apply Dev.colBusy_canon | with_reducible apply Dev.touchAll_canon | with_reducible apply Dev.listFail_canon | with_reducible apply Dev.attPages_canon | with_reducible apply Dev.attRun_canon | with_reducible apply Dev.appendRun_canon | with_reducible refine Dev.canonical_foldl (fun _ _ _ => ?_) ?_ | with_reducible refine Dev.canonical_foldl_snd (fun _ _ _ => ?_) ?_ | simp only [Dev.canonical_mk] | simp only [Dev.canonical_mk_mem] | split | simp only [Dev.canonical_iff] | refine ⟨?_, ?_⟩ | with_reducible apply SMap.wf_filter | with_reducible apply Dev.canonical_words | with_reducible apply SMap.wf_set | with_reducible apply ByteMem.wf_openUp | with_reducible apply ByteMem.wf_openStack | with_reducible apply ByteMem.wf_write | with_reducible refine ByteMem.wf_foldl (fun _ _ _ => ?_) ?_ | with_reducible apply ByteMem.wf_blit | with_reducible exact ByteMem.wf_tidy _ | with_reducible apply Dev.canonical_regs | with_reducible apply Dev.canonical_dram | intro

end Sys2Proof.Machine
end

