-- ==== Sys2Proof/Laws/CanonRegView.lean ====
section
/-!
SUPPORT. Every operation of Machine/RegView.lean keeps the canonical form.
-/
namespace Sys2Proof.Machine

theorem Dev.readReg_canon {d : Dev} (hd : d.Canonical) (a : Nat) : (Dev.readReg d a).2.Canonical := by
  unfold Dev.readReg
  try dsimp only
  repeat' first | with_reducible assumption | with_reducible apply Dev.wr_canon | with_reducible apply Dev.setFld_canon | with_reducible apply Dev.claim_canon | with_reducible refine Dev.canonical_foldl (fun _ _ _ => ?_) ?_ | with_reducible refine Dev.canonical_foldl_snd (fun _ _ _ => ?_) ?_ | simp only [Dev.canonical_mk] | simp only [Dev.canonical_mk_mem] | split | simp only [Dev.canonical_iff] | refine ⟨?_, ?_⟩ | with_reducible apply SMap.wf_filter | with_reducible apply Dev.canonical_words | with_reducible apply SMap.wf_set | with_reducible apply ByteMem.wf_openUp | with_reducible apply ByteMem.wf_openStack | with_reducible apply ByteMem.wf_write | with_reducible refine ByteMem.wf_foldl (fun _ _ _ => ?_) ?_ | with_reducible apply ByteMem.wf_blit | with_reducible exact ByteMem.wf_tidy _ | with_reducible apply Dev.canonical_regs | with_reducible apply Dev.canonical_dram | intro

end Sys2Proof.Machine
end

