-- ==== Sys2Proof/Laws/Keeps.lean ====
section
/-!
SUPPORT. What leaves a part of the device alone composes.
-/
namespace Sys2Proof.Machine

theorem Part.same_trans {d e f : Dev} : {p : Part} → p.same d e → p.same e f → p.same d f
  | .regs, h, g | .bus, h, g | .module, h, g | .apex, h, g | .ascent, h, g | .trust, h, g | .host, h, g | .dram, h, g
  | .cricket, h, g | .massif, h, g | .weevil, h, g | .col, h, g | .scarab, h, g | .talus, h, g | .stag, h, g | .hive, h, g
  | .forager, h, g | .link, h, g | .power, h, g | .firefly, h, g | .enPend, h, g | .freeCtr, h, g => Eq.trans g h
  | .mem, h, g => by
    simp only [Part.same] at *
    rw [g, h]

theorem Dev.KeepsBut.refl (d : Dev) (ps : List Part) : d.KeepsBut ps d := fun p _ => by cases p <;> rfl

theorem Dev.KeepsBut.mono {d e : Dev} {ps qs : List Part} (h : d.KeepsBut qs e)
    (hs : (qs.all fun p => ps.contains p) = true) : d.KeepsBut ps e := by
  intro p hp
  refine h p ?_
  cases hq : qs.contains p with
  | false => rfl
  | true =>
    have := List.all_eq_true.mp hs p (List.contains_iff_mem.mp hq)
    rw [hp] at this
    exact absurd this (by decide)

theorem Dev.KeepsBut.trans {d e f : Dev} {ps : List Part} (h : d.KeepsBut ps e) (g : e.KeepsBut ps f) : d.KeepsBut ps f :=
  fun p hp => Part.same_trans (h p hp) (g p hp)

/-- One more operation that changes parts among `ps`. -/
theorem Dev.KeepsBut.then {d e f : Dev} {ps qs : List Part} (g : e.KeepsBut qs f)
    (hs : (qs.all fun p => ps.contains p) = true) (h : d.KeepsBut ps e) : d.KeepsBut ps f :=
  h.trans (g.mono hs)

theorem Dev.KeepsBut.foldl {α : Type} {ps : List Part} {g : Dev → α → Dev} (hg : ∀ (d : Dev) (a : α), d.KeepsBut ps (g d a)) {l : List α}
    {d0 d : Dev} (h : d0.KeepsBut ps d) : d0.KeepsBut ps (l.foldl g d) := by
  induction l generalizing d with
  | nil => exact h
  | cons a l ih => exact ih (h.trans (hg d a))

theorem Dev.KeepsBut.foldl_snd {α β : Type} {ps : List Part} {g : β × Dev → α → β × Dev}
    (hg : ∀ (p : β × Dev) (a : α), p.2.KeepsBut ps (g p a).2) {l : List α} {d0 : Dev} {p : β × Dev} (h : d0.KeepsBut ps p.2) :
    d0.KeepsBut ps (l.foldl g p).2 := by
  induction l generalizing p with
  | nil => exact h
  | cons a l ih => exact ih (h.trans (hg p a))

/-- `KeepsBut` for a device written out field by field, a name of its own. -/
def Dev.KeepsMk (d : Dev) (ps : List Part) (e : Dev) : Prop := d.KeepsBut ps e

theorem Dev.keeps_mk {d : Dev} {ps : List Part} {x0 : SMap Word} {x1 : BusSt} {x2 : ModuleSt} {x3 : ApexSt} {x4 :
    AscentSt} {x5 : TrustSt} {x6 : HostSt} {x7 : MemSt} {x8 : CricketSt} {x9 : MassifSt} {x10 : WeevilSt} {x11 :
    ColSt} {x12 : ScarabSt} {x13 : TalusSt} {x14 : StagSt} {x15 : HiveSt} {x16 : ForagerSt} {x17 : LinkSt} {x18 :
    PowerSt} {x19 : FireflySt} {x20 : List (Nat × Bool)} {x21 : Nat} : d.KeepsBut ps (Dev.mk x0 x1 x2 x3 x4 x5 x6 x7
    x8 x9 x10 x11 x12 x13 x14 x15 x16 x17 x18 x19 x20 x21) = d.KeepsMk ps (Dev.mk x0 x1 x2 x3 x4 x5 x6 x7 x8 x9 x10
    x11 x12 x13 x14 x15 x16 x17 x18 x19 x20 x21) := rfl

/-- What the parts among `ps` may not be. -/
theorem Part.sub {ps qs rs : List Part} (h : (qs.all fun p => ps.contains p) = true)
    (g : (rs.all fun p => qs.contains p) = true) : (rs.all fun p => ps.contains p) = true := by
  rw [List.all_eq_true] at *
  intro p hp
  exact h p (List.contains_iff_mem.mp (g p hp))

theorem Dev.KeepsBut.all {d e : Dev} {ps : List Part} (h : ∀ p : Part, ps.contains p = true) : d.KeepsBut ps e := by
  intro p hp
  rw [h p] at hp
  exact absurd hp (by decide)

theorem Dev.keeps_regs {d e : Dev} {ps : List Part} {v : SMap Word} (h : d.KeepsBut ps e) (g : ([.regs].all fun p =>
    ps.contains p) = true) : d.KeepsMk ps (Dev.mk v e.bus e.module e.apex e.ascent e.trust e.host e.mem e.cricket
    e.massif e.weevil e.col e.scarab e.talus e.stag e.hive e.forager e.link e.power e.firefly e.enPend e.freeCtr) :=
  Dev.KeepsBut.then (qs := [.regs]) (by intro p hp; cases p <;> first | rfl | exact absurd hp (by decide)) g h

theorem Dev.keeps_bus {d e : Dev} {ps : List Part} {v : BusSt} (h : d.KeepsBut ps e) (g : ([.bus].all fun p =>
    ps.contains p) = true) : d.KeepsMk ps (Dev.mk e.regs v e.module e.apex e.ascent e.trust e.host e.mem e.cricket
    e.massif e.weevil e.col e.scarab e.talus e.stag e.hive e.forager e.link e.power e.firefly e.enPend e.freeCtr) :=
  Dev.KeepsBut.then (qs := [.bus]) (by intro p hp; cases p <;> first | rfl | exact absurd hp (by decide)) g h

theorem Dev.keeps_module {d e : Dev} {ps : List Part} {v : ModuleSt} (h : d.KeepsBut ps e) (g : ([.module].all fun p
    => ps.contains p) = true) : d.KeepsMk ps (Dev.mk e.regs e.bus v e.apex e.ascent e.trust e.host e.mem e.cricket
    e.massif e.weevil e.col e.scarab e.talus e.stag e.hive e.forager e.link e.power e.firefly e.enPend e.freeCtr) :=
  Dev.KeepsBut.then (qs := [.module]) (by intro p hp; cases p <;> first | rfl | exact absurd hp (by decide)) g h

theorem Dev.keeps_apex {d e : Dev} {ps : List Part} {v : ApexSt} (h : d.KeepsBut ps e) (g : ([.apex].all fun p =>
    ps.contains p) = true) : d.KeepsMk ps (Dev.mk e.regs e.bus e.module v e.ascent e.trust e.host e.mem e.cricket
    e.massif e.weevil e.col e.scarab e.talus e.stag e.hive e.forager e.link e.power e.firefly e.enPend e.freeCtr) :=
  Dev.KeepsBut.then (qs := [.apex]) (by intro p hp; cases p <;> first | rfl | exact absurd hp (by decide)) g h

theorem Dev.keeps_ascent {d e : Dev} {ps : List Part} {v : AscentSt} (h : d.KeepsBut ps e) (g : ([.ascent].all fun p
    => ps.contains p) = true) : d.KeepsMk ps (Dev.mk e.regs e.bus e.module e.apex v e.trust e.host e.mem e.cricket
    e.massif e.weevil e.col e.scarab e.talus e.stag e.hive e.forager e.link e.power e.firefly e.enPend e.freeCtr) :=
  Dev.KeepsBut.then (qs := [.ascent]) (by intro p hp; cases p <;> first | rfl | exact absurd hp (by decide)) g h

theorem Dev.keeps_trust {d e : Dev} {ps : List Part} {v : TrustSt} (h : d.KeepsBut ps e) (g : ([.trust].all fun p =>
    ps.contains p) = true) : d.KeepsMk ps (Dev.mk e.regs e.bus e.module e.apex e.ascent v e.host e.mem e.cricket
    e.massif e.weevil e.col e.scarab e.talus e.stag e.hive e.forager e.link e.power e.firefly e.enPend e.freeCtr) :=
  Dev.KeepsBut.then (qs := [.trust]) (by intro p hp; cases p <;> first | rfl | exact absurd hp (by decide)) g h

theorem Dev.keeps_host {d e : Dev} {ps : List Part} {v : HostSt} (h : d.KeepsBut ps e) (g : ([.host].all fun p =>
    ps.contains p) = true) : d.KeepsMk ps (Dev.mk e.regs e.bus e.module e.apex e.ascent e.trust v e.mem e.cricket
    e.massif e.weevil e.col e.scarab e.talus e.stag e.hive e.forager e.link e.power e.firefly e.enPend e.freeCtr) :=
  Dev.KeepsBut.then (qs := [.host]) (by intro p hp; cases p <;> first | rfl | exact absurd hp (by decide)) g h

theorem Dev.keeps_mem {d e : Dev} {ps : List Part} {v : MemSt} (h : d.KeepsBut ps e) (g : ([.mem, .dram].all fun p =>
    ps.contains p) = true) : d.KeepsMk ps (Dev.mk e.regs e.bus e.module e.apex e.ascent e.trust e.host v e.cricket
    e.massif e.weevil e.col e.scarab e.talus e.stag e.hive e.forager e.link e.power e.firefly e.enPend e.freeCtr) :=
  Dev.KeepsBut.then (qs := [.mem, .dram]) (by intro p hp; cases p <;> first | rfl | exact absurd hp (by decide)) g h

theorem Dev.keeps_cricket {d e : Dev} {ps : List Part} {v : CricketSt} (h : d.KeepsBut ps e) (g : ([.cricket].all fun
    p => ps.contains p) = true) : d.KeepsMk ps (Dev.mk e.regs e.bus e.module e.apex e.ascent e.trust e.host e.mem v
    e.massif e.weevil e.col e.scarab e.talus e.stag e.hive e.forager e.link e.power e.firefly e.enPend e.freeCtr) :=
  Dev.KeepsBut.then (qs := [.cricket]) (by intro p hp; cases p <;> first | rfl | exact absurd hp (by decide)) g h

theorem Dev.keeps_massif {d e : Dev} {ps : List Part} {v : MassifSt} (h : d.KeepsBut ps e) (g : ([.massif].all fun p
    => ps.contains p) = true) : d.KeepsMk ps (Dev.mk e.regs e.bus e.module e.apex e.ascent e.trust e.host e.mem
    e.cricket v e.weevil e.col e.scarab e.talus e.stag e.hive e.forager e.link e.power e.firefly e.enPend e.freeCtr)
    :=
  Dev.KeepsBut.then (qs := [.massif]) (by intro p hp; cases p <;> first | rfl | exact absurd hp (by decide)) g h

theorem Dev.keeps_weevil {d e : Dev} {ps : List Part} {v : WeevilSt} (h : d.KeepsBut ps e) (g : ([.weevil].all fun p
    => ps.contains p) = true) : d.KeepsMk ps (Dev.mk e.regs e.bus e.module e.apex e.ascent e.trust e.host e.mem
    e.cricket e.massif v e.col e.scarab e.talus e.stag e.hive e.forager e.link e.power e.firefly e.enPend e.freeCtr)
    :=
  Dev.KeepsBut.then (qs := [.weevil]) (by intro p hp; cases p <;> first | rfl | exact absurd hp (by decide)) g h

theorem Dev.keeps_col {d e : Dev} {ps : List Part} {v : ColSt} (h : d.KeepsBut ps e) (g : ([.col].all fun p =>
    ps.contains p) = true) : d.KeepsMk ps (Dev.mk e.regs e.bus e.module e.apex e.ascent e.trust e.host e.mem e.cricket
    e.massif e.weevil v e.scarab e.talus e.stag e.hive e.forager e.link e.power e.firefly e.enPend e.freeCtr) :=
  Dev.KeepsBut.then (qs := [.col]) (by intro p hp; cases p <;> first | rfl | exact absurd hp (by decide)) g h

theorem Dev.keeps_scarab {d e : Dev} {ps : List Part} {v : ScarabSt} (h : d.KeepsBut ps e) (g : ([.scarab].all fun p
    => ps.contains p) = true) : d.KeepsMk ps (Dev.mk e.regs e.bus e.module e.apex e.ascent e.trust e.host e.mem
    e.cricket e.massif e.weevil e.col v e.talus e.stag e.hive e.forager e.link e.power e.firefly e.enPend e.freeCtr)
    :=
  Dev.KeepsBut.then (qs := [.scarab]) (by intro p hp; cases p <;> first | rfl | exact absurd hp (by decide)) g h

theorem Dev.keeps_talus {d e : Dev} {ps : List Part} {v : TalusSt} (h : d.KeepsBut ps e) (g : ([.talus].all fun p =>
    ps.contains p) = true) : d.KeepsMk ps (Dev.mk e.regs e.bus e.module e.apex e.ascent e.trust e.host e.mem e.cricket
    e.massif e.weevil e.col e.scarab v e.stag e.hive e.forager e.link e.power e.firefly e.enPend e.freeCtr) :=
  Dev.KeepsBut.then (qs := [.talus]) (by intro p hp; cases p <;> first | rfl | exact absurd hp (by decide)) g h

theorem Dev.keeps_stag {d e : Dev} {ps : List Part} {v : StagSt} (h : d.KeepsBut ps e) (g : ([.stag].all fun p =>
    ps.contains p) = true) : d.KeepsMk ps (Dev.mk e.regs e.bus e.module e.apex e.ascent e.trust e.host e.mem e.cricket
    e.massif e.weevil e.col e.scarab e.talus v e.hive e.forager e.link e.power e.firefly e.enPend e.freeCtr) :=
  Dev.KeepsBut.then (qs := [.stag]) (by intro p hp; cases p <;> first | rfl | exact absurd hp (by decide)) g h

theorem Dev.keeps_hive {d e : Dev} {ps : List Part} {v : HiveSt} (h : d.KeepsBut ps e) (g : ([.hive].all fun p =>
    ps.contains p) = true) : d.KeepsMk ps (Dev.mk e.regs e.bus e.module e.apex e.ascent e.trust e.host e.mem e.cricket
    e.massif e.weevil e.col e.scarab e.talus e.stag v e.forager e.link e.power e.firefly e.enPend e.freeCtr) :=
  Dev.KeepsBut.then (qs := [.hive]) (by intro p hp; cases p <;> first | rfl | exact absurd hp (by decide)) g h

theorem Dev.keeps_forager {d e : Dev} {ps : List Part} {v : ForagerSt} (h : d.KeepsBut ps e) (g : ([.forager].all fun
    p => ps.contains p) = true) : d.KeepsMk ps (Dev.mk e.regs e.bus e.module e.apex e.ascent e.trust e.host e.mem
    e.cricket e.massif e.weevil e.col e.scarab e.talus e.stag e.hive v e.link e.power e.firefly e.enPend e.freeCtr) :=
  Dev.KeepsBut.then (qs := [.forager]) (by intro p hp; cases p <;> first | rfl | exact absurd hp (by decide)) g h

theorem Dev.keeps_link {d e : Dev} {ps : List Part} {v : LinkSt} (h : d.KeepsBut ps e) (g : ([.link].all fun p =>
    ps.contains p) = true) : d.KeepsMk ps (Dev.mk e.regs e.bus e.module e.apex e.ascent e.trust e.host e.mem e.cricket
    e.massif e.weevil e.col e.scarab e.talus e.stag e.hive e.forager v e.power e.firefly e.enPend e.freeCtr) :=
  Dev.KeepsBut.then (qs := [.link]) (by intro p hp; cases p <;> first | rfl | exact absurd hp (by decide)) g h

theorem Dev.keeps_power {d e : Dev} {ps : List Part} {v : PowerSt} (h : d.KeepsBut ps e) (g : ([.power].all fun p =>
    ps.contains p) = true) : d.KeepsMk ps (Dev.mk e.regs e.bus e.module e.apex e.ascent e.trust e.host e.mem e.cricket
    e.massif e.weevil e.col e.scarab e.talus e.stag e.hive e.forager e.link v e.firefly e.enPend e.freeCtr) :=
  Dev.KeepsBut.then (qs := [.power]) (by intro p hp; cases p <;> first | rfl | exact absurd hp (by decide)) g h

theorem Dev.keeps_firefly {d e : Dev} {ps : List Part} {v : FireflySt} (h : d.KeepsBut ps e) (g : ([.firefly].all fun
    p => ps.contains p) = true) : d.KeepsMk ps (Dev.mk e.regs e.bus e.module e.apex e.ascent e.trust e.host e.mem
    e.cricket e.massif e.weevil e.col e.scarab e.talus e.stag e.hive e.forager e.link e.power v e.enPend e.freeCtr) :=
  Dev.KeepsBut.then (qs := [.firefly]) (by intro p hp; cases p <;> first | rfl | exact absurd hp (by decide)) g h

theorem Dev.keeps_enPend {d e : Dev} {ps : List Part} {v : List (Nat × Bool)} (h : d.KeepsBut ps e) (g :
    ([.enPend].all fun p => ps.contains p) = true) : d.KeepsMk ps (Dev.mk e.regs e.bus e.module e.apex e.ascent
    e.trust e.host e.mem e.cricket e.massif e.weevil e.col e.scarab e.talus e.stag e.hive e.forager e.link e.power
    e.firefly v e.freeCtr) :=
  Dev.KeepsBut.then (qs := [.enPend]) (by intro p hp; cases p <;> first | rfl | exact absurd hp (by decide)) g h

theorem Dev.keeps_freeCtr {d e : Dev} {ps : List Part} {v : Nat} (h : d.KeepsBut ps e) (g : ([.freeCtr].all fun p =>
    ps.contains p) = true) : d.KeepsMk ps (Dev.mk e.regs e.bus e.module e.apex e.ascent e.trust e.host e.mem e.cricket
    e.massif e.weevil e.col e.scarab e.talus e.stag e.hive e.forager e.link e.power e.firefly e.enPend v) :=
  Dev.KeepsBut.then (qs := [.freeCtr]) (by intro p hp; cases p <;> first | rfl | exact absurd hp (by decide)) g h

theorem Dev.keeps_dram {d e : Dev} {ps : List Part} {v : ByteMem} (h : d.KeepsBut ps e) (g : ([.dram].all fun p =>
    ps.contains p) = true) : d.KeepsMk ps (Dev.mk e.regs e.bus e.module e.apex e.ascent e.trust e.host (MemSt.mk v
    e.mem.stackUE e.mem.badList e.mem.rowFix e.mem.repairLog e.mem.pins e.mem.captured e.mem.lru e.mem.pinUE
    e.mem.margins e.mem.tgFirst e.mem.longOp e.mem.pinWork e.mem.pinFetch e.mem.pinWarm e.mem.copyQ e.mem.copyRun) e.cricket e.massif e.weevil
    e.col e.scarab e.talus e.stag e.hive e.forager e.link e.power e.firefly e.enPend e.freeCtr) :=
  Dev.KeepsBut.then (qs := [.dram]) (by intro p hp; cases p <;> first | rfl | exact absurd hp (by decide)) g h

theorem Dev.keeps_memRest {d e : Dev} {ps : List Part} {m1 : List Nat} {m2 : List (Nat × Nat)} {m3 : SMap Nat} {m4 :
    List Nat} {m5 : List (Nat × Nat)} {m6 : Option (List (Nat × Nat))} {m7 : SMap (List Nat)} {m8 : List Nat} {m9 :
    SMap Word} {m10 : SMap Nat} {m11 : SMap (Option StkOp)} {m12 : SMap Nat} {m13 m14 : List (Nat × Nat)}
    {m15 : List QDesc} {m16 : Option QDesc}
    (h : d.KeepsBut ps e) (g : ([.mem].all fun p => ps.contains p) = true) : d.KeepsMk ps (Dev.mk e.regs e.bus
    e.module e.apex e.ascent e.trust e.host (MemSt.mk e.mem.dram m1 m2 m3 m4 m5 m6 m7 m8 m9 m10 m11 m12 m13 m14 m15
    m16)
    e.cricket e.massif e.weevil e.col e.scarab e.talus e.stag e.hive e.forager e.link e.power e.firefly e.enPend
    e.freeCtr) :=
  Dev.KeepsBut.then (qs := [.mem]) (by intro p hp; cases p <;> first | rfl | exact absurd hp (by decide)) g h

theorem Dev.keeps_freeCtr_mem {d e : Dev} {ps : List Part} {vm : ByteMem} {v21 : Nat} (h : d.KeepsBut ps e) (g :
    ([.dram, .freeCtr].all fun p => ps.contains p) = true) : d.KeepsMk ps (Dev.mk e.regs e.bus e.module e.apex
    e.ascent e.trust e.host (MemSt.mk vm e.mem.stackUE e.mem.badList e.mem.rowFix e.mem.repairLog e.mem.pins
    e.mem.captured e.mem.lru e.mem.pinUE e.mem.margins e.mem.tgFirst e.mem.longOp e.mem.pinWork e.mem.pinFetch e.mem.pinWarm e.mem.copyQ
    e.mem.copyRun) e.cricket e.massif e.weevil e.col e.scarab e.talus e.stag e.hive e.forager e.link e.power e.firefly
    e.enPend v21) :=
  Dev.KeepsBut.then (qs := [.dram, .freeCtr]) (by intro p hp; cases p <;> first | rfl | exact absurd hp (by decide)) g h

theorem Dev.keeps_massif_scarab_talus_weevil {d e : Dev} {ps : List Part} {v9 : MassifSt} {v10 : WeevilSt} {v12 :
    ScarabSt} {v13 : TalusSt} (h : d.KeepsBut ps e) (g : ([.massif, .weevil, .scarab, .talus].all fun p => ps.contains
    p) = true) : d.KeepsMk ps (Dev.mk e.regs e.bus e.module e.apex e.ascent e.trust e.host e.mem e.cricket v9 v10
    e.col v12 v13 e.stag e.hive e.forager e.link e.power e.firefly e.enPend e.freeCtr) :=
  Dev.KeepsBut.then (qs := [.massif, .weevil, .scarab, .talus]) (by intro p hp; cases p <;> first | rfl | exact absurd hp (by decide)) g h

theorem Dev.keeps_forager_host {d e : Dev} {ps : List Part} {v6 : HostSt} {v16 : ForagerSt} (h : d.KeepsBut ps e) (g :
    ([.host, .forager].all fun p => ps.contains p) = true) : d.KeepsMk ps (Dev.mk e.regs e.bus e.module e.apex
    e.ascent e.trust v6 e.mem e.cricket e.massif e.weevil e.col e.scarab e.talus e.stag e.hive v16 e.link e.power
    e.firefly e.enPend e.freeCtr) :=
  Dev.KeepsBut.then (qs := [.host, .forager]) (by intro p hp; cases p <;> first | rfl | exact absurd hp (by decide)) g h

theorem Dev.keeps_cricket_host {d e : Dev} {ps : List Part} {v6 : HostSt} {v8 : CricketSt} (h : d.KeepsBut ps e) (g :
    ([.host, .cricket].all fun p => ps.contains p) = true) : d.KeepsMk ps (Dev.mk e.regs e.bus e.module e.apex
    e.ascent e.trust v6 e.mem v8 e.massif e.weevil e.col e.scarab e.talus e.stag e.hive e.forager e.link e.power
    e.firefly e.enPend e.freeCtr) :=
  Dev.KeepsBut.then (qs := [.host, .cricket]) (by intro p hp; cases p <;> first | rfl | exact absurd hp (by decide)) g h

theorem Dev.keeps_apex_module_power_regs {d e : Dev} {ps : List Part} {v0 : SMap Word} {v2 : ModuleSt} {v3 : ApexSt}
    {v18 : PowerSt} (h : d.KeepsBut ps e) (g : ([.regs, .module, .apex, .power].all fun p => ps.contains p) = true) :
    d.KeepsMk ps (Dev.mk v0 e.bus v2 v3 e.ascent e.trust e.host e.mem e.cricket e.massif e.weevil e.col e.scarab
    e.talus e.stag e.hive e.forager e.link v18 e.firefly e.enPend e.freeCtr) :=
  Dev.KeepsBut.then (qs := [.regs, .module, .apex, .power]) (by intro p hp; cases p <;> first | rfl | exact absurd hp (by decide)) g h

theorem Dev.keeps_freeCtr_massif {d e : Dev} {ps : List Part} {v9 : MassifSt} {v21 : Nat} (h : d.KeepsBut ps e) (g :
    ([.massif, .freeCtr].all fun p => ps.contains p) = true) : d.KeepsMk ps (Dev.mk e.regs e.bus e.module e.apex
    e.ascent e.trust e.host e.mem e.cricket v9 e.weevil e.col e.scarab e.talus e.stag e.hive e.forager e.link e.power
    e.firefly e.enPend v21) :=
  Dev.KeepsBut.then (qs := [.massif, .freeCtr]) (by intro p hp; cases p <;> first | rfl | exact absurd hp (by decide)) g h

theorem Dev.keeps_apex_module {d e : Dev} {ps : List Part} {v2 : ModuleSt} {v3 : ApexSt} (h : d.KeepsBut ps e) (g :
    ([.module, .apex].all fun p => ps.contains p) = true) : d.KeepsMk ps (Dev.mk e.regs e.bus v2 v3 e.ascent e.trust
    e.host e.mem e.cricket e.massif e.weevil e.col e.scarab e.talus e.stag e.hive e.forager e.link e.power e.firefly
    e.enPend e.freeCtr) :=
  Dev.KeepsBut.then (qs := [.module, .apex]) (by intro p hp; cases p <;> first | rfl | exact absurd hp (by decide)) g h

theorem Dev.keeps_module_trust {d e : Dev} {ps : List Part} {v2 : ModuleSt} {v5 : TrustSt} (h : d.KeepsBut ps e) (g :
    ([.module, .trust].all fun p => ps.contains p) = true) : d.KeepsMk ps (Dev.mk e.regs e.bus v2 e.apex e.ascent v5
    e.host e.mem e.cricket e.massif e.weevil e.col e.scarab e.talus e.stag e.hive e.forager e.link e.power e.firefly
    e.enPend e.freeCtr) :=
  Dev.KeepsBut.then (qs := [.module, .trust]) (by intro p hp; cases p <;> first | rfl | exact absurd hp (by decide)) g h

theorem Dev.keeps_massif_trust {d e : Dev} {ps : List Part} {v5 : TrustSt} {v9 : MassifSt} (h : d.KeepsBut ps e) (g :
    ([.trust, .massif].all fun p => ps.contains p) = true) : d.KeepsMk ps (Dev.mk e.regs e.bus e.module e.apex
    e.ascent v5 e.host e.mem e.cricket v9 e.weevil e.col e.scarab e.talus e.stag e.hive e.forager e.link e.power
    e.firefly e.enPend e.freeCtr) :=
  Dev.KeepsBut.then (qs := [.trust, .massif]) (by intro p hp; cases p <;> first | rfl | exact absurd hp (by decide)) g h

theorem Dev.keeps_host_trust {d e : Dev} {ps : List Part} {v5 : TrustSt} {v6 : HostSt} (h : d.KeepsBut ps e) (g :
    ([.trust, .host].all fun p => ps.contains p) = true) : d.KeepsMk ps (Dev.mk e.regs e.bus e.module e.apex e.ascent
    v5 v6 e.mem e.cricket e.massif e.weevil e.col e.scarab e.talus e.stag e.hive e.forager e.link e.power e.firefly
    e.enPend e.freeCtr) :=
  Dev.KeepsBut.then (qs := [.trust, .host]) (by intro p hp; cases p <;> first | rfl | exact absurd hp (by decide)) g h

theorem Dev.keeps_massif_regs_scarab_talus_weevil {d e : Dev} {ps : List Part} {v0 : SMap Word} {v9 : MassifSt} {v10 :
    WeevilSt} {v12 : ScarabSt} {v13 : TalusSt} (h : d.KeepsBut ps e) (g : ([.regs, .massif, .weevil, .scarab,
    .talus].all fun p => ps.contains p) = true) : d.KeepsMk ps (Dev.mk v0 e.bus e.module e.apex e.ascent e.trust
    e.host e.mem e.cricket v9 v10 e.col v12 v13 e.stag e.hive e.forager e.link e.power e.firefly e.enPend e.freeCtr)
    :=
  Dev.KeepsBut.then (qs := [.regs, .massif, .weevil, .scarab, .talus]) (by intro p hp; cases p <;> first | rfl | exact absurd hp (by decide)) g h

theorem Dev.keeps_col_forager_freeCtr_link_massif_mem_scarab_stag_talus_weevil {d e : Dev} {ps : List Part} {m1 : List
    Nat} {m2 : List (Nat × Nat)} {m3 : SMap Nat} {m4 : List Nat} {m5 : List (Nat × Nat)} {m6 : Option (List (Nat ×
    Nat))} {m7 : SMap (List Nat)} {m8 : List Nat} {m9 : SMap Word} {m10 : SMap Nat} {m11 : SMap (Option StkOp)} {m12 :
    SMap Nat} {m13 m14 : List (Nat × Nat)} {m15 : List QDesc} {m16 : Option QDesc} {v9 : MassifSt} {v10 : WeevilSt} {v11 : ColSt} {v12 : ScarabSt}
    {v13 : TalusSt} {v14 : StagSt} {v16 : ForagerSt} {v17 : LinkSt} {v21 : Nat} (h : d.KeepsBut ps e) (g : ([.mem,
    .massif, .weevil, .col, .scarab, .talus, .stag, .forager, .link, .freeCtr].all fun p => ps.contains p) = true) :
    d.KeepsMk ps (Dev.mk e.regs e.bus e.module e.apex e.ascent e.trust e.host (MemSt.mk e.mem.dram m1 m2 m3 m4 m5 m6
    m7 m8 m9 m10 m11 m12 m13 m14 m15
    m16) e.cricket v9 v10 v11 v12 v13 v14 e.hive v16 v17 e.power e.firefly e.enPend v21) :=
  Dev.KeepsBut.then (qs := [.mem, .massif, .weevil, .col, .scarab, .talus, .stag, .forager, .link, .freeCtr]) (by intro p hp; cases p <;> first | rfl | exact absurd hp (by decide)) g h

theorem Dev.keeps_cricket_hive {d e : Dev} {ps : List Part} {v8 : CricketSt} {v15 : HiveSt} (h : d.KeepsBut ps e) (g :
    ([.cricket, .hive].all fun p => ps.contains p) = true) : d.KeepsMk ps (Dev.mk e.regs e.bus e.module e.apex
    e.ascent e.trust e.host e.mem v8 e.massif e.weevil e.col e.scarab e.talus e.stag v15 e.forager e.link e.power
    e.firefly e.enPend e.freeCtr) :=
  Dev.KeepsBut.then (qs := [.cricket, .hive]) (by intro p hp; cases p <;> first | rfl | exact absurd hp (by decide)) g h

theorem Dev.keeps_freeCtr_trust {d e : Dev} {ps : List Part} {v5 : TrustSt} {v21 : Nat} (h : d.KeepsBut ps e) (g :
    ([.trust, .freeCtr].all fun p => ps.contains p) = true) : d.KeepsMk ps (Dev.mk e.regs e.bus e.module e.apex
    e.ascent v5 e.host e.mem e.cricket e.massif e.weevil e.col e.scarab e.talus e.stag e.hive e.forager e.link e.power
    e.firefly e.enPend v21) :=
  Dev.KeepsBut.then (qs := [.trust, .freeCtr]) (by intro p hp; cases p <;> first | rfl | exact absurd hp (by decide)) g h

theorem Dev.keeps_cricket_forager_host {d e : Dev} {ps : List Part} {v6 : HostSt} {v8 : CricketSt} {v16 : ForagerSt}
    (h : d.KeepsBut ps e) (g : ([.host, .cricket, .forager].all fun p => ps.contains p) = true) : d.KeepsMk ps (Dev.mk
    e.regs e.bus e.module e.apex e.ascent e.trust v6 e.mem v8 e.massif e.weevil e.col e.scarab e.talus e.stag e.hive
    v16 e.link e.power e.firefly e.enPend e.freeCtr) :=
  Dev.KeepsBut.then (qs := [.host, .cricket, .forager]) (by intro p hp; cases p <;> first | rfl | exact absurd hp (by decide)) g h

theorem Dev.keeps_freeCtr_mem_stag {d e : Dev} {ps : List Part} {vm : ByteMem} {v14 : StagSt} {v21 : Nat} (h :
    d.KeepsBut ps e) (g : ([.dram, .stag, .freeCtr].all fun p => ps.contains p) = true) : d.KeepsMk ps (Dev.mk e.regs
    e.bus e.module e.apex e.ascent e.trust e.host (MemSt.mk vm e.mem.stackUE e.mem.badList e.mem.rowFix
    e.mem.repairLog e.mem.pins e.mem.captured e.mem.lru e.mem.pinUE e.mem.margins e.mem.tgFirst e.mem.longOp
    e.mem.pinWork e.mem.pinFetch e.mem.pinWarm e.mem.copyQ e.mem.copyRun) e.cricket e.massif e.weevil e.col e.scarab e.talus v14 e.hive e.forager
    e.link e.power e.firefly e.enPend v21) :=
  Dev.KeepsBut.then (qs := [.dram, .stag, .freeCtr]) (by intro p hp; cases p <;> first | rfl | exact absurd hp (by decide)) g h

/-- A record update that leaves `module` alone. -/
theorem Dev.keeps_mk_module {d e : Dev} {ps : List Part} {x0 : SMap Word} {x1 : BusSt} {x3 : ApexSt} {x4 : AscentSt}
    {x5 : TrustSt} {x6 : HostSt} {x7 : MemSt} {x8 : CricketSt} {x9 : MassifSt} {x10 : WeevilSt} {x11 : ColSt} {x12 :
    ScarabSt} {x13 : TalusSt} {x14 : StagSt} {x15 : HiveSt} {x16 : ForagerSt} {x17 : LinkSt} {x18 : PowerSt} {x19 :
    FireflySt} {x20 : List (Nat × Bool)} {x21 : Nat} (h : d.KeepsBut ps e) (g : e.KeepsBut ps (Dev.mk x0 x1 e.module
    x3 x4 x5 x6 x7 x8 x9 x10 x11 x12 x13 x14 x15 x16 x17 x18 x19 x20 x21)) : d.KeepsMk ps (Dev.mk x0 x1 e.module x3
    x4 x5 x6 x7 x8 x9 x10 x11 x12 x13 x14 x15 x16 x17 x18 x19 x20 x21) := Dev.KeepsBut.trans h g

/-- A record update that leaves `bus` alone. -/
theorem Dev.keeps_mk_bus {d e : Dev} {ps : List Part} {x0 : SMap Word} {x2 : ModuleSt} {x3 : ApexSt} {x4 : AscentSt}
    {x5 : TrustSt} {x6 : HostSt} {x7 : MemSt} {x8 : CricketSt} {x9 : MassifSt} {x10 : WeevilSt} {x11 : ColSt} {x12 :
    ScarabSt} {x13 : TalusSt} {x14 : StagSt} {x15 : HiveSt} {x16 : ForagerSt} {x17 : LinkSt} {x18 : PowerSt} {x19 :
    FireflySt} {x20 : List (Nat × Bool)} {x21 : Nat} (h : d.KeepsBut ps e) (g : e.KeepsBut ps (Dev.mk x0 e.bus x2 x3
    x4 x5 x6 x7 x8 x9 x10 x11 x12 x13 x14 x15 x16 x17 x18 x19 x20 x21)) : d.KeepsMk ps (Dev.mk x0 e.bus x2 x3 x4 x5
    x6 x7 x8 x9 x10 x11 x12 x13 x14 x15 x16 x17 x18 x19 x20 x21) := Dev.KeepsBut.trans h g

/-- A record update that leaves `power` alone. -/
theorem Dev.keeps_mk_power {d e : Dev} {ps : List Part} {x0 : SMap Word} {x1 : BusSt} {x2 : ModuleSt} {x3 : ApexSt}
    {x4 : AscentSt} {x5 : TrustSt} {x6 : HostSt} {x7 : MemSt} {x8 : CricketSt} {x9 : MassifSt} {x10 : WeevilSt} {x11 :
    ColSt} {x12 : ScarabSt} {x13 : TalusSt} {x14 : StagSt} {x15 : HiveSt} {x16 : ForagerSt} {x17 : LinkSt} {x19 :
    FireflySt} {x20 : List (Nat × Bool)} {x21 : Nat} (h : d.KeepsBut ps e) (g : e.KeepsBut ps (Dev.mk x0 x1 x2 x3 x4
    x5 x6 x7 x8 x9 x10 x11 x12 x13 x14 x15 x16 x17 e.power x19 x20 x21)) : d.KeepsMk ps (Dev.mk x0 x1 x2 x3 x4 x5 x6
    x7 x8 x9 x10 x11 x12 x13 x14 x15 x16 x17 e.power x19 x20 x21) := Dev.KeepsBut.trans h g

end Sys2Proof.Machine
end

