-- ==== Sys2Proof/Laws/KeepsOps.lean ====
section
/-!
SUPPORT. Which parts of the device the operations of Machine/Ops.lean may change.
-/
namespace Sys2Proof.Machine

theorem Dev.wr_keeps (d : Dev) (a : Nat) (v : Word) : d.KeepsBut [.regs] (Dev.wr d a v) := by
  unfold Dev.wr
  try dsimp only
  repeat' first | with_reducible apply Dev.KeepsBut.refl | (with_reducible apply Dev.KeepsBut.foldl; intro _ _) | (with_reducible apply Dev.KeepsBut.foldl_snd; intro _ _) | with_reducible apply Dev.keeps_regs | simp only [Dev.keeps_mk] | split | decide | (with_reducible intro _) | (dsimp only)

theorem Dev.setNum_keeps (d : Dev) (a : Nat) (n : Nat) : d.KeepsBut [.regs] (Dev.setNum d a n) := by
  unfold Dev.setNum
  try dsimp only
  repeat' first | with_reducible apply Dev.KeepsBut.refl | with_reducible apply Dev.KeepsBut.then (Dev.wr_keeps _ _ _) | (with_reducible apply Dev.KeepsBut.foldl; intro _ _) | (with_reducible apply Dev.KeepsBut.foldl_snd; intro _ _) | split | decide | (with_reducible intro _) | (dsimp only)

theorem Dev.setNum64_keeps (d : Dev) (a : Nat) (n : Nat) : d.KeepsBut [.regs] (Dev.setNum64 d a n) := by
  unfold Dev.setNum64
  try dsimp only
  repeat' first | with_reducible apply Dev.KeepsBut.refl | with_reducible apply Dev.KeepsBut.then (Dev.setNum_keeps _ _ _) | (with_reducible apply Dev.KeepsBut.foldl; intro _ _) | (with_reducible apply Dev.KeepsBut.foldl_snd; intro _ _) | split | decide | (with_reducible intro _) | (dsimp only)

theorem Dev.setFld_keeps (d : Dev) (a : Nat) (hi : Nat) (lo : Nat) (v : Nat) : d.KeepsBut [.regs] (Dev.setFld d a hi lo v) := by
  unfold Dev.setFld
  try dsimp only
  repeat' first | with_reducible apply Dev.KeepsBut.refl | with_reducible apply Dev.KeepsBut.then (Dev.setNum_keeps _ _ _) | (with_reducible apply Dev.KeepsBut.foldl; intro _ _) | (with_reducible apply Dev.KeepsBut.foldl_snd; intro _ _) | split | decide | (with_reducible intro _) | (dsimp only)

theorem Dev.setFlag_keeps (d : Dev) (a : Nat) (i : Nat) (b : Bool) : d.KeepsBut [.regs] (Dev.setFlag d a i b) := by
  unfold Dev.setFlag
  try dsimp only
  repeat' first | with_reducible apply Dev.KeepsBut.refl | with_reducible apply Dev.KeepsBut.then (Dev.setFld_keeps _ _ _ _ _) | (with_reducible apply Dev.KeepsBut.foldl; intro _ _) | (with_reducible apply Dev.KeepsBut.foldl_snd; intro _ _) | split | decide | (with_reducible intro _) | (dsimp only)

theorem Dev.raise_keeps (d : Dev) (a : Nat) (i : Nat) : d.KeepsBut [.regs] (Dev.raise d a i) := by
  unfold Dev.raise
  try dsimp only
  repeat' first | with_reducible apply Dev.KeepsBut.refl | with_reducible apply Dev.KeepsBut.then (Dev.setFlag_keeps _ _ _ _) | (with_reducible apply Dev.KeepsBut.foldl; intro _ _) | (with_reducible apply Dev.KeepsBut.foldl_snd; intro _ _) | split | decide | (with_reducible intro _) | (dsimp only)

theorem Dev.drop_keeps (d : Dev) (a : Nat) (i : Nat) : d.KeepsBut [.regs] (Dev.drop d a i) := by
  unfold Dev.drop
  try dsimp only
  repeat' first | with_reducible apply Dev.KeepsBut.refl | with_reducible apply Dev.KeepsBut.then (Dev.setFlag_keeps _ _ _ _) | (with_reducible apply Dev.KeepsBut.foldl; intro _ _) | (with_reducible apply Dev.KeepsBut.foldl_snd; intro _ _) | split | decide | (with_reducible intro _) | (dsimp only)

theorem Dev.countSat_keeps (d : Dev) (a : Nat) (n : Nat) : d.KeepsBut [.regs] (Dev.countSat d a n) := by
  unfold Dev.countSat
  try dsimp only
  repeat' first | with_reducible apply Dev.KeepsBut.refl | with_reducible apply Dev.KeepsBut.then (Dev.setNum_keeps _ _ _) | (with_reducible apply Dev.KeepsBut.foldl; intro _ _) | (with_reducible apply Dev.KeepsBut.foldl_snd; intro _ _) | split | decide | (with_reducible intro _) | (dsimp only)

theorem Dev.count64_keeps (d : Dev) (a : Nat) (n : Nat) : d.KeepsBut [.regs] (Dev.count64 d a n) := by
  unfold Dev.count64
  try dsimp only
  repeat' first | with_reducible apply Dev.KeepsBut.refl | with_reducible apply Dev.KeepsBut.then (Dev.setNum64_keeps _ _ _) | (with_reducible apply Dev.KeepsBut.foldl; intro _ _) | (with_reducible apply Dev.KeepsBut.foldl_snd; intro _ _) | split | decide | (with_reducible intro _) | (dsimp only)

theorem Dev.err_keeps (d : Dev) (b : Nat) (i : Nat) : d.KeepsBut [.regs] (Dev.err d b i) := by
  unfold Dev.err
  try dsimp only
  repeat' first | with_reducible apply Dev.KeepsBut.refl | with_reducible apply Dev.KeepsBut.then (Dev.raise_keeps _ _ _) | (with_reducible apply Dev.KeepsBut.foldl; intro _ _) | (with_reducible apply Dev.KeepsBut.foldl_snd; intro _ _) | split | decide | (with_reducible intro _) | (dsimp only)

theorem Dev.errData_keeps (d : Dev) (b : Nat) (i : Nat) : d.KeepsBut [.regs] (Dev.errData d b i) := by
  unfold Dev.errData
  try dsimp only
  repeat' first | with_reducible apply Dev.KeepsBut.refl | with_reducible apply Dev.KeepsBut.then (Dev.err_keeps _ _ _) | (with_reducible apply Dev.KeepsBut.foldl; intro _ _) | (with_reducible apply Dev.KeepsBut.foldl_snd; intro _ _) | split | decide | (with_reducible intro _) | (dsimp only)

theorem Dev.irq_keeps (d : Dev) (b : Nat) (i : Nat) : d.KeepsBut [.regs] (Dev.irq d b i) := by
  unfold Dev.irq
  try dsimp only
  repeat' first | with_reducible apply Dev.KeepsBut.refl | with_reducible apply Dev.KeepsBut.then (Dev.raise_keeps _ _ _) | (with_reducible apply Dev.KeepsBut.foldl; intro _ _) | (with_reducible apply Dev.KeepsBut.foldl_snd; intro _ _) | split | decide | (with_reducible intro _) | (dsimp only)

theorem Dev.setReady_keeps (d : Dev) (b : Nat) (v : Bool) : d.KeepsBut [.regs] (Dev.setReady d b v) := by
  unfold Dev.setReady
  try dsimp only
  repeat' first | with_reducible apply Dev.KeepsBut.refl | with_reducible apply Dev.KeepsBut.then (Dev.setFlag_keeps _ _ _ _) | (with_reducible apply Dev.KeepsBut.foldl; intro _ _) | (with_reducible apply Dev.KeepsBut.foldl_snd; intro _ _) | split | decide | (with_reducible intro _) | (dsimp only)

theorem Dev.setBusy_keeps (d : Dev) (b : Nat) (v : Bool) : d.KeepsBut [.regs] (Dev.setBusy d b v) := by
  unfold Dev.setBusy
  try dsimp only
  repeat' first | with_reducible apply Dev.KeepsBut.refl | with_reducible apply Dev.KeepsBut.then (Dev.setFlag_keeps _ _ _ _) | (with_reducible apply Dev.KeepsBut.foldl; intro _ _) | (with_reducible apply Dev.KeepsBut.foldl_snd; intro _ _) | split | decide | (with_reducible intro _) | (dsimp only)

theorem Dev.setFault_keeps (d : Dev) (b : Nat) : d.KeepsBut [.regs] (Dev.setFault d b) := by
  unfold Dev.setFault
  try dsimp only
  repeat' first | with_reducible apply Dev.KeepsBut.refl | with_reducible apply Dev.KeepsBut.then (Dev.raise_keeps _ _ _) | with_reducible apply Dev.KeepsBut.then (Dev.drop_keeps _ _ _) | with_reducible apply Dev.KeepsBut.then (Dev.irq_keeps _ _ _) | (with_reducible apply Dev.KeepsBut.foldl; intro _ _) | (with_reducible apply Dev.KeepsBut.foldl_snd; intro _ _) | split | decide | (with_reducible intro _) | (dsimp only)

theorem Dev.clearFault_keeps (d : Dev) (b : Nat) : d.KeepsBut [.regs] (Dev.clearFault d b) := by
  unfold Dev.clearFault
  try dsimp only
  repeat' first | with_reducible apply Dev.KeepsBut.refl | with_reducible apply Dev.KeepsBut.then (Dev.drop_keeps _ _ _) | (with_reducible apply Dev.KeepsBut.foldl; intro _ _) | (with_reducible apply Dev.KeepsBut.foldl_snd; intro _ _) | split | decide | (with_reducible intro _) | (dsimp only)

theorem Dev.setDegraded_keeps (d : Dev) (b : Nat) (v : Bool) : d.KeepsBut [.regs] (Dev.setDegraded d b v) := by
  unfold Dev.setDegraded
  try dsimp only
  repeat' first | with_reducible apply Dev.KeepsBut.refl | with_reducible apply Dev.KeepsBut.then (Dev.setFlag_keeps _ _ _ _) | (with_reducible apply Dev.KeepsBut.foldl; intro _ _) | (with_reducible apply Dev.KeepsBut.foldl_snd; intro _ _) | split | decide | (with_reducible intro _) | (dsimp only)

theorem Dev.noteDegraded_keeps (d : Dev) (b : Nat) (v : Bool) : d.KeepsBut [.regs] (Dev.noteDegraded d b v) := by
  unfold Dev.noteDegraded
  try dsimp only
  repeat' first | with_reducible apply Dev.KeepsBut.refl | with_reducible apply Dev.KeepsBut.then (Dev.irq_keeps _ _ _) | with_reducible apply Dev.KeepsBut.then (Dev.setDegraded_keeps _ _ _) | (with_reducible apply Dev.KeepsBut.foldl; intro _ _) | (with_reducible apply Dev.KeepsBut.foldl_snd; intro _ _) | split | decide | (with_reducible intro _) | (dsimp only)

theorem Dev.lastCode_keeps (d : Dev) (b : Nat) (code : Nat) : d.KeepsBut [.regs] (Dev.lastCode d b code) := by
  unfold Dev.lastCode
  try dsimp only
  repeat' first | with_reducible apply Dev.KeepsBut.refl | with_reducible apply Dev.KeepsBut.then (Dev.setFld_keeps _ _ _ _ _) | (with_reducible apply Dev.KeepsBut.foldl; intro _ _) | (with_reducible apply Dev.KeepsBut.foldl_snd; intro _ _) | split | decide | (with_reducible intro _) | (dsimp only)

theorem Dev.startLong_keeps (d : Dev) (b : Nat) (total : Nat) : d.KeepsBut [.regs] (Dev.startLong d b total) := by
  unfold Dev.startLong
  try dsimp only
  repeat' first | with_reducible apply Dev.KeepsBut.refl | with_reducible apply Dev.KeepsBut.then (Dev.setNum_keeps _ _ _) | with_reducible apply Dev.KeepsBut.then (Dev.setNum64_keeps _ _ _) | with_reducible apply Dev.KeepsBut.then (Dev.setBusy_keeps _ _ _) | (with_reducible apply Dev.KeepsBut.foldl; intro _ _) | (with_reducible apply Dev.KeepsBut.foldl_snd; intro _ _) | split | decide | (with_reducible intro _) | (dsimp only)

theorem Dev.position_keeps (d : Dev) (b : Nat) (pos : Nat) : d.KeepsBut [.regs] (Dev.position d b pos) := by
  unfold Dev.position
  try dsimp only
  repeat' first | with_reducible apply Dev.KeepsBut.refl | with_reducible apply Dev.KeepsBut.then (Dev.setNum_keeps _ _ _) | with_reducible apply Dev.KeepsBut.then (Dev.setNum64_keeps _ _ _) | (with_reducible apply Dev.KeepsBut.foldl; intro _ _) | (with_reducible apply Dev.KeepsBut.foldl_snd; intro _ _) | split | decide | (with_reducible intro _) | (dsimp only)

theorem Dev.endLong_keeps (d : Dev) (b : Nat) (code : Nat) : d.KeepsBut [.regs] (Dev.endLong d b code) := by
  unfold Dev.endLong
  try dsimp only
  repeat' first | with_reducible apply Dev.KeepsBut.refl | with_reducible apply Dev.KeepsBut.then (Dev.setBusy_keeps _ _ _) | with_reducible apply Dev.KeepsBut.then (Dev.lastCode_keeps _ _ _) | (with_reducible apply Dev.KeepsBut.foldl; intro _ _) | (with_reducible apply Dev.KeepsBut.foldl_snd; intro _ _) | split | decide | (with_reducible intro _) | (dsimp only)

theorem Dev.setNow_keeps (d : Dev) (t : Nat) : d.KeepsBut [.regs] (Dev.setNow d t) := by
  unfold Dev.setNow
  try dsimp only
  repeat' first | with_reducible apply Dev.KeepsBut.refl | with_reducible apply Dev.KeepsBut.then (Dev.setNum64_keeps _ _ _) | (with_reducible apply Dev.KeepsBut.foldl; intro _ _) | (with_reducible apply Dev.KeepsBut.foldl_snd; intro _ _) | split | decide | (with_reducible intro _) | (dsimp only)

theorem Dev.advanceTo_keeps (d : Dev) (t : Nat) : d.KeepsBut [.regs] (Dev.advanceTo d t) := by
  unfold Dev.advanceTo
  try dsimp only
  repeat' first | with_reducible apply Dev.KeepsBut.refl | with_reducible apply Dev.KeepsBut.then (Dev.setNow_keeps _ _) | (with_reducible apply Dev.KeepsBut.foldl; intro _ _) | (with_reducible apply Dev.KeepsBut.foldl_snd; intro _ _) | split | decide | (with_reducible intro _) | (dsimp only)

theorem Dev.freshWord_keeps (d : Dev) : d.KeepsBut [.freeCtr] (Dev.freshWord d).2 := by
  unfold Dev.freshWord
  try dsimp only
  repeat' first | with_reducible apply Dev.KeepsBut.refl | (with_reducible apply Dev.KeepsBut.foldl; intro _ _) | (with_reducible apply Dev.KeepsBut.foldl_snd; intro _ _) | with_reducible apply Dev.keeps_freeCtr | simp only [Dev.keeps_mk] | split | decide | (with_reducible intro _) | (dsimp only)

theorem Dev.freshNat_keeps (d : Dev) : d.KeepsBut [.freeCtr] (Dev.freshNat d).2 := by
  unfold Dev.freshNat
  try dsimp only
  repeat' first | with_reducible apply Dev.KeepsBut.refl | (with_reducible apply Dev.KeepsBut.foldl; intro _ _) | (with_reducible apply Dev.KeepsBut.foldl_snd; intro _ _) | with_reducible apply Dev.keeps_freeCtr | simp only [Dev.keeps_mk] | split | decide | (with_reducible intro _) | (dsimp only)

theorem Dev.countFree64_keeps (d : Dev) (a : Nat) : d.KeepsBut [.regs, .freeCtr] (Dev.countFree64 d a) := by
  unfold Dev.countFree64
  try dsimp only
  repeat' first | with_reducible apply Dev.KeepsBut.refl | with_reducible apply Dev.KeepsBut.then (Dev.count64_keeps _ _ _) | with_reducible apply Dev.KeepsBut.then (Dev.freshNat_keeps _) | (with_reducible apply Dev.KeepsBut.foldl; intro _ _) | (with_reducible apply Dev.KeepsBut.foldl_snd; intro _ _) | split | decide | (with_reducible intro _) | (dsimp only)

end Sys2Proof.Machine
end

