-- ==== Sys2Proof/Laws/KeepsBeatOps.lean ====
section
/-!
SUPPORT. Which parts of the device the operations of Machine/BeatOps.lean may change.
-/
namespace Sys2Proof.Machine

theorem Dev.openRanges_keeps (d : Dev) (ws : List (Nat × Nat)) : d.KeepsBut [.dram, .freeCtr] (Dev.openRanges d ws) := by
  unfold Dev.openRanges
  try dsimp only
  repeat' first | with_reducible apply Dev.KeepsBut.refl | (with_reducible apply Dev.KeepsBut.foldl; intro _ _) | (with_reducible apply Dev.KeepsBut.foldl_snd; intro _ _) | with_reducible apply Dev.keeps_freeCtr_mem | ((with_reducible apply Dev.keeps_mk_module); (case g => intro p hp; cases p <;> first | exact absurd hp (by decide) | rfl)) | ((with_reducible apply Dev.keeps_mk_bus); (case g => intro p hp; cases p <;> first | exact absurd hp (by decide) | rfl)) | ((with_reducible apply Dev.keeps_mk_power); (case g => intro p hp; cases p <;> first | exact absurd hp (by decide) | rfl)) | simp only [Dev.keeps_mk] | split | decide | (with_reducible intro _) | (dsimp only)

theorem Dev.openWindows_keeps (d : Dev) (i : Image) : d.KeepsBut [.dram, .freeCtr] (Dev.openWindows d i) := by
  unfold Dev.openWindows
  try dsimp only
  repeat' first | with_reducible apply Dev.KeepsBut.refl | with_reducible apply Dev.KeepsBut.then (Dev.openRanges_keeps _ _) | (with_reducible apply Dev.KeepsBut.foldl; intro _ _) | (with_reducible apply Dev.KeepsBut.foldl_snd; intro _ _) | split | decide | (with_reducible intro _) | (dsimp only)

theorem Dev.beatFail_keeps (d : Dev) (code : Nat) (fblk : Nat) (faddr : Nat) : d.KeepsBut [.dram, .cricket, .freeCtr] (Dev.beatFail d code fblk faddr) := by
  unfold Dev.beatFail
  try dsimp only
  repeat' first | with_reducible apply Dev.KeepsBut.refl | with_reducible apply Dev.KeepsBut.then (Dev.openWindows_keeps _ _) | (with_reducible apply Dev.KeepsBut.foldl; intro _ _) | (with_reducible apply Dev.KeepsBut.foldl_snd; intro _ _) | with_reducible apply Dev.keeps_cricket | simp only [Dev.keeps_mk] | split | decide | (with_reducible intro _) | (dsimp only)

theorem Dev.success_keeps (d : Dev) (code : Nat) : d.KeepsBut [.cricket] (Dev.success d code) := by
  unfold Dev.success
  try dsimp only
  repeat' first | with_reducible apply Dev.KeepsBut.refl | (with_reducible apply Dev.KeepsBut.foldl; intro _ _) | (with_reducible apply Dev.KeepsBut.foldl_snd; intro _ _) | with_reducible apply Dev.keeps_cricket | simp only [Dev.keeps_mk] | split | decide | (with_reducible intro _) | (dsimp only)

theorem Dev.countIssue_keeps (d : Dev) : d.KeepsBut [.cricket] (Dev.countIssue d) := by
  unfold Dev.countIssue
  try dsimp only
  repeat' first | with_reducible apply Dev.KeepsBut.refl | (with_reducible apply Dev.KeepsBut.foldl; intro _ _) | (with_reducible apply Dev.KeepsBut.foldl_snd; intro _ _) | with_reducible apply Dev.keeps_cricket | simp only [Dev.keeps_mk] | split | decide | (with_reducible intro _) | (dsimp only)

end Sys2Proof.Machine
end

