-- ==== Sys2Proof/Laws/KeepsMem.lean ====
section
/-!
SUPPORT. Which parts of the device the operations of Machine/Mem.lean may change.
-/
namespace Sys2Proof.Machine

theorem Dev.mscTouch_keeps (d : Dev) (blk : Nat) (isWrite : Bool) (bytes : Nat) : d.KeepsBut [.regs, .mem] (Dev.mscTouch d blk isWrite bytes) := by
  unfold Dev.mscTouch
  try dsimp only
  repeat' first | with_reducible apply Dev.KeepsBut.refl | with_reducible apply Dev.KeepsBut.then (Dev.count64_keeps _ _ _) | (with_reducible apply Dev.KeepsBut.foldl; intro _ _) | (with_reducible apply Dev.KeepsBut.foldl_snd; intro _ _) | with_reducible apply Dev.keeps_memRest | simp only [Dev.keeps_mk] | split | decide | (with_reducible intro _) | (dsimp only)

theorem Dev.listBad_keeps (d : Dev) (blk : Nat) : d.KeepsBut [.regs, .mem] (Dev.listBad d blk) := by
  unfold Dev.listBad
  try dsimp only
  repeat' first | with_reducible apply Dev.KeepsBut.refl | with_reducible apply Dev.KeepsBut.then (Dev.drop_keeps _ _ _) | with_reducible apply Dev.KeepsBut.then (Dev.err_keeps _ _ _) | with_reducible apply Dev.KeepsBut.then (Dev.setDegraded_keeps _ _ _) | (with_reducible apply Dev.KeepsBut.foldl; intro _ _) | (with_reducible apply Dev.KeepsBut.foldl_snd; intro _ _) | with_reducible apply Dev.keeps_memRest | ((with_reducible apply Dev.keeps_mk_module); (case g => intro p hp; cases p <;> first | exact absurd hp (by decide) | rfl)) | ((with_reducible apply Dev.keeps_mk_bus); (case g => intro p hp; cases p <;> first | exact absurd hp (by decide) | rfl)) | ((with_reducible apply Dev.keeps_mk_power); (case g => intro p hp; cases p <;> first | exact absurd hp (by decide) | rfl)) | simp only [Dev.keeps_mk] | split | decide | (with_reducible intro _) | (dsimp only)

theorem Dev.noteUE_keeps (d : Dev) (blk : Nat) : d.KeepsBut [.regs, .mem] (Dev.noteUE d blk) := by
  unfold Dev.noteUE
  try dsimp only
  repeat' first | with_reducible apply Dev.KeepsBut.refl | with_reducible apply Dev.KeepsBut.then (Dev.setNum64_keeps _ _ _) | with_reducible apply Dev.KeepsBut.then (Dev.countSat_keeps _ _ _) | with_reducible apply Dev.KeepsBut.then (Dev.err_keeps _ _ _) | with_reducible apply Dev.KeepsBut.then (Dev.listBad_keeps _ _) | (with_reducible apply Dev.KeepsBut.foldl; intro _ _) | (with_reducible apply Dev.KeepsBut.foldl_snd; intro _ _) | split | decide | (with_reducible intro _) | (dsimp only)

theorem Dev.pinnedBad_keeps (d : Dev) (blk : Nat) : d.KeepsBut [.regs, .mem, .dram, .freeCtr] (Dev.pinnedBad d blk) := by
  unfold Dev.pinnedBad
  try dsimp only
  repeat' first | with_reducible apply Dev.KeepsBut.refl | with_reducible apply Dev.KeepsBut.then (Dev.setNum64_keeps _ _ _) | with_reducible apply Dev.KeepsBut.then (Dev.errData_keeps _ _ _) | (with_reducible apply Dev.KeepsBut.foldl; intro _ _) | (with_reducible apply Dev.KeepsBut.foldl_snd; intro _ _) | with_reducible apply Dev.keeps_freeCtr_mem | ((with_reducible apply Dev.keeps_mk_module); (case g => intro p hp; cases p <;> first | exact absurd hp (by decide) | rfl)) | ((with_reducible apply Dev.keeps_mk_bus); (case g => intro p hp; cases p <;> first | exact absurd hp (by decide) | rfl)) | ((with_reducible apply Dev.keeps_mk_power); (case g => intro p hp; cases p <;> first | exact absurd hp (by decide) | rfl)) | simp only [Dev.keeps_mk] | split | decide | (with_reducible intro _) | (dsimp only)

theorem Dev.pinnedFail_keeps (d : Dev) (blk : Nat) : d.KeepsBut [.regs, .mem, .dram, .cricket, .freeCtr] (Dev.pinnedFail d blk) := by
  unfold Dev.pinnedFail
  try dsimp only
  repeat' first | with_reducible apply Dev.KeepsBut.refl | with_reducible apply Dev.KeepsBut.then (Dev.beatFail_keeps _ _ _ _) | with_reducible apply Dev.KeepsBut.then (Dev.pinnedBad_keeps _ _) | (with_reducible apply Dev.KeepsBut.foldl; intro _ _) | (with_reducible apply Dev.KeepsBut.foldl_snd; intro _ _) | split | decide | (with_reducible intro _) | (dsimp only)

theorem Dev.readBlock_keeps (d : Dev) (blk : Nat) : d.KeepsBut [.regs, .mem, .dram, .cricket, .freeCtr] (Dev.readBlock d blk) := by
  unfold Dev.readBlock
  try dsimp only
  repeat' first | with_reducible apply Dev.KeepsBut.refl | with_reducible apply Dev.KeepsBut.then (Dev.beatFail_keeps _ _ _ _) | with_reducible apply Dev.KeepsBut.then (Dev.mscTouch_keeps _ _ _ _) | with_reducible apply Dev.KeepsBut.then (Dev.noteUE_keeps _ _) | with_reducible apply Dev.KeepsBut.then (Dev.pinnedFail_keeps _ _) | (with_reducible apply Dev.KeepsBut.foldl; intro _ _) | (with_reducible apply Dev.KeepsBut.foldl_snd; intro _ _) | split | decide | (with_reducible intro _) | (dsimp only)

theorem Dev.engRead_keeps (d : Dev) (a : Nat) (n : Nat) : d.KeepsBut [.regs, .mem, .dram, .cricket, .freeCtr] (Dev.engRead d a n).2 := by
  unfold Dev.engRead
  try dsimp only
  repeat' first | with_reducible apply Dev.KeepsBut.refl | with_reducible apply Dev.KeepsBut.then (Dev.readBlock_keeps _ _) | (with_reducible apply Dev.KeepsBut.foldl; intro _ _) | (with_reducible apply Dev.KeepsBut.foldl_snd; intro _ _) | split | decide | (with_reducible intro _) | (dsimp only)

theorem Dev.writeBlock_keeps (a : Nat) (n : Nat) (d : Dev) (blk : Nat) : d.KeepsBut [.regs, .mem] (Dev.writeBlock a n d blk) := by
  unfold Dev.writeBlock
  try dsimp only
  repeat' first | with_reducible apply Dev.KeepsBut.refl | with_reducible apply Dev.KeepsBut.then (Dev.mscTouch_keeps _ _ _ _) | (with_reducible apply Dev.KeepsBut.foldl; intro _ _) | (with_reducible apply Dev.KeepsBut.foldl_snd; intro _ _) | with_reducible apply Dev.keeps_memRest | simp only [Dev.keeps_mk] | split | decide | (with_reducible intro _) | (dsimp only)

theorem Dev.memWrite_keeps (d : Dev) (a : Nat) (bs : List Byte) : d.KeepsBut [.regs, .mem, .dram] (Dev.memWrite d a bs) := by
  unfold Dev.memWrite
  try dsimp only
  repeat' first | with_reducible apply Dev.KeepsBut.refl | with_reducible apply Dev.KeepsBut.then (Dev.writeBlock_keeps _ _ _ _) | (with_reducible apply Dev.KeepsBut.foldl; intro _ _) | (with_reducible apply Dev.KeepsBut.foldl_snd; intro _ _) | with_reducible apply Dev.keeps_dram | with_reducible apply Dev.keeps_memRest | with_reducible apply Dev.keeps_mem | simp only [Dev.keeps_mk] | split | decide | (with_reducible intro _) | (dsimp only)

theorem Dev.memBlit_keeps (d : Dev) (src : ByteMem) (lo : Nat) (n : Nat) (a : Nat) : d.KeepsBut [.regs, .mem, .dram] (Dev.memBlit d src lo n a) := by
  unfold Dev.memBlit
  try dsimp only
  repeat' first | with_reducible apply Dev.KeepsBut.refl | with_reducible apply Dev.KeepsBut.then (Dev.writeBlock_keeps _ _ _ _) | (with_reducible apply Dev.KeepsBut.foldl; intro _ _) | (with_reducible apply Dev.KeepsBut.foldl_snd; intro _ _) | with_reducible apply Dev.keeps_dram | with_reducible apply Dev.keeps_memRest | with_reducible apply Dev.keeps_mem | simp only [Dev.keeps_mk] | split | decide | (with_reducible intro _) | (dsimp only)

theorem Dev.engWrite_keeps (d : Dev) (a : Nat) (bs : List Byte) (fblk : Nat) : d.KeepsBut [.regs, .mem, .dram, .cricket, .freeCtr] (Dev.engWrite d a bs fblk) := by
  unfold Dev.engWrite
  try dsimp only
  repeat' first | with_reducible apply Dev.KeepsBut.refl | with_reducible apply Dev.KeepsBut.then (Dev.beatFail_keeps _ _ _ _) | with_reducible apply Dev.KeepsBut.then (Dev.memWrite_keeps _ _ _) | (with_reducible apply Dev.KeepsBut.foldl; intro _ _) | (with_reducible apply Dev.KeepsBut.foldl_snd; intro _ _) | split | decide | (with_reducible intro _) | (dsimp only)

theorem Dev.quietTouch_keeps (d : Dev) (a : Nat) (n : Nat) : d.KeepsBut [.regs, .mem, .dram, .freeCtr] (Dev.quietTouch d a n).2 := by
  unfold Dev.quietTouch
  try dsimp only
  repeat' first | with_reducible apply Dev.KeepsBut.refl | with_reducible apply Dev.KeepsBut.then (Dev.mscTouch_keeps _ _ _ _) | with_reducible apply Dev.KeepsBut.then (Dev.noteUE_keeps _ _) | with_reducible apply Dev.KeepsBut.then (Dev.pinnedBad_keeps _ _) | (with_reducible apply Dev.KeepsBut.foldl; intro _ _) | (with_reducible apply Dev.KeepsBut.foldl_snd; intro _ _) | split | decide | (with_reducible intro _) | (dsimp only)

theorem Dev.quietRead_keeps (d : Dev) (a : Nat) (n : Nat) : d.KeepsBut [.regs, .mem, .dram, .freeCtr] (Dev.quietRead d a n).2.2 := by
  unfold Dev.quietRead
  try dsimp only
  repeat' first | with_reducible apply Dev.KeepsBut.refl | with_reducible apply Dev.KeepsBut.then (Dev.quietTouch_keeps _ _ _) | (with_reducible apply Dev.KeepsBut.foldl; intro _ _) | (with_reducible apply Dev.KeepsBut.foldl_snd; intro _ _) | split | decide | (with_reducible intro _) | (dsimp only)

end Sys2Proof.Machine
end

