-- ==== Sys2Proof/Laws/KeepsAccess.lean ====
section
/-!
SUPPORT. Which parts of the device the operations of Machine/Access.lean may change.
-/
namespace Sys2Proof.Machine

theorem Dev.setWvl_keeps (d : Dev) (k : Nat) (w : Wvl) : d.KeepsBut [.weevil] (Dev.setWvl d k w) := by
  unfold Dev.setWvl
  try dsimp only
  repeat' first | with_reducible apply Dev.KeepsBut.refl | (with_reducible apply Dev.KeepsBut.foldl; intro _ _) | (with_reducible apply Dev.KeepsBut.foldl_snd; intro _ _) | with_reducible apply Dev.keeps_weevil | simp only [Dev.keeps_mk] | split | decide | (with_reducible intro _) | (dsimp only)

theorem Dev.setScb_keeps (d : Dev) (k : Nat) (w : Scb) : d.KeepsBut [.scarab] (Dev.setScb d k w) := by
  unfold Dev.setScb
  try dsimp only
  repeat' first | with_reducible apply Dev.KeepsBut.refl | (with_reducible apply Dev.KeepsBut.foldl; intro _ _) | (with_reducible apply Dev.KeepsBut.foldl_snd; intro _ _) | with_reducible apply Dev.keeps_scarab | simp only [Dev.keeps_mk] | split | decide | (with_reducible intro _) | (dsimp only)

theorem Dev.setTls_keeps (d : Dev) (k : Nat) (w : Tls) : d.KeepsBut [.talus] (Dev.setTls d k w) := by
  unfold Dev.setTls
  try dsimp only
  repeat' first | with_reducible apply Dev.KeepsBut.refl | (with_reducible apply Dev.KeepsBut.foldl; intro _ _) | (with_reducible apply Dev.KeepsBut.foldl_snd; intro _ _) | with_reducible apply Dev.keeps_talus | simp only [Dev.keeps_mk] | split | decide | (with_reducible intro _) | (dsimp only)

theorem Dev.setBank_keeps (d : Dev) (c : Nat) (b : Nat) (v : Bank) : d.KeepsBut [.massif] (Dev.setBank d c b v) := by
  unfold Dev.setBank
  try dsimp only
  repeat' first | with_reducible apply Dev.KeepsBut.refl | (with_reducible apply Dev.KeepsBut.foldl; intro _ _) | (with_reducible apply Dev.KeepsBut.foldl_snd; intro _ _) | with_reducible apply Dev.keeps_massif | simp only [Dev.keeps_mk] | split | decide | (with_reducible intro _) | (dsimp only)

theorem Dev.setSlot_keeps (d : Dev) (i : Nat) (v : StagSlot) : d.KeepsBut [.stag] (Dev.setSlot d i v) := by
  unfold Dev.setSlot
  try dsimp only
  repeat' first | with_reducible apply Dev.KeepsBut.refl | (with_reducible apply Dev.KeepsBut.foldl; intro _ _) | (with_reducible apply Dev.KeepsBut.foldl_snd; intro _ _) | with_reducible apply Dev.keeps_stag | simp only [Dev.keeps_mk] | split | decide | (with_reducible intro _) | (dsimp only)

theorem Dev.setFeed_keeps (d : Dev) (f : Nat) (v : Feed) : d.KeepsBut [.forager] (Dev.setFeed d f v) := by
  unfold Dev.setFeed
  try dsimp only
  repeat' first | with_reducible apply Dev.KeepsBut.refl | (with_reducible apply Dev.KeepsBut.foldl; intro _ _) | (with_reducible apply Dev.KeepsBut.foldl_snd; intro _ _) | with_reducible apply Dev.keeps_forager | simp only [Dev.keeps_mk] | split | decide | (with_reducible intro _) | (dsimp only)

theorem Dev.setStream_keeps (d : Dev) (s : Nat) (v : Stream) : d.KeepsBut [.forager] (Dev.setStream d s v) := by
  unfold Dev.setStream
  try dsimp only
  repeat' first | with_reducible apply Dev.KeepsBut.refl | (with_reducible apply Dev.KeepsBut.foldl; intro _ _) | (with_reducible apply Dev.KeepsBut.foldl_snd; intro _ _) | with_reducible apply Dev.keeps_forager | simp only [Dev.keeps_mk] | split | decide | (with_reducible intro _) | (dsimp only)

theorem Dev.setPort_keeps (d : Dev) (p : Nat) (v : Port) : d.KeepsBut [.link] (Dev.setPort d p v) := by
  unfold Dev.setPort
  try dsimp only
  repeat' first | with_reducible apply Dev.KeepsBut.refl | (with_reducible apply Dev.KeepsBut.foldl; intro _ _) | (with_reducible apply Dev.KeepsBut.foldl_snd; intro _ _) | with_reducible apply Dev.keeps_link | simp only [Dev.keeps_mk] | split | decide | (with_reducible intro _) | (dsimp only)

theorem Dev.setIrqState_keeps (d : Dev) (n : Nat) (v : IrqState) : d.KeepsBut [.firefly] (Dev.setIrqState d n v) := by
  unfold Dev.setIrqState
  try dsimp only
  repeat' first | with_reducible apply Dev.KeepsBut.refl | (with_reducible apply Dev.KeepsBut.foldl; intro _ _) | (with_reducible apply Dev.KeepsBut.foldl_snd; intro _ _) | with_reducible apply Dev.keeps_firefly | simp only [Dev.keeps_mk] | split | decide | (with_reducible intro _) | (dsimp only)

theorem Dev.clearPage_keeps (d : Dev) (b : Nat) (keep : Nat → Bool) : d.KeepsBut [.regs] (Dev.clearPage d b keep) := by
  unfold Dev.clearPage
  try dsimp only
  repeat' first | with_reducible apply Dev.KeepsBut.refl | (with_reducible apply Dev.KeepsBut.foldl; intro _ _) | (with_reducible apply Dev.KeepsBut.foldl_snd; intro _ _) | with_reducible apply Dev.keeps_regs | simp only [Dev.keeps_mk] | split | decide | (with_reducible intro _) | (dsimp only)

theorem Dev.clearWords_keeps (d : Dev) (os : List Nat) : d.KeepsBut [.regs] (Dev.clearWords d os) := by
  unfold Dev.clearWords
  try dsimp only
  repeat' first | with_reducible apply Dev.KeepsBut.refl | (with_reducible apply Dev.KeepsBut.foldl; intro _ _) | (with_reducible apply Dev.KeepsBut.foldl_snd; intro _ _) | with_reducible apply Dev.keeps_regs | simp only [Dev.keeps_mk] | split | decide | (with_reducible intro _) | (dsimp only)

theorem Dev.readyAll_keeps (d : Dev) (bs : List Nat) (v : Bool) : d.KeepsBut [.regs] (Dev.readyAll d bs v) := by
  unfold Dev.readyAll
  try dsimp only
  repeat' first | with_reducible apply Dev.KeepsBut.refl | with_reducible apply Dev.KeepsBut.then (Dev.setReady_keeps _ _ _) | (with_reducible apply Dev.KeepsBut.foldl; intro _ _) | (with_reducible apply Dev.KeepsBut.foldl_snd; intro _ _) | split | decide | (with_reducible intro _) | (dsimp only)

end Sys2Proof.Machine
end

