-- ==== Sys2Proof/Laws/KeepsResets.lean ====
section
/-!
SUPPORT. Which parts of the device the operations of Machine/Resets.lean may change.
-/
namespace Sys2Proof.Machine

theorem Dev.clearCell_keeps (d : Dev) (c : Nat) : d.KeepsBut [.massif] (Dev.clearCell d c) := by
  unfold Dev.clearCell
  try dsimp only
  repeat' first | with_reducible apply Dev.KeepsBut.refl | (with_reducible apply Dev.KeepsBut.foldl; intro _ _) | (with_reducible apply Dev.KeepsBut.foldl_snd; intro _ _) | with_reducible apply Dev.keeps_massif | simp only [Dev.keeps_mk] | split | decide | (with_reducible intro _) | (dsimp only)

theorem Dev.clearWvl_keeps (d : Dev) (k : Nat) : d.KeepsBut [.weevil] (Dev.clearWvl d k) := by
  unfold Dev.clearWvl
  try dsimp only
  repeat' first | with_reducible apply Dev.KeepsBut.refl | with_reducible apply Dev.KeepsBut.then (Dev.setWvl_keeps _ _ _) | (with_reducible apply Dev.KeepsBut.foldl; intro _ _) | (with_reducible apply Dev.KeepsBut.foldl_snd; intro _ _) | split | decide | (with_reducible intro _) | (dsimp only)

theorem Dev.clearScb_keeps (d : Dev) (k : Nat) : d.KeepsBut [.scarab] (Dev.clearScb d k) := by
  unfold Dev.clearScb
  try dsimp only
  repeat' first | with_reducible apply Dev.KeepsBut.refl | with_reducible apply Dev.KeepsBut.then (Dev.setScb_keeps _ _ _) | (with_reducible apply Dev.KeepsBut.foldl; intro _ _) | (with_reducible apply Dev.KeepsBut.foldl_snd; intro _ _) | split | decide | (with_reducible intro _) | (dsimp only)

theorem Dev.clearTls_keeps (d : Dev) (k : Nat) : d.KeepsBut [.regs, .talus] (Dev.clearTls d k) := by
  unfold Dev.clearTls
  try dsimp only
  repeat' first | with_reducible apply Dev.KeepsBut.refl | with_reducible apply Dev.KeepsBut.then (Dev.setTls_keeps _ _ _) | with_reducible apply Dev.KeepsBut.then (Dev.clearWords_keeps _ _) | (with_reducible apply Dev.KeepsBut.foldl; intro _ _) | (with_reducible apply Dev.KeepsBut.foldl_snd; intro _ _) | split | decide | (with_reducible intro _) | (dsimp only)

theorem Dev.clearCluster_keeps (d : Dev) (k : Nat) : d.KeepsBut [.regs, .massif, .weevil, .scarab, .talus] (Dev.clearCluster d k) := by
  unfold Dev.clearCluster
  try dsimp only
  repeat' first | with_reducible apply Dev.KeepsBut.refl | with_reducible apply Dev.KeepsBut.then (Dev.clearCell_keeps _ _) | with_reducible apply Dev.KeepsBut.then (Dev.clearWvl_keeps _ _) | with_reducible apply Dev.KeepsBut.then (Dev.clearScb_keeps _ _) | with_reducible apply Dev.KeepsBut.then (Dev.clearTls_keeps _ _) | (with_reducible apply Dev.KeepsBut.foldl; intro _ _) | (with_reducible apply Dev.KeepsBut.foldl_snd; intro _ _) | split | decide | (with_reducible intro _) | (dsimp only)

theorem Dev.clearPartition_keeps (d : Dev) (p : Nat) : d.KeepsBut [.regs, .massif, .weevil, .scarab, .talus] (Dev.clearPartition d p) := by
  unfold Dev.clearPartition
  try dsimp only
  repeat' first | with_reducible apply Dev.KeepsBut.refl | with_reducible apply Dev.KeepsBut.then (Dev.clearWords_keeps _ _) | with_reducible apply Dev.KeepsBut.then (Dev.clearCluster_keeps _ _) | (with_reducible apply Dev.KeepsBut.foldl; intro _ _) | (with_reducible apply Dev.KeepsBut.foldl_snd; intro _ _) | split | decide | (with_reducible intro _) | (dsimp only)

theorem Dev.clearSyn_keeps (d : Dev) (g : Nat) : d.KeepsBut [.regs] (Dev.clearSyn d g) := by
  unfold Dev.clearSyn
  try dsimp only
  repeat' first | with_reducible apply Dev.KeepsBut.refl | with_reducible apply Dev.KeepsBut.then (Dev.clearPage_keeps _ _ _) | (with_reducible apply Dev.KeepsBut.foldl; intro _ _) | (with_reducible apply Dev.KeepsBut.foldl_snd; intro _ _) | split | decide | (with_reducible intro _) | (dsimp only)

theorem Dev.clearStag_keeps (d : Dev) : d.KeepsBut [.regs, .stag] (Dev.clearStag d) := by
  unfold Dev.clearStag
  try dsimp only
  repeat' first | with_reducible apply Dev.KeepsBut.refl | with_reducible apply Dev.KeepsBut.then (Dev.clearPage_keeps _ _ _) | (with_reducible apply Dev.KeepsBut.foldl; intro _ _) | (with_reducible apply Dev.KeepsBut.foldl_snd; intro _ _) | with_reducible apply Dev.keeps_stag | simp only [Dev.keeps_mk] | split | decide | (with_reducible intro _) | (dsimp only)

theorem Dev.clearOnDie_keeps (d : Dev) : d.KeepsBut [.regs, .massif, .weevil, .scarab, .talus] (Dev.clearOnDie d) := by
  unfold Dev.clearOnDie
  try dsimp only
  repeat' first | with_reducible apply Dev.KeepsBut.refl | with_reducible apply Dev.KeepsBut.then (Dev.clearWords_keeps _ _) | (with_reducible apply Dev.KeepsBut.foldl; intro _ _) | (with_reducible apply Dev.KeepsBut.foldl_snd; intro _ _) | with_reducible apply Dev.keeps_massif_scarab_talus_weevil | ((with_reducible apply Dev.keeps_mk_module); (case g => intro p hp; cases p <;> first | exact absurd hp (by decide) | rfl)) | ((with_reducible apply Dev.keeps_mk_bus); (case g => intro p hp; cases p <;> first | exact absurd hp (by decide) | rfl)) | ((with_reducible apply Dev.keeps_mk_power); (case g => intro p hp; cases p <;> first | exact absurd hp (by decide) | rfl)) | simp only [Dev.keeps_mk] | split | decide | (with_reducible intro _) | (dsimp only)

theorem Dev.absorb_keeps (d : Dev) : d.KeepsBut [.regs] (Dev.absorb d) := by
  unfold Dev.absorb
  try dsimp only
  repeat' first | with_reducible apply Dev.KeepsBut.refl | with_reducible apply Dev.KeepsBut.then (Dev.countSat_keeps _ _ _) | (with_reducible apply Dev.KeepsBut.foldl; intro _ _) | (with_reducible apply Dev.KeepsBut.foldl_snd; intro _ _) | split | decide | (with_reducible intro _) | (dsimp only)

theorem Dev.readPool_keeps (d : Dev) (t : Nat) : d.KeepsBut [.regs, .mem, .dram, .hive, .freeCtr] (Dev.readPool d t) := by
  unfold Dev.readPool
  try dsimp only
  repeat' first | with_reducible apply Dev.KeepsBut.refl | with_reducible apply Dev.KeepsBut.then (Dev.setNum_keeps _ _ _) | with_reducible apply Dev.KeepsBut.then (Dev.quietRead_keeps _ _ _) | (with_reducible apply Dev.KeepsBut.foldl; intro _ _) | (with_reducible apply Dev.KeepsBut.foldl_snd; intro _ _) | with_reducible apply Dev.keeps_hive | ((with_reducible apply Dev.keeps_mk_module); (case g => intro p hp; cases p <;> first | exact absurd hp (by decide) | rfl)) | ((with_reducible apply Dev.keeps_mk_bus); (case g => intro p hp; cases p <;> first | exact absurd hp (by decide) | rfl)) | ((with_reducible apply Dev.keeps_mk_power); (case g => intro p hp; cases p <;> first | exact absurd hp (by decide) | rfl)) | simp only [Dev.keeps_mk] | split | decide | (with_reducible intro _) | (dsimp only)

theorem Dev.clearHive_keeps (d : Dev) : d.KeepsBut [.regs, .massif, .weevil, .scarab, .talus, .hive] (Dev.clearHive d) := by
  unfold Dev.clearHive
  try dsimp only
  repeat' first | with_reducible apply Dev.KeepsBut.refl | with_reducible apply Dev.KeepsBut.then (Dev.setNum_keeps _ _ _) | with_reducible apply Dev.KeepsBut.then (Dev.setFld_keeps _ _ _ _ _) | with_reducible apply Dev.KeepsBut.then (Dev.drop_keeps _ _ _) | with_reducible apply Dev.KeepsBut.then (Dev.clearOnDie_keeps _) | (with_reducible apply Dev.KeepsBut.foldl; intro _ _) | (with_reducible apply Dev.KeepsBut.foldl_snd; intro _ _) | with_reducible apply Dev.keeps_hive | simp only [Dev.keeps_mk] | split | decide | (with_reducible intro _) | (dsimp only)

theorem Dev.hiveReleased_keeps (d : Dev) : d.KeepsBut [.regs, .mem, .dram, .hive, .freeCtr] (Dev.hiveReleased d) := by
  unfold Dev.hiveReleased
  try dsimp only
  repeat' first | with_reducible apply Dev.KeepsBut.refl | with_reducible apply Dev.KeepsBut.then (Dev.readPool_keeps _ _) | (with_reducible apply Dev.KeepsBut.foldl; intro _ _) | (with_reducible apply Dev.KeepsBut.foldl_snd; intro _ _) | split | decide | (with_reducible intro _) | (dsimp only)

theorem Dev.dropFlitState_keeps (d : Dev) (p : Nat) : d.KeepsBut [.link] (Dev.dropFlitState d p) := by
  unfold Dev.dropFlitState
  try dsimp only
  repeat' first | with_reducible apply Dev.KeepsBut.refl | with_reducible apply Dev.KeepsBut.then (Dev.setPort_keeps _ _ _) | (with_reducible apply Dev.KeepsBut.foldl; intro _ _) | (with_reducible apply Dev.KeepsBut.foldl_snd; intro _ _) | split | decide | (with_reducible intro _) | (dsimp only)

theorem Dev.clearLnk_keeps (d : Dev) (p : Nat) : d.KeepsBut [.regs, .link] (Dev.clearLnk d p) := by
  unfold Dev.clearLnk
  try dsimp only
  repeat' first | with_reducible apply Dev.KeepsBut.refl | with_reducible apply Dev.KeepsBut.then (Dev.setFld_keeps _ _ _ _ _) | with_reducible apply Dev.KeepsBut.then (Dev.irq_keeps _ _ _) | with_reducible apply Dev.KeepsBut.then (Dev.clearFault_keeps _ _) | with_reducible apply Dev.KeepsBut.then (Dev.setDegraded_keeps _ _ _) | with_reducible apply Dev.KeepsBut.then (Dev.dropFlitState_keeps _ _) | (with_reducible apply Dev.KeepsBut.foldl; intro _ _) | (with_reducible apply Dev.KeepsBut.foldl_snd; intro _ _) | split | decide | (with_reducible intro _) | (dsimp only)

theorem Dev.clearStk_keeps (d : Dev) (s : Nat) : d.KeepsBut [.regs, .mem] (Dev.clearStk d s) := by
  unfold Dev.clearStk
  try dsimp only
  repeat' first | with_reducible apply Dev.KeepsBut.refl | with_reducible apply Dev.KeepsBut.then (Dev.setNum_keeps _ _ _) | with_reducible apply Dev.KeepsBut.then (Dev.setNum64_keeps _ _ _) | with_reducible apply Dev.KeepsBut.then (Dev.clearFault_keeps _ _) | with_reducible apply Dev.KeepsBut.then (Dev.setDegraded_keeps _ _ _) | (with_reducible apply Dev.KeepsBut.foldl; intro _ _) | (with_reducible apply Dev.KeepsBut.foldl_snd; intro _ _) | with_reducible apply Dev.keeps_memRest | simp only [Dev.keeps_mk] | split | decide | (with_reducible intro _) | (dsimp only)

theorem Dev.clearMsc_keeps (d : Dev) (s : Nat) : d.KeepsBut [.regs, .mem, .dram, .cricket, .freeCtr] (Dev.clearMsc d s) := by
  unfold Dev.clearMsc
  try dsimp only
  repeat' first | with_reducible apply Dev.KeepsBut.refl | with_reducible apply Dev.KeepsBut.then (Dev.count64_keeps _ _ _) | with_reducible apply Dev.KeepsBut.then (Dev.pinnedFail_keeps _ _) | (with_reducible apply Dev.KeepsBut.foldl; intro _ _) | (with_reducible apply Dev.KeepsBut.foldl_snd; intro _ _) | with_reducible apply Dev.keeps_dram | with_reducible apply Dev.keeps_memRest | with_reducible apply Dev.keeps_mem | simp only [Dev.keeps_mk] | split | decide | (with_reducible intro _) | (dsimp only)

theorem Dev.clearForager_keeps (d : Dev) : d.KeepsBut [.regs, .host, .forager] (Dev.clearForager d) := by
  unfold Dev.clearForager
  try dsimp only
  repeat' first | with_reducible apply Dev.KeepsBut.refl | with_reducible apply Dev.KeepsBut.then (Dev.setFlag_keeps _ _ _ _) | with_reducible apply Dev.KeepsBut.then (Dev.absorb_keeps _) | (with_reducible apply Dev.KeepsBut.foldl; intro _ _) | (with_reducible apply Dev.KeepsBut.foldl_snd; intro _ _) | with_reducible apply Dev.keeps_forager_host | ((with_reducible apply Dev.keeps_mk_module); (case g => intro p hp; cases p <;> first | exact absurd hp (by decide) | rfl)) | ((with_reducible apply Dev.keeps_mk_bus); (case g => intro p hp; cases p <;> first | exact absurd hp (by decide) | rfl)) | ((with_reducible apply Dev.keeps_mk_power); (case g => intro p hp; cases p <;> first | exact absurd hp (by decide) | rfl)) | simp only [Dev.keeps_mk] | split | decide | (with_reducible intro _) | (dsimp only)

theorem Dev.clearApx_keeps (d : Dev) : d.KeepsBut [.regs, .apex] (Dev.clearApx d) := by
  unfold Dev.clearApx
  try dsimp only
  repeat' first | with_reducible apply Dev.KeepsBut.refl | with_reducible apply Dev.KeepsBut.then (Dev.drop_keeps _ _ _) | with_reducible apply Dev.KeepsBut.then (Dev.clearWords_keeps _ _) | (with_reducible apply Dev.KeepsBut.foldl; intro _ _) | (with_reducible apply Dev.KeepsBut.foldl_snd; intro _ _) | with_reducible apply Dev.keeps_apex | simp only [Dev.keeps_mk] | split | decide | (with_reducible intro _) | (dsimp only)

theorem Dev.clearPwr_keeps (d : Dev) : d.KeepsBut [.regs] (Dev.clearPwr d) := by
  unfold Dev.clearPwr
  try dsimp only
  repeat' first | with_reducible apply Dev.KeepsBut.refl | with_reducible apply Dev.KeepsBut.then (Dev.setFld_keeps _ _ _ _ _) | with_reducible apply Dev.KeepsBut.then (Dev.clearWords_keeps _ _) | (with_reducible apply Dev.KeepsBut.foldl; intro _ _) | (with_reducible apply Dev.KeepsBut.foldl_snd; intro _ _) | split | decide | (with_reducible intro _) | (dsimp only)

theorem Dev.clearFfy_keeps (d : Dev) : d.KeepsBut [.firefly] (Dev.clearFfy d) := by
  unfold Dev.clearFfy
  try dsimp only
  repeat' first | with_reducible apply Dev.KeepsBut.refl | with_reducible apply Dev.KeepsBut.then (Dev.setIrqState_keeps _ _ _) | (with_reducible apply Dev.KeepsBut.foldl; intro _ _) | (with_reducible apply Dev.KeepsBut.foldl_snd; intro _ _) | with_reducible apply Dev.keeps_firefly | simp only [Dev.keeps_mk] | split | decide | (with_reducible intro _) | (dsimp only)

theorem Dev.cpReset_keeps (d : Dev) (c : Nat) : d.KeepsBut [.regs] (Dev.cpReset d c) := by
  unfold Dev.cpReset
  try dsimp only
  repeat' first | with_reducible apply Dev.KeepsBut.refl | with_reducible apply Dev.KeepsBut.then (Dev.setNum64_keeps _ _ _) | with_reducible apply Dev.KeepsBut.then (Dev.setFld_keeps _ _ _ _ _) | (with_reducible apply Dev.KeepsBut.foldl; intro _ _) | (with_reducible apply Dev.KeepsBut.foldl_snd; intro _ _) | split | decide | (with_reducible intro _) | (dsimp only)

theorem Dev.cpStart_keeps (d : Dev) (c : Nat) : d.KeepsBut [.regs] (Dev.cpStart d c) := by
  unfold Dev.cpStart
  try dsimp only
  repeat' first | with_reducible apply Dev.KeepsBut.refl | with_reducible apply Dev.KeepsBut.then (Dev.setFld_keeps _ _ _ _ _) | (with_reducible apply Dev.KeepsBut.foldl; intro _ _) | (with_reducible apply Dev.KeepsBut.foldl_snd; intro _ _) | split | decide | (with_reducible intro _) | (dsimp only)

theorem Dev.clearCpu_keeps (d : Dev) (c : Nat) : d.KeepsBut [.regs] (Dev.clearCpu d c) := by
  unfold Dev.clearCpu
  try dsimp only
  repeat' first | with_reducible apply Dev.KeepsBut.refl | with_reducible apply Dev.KeepsBut.then (Dev.setNum64_keeps _ _ _) | with_reducible apply Dev.KeepsBut.then (Dev.cpReset_keeps _ _) | (with_reducible apply Dev.KeepsBut.foldl; intro _ _) | (with_reducible apply Dev.KeepsBut.foldl_snd; intro _ _) | split | decide | (with_reducible intro _) | (dsimp only)

theorem Dev.clearHst_keeps (d : Dev) : d.KeepsBut [.regs] (Dev.clearHst d) := by
  unfold Dev.clearHst
  try dsimp only
  repeat' first | with_reducible apply Dev.KeepsBut.refl | with_reducible apply Dev.KeepsBut.then (Dev.clearWords_keeps _ _) | (with_reducible apply Dev.KeepsBut.foldl; intro _ _) | (with_reducible apply Dev.KeepsBut.foldl_snd; intro _ _) | split | decide | (with_reducible intro _) | (dsimp only)

theorem Dev.clearCkt_keeps (d : Dev) : d.KeepsBut [.regs, .host, .cricket] (Dev.clearCkt d) := by
  unfold Dev.clearCkt
  try dsimp only
  repeat' first | with_reducible apply Dev.KeepsBut.refl | with_reducible apply Dev.KeepsBut.then (Dev.setNum_keeps _ _ _) | with_reducible apply Dev.KeepsBut.then (Dev.absorb_keeps _) | (with_reducible apply Dev.KeepsBut.foldl; intro _ _) | (with_reducible apply Dev.KeepsBut.foldl_snd; intro _ _) | with_reducible apply Dev.keeps_cricket_host | ((with_reducible apply Dev.keeps_mk_module); (case g => intro p hp; cases p <;> first | exact absurd hp (by decide) | rfl)) | ((with_reducible apply Dev.keeps_mk_bus); (case g => intro p hp; cases p <;> first | exact absurd hp (by decide) | rfl)) | ((with_reducible apply Dev.keeps_mk_power); (case g => intro p hp; cases p <;> first | exact absurd hp (by decide) | rfl)) | simp only [Dev.keeps_mk] | split | decide | (with_reducible intro _) | (dsimp only)

theorem Dev.heldByReset_keeps (d k : Dev) : k.KeepsBut [.regs] (Dev.heldByReset d k) := by
  unfold Dev.heldByReset
  dsimp only
  repeat' first | with_reducible apply Dev.KeepsBut.refl | with_reducible apply Dev.KeepsBut.then (Dev.setFlag_keeps _ _ _ _) | (with_reducible apply Dev.KeepsBut.foldl; intro _ _) | with_reducible apply Dev.KeepsBut.then (Dev.setBusy_keeps _ _ _) | with_reducible apply Dev.KeepsBut.then (Dev.setReady_keeps _ _ _) | decide

theorem Dev.deviceClear_keeps (d : Dev) : d.KeepsBut [.regs, .bus, .module, .apex, .ascent, .trust, .host, .mem, .dram, .cricket, .massif, .weevil, .col, .scarab, .talus, .stag, .hive, .forager, .link, .power, .firefly, .enPend, .freeCtr] (Dev.deviceClear d) := by
  unfold Dev.deviceClear
  try dsimp only
  repeat' first | with_reducible apply Dev.KeepsBut.refl | (apply Dev.KeepsBut.all; intro p; cases p <;> rfl) | with_reducible apply Dev.KeepsBut.then (Dev.setFld_keeps _ _ _ _ _) | with_reducible apply Dev.KeepsBut.then (Dev.setFlag_keeps _ _ _ _) | with_reducible apply Dev.KeepsBut.then (Dev.drop_keeps _ _ _) | with_reducible apply Dev.KeepsBut.then (Dev.heldByReset_keeps _ _) | (with_reducible apply Dev.KeepsBut.foldl; intro _ _) | (with_reducible apply Dev.KeepsBut.foldl_snd; intro _ _) | ((with_reducible apply Dev.keeps_mk_module); (case g => intro p hp; cases p <;> first | exact absurd hp (by decide) | rfl)) | ((with_reducible apply Dev.keeps_mk_bus); (case g => intro p hp; cases p <;> first | exact absurd hp (by decide) | rfl)) | ((with_reducible apply Dev.keeps_mk_power); (case g => intro p hp; cases p <;> first | exact absurd hp (by decide) | rfl)) | simp only [Dev.keeps_mk] | split | decide | (with_reducible intro _) | (dsimp only)

theorem Dev.quiescePage_keeps (d : Dev) (b : Nat) : d.KeepsBut [.regs] (Dev.quiescePage d b) := by
  unfold Dev.quiescePage
  try dsimp only
  repeat' first | with_reducible apply Dev.KeepsBut.refl | with_reducible apply Dev.KeepsBut.then (Dev.setReady_keeps _ _ _) | with_reducible apply Dev.KeepsBut.then (Dev.setBusy_keeps _ _ _) | with_reducible apply Dev.KeepsBut.then (Dev.clearWords_keeps _ _) | (with_reducible apply Dev.KeepsBut.foldl; intro _ _) | (with_reducible apply Dev.KeepsBut.foldl_snd; intro _ _) | split | decide | (with_reducible intro _) | (dsimp only)

theorem Dev.quiesce_keeps (d : Dev) (sc : ResetScope) : d.KeepsBut [.regs] (Dev.quiesce d sc) := by
  unfold Dev.quiesce
  try dsimp only
  repeat' first | with_reducible apply Dev.KeepsBut.refl | with_reducible apply Dev.KeepsBut.then (Dev.setFld_keeps _ _ _ _ _) | with_reducible apply Dev.KeepsBut.then (Dev.setFlag_keeps _ _ _ _) | with_reducible apply Dev.KeepsBut.then (Dev.quiescePage_keeps _ _) | (with_reducible apply Dev.KeepsBut.foldl; intro _ _) | (with_reducible apply Dev.KeepsBut.foldl_snd; intro _ _) | split | decide | (with_reducible intro _) | (dsimp only)

theorem Dev.enterReset_keeps (d : Dev) (sc : ResetScope) (remap : Bool) (waits : Bool) : d.KeepsBut [.regs, .ascent] (Dev.enterReset d sc remap waits) := by
  unfold Dev.enterReset
  try dsimp only
  repeat' first | with_reducible apply Dev.KeepsBut.refl | with_reducible apply Dev.KeepsBut.then (Dev.setNum_keeps _ _ _) | with_reducible apply Dev.KeepsBut.then (Dev.setFld_keeps _ _ _ _ _) | with_reducible apply Dev.KeepsBut.then (Dev.setFlag_keeps _ _ _ _) | with_reducible apply Dev.KeepsBut.then (Dev.quiesce_keeps _ _) | (with_reducible apply Dev.KeepsBut.foldl; intro _ _) | (with_reducible apply Dev.KeepsBut.foldl_snd; intro _ _) | with_reducible apply Dev.keeps_ascent | simp only [Dev.keeps_mk] | split | decide | (with_reducible intro _) | (dsimp only)

theorem Dev.startReset_keeps (d : Dev) (sc : ResetScope) (remap : Bool) : d.KeepsBut [.regs, .ascent, .dram, .cricket, .freeCtr] (Dev.startReset d sc remap) := by
  unfold Dev.startReset
  try dsimp only
  repeat' first | with_reducible apply Dev.KeepsBut.refl | with_reducible apply Dev.KeepsBut.then (Dev.beatFail_keeps _ _ _ _) | with_reducible apply Dev.KeepsBut.then (Dev.enterReset_keeps _ _ _ _) | (with_reducible apply Dev.KeepsBut.foldl; intro _ _) | (with_reducible apply Dev.KeepsBut.foldl_snd; intro _ _) | split | decide | (with_reducible intro _) | (dsimp only)

theorem Dev.residueReset_keeps (d : Dev) (sc : ResetScope) (page : Nat) : d.KeepsBut [.regs, .ascent] (Dev.residueReset d sc page) := by
  unfold Dev.residueReset
  try dsimp only
  repeat' first | with_reducible apply Dev.KeepsBut.refl | with_reducible apply Dev.KeepsBut.then (Dev.raise_keeps _ _ _) | with_reducible apply Dev.KeepsBut.then (Dev.enterReset_keeps _ _ _ _) | (with_reducible apply Dev.KeepsBut.foldl; intro _ _) | (with_reducible apply Dev.KeepsBut.foldl_snd; intro _ _) | split | decide | (with_reducible intro _) | (dsimp only)

theorem Dev.quiesceWaiting_keeps (d : Dev) : d.KeepsBut [.regs, .ascent] (Dev.quiesceWaiting d) := by
  unfold Dev.quiesceWaiting
  try dsimp only
  repeat' first | with_reducible apply Dev.KeepsBut.refl | with_reducible apply Dev.KeepsBut.then (Dev.quiesce_keeps _ _) | (with_reducible apply Dev.KeepsBut.foldl; intro _ _) | (with_reducible apply Dev.KeepsBut.foldl_snd; intro _ _) | with_reducible apply Dev.keeps_ascent | simp only [Dev.keeps_mk] | split | decide | (with_reducible intro _) | (dsimp only)

theorem Dev.startGrid_keeps (d : Dev) : d.KeepsBut [.regs, .cricket] (Dev.startGrid d) := by
  unfold Dev.startGrid
  try dsimp only
  repeat' first | with_reducible apply Dev.KeepsBut.refl | with_reducible apply Dev.KeepsBut.then (Dev.setNum64_keeps _ _ _) | (with_reducible apply Dev.KeepsBut.foldl; intro _ _) | (with_reducible apply Dev.KeepsBut.foldl_snd; intro _ _) | with_reducible apply Dev.keeps_cricket | simp only [Dev.keeps_mk] | split | decide | (with_reducible intro _) | (dsimp only)

theorem Dev.clearBlock_keeps (d : Dev) (p : Page) : d.KeepsBut [.regs, .apex, .host, .mem, .dram, .cricket, .massif, .weevil, .col, .scarab, .talus, .stag, .hive, .forager, .link, .firefly, .freeCtr] (Dev.clearBlock d p) := by
  unfold Dev.clearBlock
  try dsimp only
  repeat' first | with_reducible apply Dev.KeepsBut.refl | with_reducible apply Dev.KeepsBut.then (Dev.clearWords_keeps _ _) | with_reducible apply Dev.KeepsBut.then (Dev.clearWvl_keeps _ _) | with_reducible apply Dev.KeepsBut.then (Dev.clearScb_keeps _ _) | with_reducible apply Dev.KeepsBut.then (Dev.clearTls_keeps _ _) | with_reducible apply Dev.KeepsBut.then (Dev.clearPartition_keeps _ _) | with_reducible apply Dev.KeepsBut.then (Dev.clearSyn_keeps _ _) | with_reducible apply Dev.KeepsBut.then (Dev.clearStag_keeps _) | with_reducible apply Dev.KeepsBut.then (Dev.clearHive_keeps _) | with_reducible apply Dev.KeepsBut.then (Dev.clearLnk_keeps _ _) | with_reducible apply Dev.KeepsBut.then (Dev.clearStk_keeps _ _) | with_reducible apply Dev.KeepsBut.then (Dev.clearMsc_keeps _ _) | with_reducible apply Dev.KeepsBut.then (Dev.clearForager_keeps _) | with_reducible apply Dev.KeepsBut.then (Dev.clearApx_keeps _) | with_reducible apply Dev.KeepsBut.then (Dev.clearPwr_keeps _) | with_reducible apply Dev.KeepsBut.then (Dev.clearFfy_keeps _) | with_reducible apply Dev.KeepsBut.then (Dev.clearCpu_keeps _ _) | with_reducible apply Dev.KeepsBut.then (Dev.clearHst_keeps _) | with_reducible apply Dev.KeepsBut.then (Dev.clearCkt_keeps _) | (with_reducible apply Dev.KeepsBut.foldl; intro _ _) | (with_reducible apply Dev.KeepsBut.foldl_snd; intro _ _) | with_reducible apply Dev.keeps_col | with_reducible apply Dev.keeps_forager | ((with_reducible apply Dev.keeps_mk_module); (case g => intro p hp; cases p <;> first | exact absurd hp (by decide) | rfl)) | ((with_reducible apply Dev.keeps_mk_bus); (case g => intro p hp; cases p <;> first | exact absurd hp (by decide) | rfl)) | ((with_reducible apply Dev.keeps_mk_power); (case g => intro p hp; cases p <;> first | exact absurd hp (by decide) | rfl)) | simp only [Dev.keeps_mk] | split | decide | (with_reducible intro _) | (dsimp only)

theorem Dev.setBypass_keeps (d : Dev) (x : Nat) (b : Nat) : d.KeepsBut [.ascent] (Dev.setBypass d x b) := by
  unfold Dev.setBypass
  try dsimp only
  repeat' first | with_reducible apply Dev.KeepsBut.refl | (with_reducible apply Dev.KeepsBut.foldl; intro _ _) | (with_reducible apply Dev.KeepsBut.foldl_snd; intro _ _) | with_reducible apply Dev.keeps_ascent | simp only [Dev.keeps_mk] | split | decide | (with_reducible intro _) | (dsimp only)

theorem Dev.handleCell_keeps (d : Dev) (x : Nat) (f : Nat) : d.KeepsBut [.regs, .ascent] (Dev.handleCell d x f) := by
  unfold Dev.handleCell
  try dsimp only
  repeat' first | with_reducible apply Dev.KeepsBut.refl | with_reducible apply Dev.KeepsBut.then (Dev.err_keeps _ _ _) | with_reducible apply Dev.KeepsBut.then (Dev.noteDegraded_keeps _ _ _) | with_reducible apply Dev.KeepsBut.then (Dev.lastCode_keeps _ _ _) | with_reducible apply Dev.KeepsBut.then (Dev.setBypass_keeps _ _ _) | (with_reducible apply Dev.KeepsBut.foldl; intro _ _) | (with_reducible apply Dev.KeepsBut.foldl_snd; intro _ _) | with_reducible apply Dev.keeps_ascent | ((with_reducible apply Dev.keeps_mk_module); (case g => intro p hp; cases p <;> first | exact absurd hp (by decide) | rfl)) | ((with_reducible apply Dev.keeps_mk_bus); (case g => intro p hp; cases p <;> first | exact absurd hp (by decide) | rfl)) | ((with_reducible apply Dev.keeps_mk_power); (case g => intro p hp; cases p <;> first | exact absurd hp (by decide) | rfl)) | simp only [Dev.keeps_mk] | split | decide | (with_reducible intro _) | (dsimp only)

theorem Dev.refreshMapstat_keeps (d : Dev) : d.KeepsBut [.regs] (Dev.refreshMapstat d) := by
  unfold Dev.refreshMapstat
  try dsimp only
  repeat' first | with_reducible apply Dev.KeepsBut.refl | with_reducible apply Dev.KeepsBut.then (Dev.setFld_keeps _ _ _ _ _) | with_reducible apply Dev.KeepsBut.then (Dev.noteDegraded_keeps _ _ _) | (with_reducible apply Dev.KeepsBut.foldl; intro _ _) | (with_reducible apply Dev.KeepsBut.foldl_snd; intro _ _) | split | decide | (with_reducible intro _) | (dsimp only)

theorem Dev.clearScope_keeps (d : Dev) (r : ResetRun) : d.KeepsBut [.regs, .bus, .module, .apex, .ascent, .trust, .host, .mem, .dram, .cricket, .massif, .weevil, .col, .scarab, .talus, .stag, .hive, .forager, .link, .power, .firefly, .enPend, .freeCtr] (Dev.clearScope d r) := by
  unfold Dev.clearScope
  try dsimp only
  repeat' first | with_reducible apply Dev.KeepsBut.refl | with_reducible apply Dev.KeepsBut.then (Dev.clearCell_keeps _ _) | with_reducible apply Dev.KeepsBut.then (Dev.clearCluster_keeps _ _) | with_reducible apply Dev.KeepsBut.then (Dev.clearPartition_keeps _ _) | with_reducible apply Dev.KeepsBut.then (Dev.deviceClear_keeps _) | with_reducible apply Dev.KeepsBut.then (Dev.clearBlock_keeps _ _) | with_reducible apply Dev.KeepsBut.then (Dev.handleCell_keeps _ _ _) | with_reducible apply Dev.KeepsBut.then (Dev.refreshMapstat_keeps _) | (with_reducible apply Dev.KeepsBut.foldl; intro _ _) | (with_reducible apply Dev.KeepsBut.foldl_snd; intro _ _) | split | decide | (with_reducible intro _) | (dsimp only)

theorem Dev.goDark_keeps (d : Dev) : d.KeepsBut [.regs, .bus, .module, .apex, .ascent, .trust, .host, .mem, .dram, .cricket, .massif, .weevil, .col, .scarab, .talus, .stag, .hive, .forager, .link, .power, .firefly, .enPend, .freeCtr] (Dev.goDark d) := by
  unfold Dev.goDark
  try dsimp only
  repeat' first | with_reducible apply Dev.KeepsBut.refl | (apply Dev.KeepsBut.all; intro p; cases p <;> rfl) | (with_reducible apply Dev.KeepsBut.foldl; intro _ _) | (with_reducible apply Dev.KeepsBut.foldl_snd; intro _ _) | ((with_reducible apply Dev.keeps_mk_module); (case g => intro p hp; cases p <;> first | exact absurd hp (by decide) | rfl)) | ((with_reducible apply Dev.keeps_mk_bus); (case g => intro p hp; cases p <;> first | exact absurd hp (by decide) | rfl)) | ((with_reducible apply Dev.keeps_mk_power); (case g => intro p hp; cases p <;> first | exact absurd hp (by decide) | rfl)) | simp only [Dev.keeps_mk] | split | decide | (with_reducible intro _) | (dsimp only)

theorem Dev.powerOff_keeps (d : Dev) : d.KeepsBut [.regs, .bus, .module, .apex, .ascent, .trust, .host, .mem, .dram, .cricket, .massif, .weevil, .col, .scarab, .talus, .stag, .hive, .forager, .link, .power, .firefly, .enPend, .freeCtr] (Dev.powerOff d) := by
  unfold Dev.powerOff
  try dsimp only
  repeat' first | with_reducible apply Dev.KeepsBut.refl | with_reducible apply Dev.KeepsBut.then (Dev.goDark_keeps _) | (with_reducible apply Dev.KeepsBut.foldl; intro _ _) | (with_reducible apply Dev.KeepsBut.foldl_snd; intro _ _) | with_reducible apply Dev.keeps_apex_module_power_regs | ((with_reducible apply Dev.keeps_mk_module); (case g => intro p hp; cases p <;> first | exact absurd hp (by decide) | rfl)) | ((with_reducible apply Dev.keeps_mk_bus); (case g => intro p hp; cases p <;> first | exact absurd hp (by decide) | rfl)) | ((with_reducible apply Dev.keeps_mk_power); (case g => intro p hp; cases p <;> first | exact absurd hp (by decide) | rfl)) | simp only [Dev.keeps_mk] | split | decide | (with_reducible intro _) | (dsimp only)

end Sys2Proof.Machine
end

