-- ==== Sys2Proof/Laws/KeepsJobs.lean ====
section
/-!
SUPPORT. Which parts of the device the operations of Machine/Jobs.lean may change.
-/
namespace Sys2Proof.Machine

theorem Dev.postDone_keeps (d : Dev) (fn : Nat) (c : Completion) : d.KeepsBut [.host] (Dev.postDone d fn c) := by
  unfold Dev.postDone
  try dsimp only
  repeat' first | with_reducible apply Dev.KeepsBut.refl | (with_reducible apply Dev.KeepsBut.foldl; intro _ _) | (with_reducible apply Dev.KeepsBut.foldl_snd; intro _ _) | with_reducible apply Dev.keeps_host | simp only [Dev.keeps_mk] | split | decide | (with_reducible intro _) | (dsimp only)

theorem Dev.noLastBeat_keeps (d : Dev) : d.KeepsBut [.freeCtr] (Dev.noLastBeat d).2 := by
  unfold Dev.noLastBeat
  try dsimp only
  repeat' first | with_reducible apply Dev.KeepsBut.refl | with_reducible apply Dev.KeepsBut.then (Dev.freshNat_keeps _) | (with_reducible apply Dev.KeepsBut.foldl; intro _ _) | (with_reducible apply Dev.KeepsBut.foldl_snd; intro _ _) | split | decide | (with_reducible intro _) | (dsimp only)

theorem Dev.notifySeq_keeps (d : Dev) (fn : Nat) (code : Nat) (seqid : Nat) : d.KeepsBut [.host, .freeCtr] (Dev.notifySeq d fn code seqid) := by
  unfold Dev.notifySeq
  try dsimp only
  repeat' first | with_reducible apply Dev.KeepsBut.refl | with_reducible apply Dev.KeepsBut.then (Dev.freshWord_keeps _) | with_reducible apply Dev.KeepsBut.then (Dev.postDone_keeps _ _ _) | (with_reducible apply Dev.KeepsBut.foldl; intro _ _) | (with_reducible apply Dev.KeepsBut.foldl_snd; intro _ _) | split | decide | (with_reducible intro _) | (dsimp only)

theorem Dev.noteCommand_keeps (d : Dev) (fn : Nat) (code : Nat) (b : List Byte) : d.KeepsBut [.regs, .forager] (Dev.noteCommand d fn code b) := by
  unfold Dev.noteCommand
  try dsimp only
  repeat' first | with_reducible apply Dev.KeepsBut.refl | with_reducible apply Dev.KeepsBut.then (Dev.setFld_keeps _ _ _ _ _) | with_reducible apply Dev.KeepsBut.then (Dev.err_keeps _ _ _) | with_reducible apply Dev.KeepsBut.then (Dev.setFeed_keeps _ _ _) | (with_reducible apply Dev.KeepsBut.foldl; intro _ _) | (with_reducible apply Dev.KeepsBut.foldl_snd; intro _ _) | split | decide | (with_reducible intro _) | (dsimp only)

theorem Dev.answerJob_keeps (d : Dev) (fn : Nat) (b : List Byte) (code : Nat) (aux : Nat) (info : Nat) : d.KeepsBut [.regs, .host, .forager] (Dev.answerJob d fn b code aux info) := by
  unfold Dev.answerJob
  try dsimp only
  repeat' first | with_reducible apply Dev.KeepsBut.refl | with_reducible apply Dev.KeepsBut.then (Dev.postDone_keeps _ _ _) | with_reducible apply Dev.KeepsBut.then (Dev.noteCommand_keeps _ _ _ _) | (with_reducible apply Dev.KeepsBut.foldl; intro _ _) | (with_reducible apply Dev.KeepsBut.foldl_snd; intro _ _) | split | decide | (with_reducible intro _) | (dsimp only)

theorem Dev.refuseJob_keeps (d : Dev) (fn : Nat) (b : List Byte) (code : Nat) : d.KeepsBut [.regs, .host, .forager, .freeCtr] (Dev.refuseJob d fn b code) := by
  unfold Dev.refuseJob
  try dsimp only
  repeat' first | with_reducible apply Dev.KeepsBut.refl | with_reducible apply Dev.KeepsBut.then (Dev.err_keeps _ _ _) | with_reducible apply Dev.KeepsBut.then (Dev.noLastBeat_keeps _) | with_reducible apply Dev.KeepsBut.then (Dev.answerJob_keeps _ _ _ _ _ _) | (with_reducible apply Dev.KeepsBut.foldl; intro _ _) | (with_reducible apply Dev.KeepsBut.foldl_snd; intro _ _) | split | decide | (with_reducible intro _) | (dsimp only)

theorem Dev.popFetched_keeps (d : Dev) (fn : Nat) : d.KeepsBut [.host] (Dev.popFetched d fn) := by
  unfold Dev.popFetched
  try dsimp only
  repeat' first | with_reducible apply Dev.KeepsBut.refl | (with_reducible apply Dev.KeepsBut.foldl; intro _ _) | (with_reducible apply Dev.KeepsBut.foldl_snd; intro _ _) | with_reducible apply Dev.keeps_host | simp only [Dev.keeps_mk] | split | decide | (with_reducible intro _) | (dsimp only)

theorem Dev.gateJob_keeps (d : Dev) (fn : Nat) (b : List Byte) (code : Nat) : d.KeepsBut [.regs, .host, .forager, .freeCtr] (Dev.gateJob d fn b code) := by
  unfold Dev.gateJob
  try dsimp only
  repeat' first | with_reducible apply Dev.KeepsBut.refl | with_reducible apply Dev.KeepsBut.then (Dev.absorb_keeps _) | with_reducible apply Dev.KeepsBut.then (Dev.refuseJob_keeps _ _ _ _) | (with_reducible apply Dev.KeepsBut.foldl; intro _ _) | (with_reducible apply Dev.KeepsBut.foldl_snd; intro _ _) | split | decide | (with_reducible intro _) | (dsimp only)

theorem Dev.settleJobs_keeps (fuel : Nat) (d : Dev) : d.KeepsBut [.regs, .host, .forager, .freeCtr] (Dev.settleJobs fuel d) := by
  induction fuel generalizing d with
  | zero => exact Dev.KeepsBut.refl _ _
  | succ m ih =>
    unfold Dev.settleJobs
    try dsimp only
    repeat' first | with_reducible apply Dev.KeepsBut.refl | with_reducible apply fun x => Dev.KeepsBut.trans x (ih _ ) | with_reducible apply Dev.KeepsBut.then (Dev.popFetched_keeps _ _) | with_reducible apply Dev.KeepsBut.then (Dev.gateJob_keeps _ _ _ _) | (with_reducible apply Dev.KeepsBut.foldl; intro _ _) | (with_reducible apply Dev.KeepsBut.foldl_snd; intro _ _) | split | decide | (with_reducible intro _) | (dsimp only)

theorem Dev.jobCommand_keeps {ps : List Part} (d : Dev) (fn : Nat) (want : List Byte → Bool) (act : Dev → List Byte → Dev) (hact : ∀ (y0 : Dev) (y1 : List Byte), y0.KeepsBut ps (act y0 y1)) (hp : ([.regs, .host, .forager, .freeCtr].all fun p => ps.contains p) = true) : d.KeepsBut ps (Dev.jobCommand d fn want act) := by
  unfold Dev.jobCommand
  try dsimp only
  repeat' first | with_reducible apply Dev.KeepsBut.refl | ((with_reducible apply Part.sub hp); decide) | with_reducible apply fun z => Dev.KeepsBut.then (Dev.popFetched_keeps _ _ ) z | with_reducible apply fun z => Dev.KeepsBut.then (Dev.gateJob_keeps _ _ _ _ ) z | with_reducible apply fun z => Dev.KeepsBut.then (Dev.settleJobs_keeps _ _ ) z | with_reducible apply fun x => Dev.KeepsBut.trans x (hact _ _ ) | (with_reducible apply Dev.KeepsBut.foldl; intro _ _) | (with_reducible apply Dev.KeepsBut.foldl_snd; intro _ _) | split | decide | (with_reducible intro _) | (dsimp only)

theorem Dev.endJob_keeps (d : Dev) (j : Job) (code : Nat) : d.KeepsBut [.host] (Dev.endJob d j code) := by
  unfold Dev.endJob
  try dsimp only
  repeat' first | with_reducible apply Dev.KeepsBut.refl | with_reducible apply Dev.KeepsBut.then (Dev.postDone_keeps _ _ _) | (with_reducible apply Dev.KeepsBut.foldl; intro _ _) | (with_reducible apply Dev.KeepsBut.foldl_snd; intro _ _) | with_reducible apply Dev.keeps_host | simp only [Dev.keeps_mk] | split | decide | (with_reducible intro _) | (dsimp only)

theorem Dev.promote_keeps (d : Dev) (fn : Nat) : d.KeepsBut [.host] (Dev.promote d fn) := by
  unfold Dev.promote
  try dsimp only
  repeat' first | with_reducible apply Dev.KeepsBut.refl | (with_reducible apply Dev.KeepsBut.foldl; intro _ _) | (with_reducible apply Dev.KeepsBut.foldl_snd; intro _ _) | with_reducible apply Dev.keeps_host | simp only [Dev.keeps_mk] | split | decide | (with_reducible intro _) | (dsimp only)

theorem Dev.promoteAll_keeps (d : Dev) : d.KeepsBut [.host] (Dev.promoteAll d) := by
  unfold Dev.promoteAll
  try dsimp only
  repeat' first | with_reducible apply Dev.KeepsBut.refl | with_reducible apply Dev.KeepsBut.then (Dev.promote_keeps _ _) | (with_reducible apply Dev.KeepsBut.foldl; intro _ _) | (with_reducible apply Dev.KeepsBut.foldl_snd; intro _ _) | split | decide | (with_reducible intro _) | (dsimp only)

end Sys2Proof.Machine
end

