-- ==== Sys2Proof/Laws/KeepsFirefly.lean ====
section
/-!
SUPPORT. Which parts of the device the operations of Machine/Firefly.lean may change.
-/
namespace Sys2Proof.Machine

theorem Dev.returns_keeps (d : Dev) (bs : List Byte) : d.KeepsBut [.bus] (Dev.returns d bs) := by
  unfold Dev.returns
  try dsimp only
  repeat' first | with_reducible apply Dev.KeepsBut.refl | (with_reducible apply Dev.KeepsBut.foldl; intro _ _) | (with_reducible apply Dev.KeepsBut.foldl_snd; intro _ _) | with_reducible apply Dev.keeps_bus | simp only [Dev.keeps_mk] | split | decide | (with_reducible intro _) | (dsimp only)

theorem onPf_keeps {ps : List Part} (r : Requester) (f : Dev → Dev) (d : Dev) (hf : ∀ (y0 : Dev), y0.KeepsBut ps (f y0)) (hp : ([].all fun p => ps.contains p) = true) : d.KeepsBut ps (onPf r f d) := by
  unfold onPf
  try dsimp only
  repeat' first | with_reducible apply Dev.KeepsBut.refl | ((with_reducible apply Part.sub hp); decide) | with_reducible apply fun x => Dev.KeepsBut.trans x (hf _ ) | (with_reducible apply Dev.KeepsBut.foldl; intro _ _) | (with_reducible apply Dev.KeepsBut.foldl_snd; intro _ _) | split | decide | (with_reducible intro _) | (dsimp only)

theorem Dev.sendMsix_keeps (d : Dev) (fn : Nat) (e : Nat) : d.KeepsBut [.host] (Dev.sendMsix d fn e) := by
  unfold Dev.sendMsix
  try dsimp only
  repeat' first | with_reducible apply Dev.KeepsBut.refl | (with_reducible apply Dev.KeepsBut.foldl; intro _ _) | (with_reducible apply Dev.KeepsBut.foldl_snd; intro _ _) | with_reducible apply Dev.keeps_host | simp only [Dev.keeps_mk] | split | decide | (with_reducible intro _) | (dsimp only)

theorem Dev.tryHost_keeps (d : Dev) (n : Nat) : d.KeepsBut [.regs, .host, .firefly] (Dev.tryHost d n) := by
  unfold Dev.tryHost
  try dsimp only
  repeat' first | with_reducible apply Dev.KeepsBut.refl | with_reducible apply Dev.KeepsBut.then (Dev.countSat_keeps _ _ _) | with_reducible apply Dev.KeepsBut.then (Dev.err_keeps _ _ _) | with_reducible apply Dev.KeepsBut.then (Dev.setIrqState_keeps _ _ _) | with_reducible apply Dev.KeepsBut.then (Dev.sendMsix_keeps _ _ _) | (with_reducible apply Dev.KeepsBut.foldl; intro _ _) | (with_reducible apply Dev.KeepsBut.foldl_snd; intro _ _) | with_reducible apply Dev.keeps_firefly | with_reducible apply Dev.keeps_host | ((with_reducible apply Dev.keeps_mk_module); (case g => intro p hp; cases p <;> first | exact absurd hp (by decide) | rfl)) | ((with_reducible apply Dev.keeps_mk_bus); (case g => intro p hp; cases p <;> first | exact absurd hp (by decide) | rfl)) | ((with_reducible apply Dev.keeps_mk_power); (case g => intro p hp; cases p <;> first | exact absurd hp (by decide) | rfl)) | simp only [Dev.keeps_mk] | split | decide | (with_reducible intro _) | (dsimp only)

theorem Dev.sendHost_keeps (d : Dev) : d.KeepsBut [.regs, .host, .firefly] (Dev.sendHost d) := by
  unfold Dev.sendHost
  try dsimp only
  repeat' first | with_reducible apply Dev.KeepsBut.refl | with_reducible apply Dev.KeepsBut.then (Dev.tryHost_keeps _ _) | (with_reducible apply Dev.KeepsBut.foldl; intro _ _) | (with_reducible apply Dev.KeepsBut.foldl_snd; intro _ _) | split | decide | (with_reducible intro _) | (dsimp only)

theorem Dev.sweepPend_keeps (d : Dev) : d.KeepsBut [.host] (Dev.sweepPend d) := by
  unfold Dev.sweepPend
  try dsimp only
  repeat' first | with_reducible apply Dev.KeepsBut.refl | (with_reducible apply Dev.KeepsBut.foldl; intro _ _) | (with_reducible apply Dev.KeepsBut.foldl_snd; intro _ _) | with_reducible apply Dev.keeps_host | simp only [Dev.keeps_mk] | split | decide | (with_reducible intro _) | (dsimp only)

theorem Dev.irqAssert_keeps (d : Dev) (n : Nat) : d.KeepsBut [.regs, .host, .firefly] (Dev.irqAssert d n) := by
  unfold Dev.irqAssert
  try dsimp only
  repeat' first | with_reducible apply Dev.KeepsBut.refl | with_reducible apply Dev.KeepsBut.then (Dev.setIrqState_keeps _ _ _) | with_reducible apply Dev.KeepsBut.then (Dev.tryHost_keeps _ _) | (with_reducible apply Dev.KeepsBut.foldl; intro _ _) | (with_reducible apply Dev.KeepsBut.foldl_snd; intro _ _) | split | decide | (with_reducible intro _) | (dsimp only)

theorem Dev.irqDeassert_keeps (d : Dev) (n : Nat) : d.KeepsBut [.host, .firefly] (Dev.irqDeassert d n) := by
  unfold Dev.irqDeassert
  try dsimp only
  repeat' first | with_reducible apply Dev.KeepsBut.refl | with_reducible apply Dev.KeepsBut.then (Dev.setIrqState_keeps _ _ _) | with_reducible apply Dev.KeepsBut.then (Dev.sweepPend_keeps _) | (with_reducible apply Dev.KeepsBut.foldl; intro _ _) | (with_reducible apply Dev.KeepsBut.foldl_snd; intro _ _) | split | decide | (with_reducible intro _) | (dsimp only)

theorem Dev.writeSwset_keeps (d : Dev) (v : Word) : d.KeepsBut [.regs, .host, .firefly] (Dev.writeSwset d v) := by
  unfold Dev.writeSwset
  try dsimp only
  repeat' first | with_reducible apply Dev.KeepsBut.refl | with_reducible apply Dev.KeepsBut.then (Dev.setIrqState_keeps _ _ _) | with_reducible apply Dev.KeepsBut.then (Dev.tryHost_keeps _ _) | (with_reducible apply Dev.KeepsBut.foldl; intro _ _) | (with_reducible apply Dev.KeepsBut.foldl_snd; intro _ _) | split | decide | (with_reducible intro _) | (dsimp only)

theorem Dev.writeSwclr_keeps (d : Dev) (v : Word) : d.KeepsBut [.host, .firefly] (Dev.writeSwclr d v) := by
  unfold Dev.writeSwclr
  try dsimp only
  repeat' first | with_reducible apply Dev.KeepsBut.refl | with_reducible apply Dev.KeepsBut.then (Dev.setIrqState_keeps _ _ _) | with_reducible apply Dev.KeepsBut.then (Dev.sweepPend_keeps _) | (with_reducible apply Dev.KeepsBut.foldl; intro _ _) | (with_reducible apply Dev.KeepsBut.foldl_snd; intro _ _) | split | decide | (with_reducible intro _) | (dsimp only)

theorem Dev.writeSrccfg_keeps (d : Dev) (n : Nat) (v : Word) : d.KeepsBut [.regs, .host, .firefly] (Dev.writeSrccfg d n v) := by
  unfold Dev.writeSrccfg
  try dsimp only
  repeat' first | with_reducible apply Dev.KeepsBut.refl | with_reducible apply Dev.KeepsBut.then (Dev.wr_keeps _ _ _) | with_reducible apply Dev.KeepsBut.then (Dev.setIrqState_keeps _ _ _) | with_reducible apply Dev.KeepsBut.then (Dev.tryHost_keeps _ _) | with_reducible apply Dev.KeepsBut.then (Dev.sweepPend_keeps _) | (with_reducible apply Dev.KeepsBut.foldl; intro _ _) | (with_reducible apply Dev.KeepsBut.foldl_snd; intro _ _) | split | decide | (with_reducible intro _) | (dsimp only)

theorem Dev.claim_keeps (d : Dev) (c : Nat) : d.KeepsBut [.regs, .bus, .firefly] (Dev.claim d c) := by
  unfold Dev.claim
  try dsimp only
  repeat' first | with_reducible apply Dev.KeepsBut.refl | with_reducible apply Dev.KeepsBut.then (Dev.countSat_keeps _ _ _) | with_reducible apply Dev.KeepsBut.then (Dev.err_keeps _ _ _) | with_reducible apply Dev.KeepsBut.then (Dev.setIrqState_keeps _ _ _) | with_reducible apply Dev.KeepsBut.then (Dev.returns_keeps _ _) | (with_reducible apply Dev.KeepsBut.foldl; intro _ _) | (with_reducible apply Dev.KeepsBut.foldl_snd; intro _ _) | with_reducible apply Dev.keeps_firefly | simp only [Dev.keeps_mk] | split | decide | (with_reducible intro _) | (dsimp only)

theorem Dev.endActivity_keeps (d : Dev) (n : Nat) : d.KeepsBut [.regs, .host, .firefly] (Dev.endActivity d n) := by
  unfold Dev.endActivity
  try dsimp only
  repeat' first | with_reducible apply Dev.KeepsBut.refl | with_reducible apply Dev.KeepsBut.then (Dev.setIrqState_keeps _ _ _) | with_reducible apply Dev.KeepsBut.then (Dev.tryHost_keeps _ _) | (with_reducible apply Dev.KeepsBut.foldl; intro _ _) | (with_reducible apply Dev.KeepsBut.foldl_snd; intro _ _) | split | decide | (with_reducible intro _) | (dsimp only)

theorem Dev.writeEoi_keeps (d : Dev) (c : Nat) (v : Word) : d.KeepsBut [.regs, .host, .firefly] (Dev.writeEoi d c v) := by
  unfold Dev.writeEoi
  try dsimp only
  repeat' first | with_reducible apply Dev.KeepsBut.refl | with_reducible apply Dev.KeepsBut.then (Dev.err_keeps _ _ _) | with_reducible apply Dev.KeepsBut.then (Dev.endActivity_keeps _ _) | (with_reducible apply Dev.KeepsBut.foldl; intro _ _) | (with_reducible apply Dev.KeepsBut.foldl_snd; intro _ _) | with_reducible apply Dev.keeps_firefly | simp only [Dev.keeps_mk] | split | decide | (with_reducible intro _) | (dsimp only)

theorem Dev.writeHosteoi_keeps (d : Dev) (v : Word) : d.KeepsBut [.regs, .host, .firefly] (Dev.writeHosteoi d v) := by
  unfold Dev.writeHosteoi
  try dsimp only
  repeat' first | with_reducible apply Dev.KeepsBut.refl | with_reducible apply Dev.KeepsBut.then (Dev.err_keeps _ _ _) | with_reducible apply Dev.KeepsBut.then (Dev.endActivity_keeps _ _) | (with_reducible apply Dev.KeepsBut.foldl; intro _ _) | (with_reducible apply Dev.KeepsBut.foldl_snd; intro _ _) | split | decide | (with_reducible intro _) | (dsimp only)

theorem Dev.msixWrite_keeps (d : Dev) (fn : Nat) (e : Nat) (dw : Nat) (v : Word) : d.KeepsBut [.regs, .host, .firefly] (Dev.msixWrite d fn e dw v) := by
  unfold Dev.msixWrite
  try dsimp only
  repeat' first | with_reducible apply Dev.KeepsBut.refl | with_reducible apply Dev.KeepsBut.then (Dev.sendMsix_keeps _ _ _) | with_reducible apply Dev.KeepsBut.then (Dev.sendHost_keeps _) | (with_reducible apply Dev.KeepsBut.foldl; intro _ _) | (with_reducible apply Dev.KeepsBut.foldl_snd; intro _ _) | with_reducible apply Dev.keeps_host | simp only [Dev.keeps_mk] | split | decide | (with_reducible intro _) | (dsimp only)

theorem Dev.functionMask_keeps (d : Dev) (fn : Fin 16) (masked : Bool) : d.KeepsBut [.regs, .host, .firefly] (Dev.functionMask d fn masked) := by
  unfold Dev.functionMask
  try dsimp only
  repeat' first | with_reducible apply Dev.KeepsBut.refl | with_reducible apply Dev.KeepsBut.then (Dev.sendMsix_keeps _ _ _) | with_reducible apply Dev.KeepsBut.then (Dev.sendHost_keeps _) | (with_reducible apply Dev.KeepsBut.foldl; intro _ _) | (with_reducible apply Dev.KeepsBut.foldl_snd; intro _ _) | with_reducible apply Dev.keeps_host | simp only [Dev.keeps_mk] | split | decide | (with_reducible intro _) | (dsimp only)

end Sys2Proof.Machine
end

