-- ==== Sys2Proof/Laws/KeepsTxns.lean ====
section
/-!
SUPPORT. Which parts of the device the operations of Machine/Txns.lean may change.
-/
namespace Sys2Proof.Machine

theorem Dev.pump_keeps (d : Dev) (p : Nat) : d.KeepsBut [.regs, .link] (Dev.pump d p) := by
  unfold Dev.pump
  try dsimp only
  repeat' first | with_reducible apply Dev.KeepsBut.refl | with_reducible apply Dev.KeepsBut.then (Dev.count64_keeps _ _ _) | with_reducible apply Dev.KeepsBut.then (Dev.setPort_keeps _ _ _) | (with_reducible apply Dev.KeepsBut.foldl; intro _ _) | (with_reducible apply Dev.KeepsBut.foldl_snd; intro _ _) | split | decide | (with_reducible intro _) | (dsimp only)

theorem Dev.pushTxn_keeps (d : Dev) (p : Nat) (t : Txn) : d.KeepsBut [.regs, .link] (Dev.pushTxn d p t) := by
  unfold Dev.pushTxn
  try dsimp only
  repeat' first | with_reducible apply Dev.KeepsBut.refl | with_reducible apply Dev.KeepsBut.then (Dev.setPort_keeps _ _ _) | with_reducible apply Dev.KeepsBut.then (Dev.pump_keeps _ _) | (with_reducible apply Dev.KeepsBut.foldl; intro _ _) | (with_reducible apply Dev.KeepsBut.foldl_snd; intro _ _) | split | decide | (with_reducible intro _) | (dsimp only)

theorem Dev.releaseSync_keeps (d : Dev) (t : Txn) : d.KeepsBut [.regs, .link] (Dev.releaseSync d t) := by
  unfold Dev.releaseSync
  try dsimp only
  repeat' first | with_reducible apply Dev.KeepsBut.refl | with_reducible apply Dev.KeepsBut.then (Dev.pushTxn_keeps _ _ _) | (with_reducible apply Dev.KeepsBut.foldl; intro _ _) | (with_reducible apply Dev.KeepsBut.foldl_snd; intro _ _) | with_reducible apply Dev.keeps_link | ((with_reducible apply Dev.keeps_mk_module); (case g => intro p hp; cases p <;> first | exact absurd hp (by decide) | rfl)) | ((with_reducible apply Dev.keeps_mk_bus); (case g => intro p hp; cases p <;> first | exact absurd hp (by decide) | rfl)) | ((with_reducible apply Dev.keeps_mk_power); (case g => intro p hp; cases p <;> first | exact absurd hp (by decide) | rfl)) | simp only [Dev.keeps_mk] | split | decide | (with_reducible intro _) | (dsimp only)

theorem Dev.setTable_keeps (d : Dev) (iport : Nat) (l : List Outst) : d.KeepsBut [.link] (Dev.setTable d iport l) := by
  unfold Dev.setTable
  try dsimp only
  repeat' first | with_reducible apply Dev.KeepsBut.refl | with_reducible apply Dev.KeepsBut.then (Dev.setPort_keeps _ _ _) | (with_reducible apply Dev.KeepsBut.foldl; intro _ _) | (with_reducible apply Dev.KeepsBut.foldl_snd; intro _ _) | with_reducible apply Dev.keeps_link | simp only [Dev.keeps_mk] | split | decide | (with_reducible intro _) | (dsimp only)

theorem Dev.completeAt_keeps (d : Dev) (iport : Nat) (tag : Nat) (gen : Nat) (code : Nat) (proto : Bool) : d.KeepsBut [.regs, .dram, .cricket, .link, .freeCtr] (Dev.completeAt d iport tag gen code proto) := by
  unfold Dev.completeAt
  try dsimp only
  repeat' first | with_reducible apply Dev.KeepsBut.refl | with_reducible apply Dev.KeepsBut.then (Dev.countSat_keeps _ _ _) | with_reducible apply Dev.KeepsBut.then (Dev.err_keeps _ _ _) | with_reducible apply Dev.KeepsBut.then (Dev.beatFail_keeps _ _ _ _) | with_reducible apply Dev.KeepsBut.then (Dev.releaseSync_keeps _ _) | with_reducible apply Dev.KeepsBut.then (Dev.setTable_keeps _ _ _) | (with_reducible apply Dev.KeepsBut.foldl; intro _ _) | (with_reducible apply Dev.KeepsBut.foldl_snd; intro _ _) | split | decide | (with_reducible intro _) | (dsimp only)

theorem Dev.routeCpl_keeps (d : Dev) (c : Txn) : d.KeepsBut [.regs, .dram, .cricket, .link, .freeCtr] (Dev.routeCpl d c) := by
  unfold Dev.routeCpl
  try dsimp only
  repeat' first | with_reducible apply Dev.KeepsBut.refl | with_reducible apply Dev.KeepsBut.then (Dev.pushTxn_keeps _ _ _) | with_reducible apply Dev.KeepsBut.then (Dev.completeAt_keeps _ _ _ _ _ _) | (with_reducible apply Dev.KeepsBut.foldl; intro _ _) | (with_reducible apply Dev.KeepsBut.foldl_snd; intro _ _) | split | decide | (with_reducible intro _) | (dsimp only)

theorem Dev.complete_keeps (d : Dev) (t : Txn) (code : Nat) (proto : Bool) (data : List Byte) : d.KeepsBut [.regs, .dram, .cricket, .link, .freeCtr] (Dev.complete d t code proto data) := by
  unfold Dev.complete
  try dsimp only
  repeat' first | with_reducible apply Dev.KeepsBut.refl | with_reducible apply Dev.KeepsBut.then (Dev.routeCpl_keeps _ _) | (with_reducible apply Dev.KeepsBut.foldl; intro _ _) | (with_reducible apply Dev.KeepsBut.foldl_snd; intro _ _) | split | decide | (with_reducible intro _) | (dsimp only)

theorem Dev.waitSync_keeps (d : Dev) (iport : Nat) (t : Txn) : d.KeepsBut [.link] (Dev.waitSync d iport t) := by
  unfold Dev.waitSync
  try dsimp only
  repeat' first | with_reducible apply Dev.KeepsBut.refl | (with_reducible apply Dev.KeepsBut.foldl; intro _ _) | (with_reducible apply Dev.KeepsBut.foldl_snd; intro _ _) | with_reducible apply Dev.keeps_link | simp only [Dev.keeps_mk] | split | decide | (with_reducible intro _) | (dsimp only)

theorem Dev.issueRequest_keeps (d : Dev) (unit : Nat) (t : Txn) : d.KeepsBut [.regs, .dram, .cricket, .link, .freeCtr] (Dev.issueRequest d unit t) := by
  unfold Dev.issueRequest
  try dsimp only
  repeat' first | with_reducible apply Dev.KeepsBut.refl | with_reducible apply Dev.KeepsBut.then (Dev.beatFail_keeps _ _ _ _) | with_reducible apply Dev.KeepsBut.then (Dev.setPort_keeps _ _ _) | with_reducible apply Dev.KeepsBut.then (Dev.absorb_keeps _) | with_reducible apply Dev.KeepsBut.then (Dev.pushTxn_keeps _ _ _) | with_reducible apply Dev.KeepsBut.then (Dev.waitSync_keeps _ _ _) | (with_reducible apply Dev.KeepsBut.foldl; intro _ _) | (with_reducible apply Dev.KeepsBut.foldl_snd; intro _ _) | with_reducible apply Dev.keeps_link | simp only [Dev.keeps_mk] | split | decide | (with_reducible intro _) | (dsimp only)

theorem Dev.failTable_keeps (d : Dev) (p : Nat) (code : Nat) : d.KeepsBut [.regs, .dram, .cricket, .link, .freeCtr] (Dev.failTable d p code) := by
  unfold Dev.failTable
  try dsimp only
  repeat' first | with_reducible apply Dev.KeepsBut.refl | with_reducible apply Dev.KeepsBut.then (Dev.countSat_keeps _ _ _) | with_reducible apply Dev.KeepsBut.then (Dev.err_keeps _ _ _) | with_reducible apply Dev.KeepsBut.then (Dev.beatFail_keeps _ _ _ _) | with_reducible apply Dev.KeepsBut.then (Dev.setPort_keeps _ _ _) | (with_reducible apply Dev.KeepsBut.foldl; intro _ _) | (with_reducible apply Dev.KeepsBut.foldl_snd; intro _ _) | with_reducible apply Dev.keeps_link | simp only [Dev.keeps_mk] | split | decide | (with_reducible intro _) | (dsimp only)

theorem Dev.failHeld_keeps (d : Dev) (p : Nat) (code : Nat) : d.KeepsBut [.regs, .dram, .cricket, .link, .freeCtr] (Dev.failHeld d p code) := by
  unfold Dev.failHeld
  try dsimp only
  repeat' first | with_reducible apply Dev.KeepsBut.refl | with_reducible apply Dev.KeepsBut.then (Dev.setPort_keeps _ _ _) | with_reducible apply Dev.KeepsBut.then (Dev.complete_keeps _ _ _ _ _) | (with_reducible apply Dev.KeepsBut.foldl; intro _ _) | (with_reducible apply Dev.KeepsBut.foldl_snd; intro _ _) | split | decide | (with_reducible intro _) | (dsimp only)

theorem Dev.absorbPort_keeps (d : Dev) (p : Nat) : d.KeepsBut [.regs, .dram, .cricket, .link, .freeCtr] (Dev.absorbPort d p) := by
  unfold Dev.absorbPort
  try dsimp only
  repeat' first | with_reducible apply Dev.KeepsBut.refl | with_reducible apply Dev.KeepsBut.then (Dev.countSat_keeps _ _ _) | with_reducible apply Dev.KeepsBut.then (Dev.failTable_keeps _ _ _) | with_reducible apply Dev.KeepsBut.then (Dev.failHeld_keeps _ _ _) | (with_reducible apply Dev.KeepsBut.foldl; intro _ _) | (with_reducible apply Dev.KeepsBut.foldl_snd; intro _ _) | split | decide | (with_reducible intro _) | (dsimp only)

theorem Dev.hopLimit_keeps (d : Dev) (from_ : Option Nat) : d.KeepsBut [.regs] (Dev.hopLimit d from_) := by
  unfold Dev.hopLimit
  try dsimp only
  repeat' first | with_reducible apply Dev.KeepsBut.refl | with_reducible apply Dev.KeepsBut.then (Dev.err_keeps _ _ _) | (with_reducible apply Dev.KeepsBut.foldl; intro _ _) | (with_reducible apply Dev.KeepsBut.foldl_snd; intro _ _) | split | decide | (with_reducible intro _) | (dsimp only)

theorem Dev.forward_keeps (d : Dev) (from_ : Option Nat) (t : Txn) : d.KeepsBut [.regs, .dram, .cricket, .link, .freeCtr] (Dev.forward d from_ t) := by
  unfold Dev.forward
  try dsimp only
  repeat' first | with_reducible apply Dev.KeepsBut.refl | with_reducible apply Dev.KeepsBut.then (Dev.absorb_keeps _) | with_reducible apply Dev.KeepsBut.then (Dev.pushTxn_keeps _ _ _) | with_reducible apply Dev.KeepsBut.then (Dev.routeCpl_keeps _ _) | with_reducible apply Dev.KeepsBut.then (Dev.complete_keeps _ _ _ _ _) | with_reducible apply Dev.KeepsBut.then (Dev.hopLimit_keeps _ _) | (with_reducible apply Dev.KeepsBut.foldl; intro _ _) | (with_reducible apply Dev.KeepsBut.foldl_snd; intro _ _) | split | decide | (with_reducible intro _) | (dsimp only)

theorem Dev.leavePort_keeps (d : Dev) (p : Option Nat) (t : Txn) : d.KeepsBut [.link] (Dev.leavePort d p t) := by
  unfold Dev.leavePort
  try dsimp only
  repeat' first | with_reducible apply Dev.KeepsBut.refl | with_reducible apply Dev.KeepsBut.then (Dev.setPort_keeps _ _ _) | (with_reducible apply Dev.KeepsBut.foldl; intro _ _) | (with_reducible apply Dev.KeepsBut.foldl_snd; intro _ _) | with_reducible apply Dev.keeps_link | simp only [Dev.keeps_mk] | split | decide | (with_reducible intro _) | (dsimp only)

theorem Dev.receive_keeps (d : Dev) (p : Option Nat) (t : Txn) : d.KeepsBut [.regs, .dram, .cricket, .link, .freeCtr] (Dev.receive d p t).1 := by
  unfold Dev.receive
  try dsimp only
  repeat' first | with_reducible apply Dev.KeepsBut.refl | with_reducible apply Dev.KeepsBut.then (Dev.err_keeps _ _ _) | with_reducible apply Dev.KeepsBut.then (Dev.setPort_keeps _ _ _) | with_reducible apply Dev.KeepsBut.then (Dev.complete_keeps _ _ _ _ _) | with_reducible apply Dev.KeepsBut.then (Dev.leavePort_keeps _ _ _) | (with_reducible apply Dev.KeepsBut.foldl; intro _ _) | (with_reducible apply Dev.KeepsBut.foldl_snd; intro _ _) | split | decide | (with_reducible intro _) | (dsimp only)

end Sys2Proof.Machine
end

