-- ==== Sys2Proof/Laws/KeepsLink.lean ====
section
/-!
SUPPORT. Which parts of the device the operations of Machine/Link.lean may change.
-/
namespace Sys2Proof.Machine

theorem Dev.setSrcPort_keeps (d : Dev) (p : Nat) : d.KeepsBut [.regs, .link] (Dev.setSrcPort d p) := by
  unfold Dev.setSrcPort
  try dsimp only
  repeat' first | with_reducible apply Dev.KeepsBut.refl | with_reducible apply Dev.KeepsBut.then (Dev.setFld_keeps _ _ _ _ _) | with_reducible apply Dev.KeepsBut.then (Dev.setFlag_keeps _ _ _ _) | (with_reducible apply Dev.KeepsBut.foldl; intro _ _) | (with_reducible apply Dev.KeepsBut.foldl_snd; intro _ _) | with_reducible apply Dev.keeps_link | simp only [Dev.keeps_mk] | split | decide | (with_reducible intro _) | (dsimp only)

theorem Dev.setRate_keeps (d : Dev) (r : Int) : d.KeepsBut [.link] (Dev.setRate d r) := by
  unfold Dev.setRate
  try dsimp only
  repeat' first | with_reducible apply Dev.KeepsBut.refl | (with_reducible apply Dev.KeepsBut.foldl; intro _ _) | (with_reducible apply Dev.KeepsBut.foldl_snd; intro _ _) | with_reducible apply Dev.keeps_link | simp only [Dev.keeps_mk] | split | decide | (with_reducible intro _) | (dsimp only)

theorem Dev.refreshTime_keeps (d : Dev) : d.KeepsBut [.regs, .link] (Dev.refreshTime d) := by
  unfold Dev.refreshTime
  try dsimp only
  repeat' first | with_reducible apply Dev.KeepsBut.refl | with_reducible apply Dev.KeepsBut.then (Dev.setNum_keeps _ _ _) | with_reducible apply Dev.KeepsBut.then (Dev.raise_keeps _ _ _) | with_reducible apply Dev.KeepsBut.then (Dev.drop_keeps _ _ _) | with_reducible apply Dev.KeepsBut.then (Dev.setSrcPort_keeps _ _) | with_reducible apply Dev.KeepsBut.then (Dev.setRate_keeps _ _) | (with_reducible apply Dev.KeepsBut.foldl; intro _ _) | (with_reducible apply Dev.KeepsBut.foldl_snd; intro _ _) | split | decide | (with_reducible intro _) | (dsimp only)

theorem Dev.setTimeGood_keeps (d : Dev) (good : Bool) : d.KeepsBut [.regs] (Dev.setTimeGood d good) := by
  unfold Dev.setTimeGood
  try dsimp only
  repeat' first | with_reducible apply Dev.KeepsBut.refl | with_reducible apply Dev.KeepsBut.then (Dev.setFlag_keeps _ _ _ _) | with_reducible apply Dev.KeepsBut.then (Dev.err_keeps _ _ _) | with_reducible apply Dev.KeepsBut.then (Dev.irq_keeps _ _ _) | with_reducible apply Dev.KeepsBut.then (Dev.setDegraded_keeps _ _ _) | (with_reducible apply Dev.KeepsBut.foldl; intro _ _) | (with_reducible apply Dev.KeepsBut.foldl_snd; intro _ _) | split | decide | (with_reducible intro _) | (dsimp only)

theorem Dev.setPortState_keeps (d : Dev) (p : Nat) (st : Nat) : d.KeepsBut [.regs, .link] (Dev.setPortState d p st) := by
  unfold Dev.setPortState
  try dsimp only
  repeat' first | with_reducible apply Dev.KeepsBut.refl | with_reducible apply Dev.KeepsBut.then (Dev.setFld_keeps _ _ _ _ _) | with_reducible apply Dev.KeepsBut.then (Dev.irq_keeps _ _ _) | with_reducible apply Dev.KeepsBut.then (Dev.setReady_keeps _ _ _) | with_reducible apply Dev.KeepsBut.then (Dev.setDegraded_keeps _ _ _) | with_reducible apply Dev.KeepsBut.then (Dev.pump_keeps _ _) | with_reducible apply Dev.KeepsBut.then (Dev.refreshTime_keeps _) | (with_reducible apply Dev.KeepsBut.foldl; intro _ _) | (with_reducible apply Dev.KeepsBut.foldl_snd; intro _ _) | split | decide | (with_reducible intro _) | (dsimp only)

theorem Dev.fallDark_keeps (d : Dev) (p : Nat) : d.KeepsBut [.regs, .dram, .cricket, .link, .freeCtr] (Dev.fallDark d p) := by
  unfold Dev.fallDark
  try dsimp only
  repeat' first | with_reducible apply Dev.KeepsBut.refl | with_reducible apply Dev.KeepsBut.then (Dev.err_keeps _ _ _) | with_reducible apply Dev.KeepsBut.then (Dev.endLong_keeps _ _ _) | with_reducible apply Dev.KeepsBut.then (Dev.dropFlitState_keeps _ _) | with_reducible apply Dev.KeepsBut.then (Dev.failTable_keeps _ _ _) | with_reducible apply Dev.KeepsBut.then (Dev.failHeld_keeps _ _ _) | with_reducible apply Dev.KeepsBut.then (Dev.setPortState_keeps _ _ _) | (with_reducible apply Dev.KeepsBut.foldl; intro _ _) | (with_reducible apply Dev.KeepsBut.foldl_snd; intro _ _) | split | decide | (with_reducible intro _) | (dsimp only)

theorem Dev.startTrain_keeps (d : Dev) (p : Nat) (k : Nat) : d.KeepsBut [.regs, .link] (Dev.startTrain d p k) := by
  unfold Dev.startTrain
  try dsimp only
  repeat' first | with_reducible apply Dev.KeepsBut.refl | with_reducible apply Dev.KeepsBut.then (Dev.countSat_keeps _ _ _) | with_reducible apply Dev.KeepsBut.then (Dev.startLong_keeps _ _ _) | with_reducible apply Dev.KeepsBut.then (Dev.setPort_keeps _ _ _) | with_reducible apply Dev.KeepsBut.then (Dev.setPortState_keeps _ _ _) | (with_reducible apply Dev.KeepsBut.foldl; intro _ _) | (with_reducible apply Dev.KeepsBut.foldl_snd; intro _ _) | split | decide | (with_reducible intro _) | (dsimp only)

theorem Dev.linkSignalDetect_keeps (d : Dev) (p : Nat) (reversed : Bool) : d.KeepsBut [.regs, .link] (Dev.linkSignalDetect d p reversed) := by
  unfold Dev.linkSignalDetect
  try dsimp only
  repeat' first | with_reducible apply Dev.KeepsBut.refl | with_reducible apply Dev.KeepsBut.then (Dev.setFlag_keeps _ _ _ _) | with_reducible apply Dev.KeepsBut.then (Dev.startTrain_keeps _ _ _) | (with_reducible apply Dev.KeepsBut.foldl; intro _ _) | (with_reducible apply Dev.KeepsBut.foldl_snd; intro _ _) | split | decide | (with_reducible intro _) | (dsimp only)

theorem Dev.trainDone_keeps (d : Dev) (p : Nat) : d.KeepsBut [.regs, .link] (Dev.trainDone d p) := by
  unfold Dev.trainDone
  try dsimp only
  repeat' first | with_reducible apply Dev.KeepsBut.refl | with_reducible apply Dev.KeepsBut.then (Dev.endLong_keeps _ _ _) | with_reducible apply Dev.KeepsBut.then (Dev.setPort_keeps _ _ _) | with_reducible apply Dev.KeepsBut.then (Dev.setPortState_keeps _ _ _) | (with_reducible apply Dev.KeepsBut.foldl; intro _ _) | (with_reducible apply Dev.KeepsBut.foldl_snd; intro _ _) | split | decide | (with_reducible intro _) | (dsimp only)

theorem Dev.trainStepPass_keeps (d : Dev) (p : Nat) (lanes : Byte) (polinv : Byte) : d.KeepsBut [.regs, .link] (Dev.trainStepPass d p lanes polinv) := by
  unfold Dev.trainStepPass
  try dsimp only
  repeat' first | with_reducible apply Dev.KeepsBut.refl | with_reducible apply Dev.KeepsBut.then (Dev.setFld_keeps _ _ _ _ _) | with_reducible apply Dev.KeepsBut.then (Dev.position_keeps _ _ _) | with_reducible apply Dev.KeepsBut.then (Dev.setPort_keeps _ _ _) | with_reducible apply Dev.KeepsBut.then (Dev.trainDone_keeps _ _) | (with_reducible apply Dev.KeepsBut.foldl; intro _ _) | (with_reducible apply Dev.KeepsBut.foldl_snd; intro _ _) | split | decide | (with_reducible intro _) | (dsimp only)

theorem Dev.trainStepLimit_keeps (d : Dev) (p : Nat) : d.KeepsBut [.regs, .dram, .cricket, .link, .freeCtr] (Dev.trainStepLimit d p) := by
  unfold Dev.trainStepLimit
  try dsimp only
  repeat' first | with_reducible apply Dev.KeepsBut.refl | with_reducible apply Dev.KeepsBut.then (Dev.fallDark_keeps _ _) | (with_reducible apply Dev.KeepsBut.foldl; intro _ _) | (with_reducible apply Dev.KeepsBut.foldl_snd; intro _ _) | split | decide | (with_reducible intro _) | (dsimp only)

theorem Dev.linkEnergyLoss_keeps (d : Dev) (p : Nat) : d.KeepsBut [.regs, .dram, .cricket, .link, .freeCtr] (Dev.linkEnergyLoss d p) := by
  unfold Dev.linkEnergyLoss
  try dsimp only
  repeat' first | with_reducible apply Dev.KeepsBut.refl | with_reducible apply Dev.KeepsBut.then (Dev.fallDark_keeps _ _) | (with_reducible apply Dev.KeepsBut.foldl; intro _ _) | (with_reducible apply Dev.KeepsBut.foldl_snd; intro _ _) | split | decide | (with_reducible intro _) | (dsimp only)

theorem Dev.identExchange_keeps (d : Dev) (p : Nat) (rank : Nat) (port : Nat) (dist : Nat) (valid : Bool) : d.KeepsBut [.regs, .link] (Dev.identExchange d p rank port dist valid) := by
  unfold Dev.identExchange
  try dsimp only
  repeat' first | with_reducible apply Dev.KeepsBut.refl | with_reducible apply Dev.KeepsBut.then (Dev.setNum64_keeps _ _ _) | with_reducible apply Dev.KeepsBut.then (Dev.setFld_keeps _ _ _ _ _) | with_reducible apply Dev.KeepsBut.then (Dev.setPortState_keeps _ _ _) | (with_reducible apply Dev.KeepsBut.foldl; intro _ _) | (with_reducible apply Dev.KeepsBut.foldl_snd; intro _ _) | split | decide | (with_reducible intro _) | (dsimp only)

theorem Dev.enterRecovery_keeps (d : Dev) (p : Nat) : d.KeepsBut [.regs, .link] (Dev.enterRecovery d p) := by
  unfold Dev.enterRecovery
  try dsimp only
  repeat' first | with_reducible apply Dev.KeepsBut.refl | with_reducible apply Dev.KeepsBut.then (Dev.countSat_keeps _ _ _) | with_reducible apply Dev.KeepsBut.then (Dev.err_keeps _ _ _) | with_reducible apply Dev.KeepsBut.then (Dev.setPortState_keeps _ _ _) | (with_reducible apply Dev.KeepsBut.foldl; intro _ _) | (with_reducible apply Dev.KeepsBut.foldl_snd; intro _ _) | split | decide | (with_reducible intro _) | (dsimp only)

theorem Dev.codewordLockLoss_keeps (d : Dev) (p : Nat) : d.KeepsBut [.regs, .dram, .cricket, .link, .freeCtr] (Dev.codewordLockLoss d p) := by
  unfold Dev.codewordLockLoss
  try dsimp only
  repeat' first | with_reducible apply Dev.KeepsBut.refl | with_reducible apply Dev.KeepsBut.then (Dev.fallDark_keeps _ _) | with_reducible apply Dev.KeepsBut.then (Dev.enterRecovery_keeps _ _) | (with_reducible apply Dev.KeepsBut.foldl; intro _ _) | (with_reducible apply Dev.KeepsBut.foldl_snd; intro _ _) | split | decide | (with_reducible intro _) | (dsimp only)

theorem Dev.startReplay_keeps (d : Dev) (p : Nat) : d.KeepsBut [.regs, .link] (Dev.startReplay d p) := by
  unfold Dev.startReplay
  try dsimp only
  repeat' first | with_reducible apply Dev.KeepsBut.refl | with_reducible apply Dev.KeepsBut.then (Dev.countSat_keeps _ _ _) | with_reducible apply Dev.KeepsBut.then (Dev.count64_keeps _ _ _) | with_reducible apply Dev.KeepsBut.then (Dev.setPort_keeps _ _ _) | (with_reducible apply Dev.KeepsBut.foldl; intro _ _) | (with_reducible apply Dev.KeepsBut.foldl_snd; intro _ _) | split | decide | (with_reducible intro _) | (dsimp only)

theorem Dev.sendNak_keeps (d : Dev) (p : Nat) : d.KeepsBut [.link] (Dev.sendNak d p) := by
  unfold Dev.sendNak
  try dsimp only
  repeat' first | with_reducible apply Dev.KeepsBut.refl | with_reducible apply Dev.KeepsBut.then (Dev.setPort_keeps _ _ _) | (with_reducible apply Dev.KeepsBut.foldl; intro _ _) | (with_reducible apply Dev.KeepsBut.foldl_snd; intro _ _) | split | decide | (with_reducible intro _) | (dsimp only)

theorem Dev.recoveryLockRegained_keeps (d : Dev) (p : Nat) (expected : Nat) : d.KeepsBut [.regs, .link] (Dev.recoveryLockRegained d p expected) := by
  unfold Dev.recoveryLockRegained
  try dsimp only
  repeat' first | with_reducible apply Dev.KeepsBut.refl | with_reducible apply Dev.KeepsBut.then (Dev.setPort_keeps _ _ _) | with_reducible apply Dev.KeepsBut.then (Dev.setPortState_keeps _ _ _) | with_reducible apply Dev.KeepsBut.then (Dev.startReplay_keeps _ _) | with_reducible apply Dev.KeepsBut.then (Dev.sendNak_keeps _ _) | (with_reducible apply Dev.KeepsBut.foldl; intro _ _) | (with_reducible apply Dev.KeepsBut.foldl_snd; intro _ _) | split | decide | (with_reducible intro _) | (dsimp only)

theorem Dev.recoveryTimeout_keeps (d : Dev) (p : Nat) : d.KeepsBut [.regs, .link] (Dev.recoveryTimeout d p) := by
  unfold Dev.recoveryTimeout
  try dsimp only
  repeat' first | with_reducible apply Dev.KeepsBut.refl | with_reducible apply Dev.KeepsBut.then (Dev.err_keeps _ _ _) | with_reducible apply Dev.KeepsBut.then (Dev.setPort_keeps _ _ _) | with_reducible apply Dev.KeepsBut.then (Dev.dropFlitState_keeps _ _) | with_reducible apply Dev.KeepsBut.then (Dev.startTrain_keeps _ _ _) | (with_reducible apply Dev.KeepsBut.foldl; intro _ _) | (with_reducible apply Dev.KeepsBut.foldl_snd; intro _ _) | split | decide | (with_reducible intro _) | (dsimp only)

theorem Dev.replayBufferUe_keeps (d : Dev) (p : Nat) : d.KeepsBut [.regs, .dram, .cricket, .link, .freeCtr] (Dev.replayBufferUe d p) := by
  unfold Dev.replayBufferUe
  try dsimp only
  repeat' first | with_reducible apply Dev.KeepsBut.refl | with_reducible apply Dev.KeepsBut.then (Dev.setFault_keeps _ _) | with_reducible apply Dev.KeepsBut.then (Dev.endLong_keeps _ _ _) | with_reducible apply Dev.KeepsBut.then (Dev.dropFlitState_keeps _ _) | with_reducible apply Dev.KeepsBut.then (Dev.failTable_keeps _ _ _) | with_reducible apply Dev.KeepsBut.then (Dev.failHeld_keeps _ _ _) | with_reducible apply Dev.KeepsBut.then (Dev.setPortState_keeps _ _ _) | (with_reducible apply Dev.KeepsBut.foldl; intro _ _) | (with_reducible apply Dev.KeepsBut.foldl_snd; intro _ _) | split | decide | (with_reducible intro _) | (dsimp only)

theorem Dev.lnkEnable_keeps (d : Dev) (p : Nat) (on : Bool) : d.KeepsBut [.regs, .dram, .cricket, .link, .freeCtr] (Dev.lnkEnable d p on) := by
  unfold Dev.lnkEnable
  try dsimp only
  repeat' first | with_reducible apply Dev.KeepsBut.refl | with_reducible apply Dev.KeepsBut.then (Dev.endLong_keeps _ _ _) | with_reducible apply Dev.KeepsBut.then (Dev.dropFlitState_keeps _ _) | with_reducible apply Dev.KeepsBut.then (Dev.failTable_keeps _ _ _) | with_reducible apply Dev.KeepsBut.then (Dev.failHeld_keeps _ _ _) | with_reducible apply Dev.KeepsBut.then (Dev.setPortState_keeps _ _ _) | (with_reducible apply Dev.KeepsBut.foldl; intro _ _) | (with_reducible apply Dev.KeepsBut.foldl_snd; intro _ _) | split | decide | (with_reducible intro _) | (dsimp only)

theorem Dev.takeHeader_keeps (d : Dev) (p : Nat) (h : FlitHdr) : d.KeepsBut [.link] (Dev.takeHeader d p h) := by
  unfold Dev.takeHeader
  try dsimp only
  repeat' first | with_reducible apply Dev.KeepsBut.refl | with_reducible apply Dev.KeepsBut.then (Dev.setPort_keeps _ _ _) | (with_reducible apply Dev.KeepsBut.foldl; intro _ _) | (with_reducible apply Dev.KeepsBut.foldl_snd; intro _ _) | split | decide | (with_reducible intro _) | (dsimp only)

theorem Dev.discard_keeps (d : Dev) (p : Nat) : d.KeepsBut [.link] (Dev.discard d p) := by
  unfold Dev.discard
  try dsimp only
  repeat' first | with_reducible apply Dev.KeepsBut.refl | with_reducible apply Dev.KeepsBut.then (Dev.setPort_keeps _ _ _) | with_reducible apply Dev.KeepsBut.then (Dev.sendNak_keeps _ _) | (with_reducible apply Dev.KeepsBut.foldl; intro _ _) | (with_reducible apply Dev.KeepsBut.foldl_snd; intro _ _) | split | decide | (with_reducible intro _) | (dsimp only)

theorem Dev.flitBad_keeps (d : Dev) (p : Nat) : d.KeepsBut [.regs, .link] (Dev.flitBad d p) := by
  unfold Dev.flitBad
  try dsimp only
  repeat' first | with_reducible apply Dev.KeepsBut.refl | with_reducible apply Dev.KeepsBut.then (Dev.countSat_keeps _ _ _) | with_reducible apply Dev.KeepsBut.then (Dev.err_keeps _ _ _) | with_reducible apply Dev.KeepsBut.then (Dev.discard_keeps _ _) | (with_reducible apply Dev.KeepsBut.foldl; intro _ _) | (with_reducible apply Dev.KeepsBut.foldl_snd; intro _ _) | split | decide | (with_reducible intro _) | (dsimp only)

theorem Dev.acceptFlit_keeps (d : Dev) (p : Nat) (body : List Byte) : d.KeepsBut [.regs, .link] (Dev.acceptFlit d p body).1 := by
  unfold Dev.acceptFlit
  try dsimp only
  repeat' first | with_reducible apply Dev.KeepsBut.refl | with_reducible apply Dev.KeepsBut.then (Dev.drop_keeps _ _ _) | with_reducible apply Dev.KeepsBut.then (Dev.count64_keeps _ _ _) | with_reducible apply Dev.KeepsBut.then (Dev.setPort_keeps _ _ _) | (with_reducible apply Dev.KeepsBut.foldl; intro _ _) | (with_reducible apply Dev.KeepsBut.foldl_snd; intro _ _) | split | decide | (with_reducible intro _) | (dsimp only)

theorem Dev.flitIdle_keeps (d : Dev) (p : Nat) (h : FlitHdr) (intact : Bool) : d.KeepsBut [.regs, .link] (Dev.flitIdle d p h intact) := by
  unfold Dev.flitIdle
  try dsimp only
  repeat' first | with_reducible apply Dev.KeepsBut.refl | with_reducible apply Dev.KeepsBut.then (Dev.pump_keeps _ _) | with_reducible apply Dev.KeepsBut.then (Dev.takeHeader_keeps _ _ _) | with_reducible apply Dev.KeepsBut.then (Dev.flitBad_keeps _ _) | (with_reducible apply Dev.KeepsBut.foldl; intro _ _) | (with_reducible apply Dev.KeepsBut.foldl_snd; intro _ _) | split | decide | (with_reducible intro _) | (dsimp only)

theorem Dev.flitNak_keeps (d : Dev) (p : Nat) (h : FlitHdr) (intact : Bool) : d.KeepsBut [.regs, .link] (Dev.flitNak d p h intact) := by
  unfold Dev.flitNak
  try dsimp only
  repeat' first | with_reducible apply Dev.KeepsBut.refl | with_reducible apply Dev.KeepsBut.then (Dev.setPort_keeps _ _ _) | with_reducible apply Dev.KeepsBut.then (Dev.enterRecovery_keeps _ _) | with_reducible apply Dev.KeepsBut.then (Dev.startReplay_keeps _ _) | with_reducible apply Dev.KeepsBut.then (Dev.flitBad_keeps _ _) | (with_reducible apply Dev.KeepsBut.foldl; intro _ _) | (with_reducible apply Dev.KeepsBut.foldl_snd; intro _ _) | split | decide | (with_reducible intro _) | (dsimp only)

theorem Dev.ackTimeout_keeps (d : Dev) (p : Nat) : d.KeepsBut [.regs, .link] (Dev.ackTimeout d p) := by
  unfold Dev.ackTimeout
  try dsimp only
  repeat' first | with_reducible apply Dev.KeepsBut.refl | with_reducible apply Dev.KeepsBut.then (Dev.startReplay_keeps _ _) | (with_reducible apply Dev.KeepsBut.foldl; intro _ _) | (with_reducible apply Dev.KeepsBut.foldl_snd; intro _ _) | split | decide | (with_reducible intro _) | (dsimp only)

theorem Dev.replayEnd_keeps (d : Dev) (p : Nat) : d.KeepsBut [.regs, .link] (Dev.replayEnd d p) := by
  unfold Dev.replayEnd
  try dsimp only
  repeat' first | with_reducible apply Dev.KeepsBut.refl | with_reducible apply Dev.KeepsBut.then (Dev.setPort_keeps _ _ _) | with_reducible apply Dev.KeepsBut.then (Dev.pump_keeps _ _) | (with_reducible apply Dev.KeepsBut.foldl; intro _ _) | (with_reducible apply Dev.KeepsBut.foldl_snd; intro _ _) | split | decide | (with_reducible intro _) | (dsimp only)

theorem Dev.requestTimeout_keeps (d : Dev) (p : Option (Fin 24)) (tag : Nat) : d.KeepsBut [.regs, .dram, .cricket, .link, .freeCtr] (Dev.requestTimeout d p tag) := by
  unfold Dev.requestTimeout
  try dsimp only
  repeat' first | with_reducible apply Dev.KeepsBut.refl | with_reducible apply Dev.KeepsBut.then (Dev.countSat_keeps _ _ _) | with_reducible apply Dev.KeepsBut.then (Dev.err_keeps _ _ _) | with_reducible apply Dev.KeepsBut.then (Dev.beatFail_keeps _ _ _ _) | with_reducible apply Dev.KeepsBut.then (Dev.releaseSync_keeps _ _) | with_reducible apply Dev.KeepsBut.then (Dev.setTable_keeps _ _ _) | (with_reducible apply Dev.KeepsBut.foldl; intro _ _) | (with_reducible apply Dev.KeepsBut.foldl_snd; intro _ _) | split | decide | (with_reducible intro _) | (dsimp only)

theorem Dev.timeSyncSend_keeps (d : Dev) (p : Nat) (t1 : Nat) : d.KeepsBut [.regs, .link] (Dev.timeSyncSend d p t1) := by
  unfold Dev.timeSyncSend
  try dsimp only
  repeat' first | with_reducible apply Dev.KeepsBut.refl | with_reducible apply Dev.KeepsBut.then (Dev.pushTxn_keeps _ _ _) | (with_reducible apply Dev.KeepsBut.foldl; intro _ _) | (with_reducible apply Dev.KeepsBut.foldl_snd; intro _ _) | split | decide | (with_reducible intro _) | (dsimp only)

theorem Dev.offer_keeps (d : Dev) (p : Nat) : d.KeepsBut [.regs, .link] (Dev.offer d p) := by
  unfold Dev.offer
  try dsimp only
  repeat' first | with_reducible apply Dev.KeepsBut.refl | with_reducible apply Dev.KeepsBut.then (Dev.setSrcPort_keeps _ _) | (with_reducible apply Dev.KeepsBut.foldl; intro _ _) | (with_reducible apply Dev.KeepsBut.foldl_snd; intro _ _) | with_reducible apply Dev.keeps_link | simp only [Dev.keeps_mk] | split | decide | (with_reducible intro _) | (dsimp only)

theorem Dev.timeSync_keeps (d : Dev) (p : Nat) (t : Txn) (t2 : Nat) (t3 : Nat) : d.KeepsBut [.regs, .link] (Dev.timeSync d p t t2 t3) := by
  unfold Dev.timeSync
  try dsimp only
  repeat' first | with_reducible apply Dev.KeepsBut.refl | with_reducible apply Dev.KeepsBut.then (Dev.setFld_keeps _ _ _ _ _) | with_reducible apply Dev.KeepsBut.then (Dev.err_keeps _ _ _) | with_reducible apply Dev.KeepsBut.then (Dev.pushTxn_keeps _ _ _) | with_reducible apply Dev.KeepsBut.then (Dev.refreshTime_keeps _) | with_reducible apply Dev.KeepsBut.then (Dev.offer_keeps _ _) | (with_reducible apply Dev.KeepsBut.foldl; intro _ _) | (with_reducible apply Dev.KeepsBut.foldl_snd; intro _ _) | with_reducible apply Dev.keeps_link | simp only [Dev.keeps_mk] | split | decide | (with_reducible intro _) | (dsimp only)

theorem Dev.timeDelayreq_keeps (d : Dev) (p : Nat) (t : Txn) (t4 : Nat) : d.KeepsBut [.regs, .link] (Dev.timeDelayreq d p t t4) := by
  unfold Dev.timeDelayreq
  try dsimp only
  repeat' first | with_reducible apply Dev.KeepsBut.refl | with_reducible apply Dev.KeepsBut.then (Dev.pushTxn_keeps _ _ _) | (with_reducible apply Dev.KeepsBut.foldl; intro _ _) | (with_reducible apply Dev.KeepsBut.foldl_snd; intro _ _) | split | decide | (with_reducible intro _) | (dsimp only)

theorem Dev.timeDelayresp_keeps (d : Dev) (p : Nat) (t : Txn) : d.KeepsBut [.regs, .link, .freeCtr] (Dev.timeDelayresp d p t) := by
  unfold Dev.timeDelayresp
  try dsimp only
  repeat' first | with_reducible apply Dev.KeepsBut.refl | with_reducible apply Dev.KeepsBut.then (Dev.setFld_keeps _ _ _ _ _) | with_reducible apply Dev.KeepsBut.then (Dev.setNow_keeps _ _) | with_reducible apply Dev.KeepsBut.then (Dev.freshNat_keeps _) | with_reducible apply Dev.KeepsBut.then (Dev.setRate_keeps _ _) | with_reducible apply Dev.KeepsBut.then (Dev.setTimeGood_keeps _ _) | (with_reducible apply Dev.KeepsBut.foldl; intro _ _) | (with_reducible apply Dev.KeepsBut.foldl_snd; intro _ _) | split | decide | (with_reducible intro _) | (dsimp only)

theorem Dev.writeRoutedata_keeps (d : Dev) (v : Word) : d.KeepsBut [.regs, .link] (Dev.writeRoutedata d v) := by
  unfold Dev.writeRoutedata
  try dsimp only
  repeat' first | with_reducible apply Dev.KeepsBut.refl | with_reducible apply Dev.KeepsBut.then (Dev.setNum_keeps _ _ _) | (with_reducible apply Dev.KeepsBut.foldl; intro _ _) | (with_reducible apply Dev.KeepsBut.foldl_snd; intro _ _) | with_reducible apply Dev.keeps_link | simp only [Dev.keeps_mk] | split | decide | (with_reducible intro _) | (dsimp only)

theorem Dev.routeSelect_keeps (d : Dev) : d.KeepsBut [.link] (Dev.routeSelect d) := by
  unfold Dev.routeSelect
  try dsimp only
  repeat' first | with_reducible apply Dev.KeepsBut.refl | (with_reducible apply Dev.KeepsBut.foldl; intro _ _) | (with_reducible apply Dev.KeepsBut.foldl_snd; intro _ _) | with_reducible apply Dev.keeps_link | simp only [Dev.keeps_mk] | split | decide | (with_reducible intro _) | (dsimp only)

end Sys2Proof.Machine
end

