-- ==== Sys2Proof/Laws/KeepsMarker.lean ====
section
/-!
SUPPORT. Which parts of the device the operations of Machine/Marker.lean may change.
-/
namespace Sys2Proof.Machine

theorem Dev.pushAll_keeps (d : Dev) (t : Txn) (but : Option Nat) : d.KeepsBut [.regs, .link] (Dev.pushAll d t but) := by
  unfold Dev.pushAll
  try dsimp only
  repeat' first | with_reducible apply Dev.KeepsBut.refl | with_reducible apply Dev.KeepsBut.then (Dev.pushTxn_keeps _ _ _) | (with_reducible apply Dev.KeepsBut.foldl; intro _ _) | (with_reducible apply Dev.KeepsBut.foldl_snd; intro _ _) | split | decide | (with_reducible intro _) | (dsimp only)

theorem Dev.noteMarker_keeps (d : Dev) (t : Txn) : d.KeepsBut [.cricket] (Dev.noteMarker d t) := by
  unfold Dev.noteMarker
  try dsimp only
  repeat' first | with_reducible apply Dev.KeepsBut.refl | (with_reducible apply Dev.KeepsBut.foldl; intro _ _) | (with_reducible apply Dev.KeepsBut.foldl_snd; intro _ _) | with_reducible apply Dev.keeps_cricket | simp only [Dev.keeps_mk] | split | decide | (with_reducible intro _) | (dsimp only)

theorem Dev.sendMarker_keeps (d : Dev) (t : Txn) : d.KeepsBut [.regs, .cricket, .link] (Dev.sendMarker d t) := by
  unfold Dev.sendMarker
  try dsimp only
  repeat' first | with_reducible apply Dev.KeepsBut.refl | with_reducible apply Dev.KeepsBut.then (Dev.pushAll_keeps _ _ _) | with_reducible apply Dev.KeepsBut.then (Dev.noteMarker_keeps _ _) | (with_reducible apply Dev.KeepsBut.foldl; intro _ _) | (with_reducible apply Dev.KeepsBut.foldl_snd; intro _ _) | split | decide | (with_reducible intro _) | (dsimp only)

theorem Dev.takeHold_keeps (d : Dev) (job : Word) (n : Nat) : d.KeepsBut [.regs, .dram, .cricket, .freeCtr] (Dev.takeHold d job n) := by
  unfold Dev.takeHold
  try dsimp only
  repeat' first | with_reducible apply Dev.KeepsBut.refl | with_reducible apply Dev.KeepsBut.then (Dev.err_keeps _ _ _) | with_reducible apply Dev.KeepsBut.then (Dev.beatFail_keeps _ _ _ _) | (with_reducible apply Dev.KeepsBut.foldl; intro _ _) | (with_reducible apply Dev.KeepsBut.foldl_snd; intro _ _) | with_reducible apply Dev.keeps_cricket | ((with_reducible apply Dev.keeps_mk_module); (case g => intro p hp; cases p <;> first | exact absurd hp (by decide) | rfl)) | ((with_reducible apply Dev.keeps_mk_bus); (case g => intro p hp; cases p <;> first | exact absurd hp (by decide) | rfl)) | ((with_reducible apply Dev.keeps_mk_power); (case g => intro p hp; cases p <;> first | exact absurd hp (by decide) | rfl)) | simp only [Dev.keeps_mk] | split | decide | (with_reducible intro _) | (dsimp only)

theorem Dev.takeStop_keeps (d : Dev) (t : Txn) : d.KeepsBut [.cricket] (Dev.takeStop d t) := by
  unfold Dev.takeStop
  try dsimp only
  repeat' first | with_reducible apply Dev.KeepsBut.refl | (with_reducible apply Dev.KeepsBut.foldl; intro _ _) | (with_reducible apply Dev.KeepsBut.foldl_snd; intro _ _) | with_reducible apply Dev.keeps_cricket | simp only [Dev.keeps_mk] | split | decide | (with_reducible intro _) | (dsimp only)

theorem Dev.beatMark_keeps (d : Dev) (p : Nat) (t : Txn) : d.KeepsBut [.regs, .dram, .cricket, .link, .freeCtr] (Dev.beatMark d p t) := by
  unfold Dev.beatMark
  try dsimp only
  repeat' first | with_reducible apply Dev.KeepsBut.refl | with_reducible apply Dev.KeepsBut.then (Dev.countSat_keeps _ _ _) | with_reducible apply Dev.KeepsBut.then (Dev.err_keeps _ _ _) | with_reducible apply Dev.KeepsBut.then (Dev.hopLimit_keeps _ _) | with_reducible apply Dev.KeepsBut.then (Dev.pushAll_keeps _ _ _) | with_reducible apply Dev.KeepsBut.then (Dev.noteMarker_keeps _ _) | with_reducible apply Dev.KeepsBut.then (Dev.takeHold_keeps _ _ _) | with_reducible apply Dev.KeepsBut.then (Dev.takeStop_keeps _ _) | (with_reducible apply Dev.KeepsBut.foldl; intro _ _) | (with_reducible apply Dev.KeepsBut.foldl_snd; intro _ _) | split | decide | (with_reducible intro _) | (dsimp only)

theorem Dev.takeCtl_keeps (p : Nat) (d : Dev) (t : Txn) : d.KeepsBut [.regs, .dram, .cricket, .link, .freeCtr] (Dev.takeCtl p d t) := by
  unfold Dev.takeCtl
  try dsimp only
  repeat' first | with_reducible apply Dev.KeepsBut.refl | with_reducible apply Dev.KeepsBut.then (Dev.err_keeps _ _ _) | with_reducible apply Dev.KeepsBut.then (Dev.freshNat_keeps _) | with_reducible apply Dev.KeepsBut.then (Dev.timeSync_keeps _ _ _ _ _) | with_reducible apply Dev.KeepsBut.then (Dev.timeDelayreq_keeps _ _ _ _) | with_reducible apply Dev.KeepsBut.then (Dev.timeDelayresp_keeps _ _ _) | with_reducible apply Dev.KeepsBut.then (Dev.beatMark_keeps _ _ _) | (with_reducible apply Dev.KeepsBut.foldl; intro _ _) | (with_reducible apply Dev.KeepsBut.foldl_snd; intro _ _) | split | decide | (with_reducible intro _) | (dsimp only)

theorem Dev.flitData_keeps (d : Dev) (p : Nat) (h : FlitHdr) (intact : Bool) (body : List Byte) : d.KeepsBut [.regs, .dram, .cricket, .link, .freeCtr] (Dev.flitData d p h intact body) := by
  unfold Dev.flitData
  try dsimp only
  repeat' first | with_reducible apply Dev.KeepsBut.refl | with_reducible apply Dev.KeepsBut.then (Dev.pump_keeps _ _) | with_reducible apply Dev.KeepsBut.then (Dev.takeHeader_keeps _ _ _) | with_reducible apply Dev.KeepsBut.then (Dev.flitBad_keeps _ _) | with_reducible apply Dev.KeepsBut.then (Dev.acceptFlit_keeps _ _ _) | with_reducible apply Dev.KeepsBut.then (Dev.takeCtl_keeps _ _ _) | (with_reducible apply Dev.KeepsBut.foldl; intro _ _) | (with_reducible apply Dev.KeepsBut.foldl_snd; intro _ _) | split | decide | (with_reducible intro _) | (dsimp only)

end Sys2Proof.Machine
end

