-- ==== Sys2Proof/Laws/KeepsOperands.lean ====
section
/-!
SUPPORT. Which parts of the device the operations of Machine/Operands.lean may change.
-/
namespace Sys2Proof.Machine

theorem Dev.signal_keeps (d : Dev) (o : Nat) (inc : Nat) : d.KeepsBut [.regs] (Dev.signal d o inc) := by
  unfold Dev.signal
  try dsimp only
  repeat' first | with_reducible apply Dev.KeepsBut.refl | with_reducible apply Dev.KeepsBut.then (Dev.setNum_keeps _ _ _) | with_reducible apply Dev.KeepsBut.then (Dev.countSat_keeps _ _ _) | with_reducible apply Dev.KeepsBut.then (Dev.absorb_keeps _) | (with_reducible apply Dev.KeepsBut.foldl; intro _ _) | (with_reducible apply Dev.KeepsBut.foldl_snd; intro _ _) | split | decide | (with_reducible intro _) | (dsimp only)

theorem Dev.applySignal_keeps (d : Dev) (bs : List Byte) : d.KeepsBut [.regs] (Dev.applySignal d bs) := by
  unfold Dev.applySignal
  try dsimp only
  repeat' first | with_reducible apply Dev.KeepsBut.refl | with_reducible apply Dev.KeepsBut.then (Dev.signal_keeps _ _ _) | (with_reducible apply Dev.KeepsBut.foldl; intro _ _) | (with_reducible apply Dev.KeepsBut.foldl_snd; intro _ _) | split | decide | (with_reducible intro _) | (dsimp only)

theorem Dev.failWord_keeps (d : Dev) (w : Nat) : d.KeepsBut [.regs, .dram, .cricket, .freeCtr] (Dev.failWord d w) := by
  unfold Dev.failWord
  try dsimp only
  repeat' first | with_reducible apply Dev.KeepsBut.refl | with_reducible apply Dev.KeepsBut.then (Dev.errData_keeps _ _ _) | with_reducible apply Dev.KeepsBut.then (Dev.beatFail_keeps _ _ _ _) | (with_reducible apply Dev.KeepsBut.foldl; intro _ _) | (with_reducible apply Dev.KeepsBut.foldl_snd; intro _ _) | split | decide | (with_reducible intro _) | (dsimp only)

theorem Dev.csRead_keeps (d : Dev) (x : Nat) (off : Nat) (n : Nat) : d.KeepsBut [.regs, .dram, .cricket, .freeCtr] (Dev.csRead d x off n).2 := by
  unfold Dev.csRead
  try dsimp only
  repeat' first | with_reducible apply Dev.KeepsBut.refl | with_reducible apply Dev.KeepsBut.then (Dev.failWord_keeps _ _) | (with_reducible apply Dev.KeepsBut.foldl; intro _ _) | (with_reducible apply Dev.KeepsBut.foldl_snd; intro _ _) | split | decide | (with_reducible intro _) | (dsimp only)

theorem Dev.csPut_keeps (d : Dev) (x : Nat) (off : Nat) (bs : List Byte) : d.KeepsBut [.massif] (Dev.csPut d x off bs) := by
  unfold Dev.csPut
  try dsimp only
  repeat' first | with_reducible apply Dev.KeepsBut.refl | (with_reducible apply Dev.KeepsBut.foldl; intro _ _) | (with_reducible apply Dev.KeepsBut.foldl_snd; intro _ _) | with_reducible apply Dev.keeps_massif | simp only [Dev.keeps_mk] | split | decide | (with_reducible intro _) | (dsimp only)

theorem Dev.csWrite_keeps (d : Dev) (x : Nat) (off : Nat) (bs : List Byte) : d.KeepsBut [.regs, .dram, .cricket, .massif, .freeCtr] (Dev.csWrite d x off bs) := by
  unfold Dev.csWrite
  try dsimp only
  repeat' first | with_reducible apply Dev.KeepsBut.refl | with_reducible apply Dev.KeepsBut.then (Dev.failWord_keeps _ _) | with_reducible apply Dev.KeepsBut.then (Dev.csPut_keeps _ _ _ _) | (with_reducible apply Dev.KeepsBut.foldl; intro _ _) | (with_reducible apply Dev.KeepsBut.foldl_snd; intro _ _) | with_reducible apply Dev.keeps_massif | simp only [Dev.keeps_mk] | split | decide | (with_reducible intro _) | (dsimp only)

theorem Dev.noteDone_keeps (d : Dev) : d.KeepsBut [.regs, .dram, .cricket, .link, .freeCtr] (Dev.noteDone d) := by
  unfold Dev.noteDone
  try dsimp only
  repeat' first | with_reducible apply Dev.KeepsBut.refl | with_reducible apply Dev.KeepsBut.then (Dev.complete_keeps _ _ _ _ _) | (with_reducible apply Dev.KeepsBut.foldl; intro _ _) | (with_reducible apply Dev.KeepsBut.foldl_snd; intro _ _) | with_reducible apply Dev.keeps_cricket | simp only [Dev.keeps_mk] | split | decide | (with_reducible intro _) | (dsimp only)

end Sys2Proof.Machine
end

