-- ==== Sys2Proof/Laws/KeepsShards.lean ====
section
/-!
SUPPORT. Which parts of the device the operations of Machine/Shards.lean may change.
-/
namespace Sys2Proof.Machine

theorem Dev.shardCheck_keeps (d : Dev) (fn : Nat) (a : Nat) : d.KeepsBut [.regs, .mem, .dram, .freeCtr] (Dev.shardCheck d fn a).2 := by
  unfold Dev.shardCheck
  try dsimp only
  repeat' first | with_reducible apply Dev.KeepsBut.refl | with_reducible apply Dev.KeepsBut.then (Dev.quietRead_keeps _ _ _) | (with_reducible apply Dev.KeepsBut.foldl; intro _ _) | (with_reducible apply Dev.KeepsBut.foldl_snd; intro _ _) | split | decide | (with_reducible intro _) | (dsimp only)

theorem Dev.decodeSample_keeps (d : Dev) (f : Feed) (r : List Byte) :
    d.KeepsBut [.regs, .mem, .dram, .freeCtr] (Dev.decodeSample d f r).1 := by
  unfold Dev.decodeSample
  split
  · exact Dev.KeepsBut.refl _ _
  · next a len _ =>
    extract_lets x
    have hx : d.KeepsBut [.regs, .mem, .dram, .freeCtr] x.2.2 := Dev.quietRead_keeps _ _ _
    clear_value x
    split
    · exact hx
    · split
      · exact hx
      · split
        · exact hx
        · split
          · exact hx
          · split
            · exact hx
            · split
              · exact hx
              · extract_lets res
                have hres : d.KeepsBut [.regs, .mem, .dram, .freeCtr] res.1 := by
                  dsimp only [res]
                  split
                  · split
                    · exact Dev.KeepsBut.trans hx (Dev.quietRead_keeps _ _ _)
                    · exact Dev.KeepsBut.trans hx (Dev.quietRead_keeps _ _ _)
                  · exact hx
                clear_value res
                split
                · exact hres
                · split
                  · exact hres
                  · exact hres

theorem Dev.warmMove_keeps (d : Dev) (k : Nat) : d.KeepsBut [.regs] (Dev.warmMove d k) := by
  unfold Dev.warmMove
  try dsimp only
  repeat' first | with_reducible apply Dev.KeepsBut.refl | with_reducible apply Dev.KeepsBut.then (Dev.position_keeps _ _ _) | (with_reducible apply Dev.KeepsBut.foldl; intro _ _) | (with_reducible apply Dev.KeepsBut.foldl_snd; intro _ _) | split | decide | (with_reducible intro _) | (dsimp only)

theorem Dev.setOutcome_keeps (d : Dev) (k : Nat) (pos : Nat) (code : Nat) : d.KeepsBut [.regs, .forager] (Dev.setOutcome d k pos code) := by
  unfold Dev.setOutcome
  try dsimp only
  repeat' first | with_reducible apply Dev.KeepsBut.refl | with_reducible apply Dev.KeepsBut.then (Dev.err_keeps _ _ _) | with_reducible apply Dev.KeepsBut.then (Dev.setFeed_keeps _ _ _) | with_reducible apply Dev.KeepsBut.then (Dev.warmMove_keeps _ _) | (with_reducible apply Dev.KeepsBut.foldl; intro _ _) | (with_reducible apply Dev.KeepsBut.foldl_snd; intro _ _) | split | decide | (with_reducible intro _) | (dsimp only)

theorem Dev.report_keeps (d : Dev) (k : Nat) (id : List Byte) (batch : Nat) (slot : Nat) (code : Nat) : d.KeepsBut [.regs, .mem, .dram, .forager] (Dev.report d k id batch slot code) := by
  unfold Dev.report
  try dsimp only
  repeat' first | with_reducible apply Dev.KeepsBut.refl | with_reducible apply Dev.KeepsBut.then (Dev.irq_keeps _ _ _) | with_reducible apply Dev.KeepsBut.then (Dev.memWrite_keeps _ _ _) | with_reducible apply Dev.KeepsBut.then (Dev.setFeed_keeps _ _ _) | (with_reducible apply Dev.KeepsBut.foldl; intro _ _) | (with_reducible apply Dev.KeepsBut.foldl_snd; intro _ _) | split | decide | (with_reducible intro _) | (dsimp only)

theorem Dev.cacheFull_keeps (d : Dev) (k : Nat) : d.KeepsBut [.regs, .forager] (Dev.cacheFull d k) := by
  unfold Dev.cacheFull
  try dsimp only
  repeat' first | with_reducible apply Dev.KeepsBut.refl | with_reducible apply Dev.KeepsBut.then (Dev.err_keeps _ _ _) | with_reducible apply Dev.KeepsBut.then (Dev.setFeed_keeps _ _ _) | (with_reducible apply Dev.KeepsBut.foldl; intro _ _) | (with_reducible apply Dev.KeepsBut.foldl_snd; intro _ _) | split | decide | (with_reducible intro _) | (dsimp only)

theorem Dev.noRoom_keeps (d : Dev) (k : Nat) (pos : Nat) : d.KeepsBut [.regs, .forager] (Dev.noRoom d k pos) := by
  unfold Dev.noRoom
  try dsimp only
  repeat' first | with_reducible apply Dev.KeepsBut.refl | with_reducible apply Dev.KeepsBut.then (Dev.cacheFull_keeps _ _) | (with_reducible apply Dev.KeepsBut.foldl; intro _ _) | (with_reducible apply Dev.KeepsBut.foldl_snd; intro _ _) | split | decide | (with_reducible intro _) | (dsimp only)

theorem Dev.decodeStart_keeps (d : Dev) (k : Nat) (pos : Nat) : d.KeepsBut [.regs, .mem, .dram, .forager, .freeCtr] (Dev.decodeStart d k pos) := by
  unfold Dev.decodeStart
  try dsimp only
  repeat' first | with_reducible apply Dev.KeepsBut.refl | with_reducible apply Dev.KeepsBut.then (Dev.countSat_keeps _ _ _) | with_reducible apply Dev.KeepsBut.then (Dev.setFeed_keeps _ _ _) | with_reducible apply Dev.KeepsBut.then (Dev.shardCheck_keeps _ _ _) | with_reducible apply Dev.KeepsBut.then (Dev.decodeSample_keeps _ _ _) | with_reducible apply Dev.KeepsBut.then (Dev.setOutcome_keeps _ _ _ _) | with_reducible apply Dev.KeepsBut.then (Dev.noRoom_keeps _ _ _) | (with_reducible apply Dev.KeepsBut.foldl; intro _ _) | (with_reducible apply Dev.KeepsBut.foldl_snd; intro _ _) | split | decide | (with_reducible intro _) | (dsimp only)

theorem Dev.cacheWrite_keeps (d : Dev) (f : Feed) : d.KeepsBut [.dram, .freeCtr] (Dev.cacheWrite d f) := by
  unfold Dev.cacheWrite
  try dsimp only
  repeat' first | with_reducible apply Dev.KeepsBut.refl | (with_reducible apply Dev.KeepsBut.foldl; intro _ _) | (with_reducible apply Dev.KeepsBut.foldl_snd; intro _ _) | with_reducible apply Dev.keeps_freeCtr_mem | ((with_reducible apply Dev.keeps_mk_module); (case g => intro p hp; cases p <;> first | exact absurd hp (by decide) | rfl)) | ((with_reducible apply Dev.keeps_mk_bus); (case g => intro p hp; cases p <;> first | exact absurd hp (by decide) | rfl)) | ((with_reducible apply Dev.keeps_mk_power); (case g => intro p hp; cases p <;> first | exact absurd hp (by decide) | rfl)) | simp only [Dev.keeps_mk] | split | decide | (with_reducible intro _) | (dsimp only)

theorem Dev.engine_keeps (d : Dev) : d.KeepsBut [.freeCtr] (Dev.engine d).2 := by
  unfold Dev.engine
  try dsimp only
  repeat' first | with_reducible apply Dev.KeepsBut.refl | with_reducible apply Dev.KeepsBut.then (Dev.freshNat_keeps _) | (with_reducible apply Dev.KeepsBut.foldl; intro _ _) | (with_reducible apply Dev.KeepsBut.foldl_snd; intro _ _) | split | decide | (with_reducible intro _) | (dsimp only)

theorem Dev.engineBad_keeps (d : Dev) (e : Nat) : d.KeepsBut [.regs, .forager] (Dev.engineBad d e) := by
  unfold Dev.engineBad
  try dsimp only
  repeat' first | with_reducible apply Dev.KeepsBut.refl | with_reducible apply Dev.KeepsBut.then (Dev.err_keeps _ _ _) | (with_reducible apply Dev.KeepsBut.foldl; intro _ _) | (with_reducible apply Dev.KeepsBut.foldl_snd; intro _ _) | with_reducible apply Dev.keeps_forager | simp only [Dev.keeps_mk] | split | decide | (with_reducible intro _) | (dsimp only)

theorem Dev.decodeCounts_keeps (d : Dev) (e : Nat) : d.KeepsBut [.regs, .freeCtr] (Dev.decodeCounts d e) := by
  unfold Dev.decodeCounts
  try dsimp only
  repeat' first | with_reducible apply Dev.KeepsBut.refl | with_reducible apply Dev.KeepsBut.then (Dev.countSat_keeps _ _ _) | with_reducible apply Dev.KeepsBut.then (Dev.countFree64_keeps _ _) | (with_reducible apply Dev.KeepsBut.foldl; intro _ _) | (with_reducible apply Dev.KeepsBut.foldl_snd; intro _ _) | split | decide | (with_reducible intro _) | (dsimp only)

theorem Dev.decodeDone_keeps (d : Dev) (k : Nat) (pos : Nat) : d.KeepsBut [.regs, .mem, .dram, .forager, .freeCtr] (Dev.decodeDone d k pos) := by
  unfold Dev.decodeDone
  try dsimp only
  repeat' first | with_reducible apply Dev.KeepsBut.refl | with_reducible apply Dev.KeepsBut.then (Dev.setFeed_keeps _ _ _) | with_reducible apply Dev.KeepsBut.then (Dev.decodeSample_keeps _ _ _) | with_reducible apply Dev.KeepsBut.then (Dev.setOutcome_keeps _ _ _ _) | with_reducible apply Dev.KeepsBut.then (Dev.noRoom_keeps _ _ _) | with_reducible apply Dev.KeepsBut.then (Dev.cacheWrite_keeps _ _) | with_reducible apply Dev.KeepsBut.then (Dev.engine_keeps _) | with_reducible apply Dev.KeepsBut.then (Dev.engineBad_keeps _ _) | with_reducible apply Dev.KeepsBut.then (Dev.decodeCounts_keeps _ _) | (with_reducible apply Dev.KeepsBut.foldl; intro _ _) | (with_reducible apply Dev.KeepsBut.foldl_snd; intro _ _) | split | decide | (with_reducible intro _) | (dsimp only)

theorem Dev.warmupDone_keeps (d : Dev) (k : Nat) : d.KeepsBut [.regs, .dram, .cricket, .forager, .link, .freeCtr] (Dev.warmupDone d k) := by
  unfold Dev.warmupDone
  try dsimp only
  repeat' first | with_reducible apply Dev.KeepsBut.refl | with_reducible apply Dev.KeepsBut.then (Dev.irq_keeps _ _ _) | with_reducible apply Dev.KeepsBut.then (Dev.position_keeps _ _ _) | with_reducible apply Dev.KeepsBut.then (Dev.endLong_keeps _ _ _) | with_reducible apply Dev.KeepsBut.then (Dev.complete_keeps _ _ _ _ _) | (with_reducible apply Dev.KeepsBut.foldl; intro _ _) | (with_reducible apply Dev.KeepsBut.foldl_snd; intro _ _) | with_reducible apply Dev.keeps_forager | simp only [Dev.keeps_mk] | split | decide | (with_reducible intro _) | (dsimp only)

theorem Dev.park_keeps (d : Dev) (k : Nat) (b : Nat) (pos : Nat) : d.KeepsBut [.regs, .mem, .dram, .forager] (Dev.park d k b pos) := by
  unfold Dev.park
  try dsimp only
  repeat' first | with_reducible apply Dev.KeepsBut.refl | with_reducible apply Dev.KeepsBut.then (Dev.countSat_keeps _ _ _) | with_reducible apply Dev.KeepsBut.then (Dev.setFeed_keeps _ _ _) | with_reducible apply Dev.KeepsBut.then (Dev.report_keeps _ _ _ _ _ _) | (with_reducible apply Dev.KeepsBut.foldl; intro _ _) | (with_reducible apply Dev.KeepsBut.foldl_snd; intro _ _) | split | decide | (with_reducible intro _) | (dsimp only)

theorem Dev.settleSample_keeps (d : Dev) (k : Nat) (b : Nat) (pos : Nat) : d.KeepsBut [.regs, .mem, .dram, .forager] (Dev.settleSample d k b pos) := by
  unfold Dev.settleSample
  try dsimp only
  repeat' first | with_reducible apply Dev.KeepsBut.refl | with_reducible apply Dev.KeepsBut.then (Dev.countSat_keeps _ _ _) | with_reducible apply Dev.KeepsBut.then (Dev.setFeed_keeps _ _ _) | with_reducible apply Dev.KeepsBut.then (Dev.report_keeps _ _ _ _ _ _) | (with_reducible apply Dev.KeepsBut.foldl; intro _ _) | (with_reducible apply Dev.KeepsBut.foldl_snd; intro _ _) | split | decide | (with_reducible intro _) | (dsimp only)

theorem Dev.decide__keeps (d : Dev) (k : Nat) (b : Nat) : d.KeepsBut [.regs, .mem, .dram, .forager] (Dev.decide_ d k b) := by
  unfold Dev.decide_
  try dsimp only
  repeat' first | with_reducible apply Dev.KeepsBut.refl | with_reducible apply Dev.KeepsBut.then (Dev.setFeed_keeps _ _ _) | with_reducible apply Dev.KeepsBut.then (Dev.settleSample_keeps _ _ _ _) | (with_reducible apply Dev.KeepsBut.foldl; intro _ _) | (with_reducible apply Dev.KeepsBut.foldl_snd; intro _ _) | split | decide | (with_reducible intro _) | (dsimp only)

theorem Dev.voteFeed_keeps (n : Nat) (d : Dev) (k : Nat) : d.KeepsBut [.regs, .mem, .dram, .cricket, .forager, .link, .freeCtr] (Dev.voteFeed n d k) := by
  unfold Dev.voteFeed
  try dsimp only
  repeat' first | with_reducible apply Dev.KeepsBut.refl | with_reducible apply Dev.KeepsBut.then (Dev.countSat_keeps _ _ _) | with_reducible apply Dev.KeepsBut.then (Dev.complete_keeps _ _ _ _ _) | with_reducible apply Dev.KeepsBut.then (Dev.sendMarker_keeps _ _) | with_reducible apply Dev.KeepsBut.then (Dev.park_keeps _ _ _ _) | with_reducible apply Dev.KeepsBut.then (Dev.decide__keeps _ _ _) | (with_reducible apply Dev.KeepsBut.foldl; intro _ _) | (with_reducible apply Dev.KeepsBut.foldl_snd; intro _ _) | with_reducible apply Dev.keeps_cricket | simp only [Dev.keeps_mk] | split | decide | (with_reducible intro _) | (dsimp only)

theorem Dev.foragerVote_keeps (d : Dev) : d.KeepsBut [.regs, .mem, .dram, .cricket, .forager, .link, .freeCtr] (Dev.foragerVote d) := by
  unfold Dev.foragerVote
  try dsimp only
  repeat' first | with_reducible apply Dev.KeepsBut.refl | with_reducible apply Dev.KeepsBut.then (Dev.voteFeed_keeps _ _ _) | (with_reducible apply Dev.KeepsBut.foldl; intro _ _) | (with_reducible apply Dev.KeepsBut.foldl_snd; intro _ _) | with_reducible apply Dev.keeps_cricket | simp only [Dev.keeps_mk] | split | decide | (with_reducible intro _) | (dsimp only)

theorem Dev.staleFrames_keeps (d : Dev) (n : Nat) : d.KeepsBut [.regs] (Dev.staleFrames d n) := by
  unfold Dev.staleFrames
  try dsimp only
  repeat' first | with_reducible apply Dev.KeepsBut.refl | with_reducible apply Dev.KeepsBut.then (Dev.countSat_keeps _ _ _) | with_reducible apply Dev.KeepsBut.then (Dev.err_keeps _ _ _) | (with_reducible apply Dev.KeepsBut.foldl; intro _ _) | (with_reducible apply Dev.KeepsBut.foldl_snd; intro _ _) | split | decide | (with_reducible intro _) | (dsimp only)

theorem Dev.streamRead_keeps (d : Dev) (s : Nat) : d.KeepsBut [.regs, .mem, .dram, .forager, .freeCtr] (Dev.streamRead d s) := by
  unfold Dev.streamRead
  try dsimp only
  repeat' first | with_reducible apply Dev.KeepsBut.refl | with_reducible apply Dev.KeepsBut.then (Dev.setNum_keeps _ _ _) | with_reducible apply Dev.KeepsBut.then (Dev.err_keeps _ _ _) | with_reducible apply Dev.KeepsBut.then (Dev.quietRead_keeps _ _ _) | with_reducible apply Dev.KeepsBut.then (Dev.setStream_keeps _ _ _) | with_reducible apply Dev.KeepsBut.then (Dev.engine_keeps _) | with_reducible apply Dev.KeepsBut.then (Dev.engineBad_keeps _ _) | with_reducible apply Dev.KeepsBut.then (Dev.decodeCounts_keeps _ _) | with_reducible apply Dev.KeepsBut.then (Dev.staleFrames_keeps _ _) | (with_reducible apply Dev.KeepsBut.foldl; intro _ _) | (with_reducible apply Dev.KeepsBut.foldl_snd; intro _ _) | split | decide | (with_reducible intro _) | (dsimp only)

theorem Dev.streamLost_keeps (d : Dev) (s : Nat) : d.KeepsBut [.regs] (Dev.streamLost d s) := by
  unfold Dev.streamLost
  try dsimp only
  repeat' first | with_reducible apply Dev.KeepsBut.refl | with_reducible apply Dev.KeepsBut.then (Dev.raise_keeps _ _ _) | with_reducible apply Dev.KeepsBut.then (Dev.err_keeps _ _ _) | with_reducible apply Dev.KeepsBut.then (Dev.irq_keeps _ _ _) | (with_reducible apply Dev.KeepsBut.foldl; intro _ _) | (with_reducible apply Dev.KeepsBut.foldl_snd; intro _ _) | split | decide | (with_reducible intro _) | (dsimp only)

theorem Dev.reopenStream_keeps (d : Dev) (s : Nat) : d.KeepsBut [.regs, .forager] (Dev.reopenStream d s) := by
  unfold Dev.reopenStream
  try dsimp only
  repeat' first | with_reducible apply Dev.KeepsBut.refl | with_reducible apply Dev.KeepsBut.then (Dev.drop_keeps _ _ _) | with_reducible apply Dev.KeepsBut.then (Dev.setStream_keeps _ _ _) | (with_reducible apply Dev.KeepsBut.foldl; intro _ _) | (with_reducible apply Dev.KeepsBut.foldl_snd; intro _ _) | split | decide | (with_reducible intro _) | (dsimp only)

theorem Dev.writeStrmctrl_keeps (d : Dev) (s : Nat) (v : Word) : d.KeepsBut [.regs, .forager] (Dev.writeStrmctrl d s v) := by
  unfold Dev.writeStrmctrl
  try dsimp only
  repeat' first | with_reducible apply Dev.KeepsBut.refl | with_reducible apply Dev.KeepsBut.then (Dev.setFld_keeps _ _ _ _ _) | with_reducible apply Dev.KeepsBut.then (Dev.setFlag_keeps _ _ _ _) | with_reducible apply Dev.KeepsBut.then (Dev.raise_keeps _ _ _) | with_reducible apply Dev.KeepsBut.then (Dev.setStream_keeps _ _ _) | with_reducible apply Dev.KeepsBut.then (Dev.reopenStream_keeps _ _) | (with_reducible apply Dev.KeepsBut.foldl; intro _ _) | (with_reducible apply Dev.KeepsBut.foldl_snd; intro _ _) | split | decide | (with_reducible intro _) | (dsimp only)

theorem Dev.openFeed_keeps (d : Dev) (fn : Nat) (k : Nat) (u : List Byte) : d.KeepsBut [.regs, .forager] (Dev.openFeed d fn k u) := by
  unfold Dev.openFeed
  try dsimp only
  repeat' first | with_reducible apply Dev.KeepsBut.refl | with_reducible apply Dev.KeepsBut.then (Dev.startLong_keeps _ _ _) | with_reducible apply Dev.KeepsBut.then (Dev.setFeed_keeps _ _ _) | (with_reducible apply Dev.KeepsBut.foldl; intro _ _) | (with_reducible apply Dev.KeepsBut.foldl_snd; intro _ _) | with_reducible apply Dev.keeps_forager | simp only [Dev.keeps_mk] | split | decide | (with_reducible intro _) | (dsimp only)

theorem Dev.forCommand_keeps {ps : List Part} (d : Dev) (fn : Nat) (op : Nat) (act : Dev → List Byte → Option Nat × Dev) (hact : ∀ (y0 : Dev) (y1 : List Byte), y0.KeepsBut ps (act y0 y1).2) (hp : ([.regs, .host, .forager, .freeCtr].all fun p => ps.contains p) = true) : d.KeepsBut ps (Dev.forCommand d fn op act) := by
  unfold Dev.forCommand
  try dsimp only
  repeat' first | with_reducible apply Dev.KeepsBut.refl | ((with_reducible apply Part.sub hp); decide) | with_reducible apply fun z => Dev.KeepsBut.then (Dev.answerJob_keeps _ _ _ _ _ _ ) z | with_reducible apply fun z => Dev.KeepsBut.then (Dev.refuseJob_keeps _ _ _ _ ) z | with_reducible apply fun q0 z x => Dev.KeepsBut.trans x (Dev.jobCommand_keeps (ps := ps) _ _ _ _  q0 z) | with_reducible apply fun x => Dev.KeepsBut.trans x (hact _ _ ) | (with_reducible apply Dev.KeepsBut.foldl; intro _ _) | (with_reducible apply Dev.KeepsBut.foldl_snd; intro _ _) | split | decide | (with_reducible intro _) | (dsimp only)

theorem Dev.forOpen_keeps (fn : Nat) (d : Dev) (b : List Byte) : d.KeepsBut [.regs, .mem, .dram, .forager, .freeCtr] (Dev.forOpen fn d b).2 := by
  unfold Dev.forOpen
  try dsimp only
  repeat' first | with_reducible apply Dev.KeepsBut.refl | with_reducible apply Dev.KeepsBut.then (Dev.quietRead_keeps _ _ _) | with_reducible apply Dev.KeepsBut.then (Dev.openFeed_keeps _ _ _ _) | (with_reducible apply Dev.KeepsBut.foldl; intro _ _) | (with_reducible apply Dev.KeepsBut.foldl_snd; intro _ _) | split | decide | (with_reducible intro _) | (dsimp only)

theorem Dev.forList_keeps (fn : Nat) (d : Dev) (b : List Byte) : d.KeepsBut [.regs, .mem, .dram, .forager, .freeCtr] (Dev.forList fn d b).2 := by
  unfold Dev.forList
  try dsimp only
  repeat' first | with_reducible apply Dev.KeepsBut.refl | with_reducible apply Dev.KeepsBut.then (Dev.drop_keeps _ _ _) | with_reducible apply Dev.KeepsBut.then (Dev.quietRead_keeps _ _ _) | with_reducible apply Dev.KeepsBut.then (Dev.setFeed_keeps _ _ _) | with_reducible apply Dev.KeepsBut.then (Dev.warmMove_keeps _ _) | (with_reducible apply Dev.KeepsBut.foldl; intro _ _) | (with_reducible apply Dev.KeepsBut.foldl_snd; intro _ _) | split | decide | (with_reducible intro _) | (dsimp only)

theorem Dev.forClose_keeps (fn : Nat) (d : Dev) (b : List Byte) : d.KeepsBut [.forager] (Dev.forClose fn d b).2 := by
  unfold Dev.forClose
  try dsimp only
  repeat' first | with_reducible apply Dev.KeepsBut.refl | with_reducible apply Dev.KeepsBut.then (Dev.setFeed_keeps _ _ _) | (with_reducible apply Dev.KeepsBut.foldl; intro _ _) | (with_reducible apply Dev.KeepsBut.foldl_snd; intro _ _) | split | decide | (with_reducible intro _) | (dsimp only)

theorem Dev.feedClose_keeps (d : Dev) (k : Nat) : d.KeepsBut [.regs, .forager] (Dev.feedClose d k) := by
  unfold Dev.feedClose
  try dsimp only
  repeat' first | with_reducible apply Dev.KeepsBut.refl | with_reducible apply Dev.KeepsBut.then (Dev.endLong_keeps _ _ _) | with_reducible apply Dev.KeepsBut.then (Dev.setFeed_keeps _ _ _) | (with_reducible apply Dev.KeepsBut.foldl; intro _ _) | (with_reducible apply Dev.KeepsBut.foldl_snd; intro _ _) | with_reducible apply Dev.keeps_forager | simp only [Dev.keeps_mk] | split | decide | (with_reducible intro _) | (dsimp only)

theorem Dev.forEncode_keeps (fn : Nat) (d : Dev) (b : List Byte) : d.KeepsBut [.regs, .mem, .dram, .forager, .freeCtr] (Dev.forEncode fn d b).2 := by
  unfold Dev.forEncode
  try dsimp only
  repeat' first | with_reducible apply Dev.KeepsBut.refl | with_reducible apply Dev.KeepsBut.then (Dev.quietRead_keeps _ _ _) | (with_reducible apply Dev.KeepsBut.foldl; intro _ _) | (with_reducible apply Dev.KeepsBut.foldl_snd; intro _ _) | with_reducible apply Dev.keeps_forager | simp only [Dev.keeps_mk] | split | decide | (with_reducible intro _) | (dsimp only)

theorem Dev.encodeDone_keeps (d : Dev) : d.KeepsBut [.regs, .host, .mem, .dram, .forager, .freeCtr] (Dev.encodeDone d) := by
  unfold Dev.encodeDone
  try dsimp only
  repeat' first | with_reducible apply Dev.KeepsBut.refl | with_reducible apply Dev.KeepsBut.then (Dev.countSat_keeps _ _ _) | with_reducible apply Dev.KeepsBut.then (Dev.countFree64_keeps _ _) | with_reducible apply Dev.KeepsBut.then (Dev.memWrite_keeps _ _ _) | with_reducible apply Dev.KeepsBut.then (Dev.quietRead_keeps _ _ _) | with_reducible apply Dev.KeepsBut.then (Dev.postDone_keeps _ _ _) | with_reducible apply Dev.KeepsBut.then (Dev.engine_keeps _) | with_reducible apply Dev.KeepsBut.then (Dev.engineBad_keeps _ _) | (with_reducible apply Dev.KeepsBut.foldl; intro _ _) | (with_reducible apply Dev.KeepsBut.foldl_snd; intro _ _) | with_reducible apply Dev.keeps_forager | simp only [Dev.keeps_mk] | split | decide | (with_reducible intro _) | (dsimp only)

end Sys2Proof.Machine
end

