-- ==== Sys2Proof/Laws/KeepsFlags.lean ====
section
/-!
SUPPORT. Which parts of the device the operations of Machine/Flags.lean may change.
-/
namespace Sys2Proof.Machine

theorem Dev.orFlags_keeps (d : Dev) (page : Nat) (reg : Nat) (f : Nat) : d.KeepsBut [.regs] (Dev.orFlags d page reg f) := by
  unfold Dev.orFlags
  try dsimp only
  repeat' first | with_reducible apply Dev.KeepsBut.refl | with_reducible apply Dev.KeepsBut.then (Dev.setNum_keeps _ _ _) | with_reducible apply Dev.KeepsBut.then (Dev.irq_keeps _ _ _) | (with_reducible apply Dev.KeepsBut.foldl; intro _ _) | (with_reducible apply Dev.KeepsBut.foldl_snd; intro _ _) | split | decide | (with_reducible intro _) | (dsimp only)

theorem Dev.exitFlags_keeps (d : Dev) (k : Nat) (f : Nat) : d.KeepsBut [.regs] (Dev.exitFlags d k f) := by
  unfold Dev.exitFlags
  try dsimp only
  repeat' first | with_reducible apply Dev.KeepsBut.refl | with_reducible apply Dev.KeepsBut.then (Dev.orFlags_keeps _ _ _ _) | (with_reducible apply Dev.KeepsBut.foldl; intro _ _) | (with_reducible apply Dev.KeepsBut.foldl_snd; intro _ _) | split | decide | (with_reducible intro _) | (dsimp only)

theorem Dev.weevilFlags_keeps (d : Dev) (k : Nat) (f : Nat) : d.KeepsBut [.regs, .cricket, .weevil] (Dev.weevilFlags d k f) := by
  unfold Dev.weevilFlags
  try dsimp only
  repeat' first | with_reducible apply Dev.KeepsBut.refl | with_reducible apply Dev.KeepsBut.then (Dev.success_keeps _ _) | with_reducible apply Dev.KeepsBut.then (Dev.setWvl_keeps _ _ _) | with_reducible apply Dev.KeepsBut.then (Dev.orFlags_keeps _ _ _ _) | (with_reducible apply Dev.KeepsBut.foldl; intro _ _) | (with_reducible apply Dev.KeepsBut.foldl_snd; intro _ _) | split | decide | (with_reducible intro _) | (dsimp only)

theorem Dev.tileOverflow_keeps (d : Dev) (p : Nat) (f : Nat) : d.KeepsBut [.regs, .cricket, .massif] (Dev.tileOverflow d p f) := by
  unfold Dev.tileOverflow
  try dsimp only
  repeat' first | with_reducible apply Dev.KeepsBut.refl | with_reducible apply Dev.KeepsBut.then (Dev.countSat_keeps _ _ _) | with_reducible apply Dev.KeepsBut.then (Dev.irq_keeps _ _ _) | with_reducible apply Dev.KeepsBut.then (Dev.success_keeps _ _) | (with_reducible apply Dev.KeepsBut.foldl; intro _ _) | (with_reducible apply Dev.KeepsBut.foldl_snd; intro _ _) | with_reducible apply Dev.keeps_massif | simp only [Dev.keeps_mk] | split | decide | (with_reducible intro _) | (dsimp only)

end Sys2Proof.Machine
end

