-- ==== Sys2Proof/Laws/KeepsMassif.lean ====
section
/-!
SUPPORT. Which parts of the device the operations of Machine/Massif.lean may change.
-/
namespace Sys2Proof.Machine

theorem Dev.massifPop_keeps (d : Dev) : d.KeepsBut [.regs, .massif] (Dev.massifPop d) := by
  unfold Dev.massifPop
  try dsimp only
  repeat' first | with_reducible apply Dev.KeepsBut.refl | with_reducible apply Dev.KeepsBut.then (Dev.drop_keeps _ _ _) | (with_reducible apply Dev.KeepsBut.foldl; intro _ _) | (with_reducible apply Dev.KeepsBut.foldl_snd; intro _ _) | with_reducible apply Dev.keeps_massif | simp only [Dev.keeps_mk] | split | decide | (with_reducible intro _) | (dsimp only)

theorem Dev.massifFail_keeps (d : Dev) (q : QDesc) (code : Nat) (addr : Nat) : d.KeepsBut [.regs, .dram, .cricket, .massif, .freeCtr] (Dev.massifFail d q code addr) := by
  unfold Dev.massifFail
  try dsimp only
  repeat' first | with_reducible apply Dev.KeepsBut.refl | with_reducible apply Dev.KeepsBut.then (Dev.setNum_keeps _ _ _) | with_reducible apply Dev.KeepsBut.then (Dev.err_keeps _ _ _) | with_reducible apply Dev.KeepsBut.then (Dev.lastCode_keeps _ _ _) | with_reducible apply Dev.KeepsBut.then (Dev.beatFail_keeps _ _ _ _) | with_reducible apply Dev.KeepsBut.then (Dev.massifPop_keeps _) | (with_reducible apply Dev.KeepsBut.foldl; intro _ _) | (with_reducible apply Dev.KeepsBut.foldl_snd; intro _ _) | split | decide | (with_reducible intro _) | (dsimp only)

theorem Dev.openRings_keeps (d : Dev) (bs : List Byte) (number : Nat) : d.KeepsBut [.weevil] (Dev.openRings d bs number) := by
  unfold Dev.openRings
  try dsimp only
  repeat' first | with_reducible apply Dev.KeepsBut.refl | with_reducible apply Dev.KeepsBut.then (Dev.setWvl_keeps _ _ _) | (with_reducible apply Dev.KeepsBut.foldl; intro _ _) | (with_reducible apply Dev.KeepsBut.foldl_snd; intro _ _) | split | decide | (with_reducible intro _) | (dsimp only)

theorem Dev.massifStart_keeps (d : Dev) (q : QDesc) : d.KeepsBut [.regs, .cricket, .massif, .weevil] (Dev.massifStart d q) := by
  unfold Dev.massifStart
  try dsimp only
  repeat' first | with_reducible apply Dev.KeepsBut.refl | with_reducible apply Dev.KeepsBut.then (Dev.countIssue_keeps _) | with_reducible apply Dev.KeepsBut.then (Dev.massifPop_keeps _) | with_reducible apply Dev.KeepsBut.then (Dev.openRings_keeps _ _ _) | (with_reducible apply Dev.KeepsBut.foldl; intro _ _) | (with_reducible apply Dev.KeepsBut.foldl_snd; intro _ _) | with_reducible apply Dev.keeps_massif | simp only [Dev.keeps_mk] | split | decide | (with_reducible intro _) | (dsimp only)

theorem Dev.matmul_keeps (d : Dev) : d.KeepsBut [.regs, .dram, .cricket, .massif, .weevil, .freeCtr] (Dev.matmul d) := by
  unfold Dev.matmul
  try dsimp only
  repeat' first | with_reducible apply Dev.KeepsBut.refl | with_reducible apply Dev.KeepsBut.then (Dev.massifFail_keeps _ _ _ _) | with_reducible apply Dev.KeepsBut.then (Dev.massifStart_keeps _ _) | (with_reducible apply Dev.KeepsBut.foldl; intro _ _) | (with_reducible apply Dev.KeepsBut.foldl_snd; intro _ _) | split | decide | (with_reducible intro _) | (dsimp only)

theorem Dev.flankmm_keeps (d : Dev) : d.KeepsBut [.regs, .dram, .cricket, .massif, .weevil, .freeCtr] (Dev.flankmm d) := by
  unfold Dev.flankmm
  try dsimp only
  repeat' first | with_reducible apply Dev.KeepsBut.refl | with_reducible apply Dev.KeepsBut.then (Dev.massifFail_keeps _ _ _ _) | with_reducible apply Dev.KeepsBut.then (Dev.massifStart_keeps _ _) | (with_reducible apply Dev.KeepsBut.foldl; intro _ _) | (with_reducible apply Dev.KeepsBut.foldl_snd; intro _ _) | split | decide | (with_reducible intro _) | (dsimp only)

theorem Dev.massifSync_keeps (d : Dev) : d.KeepsBut [.regs, .dram, .cricket, .massif, .freeCtr] (Dev.massifSync d) := by
  unfold Dev.massifSync
  try dsimp only
  repeat' first | with_reducible apply Dev.KeepsBut.refl | with_reducible apply Dev.KeepsBut.then (Dev.countIssue_keeps _) | with_reducible apply Dev.KeepsBut.then (Dev.applySignal_keeps _ _) | with_reducible apply Dev.KeepsBut.then (Dev.massifPop_keeps _) | with_reducible apply Dev.KeepsBut.then (Dev.massifFail_keeps _ _ _ _) | (with_reducible apply Dev.KeepsBut.foldl; intro _ _) | (with_reducible apply Dev.KeepsBut.foldl_snd; intro _ _) | split | decide | (with_reducible intro _) | (dsimp only)

theorem Dev.preload_keeps (d : Dev) (x : List Byte) (fp64 : Bool) (cell : Nat) (w : Nat) (wi : Nat) (wj : Nat) : d.KeepsBut [.regs, .dram, .cricket, .freeCtr] (Dev.preload d x fp64 cell w wi wj).2 := by
  unfold Dev.preload
  try dsimp only
  repeat' first | with_reducible apply Dev.KeepsBut.refl | with_reducible apply Dev.KeepsBut.then (Dev.csRead_keeps _ _ _ _) | (with_reducible apply Dev.KeepsBut.foldl; intro _ _) | (with_reducible apply Dev.KeepsBut.foldl_snd; intro _ _) | split | decide | (with_reducible intro _) | (dsimp only)

theorem Dev.activate_keeps (d : Dev) (op : MassifOp) (f : Nat) (x : Nat) (b : Nat) (ti : Nat) (tj : Nat) (band : Nat) (w : Nat) (g : Geo) : d.KeepsBut [.regs, .dram, .cricket, .massif, .freeCtr] (Dev.activate d op f x b ti tj band w g) := by
  unfold Dev.activate
  try dsimp only
  repeat' first | with_reducible apply Dev.KeepsBut.refl | with_reducible apply Dev.KeepsBut.then (Dev.setBank_keeps _ _ _ _) | with_reducible apply Dev.KeepsBut.then (Dev.preload_keeps _ _ _ _ _ _ _) | (with_reducible apply Dev.KeepsBut.foldl; intro _ _) | (with_reducible apply Dev.KeepsBut.foldl_snd; intro _ _) | with_reducible apply Dev.keeps_massif | simp only [Dev.keeps_mk] | split | decide | (with_reducible intro _) | (dsimp only)

theorem Dev.niCheck_keeps (d : Dev) (r : Region) : d.KeepsBut [.regs, .ascent, .dram, .cricket, .freeCtr] (Dev.niCheck d r) := by
  unfold Dev.niCheck
  try dsimp only
  repeat' first | with_reducible apply Dev.KeepsBut.refl | with_reducible apply Dev.KeepsBut.then (Dev.err_keeps _ _ _) | with_reducible apply Dev.KeepsBut.then (Dev.beatFail_keeps _ _ _ _) | (with_reducible apply Dev.KeepsBut.foldl; intro _ _) | (with_reducible apply Dev.KeepsBut.foldl_snd; intro _ _) | with_reducible apply Dev.keeps_ascent | simp only [Dev.keeps_mk] | split | decide | (with_reducible intro _) | (dsimp only)

theorem Dev.waveBegin_keeps (d : Dev) (f : Nat) : d.KeepsBut [.regs, .ascent, .dram, .cricket, .massif, .freeCtr] (Dev.waveBegin d f) := by
  unfold Dev.waveBegin
  try dsimp only
  repeat' first | with_reducible apply Dev.KeepsBut.refl | with_reducible apply Dev.KeepsBut.then (Dev.activate_keeps _ _ _ _ _ _ _ _ _ _) | with_reducible apply Dev.KeepsBut.then (Dev.niCheck_keeps _ _) | (with_reducible apply Dev.KeepsBut.foldl; intro _ _) | (with_reducible apply Dev.KeepsBut.foldl_snd; intro _ _) | with_reducible apply Dev.keeps_massif | simp only [Dev.keeps_mk] | split | decide | (with_reducible intro _) | (dsimp only)

theorem Dev.setPair_keeps (d : Dev) (x : Nat) (b : Nat) (fp64 : Bool) (v : Bank) : d.KeepsBut [.massif] (Dev.setPair d x b fp64 v) := by
  unfold Dev.setPair
  try dsimp only
  repeat' first | with_reducible apply Dev.KeepsBut.refl | with_reducible apply Dev.KeepsBut.then (Dev.setBank_keeps _ _ _ _) | (with_reducible apply Dev.KeepsBut.foldl; intro _ _) | (with_reducible apply Dev.KeepsBut.foldl_snd; intro _ _) | split | decide | (with_reducible intro _) | (dsimp only)

theorem Dev.bankParity_keeps (d : Dev) (x : Nat) (b : Nat) : d.KeepsBut [.regs, .dram, .cricket, .massif, .freeCtr] (Dev.bankParity d x b) := by
  unfold Dev.bankParity
  try dsimp only
  repeat' first | with_reducible apply Dev.KeepsBut.refl | with_reducible apply Dev.KeepsBut.then (Dev.err_keeps _ _ _) | with_reducible apply Dev.KeepsBut.then (Dev.beatFail_keeps _ _ _ _) | (with_reducible apply Dev.KeepsBut.foldl; intro _ _) | (with_reducible apply Dev.KeepsBut.foldl_snd; intro _ _) | with_reducible apply Dev.keeps_massif | simp only [Dev.keeps_mk] | split | decide | (with_reducible intro _) | (dsimp only)

theorem Dev.tileParity_keeps (d : Dev) (x : Nat) (b : Nat) (fp64 : Bool) : d.KeepsBut [.regs, .dram, .cricket, .massif, .freeCtr] (Dev.tileParity d x b fp64) := by
  unfold Dev.tileParity
  try dsimp only
  repeat' first | with_reducible apply Dev.KeepsBut.refl | with_reducible apply Dev.KeepsBut.then (Dev.bankParity_keeps _ _ _) | (with_reducible apply Dev.KeepsBut.foldl; intro _ _) | (with_reducible apply Dev.KeepsBut.foldl_snd; intro _ _) | split | decide | (with_reducible intro _) | (dsimp only)

theorem Dev.finishTile_keeps (d : Dev) (op : MassifOp) (f : Nat) (g : Geo) (fill : Nat → Bank → Bank) (t : Nat × Nat) : d.KeepsBut [.regs, .dram, .cricket, .massif, .freeCtr] (Dev.finishTile d op f g fill t) := by
  unfold Dev.finishTile
  try dsimp only
  repeat' first | with_reducible apply Dev.KeepsBut.refl | with_reducible apply Dev.KeepsBut.then (Dev.setPair_keeps _ _ _ _ _) | with_reducible apply Dev.KeepsBut.then (Dev.tileParity_keeps _ _ _ _) | (with_reducible apply Dev.KeepsBut.foldl; intro _ _) | (with_reducible apply Dev.KeepsBut.foldl_snd; intro _ _) | split | decide | (with_reducible intro _) | (dsimp only)

theorem Dev.countFold_keeps (d : Dev) (p : Nat) (c : Nat) (pace : Nat) : d.KeepsBut [.regs, .freeCtr] (Dev.countFold d p c pace) := by
  unfold Dev.countFold
  try dsimp only
  repeat' first | with_reducible apply Dev.KeepsBut.refl | with_reducible apply Dev.KeepsBut.then (Dev.count64_keeps _ _ _) | with_reducible apply Dev.KeepsBut.then (Dev.countFree64_keeps _ _) | (with_reducible apply Dev.KeepsBut.foldl; intro _ _) | (with_reducible apply Dev.KeepsBut.foldl_snd; intro _ _) | split | decide | (with_reducible intro _) | (dsimp only)

theorem Dev.countWave_keeps (d : Dev) (g : Geo) (ts : List (Nat × Nat)) (cycles : Nat → Nat) (pace : Nat) : d.KeepsBut [.regs, .freeCtr] (Dev.countWave d g ts cycles pace) := by
  unfold Dev.countWave
  try dsimp only
  repeat' first | with_reducible apply Dev.KeepsBut.refl | with_reducible apply Dev.KeepsBut.then (Dev.countFold_keeps _ _ _ _) | (with_reducible apply Dev.KeepsBut.foldl; intro _ _) | (with_reducible apply Dev.KeepsBut.foldl_snd; intro _ _) | split | decide | (with_reducible intro _) | (dsimp only)

theorem Dev.opDone_keeps (d : Dev) (op : MassifOp) : d.KeepsBut [.regs] (Dev.opDone d op) := by
  unfold Dev.opDone
  try dsimp only
  repeat' first | with_reducible apply Dev.KeepsBut.refl | with_reducible apply Dev.KeepsBut.then (Dev.setNum_keeps _ _ _) | with_reducible apply Dev.KeepsBut.then (Dev.countSat_keeps _ _ _) | with_reducible apply Dev.KeepsBut.then (Dev.lastCode_keeps _ _ _) | with_reducible apply Dev.KeepsBut.then (Dev.applySignal_keeps _ _) | (with_reducible apply Dev.KeepsBut.foldl; intro _ _) | (with_reducible apply Dev.KeepsBut.foldl_snd; intro _ _) | split | decide | (with_reducible intro _) | (dsimp only)

theorem Dev.advanceOp_keeps (d : Dev) (op : MassifOp) : d.KeepsBut [.regs, .massif] (Dev.advanceOp d op) := by
  unfold Dev.advanceOp
  try dsimp only
  repeat' first | with_reducible apply Dev.KeepsBut.refl | with_reducible apply Dev.KeepsBut.then (Dev.opDone_keeps _ _) | (with_reducible apply Dev.KeepsBut.foldl; intro _ _) | (with_reducible apply Dev.KeepsBut.foldl_snd; intro _ _) | with_reducible apply Dev.keeps_massif | ((with_reducible apply Dev.keeps_mk_module); (case g => intro p hp; cases p <;> first | exact absurd hp (by decide) | rfl)) | ((with_reducible apply Dev.keeps_mk_bus); (case g => intro p hp; cases p <;> first | exact absurd hp (by decide) | rfl)) | ((with_reducible apply Dev.keeps_mk_power); (case g => intro p hp; cases p <;> first | exact absurd hp (by decide) | rfl)) | simp only [Dev.keeps_mk] | split | decide | (with_reducible intro _) | (dsimp only)

theorem Dev.endFold_keeps (d : Dev) (op : MassifOp) (f : Nat) (w : Nat) (fill : Nat → Nat × Nat → Bank → Bank) (cycles : Nat → Nat) : d.KeepsBut [.regs, .dram, .cricket, .massif, .freeCtr] (Dev.endFold d op f w fill cycles) := by
  unfold Dev.endFold
  try dsimp only
  repeat' first | with_reducible apply Dev.KeepsBut.refl | with_reducible apply Dev.KeepsBut.then (Dev.finishTile_keeps _ _ _ _ _ _) | with_reducible apply Dev.KeepsBut.then (Dev.countWave_keeps _ _ _ _ _) | with_reducible apply Dev.KeepsBut.then (Dev.advanceOp_keeps _ _) | (with_reducible apply Dev.KeepsBut.foldl; intro _ _) | (with_reducible apply Dev.KeepsBut.foldl_snd; intro _ _) | split | decide | (with_reducible intro _) | (dsimp only)

theorem Dev.exitAccept_keeps (d : Dev) (x : Nat) : d.KeepsBut [.regs, .dram, .cricket, .massif, .weevil, .freeCtr] (Dev.exitAccept d x) := by
  unfold Dev.exitAccept
  try dsimp only
  repeat' first | with_reducible apply Dev.KeepsBut.refl | with_reducible apply Dev.KeepsBut.then (Dev.setWvl_keeps _ _ _) | with_reducible apply Dev.KeepsBut.then (Dev.setPair_keeps _ _ _ _ _) | with_reducible apply Dev.KeepsBut.then (Dev.tileParity_keeps _ _ _ _) | (with_reducible apply Dev.KeepsBut.foldl; intro _ _) | (with_reducible apply Dev.KeepsBut.foldl_snd; intro _ _) | split | decide | (with_reducible intro _) | (dsimp only)

theorem Dev.tileOut_keeps (d : Dev) (n : Nat) (f : Nat) : d.KeepsBut [.massif] (Dev.tileOut d n f) := by
  unfold Dev.tileOut
  try dsimp only
  repeat' first | with_reducible apply Dev.KeepsBut.refl | (with_reducible apply Dev.KeepsBut.foldl; intro _ _) | (with_reducible apply Dev.KeepsBut.foldl_snd; intro _ _) | with_reducible apply Dev.keeps_massif | simp only [Dev.keeps_mk] | split | decide | (with_reducible intro _) | (dsimp only)

theorem Dev.vecCheck_keeps (d : Dev) (ex : List Byte) (x : Nat) (wi : Nat) (wj : Nat) : d.KeepsBut [.regs, .dram, .cricket, .freeCtr] (Dev.vecCheck d ex x wi wj) := by
  unfold Dev.vecCheck
  try dsimp only
  repeat' first | with_reducible apply Dev.KeepsBut.refl | with_reducible apply Dev.KeepsBut.then (Dev.csRead_keeps _ _ _ _) | (with_reducible apply Dev.KeepsBut.foldl; intro _ _) | (with_reducible apply Dev.KeepsBut.foldl_snd; intro _ _) | split | decide | (with_reducible intro _) | (dsimp only)

theorem Dev.recordTile_keeps (d : Dev) (x : Nat) (f : Nat) : d.KeepsBut [.regs, .cricket, .massif] (Dev.recordTile d x f) := by
  unfold Dev.recordTile
  try dsimp only
  repeat' first | with_reducible apply Dev.KeepsBut.refl | with_reducible apply Dev.KeepsBut.then (Dev.exitFlags_keeps _ _ _) | with_reducible apply Dev.KeepsBut.then (Dev.tileOverflow_keeps _ _ _) | (with_reducible apply Dev.KeepsBut.foldl; intro _ _) | (with_reducible apply Dev.KeepsBut.foldl_snd; intro _ _) | split | decide | (with_reducible intro _) | (dsimp only)

theorem Dev.writeRow_keeps (d : Dev) (op : MassifOp) (x : Nat) (b : Bank) (i : Nat) (els : List Nat) (scale : Nat) : d.KeepsBut [.regs, .mem, .dram, .cricket, .massif, .freeCtr] (Dev.writeRow d op x b i els scale) := by
  unfold Dev.writeRow
  try dsimp only
  repeat' first | with_reducible apply Dev.KeepsBut.refl | with_reducible apply Dev.KeepsBut.then (Dev.engWrite_keeps _ _ _ _) | with_reducible apply Dev.KeepsBut.then (Dev.csWrite_keeps _ _ _ _) | (with_reducible apply Dev.KeepsBut.foldl; intro _ _) | (with_reducible apply Dev.KeepsBut.foldl_snd; intro _ _) | split | decide | (with_reducible intro _) | (dsimp only)

theorem Dev.exitWriteEnd_keeps (d : Dev) (x : Nat) : d.KeepsBut [.regs, .mem, .dram, .cricket, .massif, .freeCtr] (Dev.exitWriteEnd d x) := by
  unfold Dev.exitWriteEnd
  try dsimp only
  repeat' first | with_reducible apply Dev.KeepsBut.refl | with_reducible apply Dev.KeepsBut.then (Dev.setPair_keeps _ _ _ _ _) | with_reducible apply Dev.KeepsBut.then (Dev.tileOut_keeps _ _ _) | with_reducible apply Dev.KeepsBut.then (Dev.vecCheck_keeps _ _ _ _ _) | with_reducible apply Dev.KeepsBut.then (Dev.recordTile_keeps _ _ _) | with_reducible apply Dev.KeepsBut.then (Dev.writeRow_keeps _ _ _ _ _ _ _) | (with_reducible apply Dev.KeepsBut.foldl; intro _ _) | (with_reducible apply Dev.KeepsBut.foldl_snd; intro _ _) | split | decide | (with_reducible intro _) | (dsimp only)

theorem Dev.ringTileDeliver_keeps (d : Dev) (x : Nat) : d.KeepsBut [.regs, .dram, .cricket, .massif, .weevil, .freeCtr] (Dev.ringTileDeliver d x) := by
  unfold Dev.ringTileDeliver
  try dsimp only
  repeat' first | with_reducible apply Dev.KeepsBut.refl | with_reducible apply Dev.KeepsBut.then (Dev.setWvl_keeps _ _ _) | with_reducible apply Dev.KeepsBut.then (Dev.setPair_keeps _ _ _ _ _) | with_reducible apply Dev.KeepsBut.then (Dev.tileOut_keeps _ _ _) | with_reducible apply Dev.KeepsBut.then (Dev.vecCheck_keeps _ _ _ _ _) | with_reducible apply Dev.KeepsBut.then (Dev.recordTile_keeps _ _ _) | (with_reducible apply Dev.KeepsBut.foldl; intro _ _) | (with_reducible apply Dev.KeepsBut.foldl_snd; intro _ _) | split | decide | (with_reducible intro _) | (dsimp only)

theorem Dev.massifOpComplete_keeps (d : Dev) : d.KeepsBut [.regs, .massif] (Dev.massifOpComplete d) := by
  unfold Dev.massifOpComplete
  try dsimp only
  repeat' first | with_reducible apply Dev.KeepsBut.refl | with_reducible apply Dev.KeepsBut.then (Dev.opDone_keeps _ _) | (with_reducible apply Dev.KeepsBut.foldl; intro _ _) | (with_reducible apply Dev.KeepsBut.foldl_snd; intro _ _) | with_reducible apply Dev.keeps_massif | simp only [Dev.keeps_mk] | split | decide | (with_reducible intro _) | (dsimp only)

theorem Dev.writeSigport_keeps (d : Dev) (g : Nat) (v : Word) : d.KeepsBut [.regs] (Dev.writeSigport d g v) := by
  unfold Dev.writeSigport
  try dsimp only
  repeat' first | with_reducible apply Dev.KeepsBut.refl | with_reducible apply Dev.KeepsBut.then (Dev.signal_keeps _ _ _) | (with_reducible apply Dev.KeepsBut.foldl; intro _ _) | (with_reducible apply Dev.KeepsBut.foldl_snd; intro _ _) | split | decide | (with_reducible intro _) | (dsimp only)

end Sys2Proof.Machine
end

