-- ==== Sys2Proof/Laws/KeepsWindow.lean ====
section
/-!
SUPPORT. Which parts of the device the operations of Machine/Window.lean may change.
-/
namespace Sys2Proof.Machine

theorem Dev.answer_keeps (d : Dev) (bs : List Byte) : d.KeepsBut [.bus] (Dev.answer d bs) := by
  unfold Dev.answer
  try dsimp only
  repeat' first | with_reducible apply Dev.KeepsBut.refl | (with_reducible apply Dev.KeepsBut.foldl; intro _ _) | (with_reducible apply Dev.KeepsBut.foldl_snd; intro _ _) | with_reducible apply Dev.keeps_bus | simp only [Dev.keeps_mk] | split | decide | (with_reducible intro _) | (dsimp only)

theorem Dev.dropShadow_keeps (d : Dev) (r : Requester) (n : Nat) : d.KeepsBut [.bus] (Dev.dropShadow d r n) := by
  unfold Dev.dropShadow
  try dsimp only
  repeat' first | with_reducible apply Dev.KeepsBut.refl | (with_reducible apply Dev.KeepsBut.foldl; intro _ _) | (with_reducible apply Dev.KeepsBut.foldl_snd; intro _ _) | with_reducible apply Dev.keeps_bus | simp only [Dev.keeps_mk] | split | decide | (with_reducible intro _) | (dsimp only)

theorem Dev.setShadow_keeps (d : Dev) (r : Requester) (n : Nat) (v : Word) : d.KeepsBut [.bus] (Dev.setShadow d r n v) := by
  unfold Dev.setShadow
  try dsimp only
  repeat' first | with_reducible apply Dev.KeepsBut.refl | with_reducible apply Dev.KeepsBut.then (Dev.dropShadow_keeps _ _ _) | (with_reducible apply Dev.KeepsBut.foldl; intro _ _) | (with_reducible apply Dev.KeepsBut.foldl_snd; intro _ _) | with_reducible apply Dev.keeps_bus | simp only [Dev.keeps_mk] | split | decide | (with_reducible intro _) | (dsimp only)

theorem Dev.dropBuffer_keeps (d : Dev) (r : Requester) (n : Nat) : d.KeepsBut [.bus] (Dev.dropBuffer d r n) := by
  unfold Dev.dropBuffer
  try dsimp only
  repeat' first | with_reducible apply Dev.KeepsBut.refl | (with_reducible apply Dev.KeepsBut.foldl; intro _ _) | (with_reducible apply Dev.KeepsBut.foldl_snd; intro _ _) | with_reducible apply Dev.keeps_bus | simp only [Dev.keeps_mk] | split | decide | (with_reducible intro _) | (dsimp only)

theorem Dev.setBuffer_keeps (d : Dev) (r : Requester) (n : Nat) (v : Word) : d.KeepsBut [.bus] (Dev.setBuffer d r n v) := by
  unfold Dev.setBuffer
  try dsimp only
  repeat' first | with_reducible apply Dev.KeepsBut.refl | with_reducible apply Dev.KeepsBut.then (Dev.dropBuffer_keeps _ _ _) | (with_reducible apply Dev.KeepsBut.foldl; intro _ _) | (with_reducible apply Dev.KeepsBut.foldl_snd; intro _ _) | with_reducible apply Dev.keeps_bus | simp only [Dev.keeps_mk] | split | decide | (with_reducible intro _) | (dsimp only)

theorem Dev.winRead_keeps {ps : List Part} (d : Dev) (r : Requester) (n : Nat) (a : WinRead) (ok : Bool) (v : Nat) (next : Dev → Dev) (hnext : ∀ (y0 : Dev), y0.KeepsBut ps (next y0)) (hp : ([.bus].all fun p => ps.contains p) = true) : d.KeepsBut ps (Dev.winRead d r n a ok v next) := by
  unfold Dev.winRead
  try dsimp only
  repeat' first | with_reducible apply Dev.KeepsBut.refl | ((with_reducible apply Part.sub hp); decide) | with_reducible apply fun z => Dev.KeepsBut.then (Dev.answer_keeps _ _ ) z | with_reducible apply fun z => Dev.KeepsBut.then (Dev.dropShadow_keeps _ _ _ ) z | with_reducible apply fun z => Dev.KeepsBut.then (Dev.setShadow_keeps _ _ _ _ ) z | with_reducible apply fun x => Dev.KeepsBut.trans x (hnext _ ) | (with_reducible apply Dev.KeepsBut.foldl; intro _ _) | (with_reducible apply Dev.KeepsBut.foldl_snd; intro _ _) | split | decide | (with_reducible intro _) | (dsimp only)

theorem Dev.winWrite_keeps {ps : List Part} (d : Dev) (r : Requester) (n : Nat) (a : WinWrite) (ok : Bool) (cur : Nat) (put : Nat → Dev → Dev) (next : Dev → Dev) (hput : ∀ (y0 : Nat) (y1 : Dev), y1.KeepsBut ps (put y0 y1)) (hnext : ∀ (y0 : Dev), y0.KeepsBut ps (next y0)) (hp : ([.bus].all fun p => ps.contains p) = true) : d.KeepsBut ps (Dev.winWrite d r n a ok cur put next) := by
  unfold Dev.winWrite
  try dsimp only
  repeat' first | with_reducible apply Dev.KeepsBut.refl | ((with_reducible apply Part.sub hp); decide) | with_reducible apply fun z => Dev.KeepsBut.then (Dev.dropBuffer_keeps _ _ _ ) z | with_reducible apply fun z => Dev.KeepsBut.then (Dev.setBuffer_keeps _ _ _ _ ) z | with_reducible apply fun x => Dev.KeepsBut.trans x (hput _ _ ) | with_reducible apply fun x => Dev.KeepsBut.trans x (hnext _ ) | (with_reducible apply Dev.KeepsBut.foldl; intro _ _) | (with_reducible apply Dev.KeepsBut.foldl_snd; intro _ _) | split | decide | (with_reducible intro _) | (dsimp only)

theorem Dev.noWindow_keeps (d : Dev) (a : WinRead) : d.KeepsBut [.bus] (Dev.noWindow d a) := by
  unfold Dev.noWindow
  try dsimp only
  repeat' first | with_reducible apply Dev.KeepsBut.refl | with_reducible apply Dev.KeepsBut.then (Dev.answer_keeps _ _) | (with_reducible apply Dev.KeepsBut.foldl; intro _ _) | (with_reducible apply Dev.KeepsBut.foldl_snd; intro _ _) | split | decide | (with_reducible intro _) | (dsimp only)

end Sys2Proof.Machine
end

