-- ==== Sys2Proof/Laws/KeepsPlace.lean ====
section
/-!
SUPPORT. Which parts of the device the operations of Machine/Place.lean may change.
-/
namespace Sys2Proof.Machine

theorem Dev.countPlaced_keeps (d : Dev) (x : Nat) (n : Nat) : d.KeepsBut [.regs] (Dev.countPlaced d x n) := by
  unfold Dev.countPlaced
  try dsimp only
  repeat' first | with_reducible apply Dev.KeepsBut.refl | with_reducible apply Dev.KeepsBut.then (Dev.count64_keeps _ _ _) | (with_reducible apply Dev.KeepsBut.foldl; intro _ _) | (with_reducible apply Dev.KeepsBut.foldl_snd; intro _ _) | split | decide | (with_reducible intro _) | (dsimp only)

theorem Dev.stageCheck_keeps (d : Dev) (ps : List Nat) : d.KeepsBut [.regs, .dram, .cricket, .col, .freeCtr] (Dev.stageCheck d ps) := by
  unfold Dev.stageCheck
  try dsimp only
  repeat' first | with_reducible apply Dev.KeepsBut.refl | with_reducible apply Dev.KeepsBut.then (Dev.errData_keeps _ _ _) | with_reducible apply Dev.KeepsBut.then (Dev.beatFail_keeps _ _ _ _) | (with_reducible apply Dev.KeepsBut.foldl; intro _ _) | (with_reducible apply Dev.KeepsBut.foldl_snd; intro _ _) | with_reducible apply Dev.keeps_col | simp only [Dev.keeps_mk] | split | decide | (with_reducible intro _) | (dsimp only)

theorem Dev.colBusy_keeps (d : Dev) (a : Dev) : d.KeepsBut [.regs, .freeCtr] (Dev.colBusy d a) := by
  unfold Dev.colBusy
  try dsimp only
  repeat' first | with_reducible apply Dev.KeepsBut.refl | with_reducible apply Dev.KeepsBut.then (Dev.countFree64_keeps _ _) | (with_reducible apply Dev.KeepsBut.foldl; intro _ _) | (with_reducible apply Dev.KeepsBut.foldl_snd; intro _ _) | split | decide | (with_reducible intro _) | (dsimp only)

theorem Dev.placeBytes_keeps (d : Dev) (x : Nat) (off : Nat) (bs : List Byte) : d.KeepsBut [.regs, .dram, .cricket, .massif, .freeCtr] (Dev.placeBytes d x off bs) := by
  unfold Dev.placeBytes
  try dsimp only
  repeat' first | with_reducible apply Dev.KeepsBut.refl | with_reducible apply Dev.KeepsBut.then (Dev.csWrite_keeps _ _ _ _) | with_reducible apply Dev.KeepsBut.then (Dev.countPlaced_keeps _ _ _) | (with_reducible apply Dev.KeepsBut.foldl; intro _ _) | (with_reducible apply Dev.KeepsBut.foldl_snd; intro _ _) | split | decide | (with_reducible intro _) | (dsimp only)

theorem Dev.placeOperand_keeps (d : Dev) (g : Geo) (isA : Bool) (fmt : Nat) (base : Nat) (el : Nat → Nat → Nat) : d.KeepsBut [.regs, .dram, .cricket, .massif, .freeCtr] (Dev.placeOperand d g isA fmt base el) := by
  unfold Dev.placeOperand
  try dsimp only
  repeat' first | with_reducible apply Dev.KeepsBut.refl | with_reducible apply Dev.KeepsBut.then (Dev.placeBytes_keeps _ _ _ _) | (with_reducible apply Dev.KeepsBut.foldl; intro _ _) | (with_reducible apply Dev.KeepsBut.foldl_snd; intro _ _) | split | decide | (with_reducible intro _) | (dsimp only)

theorem Dev.placeScales_keeps (d : Dev) (g : Geo) (isA : Bool) (base : Nat) (sc : Nat → Nat → Nat) : d.KeepsBut [.regs, .dram, .cricket, .massif, .freeCtr] (Dev.placeScales d g isA base sc) := by
  unfold Dev.placeScales
  try dsimp only
  repeat' first | with_reducible apply Dev.KeepsBut.refl | with_reducible apply Dev.KeepsBut.then (Dev.placeBytes_keeps _ _ _ _) | (with_reducible apply Dev.KeepsBut.foldl; intro _ _) | (with_reducible apply Dev.KeepsBut.foldl_snd; intro _ _) | split | decide | (with_reducible intro _) | (dsimp only)

theorem Dev.csOpen_keeps (d : Dev) (x : Nat) (off : Nat) (n : Nat) : d.KeepsBut [.massif, .freeCtr] (Dev.csOpen d x off n) := by
  unfold Dev.csOpen
  try dsimp only
  repeat' first | with_reducible apply Dev.KeepsBut.refl | (with_reducible apply Dev.KeepsBut.foldl; intro _ _) | (with_reducible apply Dev.KeepsBut.foldl_snd; intro _ _) | with_reducible apply Dev.keeps_freeCtr_massif | ((with_reducible apply Dev.keeps_mk_module); (case g => intro p hp; cases p <;> first | exact absurd hp (by decide) | rfl)) | ((with_reducible apply Dev.keeps_mk_bus); (case g => intro p hp; cases p <;> first | exact absurd hp (by decide) | rfl)) | ((with_reducible apply Dev.keeps_mk_power); (case g => intro p hp; cases p <;> first | exact absurd hp (by decide) | rfl)) | simp only [Dev.keeps_mk] | split | decide | (with_reducible intro _) | (dsimp only)

theorem Dev.touchAll_keeps (d : Dev) (rs : List (Nat × Nat)) : d.KeepsBut [.regs, .mem, .dram, .cricket, .freeCtr] (Dev.touchAll d rs) := by
  unfold Dev.touchAll
  try dsimp only
  repeat' first | with_reducible apply Dev.KeepsBut.refl | with_reducible apply Dev.KeepsBut.then (Dev.engRead_keeps _ _ _) | (with_reducible apply Dev.KeepsBut.foldl; intro _ _) | (with_reducible apply Dev.KeepsBut.foldl_snd; intro _ _) | split | decide | (with_reducible intro _) | (dsimp only)

theorem csWinNext_keeps (p : Nat) (d : Dev) : d.KeepsBut [.regs] (csWinNext p d) := by
  unfold csWinNext
  try dsimp only
  repeat' first | with_reducible apply Dev.KeepsBut.refl | with_reducible apply Dev.KeepsBut.then (Dev.setFld_keeps _ _ _ _ _) | (with_reducible apply Dev.KeepsBut.foldl; intro _ _) | (with_reducible apply Dev.KeepsBut.foldl_snd; intro _ _) | split | decide | (with_reducible intro _) | (dsimp only)

theorem Dev.csdataRead_keeps (d : Dev) (r : Requester) (p : Nat) (a : WinRead) : d.KeepsBut [.regs, .bus] (Dev.csdataRead d r p a) := by
  unfold Dev.csdataRead
  try dsimp only
  repeat' first | with_reducible apply Dev.KeepsBut.refl | with_reducible apply Dev.KeepsBut.then (Dev.err_keeps _ _ _) | with_reducible apply fun q0 z x => Dev.KeepsBut.trans x (Dev.winRead_keeps (ps := [.regs, .bus]) _ _ _ _ _ _ _  q0 z) | with_reducible apply Dev.KeepsBut.then (Dev.noWindow_keeps _ _) | with_reducible apply Dev.KeepsBut.then (csWinNext_keeps _ _) | (with_reducible apply Dev.KeepsBut.foldl; intro _ _) | (with_reducible apply Dev.KeepsBut.foldl_snd; intro _ _) | split | decide | (with_reducible intro _) | (dsimp only)

theorem Dev.csdataWrite_keeps (d : Dev) (r : Requester) (p : Nat) (a : WinWrite) : d.KeepsBut [.regs, .bus, .massif] (Dev.csdataWrite d r p a) := by
  unfold Dev.csdataWrite
  try dsimp only
  repeat' first | with_reducible apply Dev.KeepsBut.refl | with_reducible apply Dev.KeepsBut.then (Dev.csPut_keeps _ _ _ _) | with_reducible apply fun q0 q1 z x => Dev.KeepsBut.trans x (Dev.winWrite_keeps (ps := [.regs, .bus, .massif]) _ _ _ _ _ _ _ _  q0 q1 z) | with_reducible apply Dev.KeepsBut.then (csWinNext_keeps _ _) | (with_reducible apply Dev.KeepsBut.foldl; intro _ _) | (with_reducible apply Dev.KeepsBut.foldl_snd; intro _ _) | with_reducible apply Dev.keeps_massif | simp only [Dev.keeps_mk] | split | decide | (with_reducible intro _) | (dsimp only)

end Sys2Proof.Machine
end

