-- ==== Sys2Proof/Laws/KeepsSliding.lean ====
section
/-!
SUPPORT. Which parts of the device the operations of Machine/Sliding.lean may change.
-/
namespace Sys2Proof.Machine

theorem Dev.listFail_keeps (d : Dev) (q : QDesc) (code : Nat) (addr : Nat) : d.KeepsBut [.regs, .dram, .cricket, .massif, .freeCtr] (Dev.listFail d q code addr) := by
  unfold Dev.listFail
  try dsimp only
  repeat' first | with_reducible apply Dev.KeepsBut.refl | with_reducible apply Dev.KeepsBut.then (Dev.setNum_keeps _ _ _) | with_reducible apply Dev.KeepsBut.then (Dev.lastCode_keeps _ _ _) | with_reducible apply Dev.KeepsBut.then (Dev.beatFail_keeps _ _ _ _) | with_reducible apply Dev.KeepsBut.then (Dev.massifPop_keeps _) | (with_reducible apply Dev.KeepsBut.foldl; intro _ _) | (with_reducible apply Dev.KeepsBut.foldl_snd; intro _ _) | split | decide | (with_reducible intro _) | (dsimp only)

theorem Dev.sliding_keeps (d : Dev) (op : Nat) (bad1 : List Byte → Bool) : d.KeepsBut [.regs, .mem, .dram, .cricket, .massif, .weevil, .freeCtr] (Dev.sliding d op bad1) := by
  unfold Dev.sliding
  try dsimp only
  repeat' first | with_reducible apply Dev.KeepsBut.refl | with_reducible apply Dev.KeepsBut.then (Dev.engRead_keeps _ _ _) | with_reducible apply Dev.KeepsBut.then (Dev.massifFail_keeps _ _ _ _) | with_reducible apply Dev.KeepsBut.then (Dev.massifStart_keeps _ _) | with_reducible apply Dev.KeepsBut.then (Dev.listFail_keeps _ _ _ _) | (with_reducible apply Dev.KeepsBut.foldl; intro _ _) | (with_reducible apply Dev.KeepsBut.foldl_snd; intro _ _) | split | decide | (with_reducible intro _) | (dsimp only)

theorem Dev.windowFetchEnd_keeps (d : Dev) : d.KeepsBut [.regs, .mem, .dram, .cricket, .massif, .col, .freeCtr] (Dev.windowFetchEnd d) := by
  unfold Dev.windowFetchEnd
  try dsimp only
  repeat' first | with_reducible apply Dev.KeepsBut.refl | with_reducible apply Dev.KeepsBut.then (Dev.stageCheck_keeps _ _) | with_reducible apply Dev.KeepsBut.then (Dev.colBusy_keeps _ _) | with_reducible apply Dev.KeepsBut.then (Dev.placeOperand_keeps _ _ _ _ _ _) | with_reducible apply Dev.KeepsBut.then (Dev.touchAll_keeps _ _) | (with_reducible apply Dev.KeepsBut.foldl; intro _ _) | (with_reducible apply Dev.KeepsBut.foldl_snd; intro _ _) | with_reducible apply Dev.keeps_massif | simp only [Dev.keeps_mk] | split | decide | (with_reducible intro _) | (dsimp only)

theorem Dev.stageTile_keeps (d : Dev) (b : List Byte) (g : Geo) (t : Nat × Nat) : d.KeepsBut [.regs, .massif, .freeCtr] (Dev.stageTile d b g t) := by
  unfold Dev.stageTile
  try dsimp only
  repeat' first | with_reducible apply Dev.KeepsBut.refl | with_reducible apply Dev.KeepsBut.then (Dev.countPlaced_keeps _ _ _) | with_reducible apply Dev.KeepsBut.then (Dev.csOpen_keeps _ _ _ _) | (with_reducible apply Dev.KeepsBut.foldl; intro _ _) | (with_reducible apply Dev.KeepsBut.foldl_snd; intro _ _) | split | decide | (with_reducible intro _) | (dsimp only)

theorem Dev.waveFoldEnd_keeps (d : Dev) (f : Nat) : d.KeepsBut [.regs, .mem, .dram, .cricket, .massif, .col, .freeCtr] (Dev.waveFoldEnd d f) := by
  unfold Dev.waveFoldEnd
  try dsimp only
  repeat' first | with_reducible apply Dev.KeepsBut.refl | with_reducible apply Dev.KeepsBut.then (Dev.failWord_keeps _ _) | with_reducible apply Dev.KeepsBut.then (Dev.endFold_keeps _ _ _ _ _ _) | with_reducible apply Dev.KeepsBut.then (Dev.stageCheck_keeps _ _) | with_reducible apply Dev.KeepsBut.then (Dev.colBusy_keeps _ _) | with_reducible apply Dev.KeepsBut.then (Dev.touchAll_keeps _ _) | with_reducible apply Dev.KeepsBut.then (Dev.stageTile_keeps _ _ _ _) | (with_reducible apply Dev.KeepsBut.foldl; intro _ _) | (with_reducible apply Dev.KeepsBut.foldl_snd; intro _ _) | split | decide | (with_reducible intro _) | (dsimp only)

end Sys2Proof.Machine
end

