-- ==== Sys2Proof/Laws/KeepsModule.lean ====
section
/-!
SUPPORT. Which parts of the device the operations of Machine/Module.lean may change.
-/
namespace Sys2Proof.Machine

theorem Dev.setStage_keeps (d : Dev) (n : Nat) : d.KeepsBut [.regs] (Dev.setStage d n) := by
  unfold Dev.setStage
  try dsimp only
  repeat' first | with_reducible apply Dev.KeepsBut.refl | with_reducible apply Dev.KeepsBut.then (Dev.setFld_keeps _ _ _ _ _) | with_reducible apply Dev.KeepsBut.then (Dev.irq_keeps _ _ _) | (with_reducible apply Dev.KeepsBut.foldl; intro _ _) | (with_reducible apply Dev.KeepsBut.foldl_snd; intro _ _) | split | decide | (with_reducible intro _) | (dsimp only)

theorem Dev.tryCharge_keeps (d : Dev) : d.KeepsBut [.regs, .module] (Dev.tryCharge d) := by
  unfold Dev.tryCharge
  try dsimp only
  repeat' first | with_reducible apply Dev.KeepsBut.refl | with_reducible apply Dev.KeepsBut.then (Dev.setStage_keeps _ _) | (with_reducible apply Dev.KeepsBut.foldl; intro _ _) | (with_reducible apply Dev.KeepsBut.foldl_snd; intro _ _) | with_reducible apply Dev.keeps_module | simp only [Dev.keeps_mk] | split | decide | (with_reducible intro _) | (dsimp only)

theorem Dev.stopPower_keeps (d : Dev) : d.KeepsBut [.regs, .bus, .module, .apex, .ascent, .trust, .host, .mem, .dram, .cricket, .massif, .weevil, .col, .scarab, .talus, .stag, .hive, .forager, .link, .power, .firefly, .enPend, .freeCtr] (Dev.stopPower d) := by
  unfold Dev.stopPower
  try dsimp only
  repeat' first | with_reducible apply Dev.KeepsBut.refl | with_reducible apply Dev.KeepsBut.then (Dev.powerOff_keeps _) | (with_reducible apply Dev.KeepsBut.foldl; intro _ _) | (with_reducible apply Dev.KeepsBut.foldl_snd; intro _ _) | with_reducible apply Dev.keeps_module | simp only [Dev.keeps_mk] | split | decide | (with_reducible intro _) | (dsimp only)

theorem Dev.pwrenRise_keeps (d : Dev) : d.KeepsBut [.regs, .module] (Dev.pwrenRise d) := by
  unfold Dev.pwrenRise
  try dsimp only
  repeat' first | with_reducible apply Dev.KeepsBut.refl | with_reducible apply Dev.KeepsBut.then (Dev.tryCharge_keeps _) | (with_reducible apply Dev.KeepsBut.foldl; intro _ _) | (with_reducible apply Dev.KeepsBut.foldl_snd; intro _ _) | with_reducible apply Dev.keeps_module | simp only [Dev.keeps_mk] | split | decide | (with_reducible intro _) | (dsimp only)

theorem Dev.pwrenFall_keeps (d : Dev) : d.KeepsBut [.regs, .bus, .module, .apex, .ascent, .trust, .host, .mem, .dram, .cricket, .massif, .weevil, .col, .scarab, .talus, .stag, .hive, .forager, .link, .power, .firefly, .enPend, .freeCtr] (Dev.pwrenFall d) := by
  unfold Dev.pwrenFall
  try dsimp only
  repeat' first | with_reducible apply Dev.KeepsBut.refl | with_reducible apply Dev.KeepsBut.then (Dev.stopPower_keeps _) | (with_reducible apply Dev.KeepsBut.foldl; intro _ _) | (with_reducible apply Dev.KeepsBut.foldl_snd; intro _ _) | with_reducible apply Dev.keeps_module | simp only [Dev.keeps_mk] | split | decide | (with_reducible intro _) | (dsimp only)

theorem Dev.inputLimitCross_keeps (d : Dev) (mv : Nat) : d.KeepsBut [.regs, .bus, .module, .apex, .ascent, .trust, .host, .mem, .dram, .cricket, .massif, .weevil, .col, .scarab, .talus, .stag, .hive, .forager, .link, .power, .firefly, .enPend, .freeCtr] (Dev.inputLimitCross d mv) := by
  unfold Dev.inputLimitCross
  try dsimp only
  repeat' first | with_reducible apply Dev.KeepsBut.refl | with_reducible apply Dev.KeepsBut.then (Dev.tryCharge_keeps _) | with_reducible apply Dev.KeepsBut.then (Dev.stopPower_keeps _) | (with_reducible apply Dev.KeepsBut.foldl; intro _ _) | (with_reducible apply Dev.KeepsBut.foldl_snd; intro _ _) | with_reducible apply Dev.keeps_module | simp only [Dev.keeps_mk] | split | decide | (with_reducible intro _) | (dsimp only)

theorem Dev.inputMonitorStart_keeps (d : Dev) (mv : Nat) : d.KeepsBut [.regs, .bus, .module, .apex, .ascent, .trust, .host, .mem, .dram, .cricket, .massif, .weevil, .col, .scarab, .talus, .stag, .hive, .forager, .link, .power, .firefly, .enPend, .freeCtr] (Dev.inputMonitorStart d mv) := by
  unfold Dev.inputMonitorStart
  try dsimp only
  repeat' first | with_reducible apply Dev.KeepsBut.refl | with_reducible apply Dev.KeepsBut.then (Dev.stopPower_keeps _) | with_reducible apply Dev.KeepsBut.then (Dev.inputLimitCross_keeps _ _) | (with_reducible apply Dev.KeepsBut.foldl; intro _ _) | (with_reducible apply Dev.KeepsBut.foldl_snd; intro _ _) | with_reducible apply Dev.keeps_module | ((with_reducible apply Dev.keeps_mk_module); (case g => intro p hp; cases p <;> first | exact absurd hp (by decide) | rfl)) | ((with_reducible apply Dev.keeps_mk_bus); (case g => intro p hp; cases p <;> first | exact absurd hp (by decide) | rfl)) | ((with_reducible apply Dev.keeps_mk_power); (case g => intro p hp; cases p <;> first | exact absurd hp (by decide) | rfl)) | simp only [Dev.keeps_mk] | split | decide | (with_reducible intro _) | (dsimp only)

theorem Dev.bulkChargeDone_keeps (d : Dev) : d.KeepsBut [.module] (Dev.bulkChargeDone d) := by
  unfold Dev.bulkChargeDone
  try dsimp only
  repeat' first | with_reducible apply Dev.KeepsBut.refl | (with_reducible apply Dev.KeepsBut.foldl; intro _ _) | (with_reducible apply Dev.KeepsBut.foldl_snd; intro _ _) | with_reducible apply Dev.keeps_module | simp only [Dev.keeps_mk] | split | decide | (with_reducible intro _) | (dsimp only)

theorem Dev.pwrgdRise_keeps (d : Dev) : d.KeepsBut [.regs, .module, .apex] (Dev.pwrgdRise d) := by
  unfold Dev.pwrgdRise
  try dsimp only
  repeat' first | with_reducible apply Dev.KeepsBut.refl | with_reducible apply Dev.KeepsBut.then (Dev.setStage_keeps _ _) | (with_reducible apply Dev.KeepsBut.foldl; intro _ _) | (with_reducible apply Dev.KeepsBut.foldl_snd; intro _ _) | with_reducible apply Dev.keeps_apex_module | ((with_reducible apply Dev.keeps_mk_module); (case g => intro p hp; cases p <;> first | exact absurd hp (by decide) | rfl)) | ((with_reducible apply Dev.keeps_mk_bus); (case g => intro p hp; cases p <;> first | exact absurd hp (by decide) | rfl)) | ((with_reducible apply Dev.keeps_mk_power); (case g => intro p hp; cases p <;> first | exact absurd hp (by decide) | rfl)) | simp only [Dev.keeps_mk] | split | decide | (with_reducible intro _) | (dsimp only)

theorem Dev.thermalTrip_keeps (d : Dev) : d.KeepsBut [.regs, .bus, .module, .apex, .ascent, .trust, .host, .mem, .dram, .cricket, .massif, .weevil, .col, .scarab, .talus, .stag, .hive, .forager, .link, .power, .firefly, .enPend, .freeCtr] (Dev.thermalTrip d) := by
  unfold Dev.thermalTrip
  try dsimp only
  repeat' first | with_reducible apply Dev.KeepsBut.refl | with_reducible apply Dev.KeepsBut.then (Dev.stopPower_keeps _) | (with_reducible apply Dev.KeepsBut.foldl; intro _ _) | (with_reducible apply Dev.KeepsBut.foldl_snd; intro _ _) | with_reducible apply Dev.keeps_module | simp only [Dev.keeps_mk] | split | decide | (with_reducible intro _) | (dsimp only)

theorem Dev.tripLatchClear_keeps (d : Dev) (x : TripClear) : d.KeepsBut [.module] (Dev.tripLatchClear d x) := by
  unfold Dev.tripLatchClear
  try dsimp only
  repeat' first | with_reducible apply Dev.KeepsBut.refl | (with_reducible apply Dev.KeepsBut.foldl; intro _ _) | (with_reducible apply Dev.KeepsBut.foldl_snd; intro _ _) | with_reducible apply Dev.keeps_module | ((with_reducible apply Dev.keeps_mk_module); (case g => intro p hp; cases p <;> first | exact absurd hp (by decide) | rfl)) | ((with_reducible apply Dev.keeps_mk_bus); (case g => intro p hp; cases p <;> first | exact absurd hp (by decide) | rfl)) | ((with_reducible apply Dev.keeps_mk_power); (case g => intro p hp; cases p <;> first | exact absurd hp (by decide) | rfl)) | simp only [Dev.keeps_mk] | split | decide | (with_reducible intro _) | (dsimp only)

theorem Dev.perstAssert_keeps (d : Dev) : d.KeepsBut [.regs, .bus, .module, .apex, .ascent, .trust, .host, .mem, .dram, .cricket, .massif, .weevil, .col, .scarab, .talus, .stag, .hive, .forager, .link, .power, .firefly, .enPend, .freeCtr] (Dev.perstAssert d) := by
  unfold Dev.perstAssert
  try dsimp only
  repeat' first | with_reducible apply Dev.KeepsBut.refl | with_reducible apply Dev.KeepsBut.then (Dev.setNum_keeps _ _ _) | with_reducible apply Dev.KeepsBut.then (Dev.goDark_keeps _) | (with_reducible apply Dev.KeepsBut.foldl; intro _ _) | (with_reducible apply Dev.KeepsBut.foldl_snd; intro _ _) | with_reducible apply Dev.keeps_module | ((with_reducible apply Dev.keeps_mk_module); (case g => intro p hp; cases p <;> first | exact absurd hp (by decide) | rfl)) | ((with_reducible apply Dev.keeps_mk_bus); (case g => intro p hp; cases p <;> first | exact absurd hp (by decide) | rfl)) | ((with_reducible apply Dev.keeps_mk_power); (case g => intro p hp; cases p <;> first | exact absurd hp (by decide) | rfl)) | simp only [Dev.keeps_mk] | split | decide | (with_reducible intro _) | (dsimp only)

theorem Dev.bootRomStart_keeps (d : Dev) : d.KeepsBut [.regs, .module, .trust] (Dev.bootRomStart d) := by
  unfold Dev.bootRomStart
  try dsimp only
  repeat' first | with_reducible apply Dev.KeepsBut.refl | with_reducible apply Dev.KeepsBut.then (Dev.setNum_keeps _ _ _) | with_reducible apply Dev.KeepsBut.then (Dev.setFld_keeps _ _ _ _ _) | with_reducible apply Dev.KeepsBut.then (Dev.readyAll_keeps _ _ _) | with_reducible apply Dev.KeepsBut.then (Dev.setStage_keeps _ _) | (with_reducible apply Dev.KeepsBut.foldl; intro _ _) | (with_reducible apply Dev.KeepsBut.foldl_snd; intro _ _) | with_reducible apply Dev.keeps_module_trust | ((with_reducible apply Dev.keeps_mk_module); (case g => intro p hp; cases p <;> first | exact absurd hp (by decide) | rfl)) | ((with_reducible apply Dev.keeps_mk_bus); (case g => intro p hp; cases p <;> first | exact absurd hp (by decide) | rfl)) | ((with_reducible apply Dev.keeps_mk_power); (case g => intro p hp; cases p <;> first | exact absurd hp (by decide) | rfl)) | simp only [Dev.keeps_mk] | split | decide | (with_reducible intro _) | (dsimp only)

theorem Dev.latchStraps_keeps (d : Dev) (bootsel : BitVec 2) (i3c : BitVec 2) : d.KeepsBut [.regs, .module] (Dev.latchStraps d bootsel i3c) := by
  unfold Dev.latchStraps
  try dsimp only
  repeat' first | with_reducible apply Dev.KeepsBut.refl | with_reducible apply Dev.KeepsBut.then (Dev.setNum_keeps _ _ _) | with_reducible apply Dev.KeepsBut.then (Dev.err_keeps _ _ _) | (with_reducible apply Dev.KeepsBut.foldl; intro _ _) | (with_reducible apply Dev.KeepsBut.foldl_snd; intro _ _) | with_reducible apply Dev.keeps_module | simp only [Dev.keeps_mk] | split | decide | (with_reducible intro _) | (dsimp only)

theorem Dev.perstDeassert_keeps (d : Dev) (bootsel : BitVec 2) (i3c : BitVec 2) : d.KeepsBut [.regs, .module, .trust] (Dev.perstDeassert d bootsel i3c) := by
  unfold Dev.perstDeassert
  try dsimp only
  repeat' first | with_reducible apply Dev.KeepsBut.refl | with_reducible apply Dev.KeepsBut.then (Dev.bootRomStart_keeps _) | with_reducible apply Dev.KeepsBut.then (Dev.latchStraps_keeps _ _ _) | (with_reducible apply Dev.KeepsBut.foldl; intro _ _) | (with_reducible apply Dev.KeepsBut.foldl_snd; intro _ _) | with_reducible apply Dev.keeps_module | simp only [Dev.keeps_mk] | split | decide | (with_reducible intro _) | (dsimp only)

end Sys2Proof.Machine
end

