-- ==== Sys2Proof/Laws/KeepsApex.lean ====
section
/-!
SUPPORT. Which parts of the device the operations of Machine/Apex.lean may change.
-/
namespace Sys2Proof.Machine

theorem Dev.clkinOk_keeps (d : Dev) : d.KeepsBut [.regs, .apex] (Dev.clkinOk d) := by
  unfold Dev.clkinOk
  try dsimp only
  repeat' first | with_reducible apply Dev.KeepsBut.refl | with_reducible apply Dev.KeepsBut.then (Dev.raise_keeps _ _ _) | (with_reducible apply Dev.KeepsBut.foldl; intro _ _) | (with_reducible apply Dev.KeepsBut.foldl_snd; intro _ _) | with_reducible apply Dev.keeps_apex | simp only [Dev.keeps_mk] | split | decide | (with_reducible intro _) | (dsimp only)

theorem Dev.vcoCalibrationDone_keeps (d : Dev) : d.KeepsBut [.apex] (Dev.vcoCalibrationDone d) := by
  unfold Dev.vcoCalibrationDone
  try dsimp only
  repeat' first | with_reducible apply Dev.KeepsBut.refl | (with_reducible apply Dev.KeepsBut.foldl; intro _ _) | (with_reducible apply Dev.KeepsBut.foldl_snd; intro _ _) | with_reducible apply Dev.keeps_apex | simp only [Dev.keeps_mk] | split | decide | (with_reducible intro _) | (dsimp only)

theorem Dev.apexLock_keeps (d : Dev) (cycles : Nat) : d.KeepsBut [.regs, .apex] (Dev.apexLock d cycles) := by
  unfold Dev.apexLock
  try dsimp only
  repeat' first | with_reducible apply Dev.KeepsBut.refl | with_reducible apply Dev.KeepsBut.then (Dev.setNum_keeps _ _ _) | with_reducible apply Dev.KeepsBut.then (Dev.raise_keeps _ _ _) | with_reducible apply Dev.KeepsBut.then (Dev.irq_keeps _ _ _) | with_reducible apply Dev.KeepsBut.then (Dev.setReady_keeps _ _ _) | (with_reducible apply Dev.KeepsBut.foldl; intro _ _) | (with_reducible apply Dev.KeepsBut.foldl_snd; intro _ _) | with_reducible apply Dev.keeps_apex | simp only [Dev.keeps_mk] | split | decide | (with_reducible intro _) | (dsimp only)

theorem Dev.apexLockRetry_keeps (d : Dev) : d.KeepsBut [.apex] (Dev.apexLockRetry d) := by
  unfold Dev.apexLockRetry
  try dsimp only
  repeat' first | with_reducible apply Dev.KeepsBut.refl | (with_reducible apply Dev.KeepsBut.foldl; intro _ _) | (with_reducible apply Dev.KeepsBut.foldl_snd; intro _ _) | with_reducible apply Dev.keeps_apex | simp only [Dev.keeps_mk] | split | decide | (with_reducible intro _) | (dsimp only)

theorem Dev.dividerRelease_keeps (d : Dev) : d.KeepsBut [.apex] (Dev.dividerRelease d) := by
  unfold Dev.dividerRelease
  try dsimp only
  repeat' first | with_reducible apply Dev.KeepsBut.refl | (with_reducible apply Dev.KeepsBut.foldl; intro _ _) | (with_reducible apply Dev.KeepsBut.foldl_snd; intro _ _) | with_reducible apply Dev.keeps_apex | simp only [Dev.keeps_mk] | split | decide | (with_reducible intro _) | (dsimp only)

theorem Dev.blockResetRelease_keeps (d : Dev) : d.KeepsBut [.regs, .module, .apex, .trust] (Dev.blockResetRelease d) := by
  unfold Dev.blockResetRelease
  try dsimp only
  repeat' first | with_reducible apply Dev.KeepsBut.refl | with_reducible apply Dev.KeepsBut.then (Dev.bootRomStart_keeps _) | (with_reducible apply Dev.KeepsBut.foldl; intro _ _) | (with_reducible apply Dev.KeepsBut.foldl_snd; intro _ _) | with_reducible apply Dev.keeps_apex | simp only [Dev.keeps_mk] | split | decide | (with_reducible intro _) | (dsimp only)

theorem Dev.apexLockLoss_keeps (d : Dev) : d.KeepsBut [.regs, .bus, .module, .apex, .ascent, .trust, .host, .mem, .dram, .cricket, .massif, .weevil, .col, .scarab, .talus, .stag, .hive, .forager, .link, .power, .firefly, .enPend, .freeCtr] (Dev.apexLockLoss d) := by
  unfold Dev.apexLockLoss
  try dsimp only
  repeat' first | with_reducible apply Dev.KeepsBut.refl | with_reducible apply Dev.KeepsBut.then (Dev.setNum_keeps _ _ _) | with_reducible apply Dev.KeepsBut.then (Dev.setFld_keeps _ _ _ _ _) | with_reducible apply Dev.KeepsBut.then (Dev.raise_keeps _ _ _) | with_reducible apply Dev.KeepsBut.then (Dev.err_keeps _ _ _) | with_reducible apply Dev.KeepsBut.then (Dev.setReady_keeps _ _ _) | with_reducible apply Dev.KeepsBut.then (Dev.goDark_keeps _) | (with_reducible apply Dev.KeepsBut.foldl; intro _ _) | (with_reducible apply Dev.KeepsBut.foldl_snd; intro _ _) | with_reducible apply Dev.keeps_apex | simp only [Dev.keeps_mk] | split | decide | (with_reducible intro _) | (dsimp only)

theorem Dev.writeClkout_keeps (d : Dev) (v : Word) : d.KeepsBut [.regs, .apex] (Dev.writeClkout d v) := by
  unfold Dev.writeClkout
  try dsimp only
  repeat' first | with_reducible apply Dev.KeepsBut.refl | with_reducible apply Dev.KeepsBut.then (Dev.wr_keeps _ _ _) | (with_reducible apply Dev.KeepsBut.foldl; intro _ _) | (with_reducible apply Dev.KeepsBut.foldl_snd; intro _ _) | with_reducible apply Dev.keeps_apex | simp only [Dev.keeps_mk] | split | decide | (with_reducible intro _) | (dsimp only)

theorem Dev.writeFcctrl_keeps (d : Dev) (v : Word) : d.KeepsBut [.regs, .apex] (Dev.writeFcctrl d v) := by
  unfold Dev.writeFcctrl
  try dsimp only
  repeat' first | with_reducible apply Dev.KeepsBut.refl | with_reducible apply Dev.KeepsBut.then (Dev.setFld_keeps _ _ _ _ _) | with_reducible apply Dev.KeepsBut.then (Dev.raise_keeps _ _ _) | with_reducible apply Dev.KeepsBut.then (Dev.drop_keeps _ _ _) | (with_reducible apply Dev.KeepsBut.foldl; intro _ _) | (with_reducible apply Dev.KeepsBut.foldl_snd; intro _ _) | with_reducible apply Dev.keeps_apex | simp only [Dev.keeps_mk] | split | decide | (with_reducible intro _) | (dsimp only)

theorem Dev.fcGateEnd_keeps (d : Dev) (counts : List Nat) : d.KeepsBut [.regs, .apex] (Dev.fcGateEnd d counts) := by
  unfold Dev.fcGateEnd
  try dsimp only
  repeat' first | with_reducible apply Dev.KeepsBut.refl | with_reducible apply Dev.KeepsBut.then (Dev.setFld_keeps _ _ _ _ _) | with_reducible apply Dev.KeepsBut.then (Dev.raise_keeps _ _ _) | with_reducible apply Dev.KeepsBut.then (Dev.drop_keeps _ _ _) | with_reducible apply Dev.KeepsBut.then (Dev.err_keeps _ _ _) | with_reducible apply Dev.KeepsBut.then (Dev.irq_keeps _ _ _) | (with_reducible apply Dev.KeepsBut.foldl; intro _ _) | (with_reducible apply Dev.KeepsBut.foldl_snd; intro _ _) | with_reducible apply Dev.keeps_apex | simp only [Dev.keeps_mk] | split | decide | (with_reducible intro _) | (dsimp only)

end Sys2Proof.Machine
end

