-- ==== Sys2Proof/Laws/KeepsAscent.lean ====
section
/-!
SUPPORT. Which parts of the device the operations of Machine/Ascent.lean may change.
-/
namespace Sys2Proof.Machine

theorem Dev.loadMap_keeps (d : Dev) : d.KeepsBut [.regs, .ascent] (Dev.loadMap d) := by
  unfold Dev.loadMap
  try dsimp only
  repeat' first | with_reducible apply Dev.KeepsBut.refl | with_reducible apply Dev.KeepsBut.then (Dev.refreshMapstat_keeps _) | (with_reducible apply Dev.KeepsBut.foldl; intro _ _) | (with_reducible apply Dev.KeepsBut.foldl_snd; intro _ _) | with_reducible apply Dev.keeps_ascent | simp only [Dev.keeps_mk] | split | decide | (with_reducible intro _) | (dsimp only)

theorem Dev.fuseRead_keeps (d : Dev) : d.KeepsBut [.regs, .ascent, .trust, .massif, .weevil, .scarab, .talus] (Dev.fuseRead d) := by
  unfold Dev.fuseRead
  try dsimp only
  repeat' first | with_reducible apply Dev.KeepsBut.refl | with_reducible apply Dev.KeepsBut.then (Dev.setFld_keeps _ _ _ _ _) | with_reducible apply Dev.KeepsBut.then (Dev.clearOnDie_keeps _) | with_reducible apply Dev.KeepsBut.then (Dev.setStage_keeps _ _) | with_reducible apply Dev.KeepsBut.then (Dev.loadMap_keeps _) | (with_reducible apply Dev.KeepsBut.foldl; intro _ _) | (with_reducible apply Dev.KeepsBut.foldl_snd; intro _ _) | with_reducible apply Dev.keeps_massif_trust | ((with_reducible apply Dev.keeps_mk_module); (case g => intro p hp; cases p <;> first | exact absurd hp (by decide) | rfl)) | ((with_reducible apply Dev.keeps_mk_bus); (case g => intro p hp; cases p <;> first | exact absurd hp (by decide) | rfl)) | ((with_reducible apply Dev.keeps_mk_power); (case g => intro p hp; cases p <;> first | exact absurd hp (by decide) | rfl)) | simp only [Dev.keeps_mk] | split | decide | (with_reducible intro _) | (dsimp only)

theorem Dev.fuseReadDone_keeps (d : Dev) : d.KeepsBut [.regs, .trust] (Dev.fuseReadDone d) := by
  unfold Dev.fuseReadDone
  try dsimp only
  repeat' first | with_reducible apply Dev.KeepsBut.refl | with_reducible apply Dev.KeepsBut.then (Dev.readyAll_keeps _ _ _) | with_reducible apply Dev.KeepsBut.then (Dev.setStage_keeps _ _) | (with_reducible apply Dev.KeepsBut.foldl; intro _ _) | (with_reducible apply Dev.KeepsBut.foldl_snd; intro _ _) | with_reducible apply Dev.keeps_trust | simp only [Dev.keeps_mk] | split | decide | (with_reducible intro _) | (dsimp only)

theorem Dev.swarmPosition_keeps (d : Dev) : d.KeepsBut [.regs] (Dev.swarmPosition d) := by
  unfold Dev.swarmPosition
  try dsimp only
  repeat' first | with_reducible apply Dev.KeepsBut.refl | with_reducible apply Dev.KeepsBut.then (Dev.position_keeps _ _ _) | (with_reducible apply Dev.KeepsBut.foldl; intro _ _) | (with_reducible apply Dev.KeepsBut.foldl_snd; intro _ _) | split | decide | (with_reducible intro _) | (dsimp only)

theorem Dev.arrive_keeps (d : Dev) (sent : DWord) (l : List (Nat × DWord)) : d.KeepsBut [.regs, .ascent] (Dev.arrive d sent l) := by
  unfold Dev.arrive
  try dsimp only
  repeat' first | with_reducible apply Dev.KeepsBut.refl | with_reducible apply Dev.KeepsBut.then (Dev.swarmPosition_keeps _) | (with_reducible apply Dev.KeepsBut.foldl; intro _ _) | (with_reducible apply Dev.KeepsBut.foldl_snd; intro _ _) | with_reducible apply Dev.keeps_ascent | simp only [Dev.keeps_mk] | split | decide | (with_reducible intro _) | (dsimp only)

theorem Dev.writeSwarmctrl_keeps (d : Dev) (v0 : Word) : d.KeepsBut [.regs, .ascent] (Dev.writeSwarmctrl d v0) := by
  unfold Dev.writeSwarmctrl
  try dsimp only
  repeat' first | with_reducible apply Dev.KeepsBut.refl | with_reducible apply Dev.KeepsBut.then (Dev.setNum_keeps _ _ _) | with_reducible apply Dev.KeepsBut.then (Dev.err_keeps _ _ _) | with_reducible apply Dev.KeepsBut.then (Dev.startLong_keeps _ _ _) | with_reducible apply Dev.KeepsBut.then (Dev.setStage_keeps _ _) | (with_reducible apply Dev.KeepsBut.foldl; intro _ _) | (with_reducible apply Dev.KeepsBut.foldl_snd; intro _ _) | with_reducible apply Dev.keeps_ascent | simp only [Dev.keeps_mk] | split | decide | (with_reducible intro _) | (dsimp only)

theorem Dev.partitionsReady_keeps (d : Dev) : d.KeepsBut [.regs] (Dev.partitionsReady d) := by
  unfold Dev.partitionsReady
  try dsimp only
  repeat' first | with_reducible apply Dev.KeepsBut.refl | with_reducible apply Dev.KeepsBut.then (Dev.readyAll_keeps _ _ _) | (with_reducible apply Dev.KeepsBut.foldl; intro _ _) | (with_reducible apply Dev.KeepsBut.foldl_snd; intro _ _) | split | decide | (with_reducible intro _) | (dsimp only)

theorem Dev.swarmPassEnd_keeps (d : Dev) (l : List (Nat × DWord)) : d.KeepsBut [.regs, .ascent] (Dev.swarmPassEnd d l) := by
  unfold Dev.swarmPassEnd
  try dsimp only
  repeat' first | with_reducible apply Dev.KeepsBut.refl | with_reducible apply Dev.KeepsBut.then (Dev.arrive_keeps _ _ _) | with_reducible apply Dev.KeepsBut.then (Dev.partitionsReady_keeps _) | (with_reducible apply Dev.KeepsBut.foldl; intro _ _) | (with_reducible apply Dev.KeepsBut.foldl_snd; intro _ _) | with_reducible apply Dev.keeps_ascent | simp only [Dev.keeps_mk] | split | decide | (with_reducible intro _) | (dsimp only)

theorem Dev.swarmDone_keeps (d : Dev) : d.KeepsBut [.regs, .ascent] (Dev.swarmDone d) := by
  unfold Dev.swarmDone
  try dsimp only
  repeat' first | with_reducible apply Dev.KeepsBut.refl | with_reducible apply Dev.KeepsBut.then (Dev.setFld_keeps _ _ _ _ _) | with_reducible apply Dev.KeepsBut.then (Dev.endLong_keeps _ _ _) | with_reducible apply Dev.KeepsBut.then (Dev.readyAll_keeps _ _ _) | (with_reducible apply Dev.KeepsBut.foldl; intro _ _) | (with_reducible apply Dev.KeepsBut.foldl_snd; intro _ _) | with_reducible apply Dev.keeps_ascent | simp only [Dev.keeps_mk] | split | decide | (with_reducible intro _) | (dsimp only)

theorem Dev.swarmGatherEnd_keeps (d : Dev) : d.KeepsBut [.regs, .ascent] (Dev.swarmGatherEnd d) := by
  unfold Dev.swarmGatherEnd
  try dsimp only
  repeat' first | with_reducible apply Dev.KeepsBut.refl | with_reducible apply Dev.KeepsBut.then (Dev.setFld_keeps _ _ _ _ _) | with_reducible apply Dev.KeepsBut.then (Dev.swarmDone_keeps _) | (with_reducible apply Dev.KeepsBut.foldl; intro _ _) | (with_reducible apply Dev.KeepsBut.foldl_snd; intro _ _) | with_reducible apply Dev.keeps_ascent | ((with_reducible apply Dev.keeps_mk_module); (case g => intro p hp; cases p <;> first | exact absurd hp (by decide) | rfl)) | ((with_reducible apply Dev.keeps_mk_bus); (case g => intro p hp; cases p <;> first | exact absurd hp (by decide) | rfl)) | ((with_reducible apply Dev.keeps_mk_power); (case g => intro p hp; cases p <;> first | exact absurd hp (by decide) | rfl)) | simp only [Dev.keeps_mk] | split | decide | (with_reducible intro _) | (dsimp only)

theorem Dev.unicastRepairEnd_keeps (d : Dev) (l : List (Nat × DWord)) : d.KeepsBut [.regs, .ascent] (Dev.unicastRepairEnd d l) := by
  unfold Dev.unicastRepairEnd
  try dsimp only
  repeat' first | with_reducible apply Dev.KeepsBut.refl | with_reducible apply Dev.KeepsBut.then (Dev.handleCell_keeps _ _ _) | with_reducible apply Dev.KeepsBut.then (Dev.refreshMapstat_keeps _) | with_reducible apply Dev.KeepsBut.then (Dev.arrive_keeps _ _ _) | with_reducible apply Dev.KeepsBut.then (Dev.swarmDone_keeps _) | (with_reducible apply Dev.KeepsBut.foldl; intro _ _) | (with_reducible apply Dev.KeepsBut.foldl_snd; intro _ _) | split | decide | (with_reducible intro _) | (dsimp only)

theorem Dev.setStkOp_keeps (d : Dev) (s : Nat) (o : Option StkOp) : d.KeepsBut [.mem] (Dev.setStkOp d s o) := by
  unfold Dev.setStkOp
  try dsimp only
  repeat' first | with_reducible apply Dev.KeepsBut.refl | (with_reducible apply Dev.KeepsBut.foldl; intro _ _) | (with_reducible apply Dev.KeepsBut.foldl_snd; intro _ _) | with_reducible apply Dev.keeps_memRest | simp only [Dev.keeps_mk] | split | decide | (with_reducible intro _) | (dsimp only)

theorem Dev.startTraining_keeps (d : Dev) (s : Nat) (keep : Bool) (attempt : Nat) : d.KeepsBut [.regs, .mem] (Dev.startTraining d s keep attempt) := by
  unfold Dev.startTraining
  try dsimp only
  repeat' first | with_reducible apply Dev.KeepsBut.refl | with_reducible apply Dev.KeepsBut.then (Dev.setFld_keeps _ _ _ _ _) | with_reducible apply Dev.KeepsBut.then (Dev.startLong_keeps _ _ _) | with_reducible apply Dev.KeepsBut.then (Dev.position_keeps _ _ _) | with_reducible apply Dev.KeepsBut.then (Dev.setStkOp_keeps _ _ _) | (with_reducible apply Dev.KeepsBut.foldl; intro _ _) | (with_reducible apply Dev.KeepsBut.foldl_snd; intro _ _) | split | decide | (with_reducible intro _) | (dsimp only)

theorem Dev.stage7Start_keeps (d : Dev) : d.KeepsBut [.regs, .ascent, .mem] (Dev.stage7Start d) := by
  unfold Dev.stage7Start
  try dsimp only
  repeat' first | with_reducible apply Dev.KeepsBut.refl | with_reducible apply Dev.KeepsBut.then (Dev.setStage_keeps _ _) | with_reducible apply Dev.KeepsBut.then (Dev.startTraining_keeps _ _ _ _) | (with_reducible apply Dev.KeepsBut.foldl; intro _ _) | (with_reducible apply Dev.KeepsBut.foldl_snd; intro _ _) | with_reducible apply Dev.keeps_ascent | simp only [Dev.keeps_mk] | split | decide | (with_reducible intro _) | (dsimp only)

theorem Dev.forReady_keeps (d : Dev) : d.KeepsBut [.regs] (Dev.forReady d) := by
  unfold Dev.forReady
  try dsimp only
  repeat' first | with_reducible apply Dev.KeepsBut.refl | with_reducible apply Dev.KeepsBut.then (Dev.readyAll_keeps _ _ _) | (with_reducible apply Dev.KeepsBut.foldl; intro _ _) | (with_reducible apply Dev.KeepsBut.foldl_snd; intro _ _) | split | decide | (with_reducible intro _) | (dsimp only)

theorem Dev.stackTrainingStepEnd_keeps (d : Dev) (s : Nat) (pass : Bool) (failch : Word) : d.KeepsBut [.regs, .mem, .dram, .freeCtr] (Dev.stackTrainingStepEnd d s pass failch) := by
  unfold Dev.stackTrainingStepEnd
  try dsimp only
  repeat' first | with_reducible apply Dev.KeepsBut.refl | with_reducible apply Dev.KeepsBut.then (Dev.setNum_keeps _ _ _) | with_reducible apply Dev.KeepsBut.then (Dev.setFld_keeps _ _ _ _ _) | with_reducible apply Dev.KeepsBut.then (Dev.err_keeps _ _ _) | with_reducible apply Dev.KeepsBut.then (Dev.irq_keeps _ _ _) | with_reducible apply Dev.KeepsBut.then (Dev.setFault_keeps _ _) | with_reducible apply Dev.KeepsBut.then (Dev.position_keeps _ _ _) | with_reducible apply Dev.KeepsBut.then (Dev.endLong_keeps _ _ _) | with_reducible apply Dev.KeepsBut.then (Dev.readyAll_keeps _ _ _) | with_reducible apply Dev.KeepsBut.then (Dev.setStkOp_keeps _ _ _) | with_reducible apply Dev.KeepsBut.then (Dev.startTraining_keeps _ _ _ _) | with_reducible apply Dev.KeepsBut.then (Dev.forReady_keeps _) | (with_reducible apply Dev.KeepsBut.foldl; intro _ _) | (with_reducible apply Dev.KeepsBut.foldl_snd; intro _ _) | with_reducible apply Dev.keeps_dram | with_reducible apply Dev.keeps_memRest | with_reducible apply Dev.keeps_mem | with_reducible apply Dev.keeps_freeCtr_mem | ((with_reducible apply Dev.keeps_mk_module); (case g => intro p hp; cases p <;> first | exact absurd hp (by decide) | rfl)) | ((with_reducible apply Dev.keeps_mk_bus); (case g => intro p hp; cases p <;> first | exact absurd hp (by decide) | rfl)) | ((with_reducible apply Dev.keeps_mk_power); (case g => intro p hp; cases p <;> first | exact absurd hp (by decide) | rfl)) | simp only [Dev.keeps_mk] | split | decide | (with_reducible intro _) | (dsimp only)

theorem Dev.enableOn_keeps (d : Dev) (b : Nat) : d.KeepsBut [.regs, .enPend] (Dev.enableOn d b) := by
  unfold Dev.enableOn
  try dsimp only
  repeat' first | with_reducible apply Dev.KeepsBut.refl | with_reducible apply Dev.KeepsBut.then (Dev.setFlag_keeps _ _ _ _) | (with_reducible apply Dev.KeepsBut.foldl; intro _ _) | (with_reducible apply Dev.KeepsBut.foldl_snd; intro _ _) | with_reducible apply Dev.keeps_enPend | simp only [Dev.keeps_mk] | split | decide | (with_reducible intro _) | (dsimp only)

theorem Dev.enableLater_keeps (d : Dev) (b : Nat) : d.KeepsBut [.regs, .enPend] (Dev.enableLater d b) := by
  unfold Dev.enableLater
  try dsimp only
  repeat' first | with_reducible apply Dev.KeepsBut.refl | with_reducible apply Dev.KeepsBut.then (Dev.enableOn_keeps _ _) | (with_reducible apply Dev.KeepsBut.foldl; intro _ _) | (with_reducible apply Dev.KeepsBut.foldl_snd; intro _ _) | with_reducible apply Dev.keeps_enPend | simp only [Dev.keeps_mk] | split | decide | (with_reducible intro _) | (dsimp only)

theorem Dev.enableOff_keeps (d : Dev) (b : Nat) : d.KeepsBut [.regs, .enPend] (Dev.enableOff d b) := by
  unfold Dev.enableOff
  try dsimp only
  repeat' first | with_reducible apply Dev.KeepsBut.refl | with_reducible apply Dev.KeepsBut.then (Dev.setFlag_keeps _ _ _ _) | (with_reducible apply Dev.KeepsBut.foldl; intro _ _) | (with_reducible apply Dev.KeepsBut.foldl_snd; intro _ _) | with_reducible apply Dev.keeps_enPend | ((with_reducible apply Dev.keeps_mk_module); (case g => intro p hp; cases p <;> first | exact absurd hp (by decide) | rfl)) | ((with_reducible apply Dev.keeps_mk_bus); (case g => intro p hp; cases p <;> first | exact absurd hp (by decide) | rfl)) | ((with_reducible apply Dev.keeps_mk_power); (case g => intro p hp; cases p <;> first | exact absurd hp (by decide) | rfl)) | simp only [Dev.keeps_mk] | split | decide | (with_reducible intro _) | (dsimp only)

theorem Dev.portOff_keeps (d : Dev) (p : Nat) : d.KeepsBut [.regs, .dram, .cricket, .link, .enPend, .freeCtr] (Dev.portOff d p) := by
  unfold Dev.portOff
  try dsimp only
  repeat' first | with_reducible apply Dev.KeepsBut.refl | with_reducible apply Dev.KeepsBut.then (Dev.lnkEnable_keeps _ _ _) | with_reducible apply Dev.KeepsBut.then (Dev.enableOff_keeps _ _) | (with_reducible apply Dev.KeepsBut.foldl; intro _ _) | (with_reducible apply Dev.KeepsBut.foldl_snd; intro _ _) | split | decide | (with_reducible intro _) | (dsimp only)

theorem Dev.stage8Start_keeps (d : Dev) : d.KeepsBut [.regs, .ascent, .dram, .cricket, .link, .enPend, .freeCtr] (Dev.stage8Start d) := by
  unfold Dev.stage8Start
  try dsimp only
  repeat' first | with_reducible apply Dev.KeepsBut.refl | with_reducible apply Dev.KeepsBut.then (Dev.lnkEnable_keeps _ _ _) | with_reducible apply Dev.KeepsBut.then (Dev.setStage_keeps _ _) | with_reducible apply Dev.KeepsBut.then (Dev.enableOn_keeps _ _) | (with_reducible apply Dev.KeepsBut.foldl; intro _ _) | (with_reducible apply Dev.KeepsBut.foldl_snd; intro _ _) | with_reducible apply Dev.keeps_ascent | simp only [Dev.keeps_mk] | split | decide | (with_reducible intro _) | (dsimp only)

theorem Dev.surveyStart_keeps (d : Dev) : d.KeepsBut [.regs, .ascent] (Dev.surveyStart d) := by
  unfold Dev.surveyStart
  try dsimp only
  repeat' first | with_reducible apply Dev.KeepsBut.refl | with_reducible apply Dev.KeepsBut.then (Dev.setStage_keeps _ _) | (with_reducible apply Dev.KeepsBut.foldl; intro _ _) | (with_reducible apply Dev.KeepsBut.foldl_snd; intro _ _) | with_reducible apply Dev.keeps_ascent | simp only [Dev.keeps_mk] | split | decide | (with_reducible intro _) | (dsimp only)

theorem Dev.cktReady_keeps (d : Dev) : d.KeepsBut [.regs] (Dev.cktReady d) := by
  unfold Dev.cktReady
  try dsimp only
  repeat' first | with_reducible apply Dev.KeepsBut.refl | with_reducible apply Dev.KeepsBut.then (Dev.setNum_keeps _ _ _) | with_reducible apply Dev.KeepsBut.then (Dev.setDegraded_keeps _ _ _) | with_reducible apply Dev.KeepsBut.then (Dev.readyAll_keeps _ _ _) | (with_reducible apply Dev.KeepsBut.foldl; intro _ _) | (with_reducible apply Dev.KeepsBut.foldl_snd; intro _ _) | split | decide | (with_reducible intro _) | (dsimp only)

theorem Dev.setClasses_keeps (d : Dev) (cs : List Nat) : d.KeepsBut [.regs] (Dev.setClasses d cs) := by
  unfold Dev.setClasses
  try dsimp only
  repeat' first | with_reducible apply Dev.KeepsBut.refl | with_reducible apply Dev.KeepsBut.then (Dev.setNum_keeps _ _ _) | (with_reducible apply Dev.KeepsBut.foldl; intro _ _) | (with_reducible apply Dev.KeepsBut.foldl_snd; intro _ _) | split | decide | (with_reducible intro _) | (dsimp only)

theorem Dev.surveyResult_keeps (d : Dev) : d.KeepsBut [.regs, .dram, .cricket, .link, .enPend, .freeCtr] (Dev.surveyResult d) := by
  unfold Dev.surveyResult
  try dsimp only
  repeat' first | with_reducible apply Dev.KeepsBut.refl | with_reducible apply Dev.KeepsBut.then (Dev.setNum_keeps _ _ _) | with_reducible apply Dev.KeepsBut.then (Dev.err_keeps _ _ _) | with_reducible apply Dev.KeepsBut.then (Dev.setReady_keeps _ _ _) | with_reducible apply Dev.KeepsBut.then (Dev.setFault_keeps _ _) | with_reducible apply Dev.KeepsBut.then (Dev.clearFault_keeps _ _) | with_reducible apply Dev.KeepsBut.then (Dev.setDegraded_keeps _ _ _) | with_reducible apply Dev.KeepsBut.then (Dev.lastCode_keeps _ _ _) | with_reducible apply Dev.KeepsBut.then (Dev.portOff_keeps _ _) | with_reducible apply Dev.KeepsBut.then (Dev.cktReady_keeps _) | with_reducible apply Dev.KeepsBut.then (Dev.setClasses_keeps _ _) | (with_reducible apply Dev.KeepsBut.foldl; intro _ _) | (with_reducible apply Dev.KeepsBut.foldl_snd; intro _ _) | split | decide | (with_reducible intro _) | (dsimp only)

theorem Dev.surveyEnd_keeps (d : Dev) : d.KeepsBut [.regs, .ascent, .dram, .cricket, .link, .enPend, .freeCtr] (Dev.surveyEnd d) := by
  unfold Dev.surveyEnd
  try dsimp only
  repeat' first | with_reducible apply Dev.KeepsBut.refl | with_reducible apply Dev.KeepsBut.then (Dev.raise_keeps _ _ _) | with_reducible apply Dev.KeepsBut.then (Dev.drop_keeps _ _ _) | with_reducible apply Dev.KeepsBut.then (Dev.irq_keeps _ _ _) | with_reducible apply Dev.KeepsBut.then (Dev.surveyResult_keeps _) | (with_reducible apply Dev.KeepsBut.foldl; intro _ _) | (with_reducible apply Dev.KeepsBut.foldl_snd; intro _ _) | with_reducible apply Dev.keeps_ascent | simp only [Dev.keeps_mk] | split | decide | (with_reducible intro _) | (dsimp only)

theorem Dev.writeSurveyctrl_keeps (d : Dev) (v : Word) : d.KeepsBut [.regs, .ascent] (Dev.writeSurveyctrl d v) := by
  unfold Dev.writeSurveyctrl
  try dsimp only
  repeat' first | with_reducible apply Dev.KeepsBut.refl | with_reducible apply Dev.KeepsBut.then (Dev.setFld_keeps _ _ _ _ _) | with_reducible apply Dev.KeepsBut.then (Dev.raise_keeps _ _ _) | (with_reducible apply Dev.KeepsBut.foldl; intro _ _) | (with_reducible apply Dev.KeepsBut.foldl_snd; intro _ _) | with_reducible apply Dev.keeps_ascent | simp only [Dev.keeps_mk] | split | decide | (with_reducible intro _) | (dsimp only)

theorem Dev.writeSvcstate_keeps (d : Dev) (v : Word) : d.KeepsBut [.regs] (Dev.writeSvcstate d v) := by
  unfold Dev.writeSvcstate
  try dsimp only
  repeat' first | with_reducible apply Dev.KeepsBut.refl | with_reducible apply Dev.KeepsBut.then (Dev.setNum_keeps _ _ _) | with_reducible apply Dev.KeepsBut.then (Dev.err_keeps _ _ _) | (with_reducible apply Dev.KeepsBut.foldl; intro _ _) | (with_reducible apply Dev.KeepsBut.foldl_snd; intro _ _) | split | decide | (with_reducible intro _) | (dsimp only)

theorem Dev.writeCellreset_keeps (d : Dev) (v : Word) : d.KeepsBut [.regs, .ascent, .dram, .cricket, .freeCtr] (Dev.writeCellreset d v) := by
  unfold Dev.writeCellreset
  try dsimp only
  repeat' first | with_reducible apply Dev.KeepsBut.refl | with_reducible apply Dev.KeepsBut.then (Dev.setNum_keeps _ _ _) | with_reducible apply Dev.KeepsBut.then (Dev.setFld_keeps _ _ _ _ _) | with_reducible apply Dev.KeepsBut.then (Dev.err_keeps _ _ _) | with_reducible apply Dev.KeepsBut.then (Dev.startReset_keeps _ _ _) | (with_reducible apply Dev.KeepsBut.foldl; intro _ _) | (with_reducible apply Dev.KeepsBut.foldl_snd; intro _ _) | split | decide | (with_reducible intro _) | (dsimp only)

theorem Dev.writeClreset_keeps (d : Dev) (v : Word) : d.KeepsBut [.regs, .ascent, .dram, .cricket, .freeCtr] (Dev.writeClreset d v) := by
  unfold Dev.writeClreset
  try dsimp only
  repeat' first | with_reducible apply Dev.KeepsBut.refl | with_reducible apply Dev.KeepsBut.then (Dev.setNum_keeps _ _ _) | with_reducible apply Dev.KeepsBut.then (Dev.setFld_keeps _ _ _ _ _) | with_reducible apply Dev.KeepsBut.then (Dev.err_keeps _ _ _) | with_reducible apply Dev.KeepsBut.then (Dev.startReset_keeps _ _ _) | (with_reducible apply Dev.KeepsBut.foldl; intro _ _) | (with_reducible apply Dev.KeepsBut.foldl_snd; intro _ _) | split | decide | (with_reducible intro _) | (dsimp only)

theorem Dev.ctrlResetPage_keeps (d : Dev) (slot : Nat) (p : Page) : d.KeepsBut [.regs, .ascent, .dram, .cricket, .freeCtr] (Dev.ctrlResetPage d slot p) := by
  unfold Dev.ctrlResetPage
  try dsimp only
  repeat' first | with_reducible apply Dev.KeepsBut.refl | with_reducible apply Dev.KeepsBut.then (Dev.raise_keeps _ _ _) | with_reducible apply Dev.KeepsBut.then (Dev.err_keeps _ _ _) | with_reducible apply Dev.KeepsBut.then (Dev.startReset_keeps _ _ _) | (with_reducible apply Dev.KeepsBut.foldl; intro _ _) | (with_reducible apply Dev.KeepsBut.foldl_snd; intro _ _) | split | decide | (with_reducible intro _) | (dsimp only)

theorem Dev.ctrlAbortPage_keeps (d : Dev) (p : Page) : d.KeepsBut [.regs, .ascent, .mem] (Dev.ctrlAbortPage d p) := by
  unfold Dev.ctrlAbortPage
  try dsimp only
  repeat' first | with_reducible apply Dev.KeepsBut.refl | with_reducible apply Dev.KeepsBut.then (Dev.drop_keeps _ _ _) | with_reducible apply Dev.KeepsBut.then (Dev.irq_keeps _ _ _) | with_reducible apply Dev.KeepsBut.then (Dev.endLong_keeps _ _ _) | with_reducible apply Dev.KeepsBut.then (Dev.setStkOp_keeps _ _ _) | (with_reducible apply Dev.KeepsBut.foldl; intro _ _) | (with_reducible apply Dev.KeepsBut.foldl_snd; intro _ _) | with_reducible apply Dev.keeps_ascent | with_reducible apply Dev.keeps_memRest | ((with_reducible apply Dev.keeps_mk_module); (case g => intro p hp; cases p <;> first | exact absurd hp (by decide) | rfl)) | ((with_reducible apply Dev.keeps_mk_bus); (case g => intro p hp; cases p <;> first | exact absurd hp (by decide) | rfl)) | ((with_reducible apply Dev.keeps_mk_power); (case g => intro p hp; cases p <;> first | exact absurd hp (by decide) | rfl)) | simp only [Dev.keeps_mk] | split | decide | (with_reducible intro _) | (dsimp only)

theorem Dev.ctrlEnablePage_keeps (d : Dev) (p : Page) (on : Bool) : d.KeepsBut [.regs, .dram, .cricket, .link, .enPend, .freeCtr] (Dev.ctrlEnablePage d p on) := by
  unfold Dev.ctrlEnablePage
  try dsimp only
  repeat' first | with_reducible apply Dev.KeepsBut.refl | with_reducible apply Dev.KeepsBut.then (Dev.startGrid_keeps _) | with_reducible apply Dev.KeepsBut.then (Dev.lnkEnable_keeps _ _ _) | with_reducible apply Dev.KeepsBut.then (Dev.enableOn_keeps _ _) | with_reducible apply Dev.KeepsBut.then (Dev.enableLater_keeps _ _) | with_reducible apply Dev.KeepsBut.then (Dev.enableOff_keeps _ _) | with_reducible apply Dev.KeepsBut.then (Dev.portOff_keeps _ _) | (with_reducible apply Dev.KeepsBut.foldl; intro _ _) | (with_reducible apply Dev.KeepsBut.foldl_snd; intro _ _) | split | decide | (with_reducible intro _) | (dsimp only)

theorem Dev.absorbScope_keeps (d : Dev) (x : ResetScope) : d.KeepsBut [.regs, .dram, .cricket, .link, .freeCtr] (Dev.absorbScope d x) := by
  unfold Dev.absorbScope
  try dsimp only
  repeat' first | with_reducible apply Dev.KeepsBut.refl | with_reducible apply Dev.KeepsBut.then (Dev.absorbPort_keeps _ _) | (with_reducible apply Dev.KeepsBut.foldl; intro _ _) | (with_reducible apply Dev.KeepsBut.foldl_snd; intro _ _) | split | decide | (with_reducible intro _) | (dsimp only)

theorem Dev.toClear_keeps (d : Dev) (r : ResetRun) : d.KeepsBut [.regs, .bus, .module, .apex, .ascent, .trust, .host, .mem, .dram, .cricket, .massif, .weevil, .col, .scarab, .talus, .stag, .hive, .forager, .link, .power, .firefly, .enPend, .freeCtr] (Dev.toClear d r) := by
  unfold Dev.toClear
  try dsimp only
  repeat' first | with_reducible apply Dev.KeepsBut.refl | with_reducible apply Dev.KeepsBut.then (Dev.setFld_keeps _ _ _ _ _) | with_reducible apply Dev.KeepsBut.then (Dev.clearScope_keeps _ _) | with_reducible apply Dev.KeepsBut.then (Dev.refreshTime_keeps _) | with_reducible apply Dev.KeepsBut.then (Dev.absorbScope_keeps _ _) | (with_reducible apply Dev.KeepsBut.foldl; intro _ _) | (with_reducible apply Dev.KeepsBut.foldl_snd; intro _ _) | with_reducible apply Dev.keeps_ascent | simp only [Dev.keeps_mk] | split | decide | (with_reducible intro _) | (dsimp only)

theorem Dev.resetDrainEnd_keeps (d : Dev) (sc : ResetScope) : d.KeepsBut [.regs, .bus, .module, .apex, .ascent, .trust, .host, .mem, .dram, .cricket, .massif, .weevil, .col, .scarab, .talus, .stag, .hive, .forager, .link, .power, .firefly, .enPend, .freeCtr] (Dev.resetDrainEnd d sc) := by
  unfold Dev.resetDrainEnd
  try dsimp only
  repeat' first | with_reducible apply Dev.KeepsBut.refl | with_reducible apply Dev.KeepsBut.then (Dev.toClear_keeps _ _) | (with_reducible apply Dev.KeepsBut.foldl; intro _ _) | (with_reducible apply Dev.KeepsBut.foldl_snd; intro _ _) | split | decide | (with_reducible intro _) | (dsimp only)

theorem Dev.drainlimitExpiry_keeps (d : Dev) (sc : ResetScope) : d.KeepsBut [.regs, .bus, .module, .apex, .ascent, .trust, .host, .mem, .dram, .cricket, .massif, .weevil, .col, .scarab, .talus, .stag, .hive, .forager, .link, .power, .firefly, .enPend, .freeCtr] (Dev.drainlimitExpiry d sc) := by
  unfold Dev.drainlimitExpiry
  try dsimp only
  repeat' first | with_reducible apply Dev.KeepsBut.refl | with_reducible apply Dev.KeepsBut.then (Dev.err_keeps _ _ _) | with_reducible apply Dev.KeepsBut.then (Dev.setPort_keeps _ _ _) | with_reducible apply Dev.KeepsBut.then (Dev.toClear_keeps _ _) | (with_reducible apply Dev.KeepsBut.foldl; intro _ _) | (with_reducible apply Dev.KeepsBut.foldl_snd; intro _ _) | with_reducible apply Dev.keeps_ascent | simp only [Dev.keeps_mk] | split | decide | (with_reducible intro _) | (dsimp only)

theorem Dev.releasePage_keeps (d : Dev) (b : Nat) : d.KeepsBut [.regs, .host, .mem, .dram, .cricket, .hive, .link, .firefly, .enPend, .freeCtr] (Dev.releasePage d b) := by
  unfold Dev.releasePage
  try dsimp only
  repeat' first | with_reducible apply Dev.KeepsBut.refl | with_reducible apply Dev.KeepsBut.then (Dev.drop_keeps _ _ _) | with_reducible apply Dev.KeepsBut.then (Dev.setReady_keeps _ _ _) | with_reducible apply Dev.KeepsBut.then (Dev.setBusy_keeps _ _ _) | with_reducible apply Dev.KeepsBut.then (Dev.hiveReleased_keeps _) | with_reducible apply Dev.KeepsBut.then (Dev.cpStart_keeps _ _) | with_reducible apply Dev.KeepsBut.then (Dev.startGrid_keeps _) | with_reducible apply Dev.KeepsBut.then (Dev.sendHost_keeps _) | with_reducible apply Dev.KeepsBut.then (Dev.sweepPend_keeps _) | with_reducible apply Dev.KeepsBut.then (Dev.lnkEnable_keeps _ _ _) | (with_reducible apply Dev.KeepsBut.foldl; intro _ _) | (with_reducible apply Dev.KeepsBut.foldl_snd; intro _ _) | with_reducible apply Dev.keeps_enPend | simp only [Dev.keeps_mk] | split | decide | (with_reducible intro _) | (dsimp only)

theorem Dev.releaseDevice_keeps (d : Dev) : d.KeepsBut [.regs, .module, .trust, .dram, .cricket, .link, .enPend, .freeCtr] (Dev.releaseDevice d) := by
  unfold Dev.releaseDevice
  try dsimp only
  repeat' first | with_reducible apply Dev.KeepsBut.refl | with_reducible apply Dev.KeepsBut.then (Dev.drop_keeps _ _ _) | with_reducible apply Dev.KeepsBut.then (Dev.setReady_keeps _ _ _) | with_reducible apply Dev.KeepsBut.then (Dev.setBusy_keeps _ _ _) | with_reducible apply Dev.KeepsBut.then (Dev.startGrid_keeps _) | with_reducible apply Dev.KeepsBut.then (Dev.lnkEnable_keeps _ _ _) | with_reducible apply Dev.KeepsBut.then (Dev.bootRomStart_keeps _) | (with_reducible apply Dev.KeepsBut.foldl; intro _ _) | (with_reducible apply Dev.KeepsBut.foldl_snd; intro _ _) | with_reducible apply Dev.keeps_enPend | simp only [Dev.keeps_mk] | split | decide | (with_reducible intro _) | (dsimp only)

theorem Dev.resetRelease_keeps (d : Dev) (sc : ResetScope) : d.KeepsBut [.regs, .module, .ascent, .trust, .host, .mem, .dram, .cricket, .hive, .link, .firefly, .enPend, .freeCtr] (Dev.resetRelease d sc) := by
  unfold Dev.resetRelease
  try dsimp only
  repeat' first | with_reducible apply Dev.KeepsBut.refl | with_reducible apply Dev.KeepsBut.then (Dev.setFld_keeps _ _ _ _ _) | with_reducible apply Dev.KeepsBut.then (Dev.setFlag_keeps _ _ _ _) | with_reducible apply Dev.KeepsBut.then (Dev.drop_keeps _ _ _) | with_reducible apply Dev.KeepsBut.then (Dev.irq_keeps _ _ _) | with_reducible apply Dev.KeepsBut.then (Dev.releasePage_keeps _ _) | with_reducible apply Dev.KeepsBut.then (Dev.releaseDevice_keeps _) | (with_reducible apply Dev.KeepsBut.foldl; intro _ _) | (with_reducible apply Dev.KeepsBut.foldl_snd; intro _ _) | with_reducible apply Dev.keeps_ascent | simp only [Dev.keeps_mk] | split | decide | (with_reducible intro _) | (dsimp only)

theorem Dev.pcieReset_keeps (d : Dev) : d.KeepsBut [.regs, .ascent, .trust, .host, .dram, .cricket, .freeCtr] (Dev.pcieReset d) := by
  unfold Dev.pcieReset
  try dsimp only
  repeat' first | with_reducible apply Dev.KeepsBut.refl | with_reducible apply Dev.KeepsBut.then (Dev.startReset_keeps _ _ _) | (with_reducible apply Dev.KeepsBut.foldl; intro _ _) | (with_reducible apply Dev.KeepsBut.foldl_snd; intro _ _) | with_reducible apply Dev.keeps_host_trust | ((with_reducible apply Dev.keeps_mk_module); (case g => intro p hp; cases p <;> first | exact absurd hp (by decide) | rfl)) | ((with_reducible apply Dev.keeps_mk_bus); (case g => intro p hp; cases p <;> first | exact absurd hp (by decide) | rfl)) | ((with_reducible apply Dev.keeps_mk_power); (case g => intro p hp; cases p <;> first | exact absurd hp (by decide) | rfl)) | simp only [Dev.keeps_mk] | split | decide | (with_reducible intro _) | (dsimp only)

theorem Dev.pcieDown_keeps (d : Dev) : d.KeepsBut [.regs, .module, .ascent, .trust, .host, .dram, .cricket, .freeCtr] (Dev.pcieDown d) := by
  unfold Dev.pcieDown
  try dsimp only
  repeat' first | with_reducible apply Dev.KeepsBut.refl | with_reducible apply Dev.KeepsBut.then (Dev.pcieReset_keeps _) | (with_reducible apply Dev.KeepsBut.foldl; intro _ _) | (with_reducible apply Dev.KeepsBut.foldl_snd; intro _ _) | with_reducible apply Dev.keeps_module | simp only [Dev.keeps_mk] | split | decide | (with_reducible intro _) | (dsimp only)

theorem Dev.pfFlr_keeps (d : Dev) : d.KeepsBut [.regs, .ascent, .trust, .host, .dram, .cricket, .freeCtr] (Dev.pfFlr d) := by
  unfold Dev.pfFlr
  try dsimp only
  repeat' first | with_reducible apply Dev.KeepsBut.refl | with_reducible apply Dev.KeepsBut.then (Dev.pcieReset_keeps _) | (with_reducible apply Dev.KeepsBut.foldl; intro _ _) | (with_reducible apply Dev.KeepsBut.foldl_snd; intro _ _) | split | decide | (with_reducible intro _) | (dsimp only)

end Sys2Proof.Machine
end

