-- ==== Sys2Proof/Laws/KeepsStacks.lean ====
section
/-!
SUPPORT. Which parts of the device the operations of Machine/Stacks.lean may change.
-/
namespace Sys2Proof.Machine

theorem Dev.stackTemp_keeps (d : Dev) (s : Nat) (t : Int) : d.KeepsBut [.regs, .dram, .cricket, .freeCtr] (Dev.stackTemp d s t) := by
  unfold Dev.stackTemp
  try dsimp only
  repeat' first | with_reducible apply Dev.KeepsBut.refl | with_reducible apply Dev.KeepsBut.then (Dev.setFld_keeps _ _ _ _ _) | with_reducible apply Dev.KeepsBut.then (Dev.err_keeps _ _ _) | with_reducible apply Dev.KeepsBut.then (Dev.irq_keeps _ _ _) | with_reducible apply Dev.KeepsBut.then (Dev.setReady_keeps _ _ _) | with_reducible apply Dev.KeepsBut.then (Dev.beatFail_keeps _ _ _ _) | (with_reducible apply Dev.KeepsBut.foldl; intro _ _) | (with_reducible apply Dev.KeepsBut.foldl_snd; intro _ _) | split | decide | (with_reducible intro _) | (dsimp only)

theorem Dev.noteCorrected_keeps (d : Dev) (blk : Nat) : d.KeepsBut [.regs, .mem] (Dev.noteCorrected d blk) := by
  unfold Dev.noteCorrected
  try dsimp only
  repeat' first | with_reducible apply Dev.KeepsBut.refl | with_reducible apply Dev.KeepsBut.then (Dev.countSat_keeps _ _ _) | with_reducible apply Dev.KeepsBut.then (Dev.count64_keeps _ _ _) | with_reducible apply Dev.KeepsBut.then (Dev.err_keeps _ _ _) | (with_reducible apply Dev.KeepsBut.foldl; intro _ _) | (with_reducible apply Dev.KeepsBut.foldl_snd; intro _ _) | with_reducible apply Dev.keeps_memRest | simp only [Dev.keeps_mk] | split | decide | (with_reducible intro _) | (dsimp only)

theorem Dev.scrubUE_keeps (d : Dev) (blk : Nat) : d.KeepsBut [.regs, .mem] (Dev.scrubUE d blk) := by
  unfold Dev.scrubUE
  try dsimp only
  repeat' first | with_reducible apply Dev.KeepsBut.refl | with_reducible apply Dev.KeepsBut.then (Dev.setNum64_keeps _ _ _) | with_reducible apply Dev.KeepsBut.then (Dev.countSat_keeps _ _ _) | with_reducible apply Dev.KeepsBut.then (Dev.listBad_keeps _ _) | (with_reducible apply Dev.KeepsBut.foldl; intro _ _) | (with_reducible apply Dev.KeepsBut.foldl_snd; intro _ _) | with_reducible apply Dev.keeps_memRest | simp only [Dev.keeps_mk] | split | decide | (with_reducible intro _) | (dsimp only)

theorem Dev.patrolRead_keeps (d : Dev) (s : Nat) (lb : Nat) (o : ScrubOutcome) : d.KeepsBut [.regs, .mem] (Dev.patrolRead d s lb o) := by
  unfold Dev.patrolRead
  try dsimp only
  repeat' first | with_reducible apply Dev.KeepsBut.refl | with_reducible apply Dev.KeepsBut.then (Dev.count64_keeps _ _ _) | with_reducible apply Dev.KeepsBut.then (Dev.err_keeps _ _ _) | with_reducible apply Dev.KeepsBut.then (Dev.noteCorrected_keeps _ _) | with_reducible apply Dev.KeepsBut.then (Dev.scrubUE_keeps _ _) | (with_reducible apply Dev.KeepsBut.foldl; intro _ _) | (with_reducible apply Dev.KeepsBut.foldl_snd; intro _ _) | split | decide | (with_reducible intro _) | (dsimp only)

theorem Dev.stkStart_keeps (d : Dev) (s : Nat) (o : StkOp) (total : Nat) : d.KeepsBut [.regs, .mem] (Dev.stkStart d s o total) := by
  unfold Dev.stkStart
  try dsimp only
  repeat' first | with_reducible apply Dev.KeepsBut.refl | with_reducible apply Dev.KeepsBut.then (Dev.startLong_keeps _ _ _) | with_reducible apply Dev.KeepsBut.then (Dev.setStkOp_keeps _ _ _) | (with_reducible apply Dev.KeepsBut.foldl; intro _ _) | (with_reducible apply Dev.KeepsBut.foldl_snd; intro _ _) | split | decide | (with_reducible intro _) | (dsimp only)

theorem Dev.stkEnd_keeps (d : Dev) (s : Nat) : d.KeepsBut [.regs, .mem] (Dev.stkEnd d s) := by
  unfold Dev.stkEnd
  try dsimp only
  repeat' first | with_reducible apply Dev.KeepsBut.refl | with_reducible apply Dev.KeepsBut.then (Dev.irq_keeps _ _ _) | with_reducible apply Dev.KeepsBut.then (Dev.position_keeps _ _ _) | with_reducible apply Dev.KeepsBut.then (Dev.endLong_keeps _ _ _) | with_reducible apply Dev.KeepsBut.then (Dev.setStkOp_keeps _ _ _) | (with_reducible apply Dev.KeepsBut.foldl; intro _ _) | (with_reducible apply Dev.KeepsBut.foldl_snd; intro _ _) | split | decide | (with_reducible intro _) | (dsimp only)

theorem Dev.writeScrubctrl_keeps (d : Dev) (s : Nat) (v : Word) : d.KeepsBut [.regs, .mem] (Dev.writeScrubctrl d s v) := by
  unfold Dev.writeScrubctrl
  try dsimp only
  repeat' first | with_reducible apply Dev.KeepsBut.refl | with_reducible apply Dev.KeepsBut.then (Dev.setFld_keeps _ _ _ _ _) | with_reducible apply Dev.KeepsBut.then (Dev.raise_keeps _ _ _) | with_reducible apply Dev.KeepsBut.then (Dev.err_keeps _ _ _) | with_reducible apply Dev.KeepsBut.then (Dev.stkStart_keeps _ _ _ _) | (with_reducible apply Dev.KeepsBut.foldl; intro _ _) | (with_reducible apply Dev.KeepsBut.foldl_snd; intro _ _) | split | decide | (with_reducible intro _) | (dsimp only)

theorem Dev.scrubDone_keeps (d : Dev) (s : Nat) (corrected : List Nat) : d.KeepsBut [.regs, .mem] (Dev.scrubDone d s corrected) := by
  unfold Dev.scrubDone
  try dsimp only
  repeat' first | with_reducible apply Dev.KeepsBut.refl | with_reducible apply Dev.KeepsBut.then (Dev.drop_keeps _ _ _) | with_reducible apply Dev.KeepsBut.then (Dev.count64_keeps _ _ _) | with_reducible apply Dev.KeepsBut.then (Dev.noteCorrected_keeps _ _) | with_reducible apply Dev.KeepsBut.then (Dev.scrubUE_keeps _ _) | with_reducible apply Dev.KeepsBut.then (Dev.stkEnd_keeps _ _) | (with_reducible apply Dev.KeepsBut.foldl; intro _ _) | (with_reducible apply Dev.KeepsBut.foldl_snd; intro _ _) | split | decide | (with_reducible intro _) | (dsimp only)

theorem Dev.writeMgctrl_keeps (d : Dev) (s : Nat) (v : Word) : d.KeepsBut [.regs, .mem] (Dev.writeMgctrl d s v) := by
  unfold Dev.writeMgctrl
  try dsimp only
  repeat' first | with_reducible apply Dev.KeepsBut.refl | with_reducible apply Dev.KeepsBut.then (Dev.setFld_keeps _ _ _ _ _) | with_reducible apply Dev.KeepsBut.then (Dev.raise_keeps _ _ _) | with_reducible apply Dev.KeepsBut.then (Dev.err_keeps _ _ _) | with_reducible apply Dev.KeepsBut.then (Dev.stkStart_keeps _ _ _ _) | (with_reducible apply Dev.KeepsBut.foldl; intro _ _) | (with_reducible apply Dev.KeepsBut.foldl_snd; intro _ _) | with_reducible apply Dev.keeps_memRest | simp only [Dev.keeps_mk] | split | decide | (with_reducible intro _) | (dsimp only)

theorem Dev.marginDone_keeps (d : Dev) (s : Nat) (data : List Word) : d.KeepsBut [.regs, .mem] (Dev.marginDone d s data) := by
  unfold Dev.marginDone
  try dsimp only
  repeat' first | with_reducible apply Dev.KeepsBut.refl | with_reducible apply Dev.KeepsBut.then (Dev.drop_keeps _ _ _) | with_reducible apply Dev.KeepsBut.then (Dev.stkEnd_keeps _ _) | (with_reducible apply Dev.KeepsBut.foldl; intro _ _) | (with_reducible apply Dev.KeepsBut.foldl_snd; intro _ _) | with_reducible apply Dev.keeps_memRest | simp only [Dev.keeps_mk] | split | decide | (with_reducible intro _) | (dsimp only)

theorem Dev.writeTgctrl_keeps (d : Dev) (s : Nat) (v : Word) : d.KeepsBut [.regs, .mem, .dram, .freeCtr] (Dev.writeTgctrl d s v) := by
  unfold Dev.writeTgctrl
  try dsimp only
  repeat' first | with_reducible apply Dev.KeepsBut.refl | with_reducible apply Dev.KeepsBut.then (Dev.setFld_keeps _ _ _ _ _) | with_reducible apply Dev.KeepsBut.then (Dev.raise_keeps _ _ _) | with_reducible apply Dev.KeepsBut.then (Dev.err_keeps _ _ _) | with_reducible apply Dev.KeepsBut.then (Dev.stkStart_keeps _ _ _ _) | (with_reducible apply Dev.KeepsBut.foldl; intro _ _) | (with_reducible apply Dev.KeepsBut.foldl_snd; intro _ _) | with_reducible apply Dev.keeps_dram | with_reducible apply Dev.keeps_memRest | with_reducible apply Dev.keeps_mem | with_reducible apply Dev.keeps_freeCtr_mem | ((with_reducible apply Dev.keeps_mk_module); (case g => intro p hp; cases p <;> first | exact absurd hp (by decide) | rfl)) | ((with_reducible apply Dev.keeps_mk_bus); (case g => intro p hp; cases p <;> first | exact absurd hp (by decide) | rfl)) | ((with_reducible apply Dev.keeps_mk_power); (case g => intro p hp; cases p <;> first | exact absurd hp (by decide) | rfl)) | simp only [Dev.keeps_mk] | split | decide | (with_reducible intro _) | (dsimp only)

theorem Dev.tgDone_keeps (d : Dev) (s : Nat) (errs : List Nat) (firsts : List Nat) : d.KeepsBut [.regs, .mem] (Dev.tgDone d s errs firsts) := by
  unfold Dev.tgDone
  try dsimp only
  repeat' first | with_reducible apply Dev.KeepsBut.refl | with_reducible apply Dev.KeepsBut.then (Dev.drop_keeps _ _ _) | with_reducible apply Dev.KeepsBut.then (Dev.countSat_keeps _ _ _) | with_reducible apply Dev.KeepsBut.then (Dev.count64_keeps _ _ _) | with_reducible apply Dev.KeepsBut.then (Dev.err_keeps _ _ _) | with_reducible apply Dev.KeepsBut.then (Dev.stkEnd_keeps _ _) | (with_reducible apply Dev.KeepsBut.foldl; intro _ _) | (with_reducible apply Dev.KeepsBut.foldl_snd; intro _ _) | with_reducible apply Dev.keeps_memRest | simp only [Dev.keeps_mk] | split | decide | (with_reducible intro _) | (dsimp only)

theorem Dev.copyIssue_keeps (d : Dev) : d.KeepsBut [.regs, .mem, .dram, .cricket, .freeCtr] (Dev.copyIssue d) := by
  unfold Dev.copyIssue
  try dsimp only
  repeat' first | with_reducible apply Dev.KeepsBut.refl | with_reducible apply Dev.KeepsBut.then (Dev.lastCode_keeps _ _ _) | with_reducible apply Dev.KeepsBut.then (Dev.beatFail_keeps _ _ _ _) | with_reducible apply Dev.KeepsBut.then (Dev.countIssue_keeps _) | (with_reducible apply Dev.KeepsBut.foldl; intro _ _) | (with_reducible apply Dev.KeepsBut.foldl_snd; intro _ _) | with_reducible apply Dev.keeps_dram | with_reducible apply Dev.keeps_memRest | with_reducible apply Dev.keeps_mem | ((with_reducible apply Dev.keeps_mk_module); (case g => intro p hp; cases p <;> first | exact absurd hp (by decide) | rfl)) | ((with_reducible apply Dev.keeps_mk_bus); (case g => intro p hp; cases p <;> first | exact absurd hp (by decide) | rfl)) | ((with_reducible apply Dev.keeps_mk_power); (case g => intro p hp; cases p <;> first | exact absurd hp (by decide) | rfl)) | simp only [Dev.keeps_mk] | split | decide | (with_reducible intro _) | (dsimp only)

theorem Dev.copyComplete_keeps (d : Dev) : d.KeepsBut [.regs, .mem, .dram, .cricket, .freeCtr] (Dev.copyComplete d) := by
  unfold Dev.copyComplete
  try dsimp only
  repeat' first | with_reducible apply Dev.KeepsBut.refl | with_reducible apply Dev.KeepsBut.then (Dev.err_keeps _ _ _) | with_reducible apply Dev.KeepsBut.then (Dev.lastCode_keeps _ _ _) | with_reducible apply Dev.KeepsBut.then (Dev.engWrite_keeps _ _ _ _) | with_reducible apply Dev.KeepsBut.then (Dev.applySignal_keeps _ _) | with_reducible apply Dev.KeepsBut.then (Dev.touchAll_keeps _ _) | (with_reducible apply Dev.KeepsBut.foldl; intro _ _) | (with_reducible apply Dev.KeepsBut.foldl_snd; intro _ _) | with_reducible apply Dev.keeps_dram | with_reducible apply Dev.keeps_memRest | with_reducible apply Dev.keeps_mem | simp only [Dev.keeps_mk] | split | decide | (with_reducible intro _) | (dsimp only)

theorem Dev.atomDo_keeps (d : Dev) (code : Nat) (q : AtomicReq) : d.KeepsBut [.regs, .mem, .dram, .cricket, .freeCtr] (Dev.atomDo d code q).2 := by
  unfold Dev.atomDo
  try dsimp only
  repeat' first | with_reducible apply Dev.KeepsBut.refl | with_reducible apply Dev.KeepsBut.then (Dev.count64_keeps _ _ _) | with_reducible apply Dev.KeepsBut.then (Dev.engRead_keeps _ _ _) | with_reducible apply Dev.KeepsBut.then (Dev.memWrite_keeps _ _ _) | (with_reducible apply Dev.KeepsBut.foldl; intro _ _) | (with_reducible apply Dev.KeepsBut.foldl_snd; intro _ _) | split | decide | (with_reducible intro _) | (dsimp only)

theorem Dev.atomic_keeps (d : Dev) (code : Nat) (q : AtomicReq) : d.KeepsBut [.regs, .bus, .mem, .dram, .cricket, .freeCtr] (Dev.atomic d code q) := by
  unfold Dev.atomic
  try dsimp only
  repeat' first | with_reducible apply Dev.KeepsBut.refl | with_reducible apply Dev.KeepsBut.then (Dev.err_keeps _ _ _) | with_reducible apply Dev.KeepsBut.then (Dev.beatFail_keeps _ _ _ _) | with_reducible apply Dev.KeepsBut.then (Dev.atomDo_keeps _ _ _) | (with_reducible apply Dev.KeepsBut.foldl; intro _ _) | (with_reducible apply Dev.KeepsBut.foldl_snd; intro _ _) | with_reducible apply Dev.keeps_bus | simp only [Dev.keeps_mk] | split | decide | (with_reducible intro _) | (dsimp only)

theorem Dev.writePinctrl_keeps (d : Dev) (v : Word) : d.KeepsBut [.regs, .mem] (Dev.writePinctrl d v) := by
  unfold Dev.writePinctrl
  try dsimp only
  repeat' first | with_reducible apply Dev.KeepsBut.refl | with_reducible apply Dev.KeepsBut.then (Dev.raise_keeps _ _ _) | (with_reducible apply Dev.KeepsBut.foldl; intro _ _) | (with_reducible apply Dev.KeepsBut.foldl_snd; intro _ _) | with_reducible apply Dev.keeps_memRest | simp only [Dev.keeps_mk] | split | decide | (with_reducible intro _) | (dsimp only)

theorem Dev.startPinWork_keeps (old : List Nat) (new : List Nat) (d : Dev) (s : Nat) : d.KeepsBut [.regs, .mem] (Dev.startPinWork old new d s) := by
  unfold Dev.startPinWork
  try dsimp only
  repeat' first | with_reducible apply Dev.KeepsBut.refl | with_reducible apply Dev.KeepsBut.then (Dev.startLong_keeps _ _ _) | (with_reducible apply Dev.KeepsBut.foldl; intro _ _) | (with_reducible apply Dev.KeepsBut.foldl_snd; intro _ _) | with_reducible apply Dev.keeps_memRest | simp only [Dev.keeps_mk] | split | decide | (with_reducible intro _) | (dsimp only)

theorem Dev.applyPins_keeps (d : Dev) : d.KeepsBut [.regs, .mem, .dram, .cricket, .freeCtr] (Dev.applyPins d) := by
  unfold Dev.applyPins
  try dsimp only
  repeat' first | with_reducible apply Dev.KeepsBut.refl | with_reducible apply Dev.KeepsBut.then (Dev.setNum_keeps _ _ _) | with_reducible apply Dev.KeepsBut.then (Dev.setFlag_keeps _ _ _ _) | with_reducible apply Dev.KeepsBut.then (Dev.drop_keeps _ _ _) | with_reducible apply Dev.KeepsBut.then (Dev.err_keeps _ _ _) | with_reducible apply Dev.KeepsBut.then (Dev.irq_keeps _ _ _) | with_reducible apply Dev.KeepsBut.then (Dev.pinnedFail_keeps _ _) | with_reducible apply Dev.KeepsBut.then (Dev.startPinWork_keeps _ _ _ _) | (with_reducible apply Dev.KeepsBut.foldl; intro _ _) | (with_reducible apply Dev.KeepsBut.foldl_snd; intro _ _) | with_reducible apply Dev.keeps_dram | with_reducible apply Dev.keeps_memRest | with_reducible apply Dev.keeps_mem | ((with_reducible apply Dev.keeps_mk_module); (case g => intro p hp; cases p <;> first | exact absurd hp (by decide) | rfl)) | ((with_reducible apply Dev.keeps_mk_bus); (case g => intro p hp; cases p <;> first | exact absurd hp (by decide) | rfl)) | ((with_reducible apply Dev.keeps_mk_power); (case g => intro p hp; cases p <;> first | exact absurd hp (by decide) | rfl)) | simp only [Dev.keeps_mk] | split | decide | (with_reducible intro _) | (dsimp only)

theorem Dev.pinFetchDone_keeps (d : Dev) (s : Nat) : d.KeepsBut [.regs, .mem] (Dev.pinFetchDone d s) := by
  unfold Dev.pinFetchDone
  try dsimp only
  repeat' first | with_reducible apply Dev.KeepsBut.refl | with_reducible apply Dev.KeepsBut.then (Dev.count64_keeps _ _ _) | with_reducible apply Dev.KeepsBut.then (Dev.position_keeps _ _ _) | with_reducible apply Dev.KeepsBut.then (Dev.endLong_keeps _ _ _) | (with_reducible apply Dev.KeepsBut.foldl; intro _ _) | (with_reducible apply Dev.KeepsBut.foldl_snd; intro _ _) | with_reducible apply Dev.keeps_memRest | simp only [Dev.keeps_mk] | split | decide | (with_reducible intro _) | (dsimp only)

end Sys2Proof.Machine
end

