-- ==== Sys2Proof/Laws/KeepsStag.lean ====
section
/-!
SUPPORT. Which parts of the device the operations of Machine/Stag.lean may change.
-/
namespace Sys2Proof.Machine

theorem Dev.refreshSlot_keeps (d : Dev) (slot : Nat) : d.KeepsBut [.regs, .dram, .cricket, .stag, .link, .freeCtr] (Dev.refreshSlot d slot) := by
  unfold Dev.refreshSlot
  try dsimp only
  repeat' first | with_reducible apply Dev.KeepsBut.refl | with_reducible apply Dev.KeepsBut.then (Dev.setSlot_keeps _ _ _) | with_reducible apply Dev.KeepsBut.then (Dev.complete_keeps _ _ _ _ _) | (with_reducible apply Dev.KeepsBut.foldl; intro _ _) | (with_reducible apply Dev.KeepsBut.foldl_snd; intro _ _) | split | decide | (with_reducible intro _) | (dsimp only)

theorem Dev.learnWords_keeps (d : Dev) (slot : Nat) : d.KeepsBut [.stag] (Dev.learnWords d slot) := by
  unfold Dev.learnWords
  try dsimp only
  repeat' first | with_reducible apply Dev.KeepsBut.refl | with_reducible apply Dev.KeepsBut.then (Dev.setSlot_keeps _ _ _) | (with_reducible apply Dev.KeepsBut.foldl; intro _ _) | (with_reducible apply Dev.KeepsBut.foldl_snd; intro _ _) | split | decide | (with_reducible intro _) | (dsimp only)

theorem Dev.popStag_keeps (d : Dev) (rest : List QDesc) : d.KeepsBut [.stag] (Dev.popStag d rest) := by
  unfold Dev.popStag
  try dsimp only
  repeat' first | with_reducible apply Dev.KeepsBut.refl | (with_reducible apply Dev.KeepsBut.foldl; intro _ _) | (with_reducible apply Dev.KeepsBut.foldl_snd; intro _ _) | with_reducible apply Dev.keeps_stag | simp only [Dev.keeps_mk] | split | decide | (with_reducible intro _) | (dsimp only)

theorem Dev.takeBits_keeps (d : Dev) (l : List LineKey) : d.KeepsBut [.regs] (Dev.takeBits d l) := by
  unfold Dev.takeBits
  try dsimp only
  repeat' first | with_reducible apply Dev.KeepsBut.refl | with_reducible apply Dev.KeepsBut.then (Dev.setNum_keeps _ _ _) | (with_reducible apply Dev.KeepsBut.foldl; intro _ _) | (with_reducible apply Dev.KeepsBut.foldl_snd; intro _ _) | split | decide | (with_reducible intro _) | (dsimp only)

theorem Dev.giveBits_keeps (d : Dev) (l : List LineKey) : d.KeepsBut [.regs] (Dev.giveBits d l) := by
  unfold Dev.giveBits
  try dsimp only
  repeat' first | with_reducible apply Dev.KeepsBut.refl | with_reducible apply Dev.KeepsBut.then (Dev.setNum_keeps _ _ _) | (with_reducible apply Dev.KeepsBut.foldl; intro _ _) | (with_reducible apply Dev.KeepsBut.foldl_snd; intro _ _) | split | decide | (with_reducible intro _) | (dsimp only)

theorem Dev.stagCode_keeps (d : Dev) (code : Nat) : d.KeepsBut [.regs] (Dev.stagCode d code) := by
  unfold Dev.stagCode
  try dsimp only
  repeat' first | with_reducible apply Dev.KeepsBut.refl | with_reducible apply Dev.KeepsBut.then (Dev.lastCode_keeps _ _ _) | (with_reducible apply Dev.KeepsBut.foldl; intro _ _) | (with_reducible apply Dev.KeepsBut.foldl_snd; intro _ _) | split | decide | (with_reducible intro _) | (dsimp only)

theorem Dev.armNow_keeps (d : Dev) (q : QDesc) : d.KeepsBut [.regs, .mem, .dram, .cricket, .stag, .link, .freeCtr] (Dev.armNow d q) := by
  unfold Dev.armNow
  try dsimp only
  repeat' first | with_reducible apply Dev.KeepsBut.refl | with_reducible apply Dev.KeepsBut.then (Dev.countIssue_keeps _) | with_reducible apply Dev.KeepsBut.then (Dev.engWrite_keeps _ _ _ _) | with_reducible apply Dev.KeepsBut.then (Dev.setSlot_keeps _ _ _) | with_reducible apply Dev.KeepsBut.then (Dev.applySignal_keeps _ _) | with_reducible apply Dev.KeepsBut.then (Dev.refreshSlot_keeps _ _) | with_reducible apply Dev.KeepsBut.then (Dev.learnWords_keeps _ _) | with_reducible apply Dev.KeepsBut.then (Dev.takeBits_keeps _ _) | with_reducible apply Dev.KeepsBut.then (Dev.stagCode_keeps _ _) | (with_reducible apply Dev.KeepsBut.foldl; intro _ _) | (with_reducible apply Dev.KeepsBut.foldl_snd; intro _ _) | with_reducible apply Dev.keeps_stag | simp only [Dev.keeps_mk] | split | decide | (with_reducible intro _) | (dsimp only)

theorem Dev.stagArm_keeps (d : Dev) : d.KeepsBut [.regs, .mem, .dram, .cricket, .stag, .link, .freeCtr] (Dev.stagArm d) := by
  unfold Dev.stagArm
  try dsimp only
  repeat' first | with_reducible apply Dev.KeepsBut.refl | with_reducible apply Dev.KeepsBut.then (Dev.err_keeps _ _ _) | with_reducible apply Dev.KeepsBut.then (Dev.beatFail_keeps _ _ _ _) | with_reducible apply Dev.KeepsBut.then (Dev.touchAll_keeps _ _) | with_reducible apply Dev.KeepsBut.then (Dev.popStag_keeps _ _) | with_reducible apply Dev.KeepsBut.then (Dev.stagCode_keeps _ _) | with_reducible apply Dev.KeepsBut.then (Dev.armNow_keeps _ _) | (with_reducible apply Dev.KeepsBut.foldl; intro _ _) | (with_reducible apply Dev.KeepsBut.foldl_snd; intro _ _) | split | decide | (with_reducible intro _) | (dsimp only)

theorem Dev.dropLine_keeps (d : Dev) (u : Nat) : d.KeepsBut [.regs, .cricket] (Dev.dropLine d u).1 := by
  unfold Dev.dropLine
  try dsimp only
  repeat' first | with_reducible apply Dev.KeepsBut.refl | with_reducible apply Dev.KeepsBut.then (Dev.countSat_keeps _ _ _) | with_reducible apply Dev.KeepsBut.then (Dev.success_keeps _ _) | (with_reducible apply Dev.KeepsBut.foldl; intro _ _) | (with_reducible apply Dev.KeepsBut.foldl_snd; intro _ _) | split | decide | (with_reducible intro _) | (dsimp only)

theorem Dev.applyLine_keeps (d : Dev) (t : Txn) : d.KeepsBut [.regs, .mem, .dram, .cricket, .freeCtr] (Dev.applyLine d t).1 := by
  unfold Dev.applyLine
  try dsimp only
  repeat' first | with_reducible apply Dev.KeepsBut.refl | with_reducible apply Dev.KeepsBut.then (Dev.err_keeps _ _ _) | with_reducible apply Dev.KeepsBut.then (Dev.memWrite_keeps _ _ _) | with_reducible apply Dev.KeepsBut.then (Dev.atomDo_keeps _ _ _) | (with_reducible apply Dev.KeepsBut.foldl; intro _ _) | (with_reducible apply Dev.KeepsBut.foldl_snd; intro _ _) | split | decide | (with_reducible intro _) | (dsimp only)

theorem Dev.stagLine_keeps (d : Dev) (t : Txn) : d.KeepsBut [.regs, .mem, .dram, .cricket, .stag, .link, .freeCtr] (Dev.stagLine d t).1 := by
  unfold Dev.stagLine
  try dsimp only
  repeat' first | with_reducible apply Dev.KeepsBut.refl | with_reducible apply Dev.KeepsBut.then (Dev.count64_keeps _ _ _) | with_reducible apply Dev.KeepsBut.then (Dev.err_keeps _ _ _) | with_reducible apply Dev.KeepsBut.then (Dev.setSlot_keeps _ _ _) | with_reducible apply Dev.KeepsBut.then (Dev.refreshSlot_keeps _ _) | with_reducible apply Dev.KeepsBut.then (Dev.learnWords_keeps _ _) | with_reducible apply Dev.KeepsBut.then (Dev.dropLine_keeps _ _) | with_reducible apply Dev.KeepsBut.then (Dev.applyLine_keeps _ _) | (with_reducible apply Dev.KeepsBut.foldl; intro _ _) | (with_reducible apply Dev.KeepsBut.foldl_snd; intro _ _) | split | decide | (with_reducible intro _) | (dsimp only)

theorem Dev.closeSlot_keeps (incomplete : Bool) (d : Dev) (slot : Nat) : d.KeepsBut [.regs, .stag] (Dev.closeSlot incomplete d slot) := by
  unfold Dev.closeSlot
  try dsimp only
  repeat' first | with_reducible apply Dev.KeepsBut.refl | with_reducible apply Dev.KeepsBut.then (Dev.err_keeps _ _ _) | with_reducible apply Dev.KeepsBut.then (Dev.irq_keeps _ _ _) | with_reducible apply Dev.KeepsBut.then (Dev.setSlot_keeps _ _ _) | with_reducible apply Dev.KeepsBut.then (Dev.giveBits_keeps _ _) | (with_reducible apply Dev.KeepsBut.foldl; intro _ _) | (with_reducible apply Dev.KeepsBut.foldl_snd; intro _ _) | with_reducible apply Dev.keeps_stag | simp only [Dev.keeps_mk] | split | decide | (with_reducible intro _) | (dsimp only)

theorem Dev.closeSlots_keeps (d : Dev) (incomplete : Bool) : d.KeepsBut [.regs, .stag] (Dev.closeSlots d incomplete) := by
  unfold Dev.closeSlots
  try dsimp only
  repeat' first | with_reducible apply Dev.KeepsBut.refl | with_reducible apply Dev.KeepsBut.then (Dev.closeSlot_keeps _ _ _) | (with_reducible apply Dev.KeepsBut.foldl; intro _ _) | (with_reducible apply Dev.KeepsBut.foldl_snd; intro _ _) | split | decide | (with_reducible intro _) | (dsimp only)

end Sys2Proof.Machine
end

