-- ==== Sys2Proof/Laws/KeepsOptim.lean ====
section
/-!
SUPPORT. Which parts of the device the operations of Machine/Optim.lean may change.
-/
namespace Sys2Proof.Machine

theorem Dev.stagFlags_keeps (d : Dev) (u : Nat) (f : Nat) : d.KeepsBut [.regs, .cricket] (Dev.stagFlags d u f) := by
  unfold Dev.stagFlags
  try dsimp only
  repeat' first | with_reducible apply Dev.KeepsBut.refl | with_reducible apply Dev.KeepsBut.then (Dev.setNum_keeps _ _ _) | with_reducible apply Dev.KeepsBut.then (Dev.irq_keeps _ _ _) | with_reducible apply Dev.KeepsBut.then (Dev.success_keeps _ _) | (with_reducible apply Dev.KeepsBut.foldl; intro _ _) | (with_reducible apply Dev.KeepsBut.foldl_snd; intro _ _) | split | decide | (with_reducible intro _) | (dsimp only)

theorem Dev.laneBusy_keeps (d : Dev) (l : List (Nat × Nat)) : d.KeepsBut [.regs] (Dev.laneBusy d l) := by
  unfold Dev.laneBusy
  try dsimp only
  repeat' first | with_reducible apply Dev.KeepsBut.refl | with_reducible apply Dev.KeepsBut.then (Dev.count64_keeps _ _ _) | (with_reducible apply Dev.KeepsBut.foldl; intro _ _) | (with_reducible apply Dev.KeepsBut.foldl_snd; intro _ _) | split | decide | (with_reducible intro _) | (dsimp only)

theorem Dev.countUpdates_keeps (d : Dev) (gacc : Nat) (flags : List Nat) : d.KeepsBut [.regs, .cricket] (Dev.countUpdates d gacc flags) := by
  unfold Dev.countUpdates
  try dsimp only
  repeat' first | with_reducible apply Dev.KeepsBut.refl | with_reducible apply Dev.KeepsBut.then (Dev.count64_keeps _ _ _) | with_reducible apply Dev.KeepsBut.then (Dev.stagFlags_keeps _ _ _) | (with_reducible apply Dev.KeepsBut.foldl; intro _ _) | (with_reducible apply Dev.KeepsBut.foldl_snd; intro _ _) | split | decide | (with_reducible intro _) | (dsimp only)

theorem Dev.runSimple_keeps (d : Dev) (u : List Byte) (gacc : Nat) (n : Nat) : d.KeepsBut [.regs, .mem, .dram, .cricket, .freeCtr] (Dev.runSimple d u gacc n) := by
  unfold Dev.runSimple
  try dsimp only
  repeat' first | with_reducible apply Dev.KeepsBut.refl | with_reducible apply Dev.KeepsBut.then (Dev.engWrite_keeps _ _ _ _) | with_reducible apply Dev.KeepsBut.then (Dev.countUpdates_keeps _ _ _) | (with_reducible apply Dev.KeepsBut.foldl; intro _ _) | (with_reducible apply Dev.KeepsBut.foldl_snd; intro _ _) | split | decide | (with_reducible intro _) | (dsimp only)

theorem Dev.runBands_keeps (d : Dev) (u : List Byte) (gacc : Nat) (n : Nat) : d.KeepsBut [.regs, .mem, .dram, .cricket, .freeCtr] (Dev.runBands d u gacc n) := by
  unfold Dev.runBands
  try dsimp only
  repeat' first | with_reducible apply Dev.KeepsBut.refl | with_reducible apply Dev.KeepsBut.then (Dev.engWrite_keeps _ _ _ _) | with_reducible apply Dev.KeepsBut.then (Dev.stagFlags_keeps _ _ _) | with_reducible apply Dev.KeepsBut.then (Dev.countUpdates_keeps _ _ _) | (with_reducible apply Dev.KeepsBut.foldl; intro _ _) | (with_reducible apply Dev.KeepsBut.foldl_snd; intro _ _) | split | decide | (with_reducible intro _) | (dsimp only)

end Sys2Proof.Machine
end

