-- ==== Sys2Proof/Laws/KeepsAssemble.lean ====
section
/-!
SUPPORT. Which parts of the device the operations of Machine/Assemble.lean may change.
-/
namespace Sys2Proof.Machine

theorem Dev.takeFrame_keeps (d : Dev) (s : Nat) : d.KeepsBut [.regs, .forager] (Dev.takeFrame d s).1 := by
  unfold Dev.takeFrame
  try dsimp only
  repeat' first | with_reducible apply Dev.KeepsBut.refl | with_reducible apply Dev.KeepsBut.then (Dev.setStream_keeps _ _ _) | with_reducible apply Dev.KeepsBut.then (Dev.staleFrames_keeps _ _) | (with_reducible apply Dev.KeepsBut.foldl; intro _ _) | (with_reducible apply Dev.KeepsBut.foldl_snd; intro _ _) | split | decide | (with_reducible intro _) | (dsimp only)

theorem Dev.liveSlot_keeps (d : Dev) (k : Nat) (b : Nat) (r : List Byte) : d.KeepsBut [.regs, .mem, .dram, .cricket, .forager] (Dev.liveSlot d k b r).1 := by
  unfold Dev.liveSlot
  try dsimp only
  repeat' first | with_reducible apply Dev.KeepsBut.refl | with_reducible apply Dev.KeepsBut.then (Dev.countSat_keeps _ _ _) | with_reducible apply Dev.KeepsBut.then (Dev.err_keeps _ _ _) | with_reducible apply Dev.KeepsBut.then (Dev.success_keeps _ _) | with_reducible apply Dev.KeepsBut.then (Dev.report_keeps _ _ _ _ _ _) | with_reducible apply Dev.KeepsBut.then (Dev.takeFrame_keeps _ _) | (with_reducible apply Dev.KeepsBut.foldl; intro _ _) | (with_reducible apply Dev.KeepsBut.foldl_snd; intro _ _) | split | decide | (with_reducible intro _) | (dsimp only)

theorem Dev.writeSlot_keeps (k : Nat) (b : Nat) (bs : List Byte) (d : Dev) (pos : Nat) : d.KeepsBut [.regs, .mem, .dram, .cricket, .forager, .freeCtr] (Dev.writeSlot k b bs d pos) := by
  unfold Dev.writeSlot
  try dsimp only
  repeat' first | with_reducible apply Dev.KeepsBut.refl | with_reducible apply Dev.KeepsBut.then (Dev.err_keeps _ _ _) | with_reducible apply Dev.KeepsBut.then (Dev.engWrite_keeps _ _ _ _) | with_reducible apply Dev.KeepsBut.then (Dev.touchAll_keeps _ _) | with_reducible apply Dev.KeepsBut.then (Dev.liveSlot_keeps _ _ _ _) | (with_reducible apply Dev.KeepsBut.foldl; intro _ _) | (with_reducible apply Dev.KeepsBut.foldl_snd; intro _ _) | split | decide | (with_reducible intro _) | (dsimp only)

theorem Dev.cacheReads_keeps (d : Dev) (f : Feed) : d.KeepsBut [.regs, .mem, .dram, .cricket, .freeCtr] (Dev.cacheReads d f) := by
  unfold Dev.cacheReads
  try dsimp only
  repeat' first | with_reducible apply Dev.KeepsBut.refl | with_reducible apply Dev.KeepsBut.then (Dev.freshNat_keeps _) | with_reducible apply Dev.KeepsBut.then (Dev.beatFail_keeps _ _ _ _) | with_reducible apply Dev.KeepsBut.then (Dev.noteUE_keeps _ _) | (with_reducible apply Dev.KeepsBut.foldl; intro _ _) | (with_reducible apply Dev.KeepsBut.foldl_snd; intro _ _) | split | decide | (with_reducible intro _) | (dsimp only)

theorem Dev.assembleEngines_keeps (d : Dev) : d.KeepsBut [.regs, .dram, .cricket, .forager, .freeCtr] (Dev.assembleEngines d) := by
  unfold Dev.assembleEngines
  try dsimp only
  repeat' first | with_reducible apply Dev.KeepsBut.refl | with_reducible apply Dev.KeepsBut.then (Dev.beatFail_keeps _ _ _ _) | with_reducible apply Dev.KeepsBut.then (Dev.engineBad_keeps _ _) | (with_reducible apply Dev.KeepsBut.foldl; intro _ _) | (with_reducible apply Dev.KeepsBut.foldl_snd; intro _ _) | split | decide | (with_reducible intro _) | (dsimp only)

theorem Dev.assembleNow_keeps (d : Dev) (q : QDesc) : d.KeepsBut [.regs, .mem, .dram, .cricket, .forager, .freeCtr] (Dev.assembleNow d q) := by
  unfold Dev.assembleNow
  try dsimp only
  repeat' first | with_reducible apply Dev.KeepsBut.refl | with_reducible apply Dev.KeepsBut.then (Dev.success_keeps _ _) | with_reducible apply Dev.KeepsBut.then (Dev.decide__keeps _ _ _) | with_reducible apply Dev.KeepsBut.then (Dev.writeSlot_keeps _ _ _ _ _) | with_reducible apply Dev.KeepsBut.then (Dev.cacheReads_keeps _ _) | with_reducible apply Dev.KeepsBut.then (Dev.assembleEngines_keeps _) | (with_reducible apply Dev.KeepsBut.foldl; intro _ _) | (with_reducible apply Dev.KeepsBut.foldl_snd; intro _ _) | with_reducible apply Dev.keeps_forager | simp only [Dev.keeps_mk] | split | decide | (with_reducible intro _) | (dsimp only)

theorem Dev.assemble_keeps (d : Dev) : d.KeepsBut [.regs, .mem, .dram, .cricket, .forager, .freeCtr] (Dev.assemble d) := by
  unfold Dev.assemble
  try dsimp only
  repeat' first | with_reducible apply Dev.KeepsBut.refl | with_reducible apply Dev.KeepsBut.then (Dev.lastCode_keeps _ _ _) | with_reducible apply Dev.KeepsBut.then (Dev.beatFail_keeps _ _ _ _) | with_reducible apply Dev.KeepsBut.then (Dev.countIssue_keeps _) | with_reducible apply Dev.KeepsBut.then (Dev.assembleNow_keeps _ _) | (with_reducible apply Dev.KeepsBut.foldl; intro _ _) | (with_reducible apply Dev.KeepsBut.foldl_snd; intro _ _) | with_reducible apply Dev.keeps_forager | simp only [Dev.keeps_mk] | split | decide | (with_reducible intro _) | (dsimp only)

theorem Dev.assembleComplete_keeps (d : Dev) : d.KeepsBut [.regs, .forager, .freeCtr] (Dev.assembleComplete d) := by
  unfold Dev.assembleComplete
  try dsimp only
  repeat' first | with_reducible apply Dev.KeepsBut.refl | with_reducible apply Dev.KeepsBut.then (Dev.lastCode_keeps _ _ _) | with_reducible apply Dev.KeepsBut.then (Dev.countFree64_keeps _ _) | with_reducible apply Dev.KeepsBut.then (Dev.setFeed_keeps _ _ _) | with_reducible apply Dev.KeepsBut.then (Dev.applySignal_keeps _ _) | (with_reducible apply Dev.KeepsBut.foldl; intro _ _) | (with_reducible apply Dev.KeepsBut.foldl_snd; intro _ _) | with_reducible apply Dev.keeps_forager | simp only [Dev.keeps_mk] | split | decide | (with_reducible intro _) | (dsimp only)

end Sys2Proof.Machine
end

