-- ==== Sys2Proof/Laws/KeepsHive.lean ====
section
/-!
SUPPORT. Which parts of the device the operations of Machine/Hive.lean may change.
-/
namespace Sys2Proof.Machine

theorem Dev.setEnt_keeps (d : Dev) (e : Nat) (o : Nat) (n : Nat) (v : Nat) : d.KeepsBut [.hive] (Dev.setEnt d e o n v) := by
  unfold Dev.setEnt
  try dsimp only
  repeat' first | with_reducible apply Dev.KeepsBut.refl | (with_reducible apply Dev.KeepsBut.foldl; intro _ _) | (with_reducible apply Dev.KeepsBut.foldl_snd; intro _ _) | with_reducible apply Dev.keeps_hive | simp only [Dev.keeps_mk] | split | decide | (with_reducible intro _) | (dsimp only)

theorem Dev.setEntState_keeps (d : Dev) (e : Nat) (v : Nat) : d.KeepsBut [.hive] (Dev.setEntState d e v) := by
  unfold Dev.setEntState
  try dsimp only
  repeat' first | with_reducible apply Dev.KeepsBut.refl | with_reducible apply Dev.KeepsBut.then (Dev.setEnt_keeps _ _ _ _ _) | (with_reducible apply Dev.KeepsBut.foldl; intro _ _) | (with_reducible apply Dev.KeepsBut.foldl_snd; intro _ _) | split | decide | (with_reducible intro _) | (dsimp only)

theorem Dev.setEntFlag_keeps (d : Dev) (e : Nat) (i : Nat) (v : Bool) : d.KeepsBut [.hive] (Dev.setEntFlag d e i v) := by
  unfold Dev.setEntFlag
  try dsimp only
  repeat' first | with_reducible apply Dev.KeepsBut.refl | with_reducible apply Dev.KeepsBut.then (Dev.setEnt_keeps _ _ _ _ _) | (with_reducible apply Dev.KeepsBut.foldl; intro _ _) | (with_reducible apply Dev.KeepsBut.foldl_snd; intro _ _) | split | decide | (with_reducible intro _) | (dsimp only)

theorem Dev.hiveRead_keeps (d : Dev) (a : Nat) (n : Nat) : d.KeepsBut [.regs, .mem, .dram, .freeCtr] (Dev.hiveRead d a n).2 := by
  unfold Dev.hiveRead
  try dsimp only
  repeat' first | with_reducible apply Dev.KeepsBut.refl | with_reducible apply Dev.KeepsBut.then (Dev.quietRead_keeps _ _ _) | (with_reducible apply Dev.KeepsBut.foldl; intro _ _) | (with_reducible apply Dev.KeepsBut.foldl_snd; intro _ _) | split | decide | (with_reducible intro _) | (dsimp only)

theorem Dev.hiveWrite_keeps (d : Dev) (t : Nat) (a : Nat) (bs : List Byte) : d.KeepsBut [.regs, .mem, .dram] (Dev.hiveWrite d t a bs) := by
  unfold Dev.hiveWrite
  try dsimp only
  repeat' first | with_reducible apply Dev.KeepsBut.refl | with_reducible apply Dev.KeepsBut.then (Dev.memWrite_keeps _ _ _) | (with_reducible apply Dev.KeepsBut.foldl; intro _ _) | (with_reducible apply Dev.KeepsBut.foldl_snd; intro _ _) | split | decide | (with_reducible intro _) | (dsimp only)

theorem Dev.popFrame_keeps (d : Dev) (t : Nat) : d.KeepsBut [.regs, .mem, .dram, .freeCtr] (Dev.popFrame d t).2 := by
  unfold Dev.popFrame
  try dsimp only
  repeat' first | with_reducible apply Dev.KeepsBut.refl | with_reducible apply Dev.KeepsBut.then (Dev.setNum_keeps _ _ _) | with_reducible apply Dev.KeepsBut.then (Dev.hiveRead_keeps _ _ _) | (with_reducible apply Dev.KeepsBut.foldl; intro _ _) | (with_reducible apply Dev.KeepsBut.foldl_snd; intro _ _) | split | decide | (with_reducible intro _) | (dsimp only)

theorem Dev.pushFrame_keeps (d : Dev) (t : Nat) (f : Nat) : d.KeepsBut [.regs, .mem, .dram] (Dev.pushFrame d t f) := by
  unfold Dev.pushFrame
  try dsimp only
  repeat' first | with_reducible apply Dev.KeepsBut.refl | with_reducible apply Dev.KeepsBut.then (Dev.setNum_keeps _ _ _) | with_reducible apply Dev.KeepsBut.then (Dev.hiveWrite_keeps _ _ _ _) | (with_reducible apply Dev.KeepsBut.foldl; intro _ _) | (with_reducible apply Dev.KeepsBut.foldl_snd; intro _ _) | split | decide | (with_reducible intro _) | (dsimp only)

theorem Dev.frameCount_keeps (d : Dev) (t : Nat) (f : Nat) : d.KeepsBut [.regs, .mem, .dram, .freeCtr] (Dev.frameCount d t f).2 := by
  unfold Dev.frameCount
  try dsimp only
  repeat' first | with_reducible apply Dev.KeepsBut.refl | with_reducible apply Dev.KeepsBut.then (Dev.hiveRead_keeps _ _ _) | (with_reducible apply Dev.KeepsBut.foldl; intro _ _) | (with_reducible apply Dev.KeepsBut.foldl_snd; intro _ _) | split | decide | (with_reducible intro _) | (dsimp only)

theorem Dev.setFrameCount_keeps (d : Dev) (t : Nat) (f : Nat) (c : Nat) : d.KeepsBut [.regs, .mem, .dram] (Dev.setFrameCount d t f c) := by
  unfold Dev.setFrameCount
  try dsimp only
  repeat' first | with_reducible apply Dev.KeepsBut.refl | with_reducible apply Dev.KeepsBut.then (Dev.hiveWrite_keeps _ _ _ _) | (with_reducible apply Dev.KeepsBut.foldl; intro _ _) | (with_reducible apply Dev.KeepsBut.foldl_snd; intro _ _) | split | decide | (with_reducible intro _) | (dsimp only)

theorem Dev.retireSlot_keeps (t : Nat) (d : Dev) (a : Nat) : d.KeepsBut [.regs, .mem, .dram, .freeCtr] (Dev.retireSlot t d a) := by
  unfold Dev.retireSlot
  try dsimp only
  repeat' first | with_reducible apply Dev.KeepsBut.refl | with_reducible apply Dev.KeepsBut.then (Dev.freshNat_keeps _) | with_reducible apply Dev.KeepsBut.then (Dev.hiveRead_keeps _ _ _) | with_reducible apply Dev.KeepsBut.then (Dev.hiveWrite_keeps _ _ _ _) | with_reducible apply Dev.KeepsBut.then (Dev.pushFrame_keeps _ _ _) | with_reducible apply Dev.KeepsBut.then (Dev.frameCount_keeps _ _ _) | with_reducible apply Dev.KeepsBut.then (Dev.setFrameCount_keeps _ _ _ _) | (with_reducible apply Dev.KeepsBut.foldl; intro _ _) | (with_reducible apply Dev.KeepsBut.foldl_snd; intro _ _) | split | decide | (with_reducible intro _) | (dsimp only)

theorem Dev.retire_keeps (d : Dev) (t : Nat) (e : Nat) : d.KeepsBut [.regs, .mem, .dram, .hive, .freeCtr] (Dev.retire d t e) := by
  unfold Dev.retire
  try dsimp only
  repeat' first | with_reducible apply Dev.KeepsBut.refl | with_reducible apply Dev.KeepsBut.then (Dev.setEntState_keeps _ _ _) | with_reducible apply Dev.KeepsBut.then (Dev.retireSlot_keeps _ _ _) | (with_reducible apply Dev.KeepsBut.foldl; intro _ _) | (with_reducible apply Dev.KeepsBut.foldl_snd; intro _ _) | split | decide | (with_reducible intro _) | (dsimp only)

theorem Dev.newEntry_keeps (d : Dev) (e : Nat) (b : List Byte) (pos : Nat) : d.KeepsBut [.hive] (Dev.newEntry d e b pos) := by
  unfold Dev.newEntry
  try dsimp only
  repeat' first | with_reducible apply Dev.KeepsBut.refl | (with_reducible apply Dev.KeepsBut.foldl; intro _ _) | (with_reducible apply Dev.KeepsBut.foldl_snd; intro _ _) | with_reducible apply Dev.keeps_hive | simp only [Dev.keeps_mk] | split | decide | (with_reducible intro _) | (dsimp only)

theorem Dev.forkSlot_keeps (t : Nat) (d : Dev) (p : Nat × Nat) : d.KeepsBut [.regs, .mem, .dram, .freeCtr] (Dev.forkSlot t d p) := by
  unfold Dev.forkSlot
  try dsimp only
  repeat' first | with_reducible apply Dev.KeepsBut.refl | with_reducible apply Dev.KeepsBut.then (Dev.hiveRead_keeps _ _ _) | with_reducible apply Dev.KeepsBut.then (Dev.hiveWrite_keeps _ _ _ _) | with_reducible apply Dev.KeepsBut.then (Dev.frameCount_keeps _ _ _) | with_reducible apply Dev.KeepsBut.then (Dev.setFrameCount_keeps _ _ _ _) | (with_reducible apply Dev.KeepsBut.foldl; intro _ _) | (with_reducible apply Dev.KeepsBut.foldl_snd; intro _ _) | split | decide | (with_reducible intro _) | (dsimp only)

theorem Dev.forkDir_keeps (d : Dev) (t : Nat) (b : List Byte) : d.KeepsBut [.regs, .mem, .dram, .freeCtr] (Dev.forkDir d t b) := by
  unfold Dev.forkDir
  try dsimp only
  repeat' first | with_reducible apply Dev.KeepsBut.refl | with_reducible apply Dev.KeepsBut.then (Dev.forkSlot_keeps _ _ _) | (with_reducible apply Dev.KeepsBut.foldl; intro _ _) | (with_reducible apply Dev.KeepsBut.foldl_snd; intro _ _) | split | decide | (with_reducible intro _) | (dsimp only)

theorem Dev.hiveApply_keeps (d : Dev) (t : Nat) (b : List Byte) : d.KeepsBut [.regs, .mem, .dram, .hive, .freeCtr] (Dev.hiveApply d t b).2 := by
  unfold Dev.hiveApply
  try dsimp only
  repeat' first | with_reducible apply Dev.KeepsBut.refl | with_reducible apply Dev.KeepsBut.then (Dev.setEntState_keeps _ _ _) | with_reducible apply Dev.KeepsBut.then (Dev.setEntFlag_keeps _ _ _ _) | with_reducible apply Dev.KeepsBut.then (Dev.retire_keeps _ _ _) | with_reducible apply Dev.KeepsBut.then (Dev.newEntry_keeps _ _ _ _) | with_reducible apply Dev.KeepsBut.then (Dev.forkDir_keeps _ _ _) | (with_reducible apply Dev.KeepsBut.foldl; intro _ _) | (with_reducible apply Dev.KeepsBut.foldl_snd; intro _ _) | split | decide | (with_reducible intro _) | (dsimp only)

theorem Dev.hiveCommand_keeps (d : Dev) (t : Nat) (op : Nat) : d.KeepsBut [.regs, .host, .mem, .dram, .hive, .forager, .freeCtr] (Dev.hiveCommand d t op) := by
  unfold Dev.hiveCommand
  try dsimp only
  repeat' first | with_reducible apply Dev.KeepsBut.refl | with_reducible apply Dev.KeepsBut.then (Dev.answerJob_keeps _ _ _ _ _ _) | with_reducible apply Dev.KeepsBut.then (Dev.refuseJob_keeps _ _ _ _) | with_reducible apply fun q0 z x => Dev.KeepsBut.trans x (Dev.jobCommand_keeps (ps := [.regs, .host, .mem, .dram, .hive, .forager, .freeCtr]) _ _ _ _  q0 z) | with_reducible apply Dev.KeepsBut.then (Dev.hiveApply_keeps _ _ _) | (with_reducible apply Dev.KeepsBut.foldl; intro _ _) | (with_reducible apply Dev.KeepsBut.foldl_snd; intro _ _) | split | decide | (with_reducible intro _) | (dsimp only)

theorem Dev.serveRow_keeps (t : Nat) (n : Nat) (d : Dev) (row : Nat × Nat × Nat) : d.KeepsBut [.regs, .host, .mem, .dram, .hive, .freeCtr] (Dev.serveRow t n d row) := by
  unfold Dev.serveRow
  try dsimp only
  repeat' first | with_reducible apply Dev.KeepsBut.refl | with_reducible apply Dev.KeepsBut.then (Dev.notifySeq_keeps _ _ _ _) | with_reducible apply Dev.KeepsBut.then (Dev.setEnt_keeps _ _ _ _ _) | with_reducible apply Dev.KeepsBut.then (Dev.setEntState_keeps _ _ _) | with_reducible apply Dev.KeepsBut.then (Dev.setEntFlag_keeps _ _ _ _) | with_reducible apply Dev.KeepsBut.then (Dev.hiveRead_keeps _ _ _) | with_reducible apply Dev.KeepsBut.then (Dev.retire_keeps _ _ _) | (with_reducible apply Dev.KeepsBut.foldl; intro _ _) | (with_reducible apply Dev.KeepsBut.foldl_snd; intro _ _) | split | decide | (with_reducible intro _) | (dsimp only)

theorem Dev.serveUpdate_keeps (d : Dev) (t : Nat) (n : Nat) (code : Nat) : d.KeepsBut [.regs, .host, .mem, .dram, .hive, .freeCtr] (Dev.serveUpdate d t n code) := by
  unfold Dev.serveUpdate
  try dsimp only
  repeat' first | with_reducible apply Dev.KeepsBut.refl | with_reducible apply Dev.KeepsBut.then (Dev.serveRow_keeps _ _ _ _) | (with_reducible apply Dev.KeepsBut.foldl; intro _ _) | (with_reducible apply Dev.KeepsBut.foldl_snd; intro _ _) | with_reducible apply Dev.keeps_hive | simp only [Dev.keeps_mk] | split | decide | (with_reducible intro _) | (dsimp only)

theorem Dev.assignFrame_keeps (t : Nat) (d : Dev) (a : Nat) : d.KeepsBut [.regs, .mem, .dram, .freeCtr] (Dev.assignFrame t d a) := by
  unfold Dev.assignFrame
  try dsimp only
  repeat' first | with_reducible apply Dev.KeepsBut.refl | with_reducible apply Dev.KeepsBut.then (Dev.hiveWrite_keeps _ _ _ _) | with_reducible apply Dev.KeepsBut.then (Dev.popFrame_keeps _ _) | with_reducible apply Dev.KeepsBut.then (Dev.setFrameCount_keeps _ _ _ _) | (with_reducible apply Dev.KeepsBut.foldl; intro _ _) | (with_reducible apply Dev.KeepsBut.foldl_snd; intro _ _) | split | decide | (with_reducible intro _) | (dsimp only)

theorem Dev.assignPages_keeps (d : Dev) (t : Nat) (e : Nat) (lps : List Nat) : d.KeepsBut [.regs, .mem, .dram, .freeCtr] (Dev.assignPages d t e lps) := by
  unfold Dev.assignPages
  try dsimp only
  repeat' first | with_reducible apply Dev.KeepsBut.refl | with_reducible apply Dev.KeepsBut.then (Dev.assignFrame_keeps _ _ _) | (with_reducible apply Dev.KeepsBut.foldl; intro _ _) | (with_reducible apply Dev.KeepsBut.foldl_snd; intro _ _) | split | decide | (with_reducible intro _) | (dsimp only)

theorem Dev.kvShort_keeps (d : Dev) (t : Nat) (e : Nat) : d.KeepsBut [.regs, .host, .hive, .freeCtr] (Dev.kvShort d t e) := by
  unfold Dev.kvShort
  try dsimp only
  repeat' first | with_reducible apply Dev.KeepsBut.refl | with_reducible apply Dev.KeepsBut.then (Dev.err_keeps _ _ _) | with_reducible apply Dev.KeepsBut.then (Dev.irq_keeps _ _ _) | with_reducible apply Dev.KeepsBut.then (Dev.notifySeq_keeps _ _ _ _) | with_reducible apply Dev.KeepsBut.then (Dev.setEntFlag_keeps _ _ _ _) | (with_reducible apply Dev.KeepsBut.foldl; intro _ _) | (with_reducible apply Dev.KeepsBut.foldl_snd; intro _ _) | split | decide | (with_reducible intro _) | (dsimp only)

theorem Dev.hiveOpen_keeps (d : Dev) (t : Nat) (lo : Nat) (n : Nat) : d.KeepsBut [.dram, .freeCtr] (Dev.hiveOpen d t lo n) := by
  unfold Dev.hiveOpen
  try dsimp only
  repeat' first | with_reducible apply Dev.KeepsBut.refl | (with_reducible apply Dev.KeepsBut.foldl; intro _ _) | (with_reducible apply Dev.KeepsBut.foldl_snd; intro _ _) | with_reducible apply Dev.keeps_freeCtr_mem | ((with_reducible apply Dev.keeps_mk_module); (case g => intro p hp; cases p <;> first | exact absurd hp (by decide) | rfl)) | ((with_reducible apply Dev.keeps_mk_bus); (case g => intro p hp; cases p <;> first | exact absurd hp (by decide) | rfl)) | ((with_reducible apply Dev.keeps_mk_power); (case g => intro p hp; cases p <;> first | exact absurd hp (by decide) | rfl)) | simp only [Dev.keeps_mk] | split | decide | (with_reducible intro _) | (dsimp only)

theorem Dev.writeList_keeps (d : Dev) (t : Nat) (rows : List (Nat × Nat × Nat)) : d.KeepsBut [.regs, .mem, .dram, .freeCtr] (Dev.writeList d t rows) := by
  unfold Dev.writeList
  try dsimp only
  repeat' first | with_reducible apply Dev.KeepsBut.refl | with_reducible apply Dev.KeepsBut.then (Dev.hiveWrite_keeps _ _ _ _) | with_reducible apply Dev.KeepsBut.then (Dev.hiveOpen_keeps _ _ _ _) | (with_reducible apply Dev.KeepsBut.foldl; intro _ _) | (with_reducible apply Dev.KeepsBut.foldl_snd; intro _ _) | split | decide | (with_reducible intro _) | (dsimp only)

theorem placeRow_keeps (t : Nat) (p : Placing) (e : Nat) : p.dev.KeepsBut [.regs, .host, .mem, .dram, .hive, .freeCtr] (placeRow t p e).dev := by
  unfold placeRow
  dsimp only
  split
  · exact Dev.KeepsBut.refl _ _
  · split
    · exact (Dev.kvShort_keeps _ _ _).mono (by decide)
    · exact (Dev.KeepsBut.trans ((Dev.assignPages_keeps _ _ _ _).mono (by decide)) ((Dev.setEntFlag_keeps _ _ _ _).mono (by decide)))

theorem placeRows_keeps (t : Nat) (l : List Nat) (p : Placing) : p.dev.KeepsBut [.regs, .host, .mem, .dram, .hive, .freeCtr] (l.foldl (placeRow t) p).dev := by
  induction l generalizing p with
  | nil => exact Dev.KeepsBut.refl _ _
  | cons e l ih => exact Dev.KeepsBut.trans (placeRow_keeps t p e) (ih _)

theorem Dev.buildList_keeps (d : Dev) (t n shed : Nat) : d.KeepsBut [.regs, .host, .mem, .dram, .hive, .freeCtr] (Dev.buildList d t n shed) := by
  unfold Dev.buildList
  extract_lets tok seq p rows tokens d1 d2
  have hp : d.KeepsBut [.regs, .host, .mem, .dram, .hive, .freeCtr] p.dev := placeRows_keeps t _ _
  clear_value p
  have h1 : d.KeepsBut [.regs, .host, .mem, .dram, .hive, .freeCtr] d1 := Dev.KeepsBut.trans hp ((Dev.writeList_keeps _ _ _).mono (by decide))
  have h2 : d.KeepsBut [.regs, .host, .mem, .dram, .hive, .freeCtr] d2 :=
    Dev.KeepsBut.trans (Dev.KeepsBut.trans h1 ((Dev.setFld_keeps _ _ _ _ _).mono (by decide))) ((Dev.setFld_keeps _ _ _ _ _).mono (by decide))
  clear_value d2
  exact Dev.keeps_hive h2 (by decide)

theorem Dev.capturePreempt_keeps (d : Dev) : d.KeepsBut [.regs, .hive] (Dev.capturePreempt d) := by
  unfold Dev.capturePreempt
  try dsimp only
  repeat' first | with_reducible apply Dev.KeepsBut.refl | with_reducible apply Dev.KeepsBut.then (Dev.drop_keeps _ _ _) | with_reducible apply Dev.KeepsBut.then (Dev.err_keeps _ _ _) | (with_reducible apply Dev.KeepsBut.foldl; intro _ _) | (with_reducible apply Dev.KeepsBut.foldl_snd; intro _ _) | with_reducible apply Dev.keeps_hive | simp only [Dev.keeps_mk] | split | decide | (with_reducible intro _) | (dsimp only)

theorem Dev.writePreempt_keeps (d : Dev) (v : Word) : d.KeepsBut [.regs] (Dev.writePreempt d v) := by
  unfold Dev.writePreempt
  try dsimp only
  repeat' first | with_reducible apply Dev.KeepsBut.refl | with_reducible apply Dev.KeepsBut.then (Dev.setFld_keeps _ _ _ _ _) | with_reducible apply Dev.KeepsBut.then (Dev.raise_keeps _ _ _) | with_reducible apply Dev.KeepsBut.then (Dev.err_keeps _ _ _) | (with_reducible apply Dev.KeepsBut.foldl; intro _ _) | (with_reducible apply Dev.KeepsBut.foldl_snd; intro _ _) | split | decide | (with_reducible intro _) | (dsimp only)

theorem Dev.notifyPreempted_keeps (d : Dev) (t : Nat) : d.KeepsBut [.host] (Dev.notifyPreempted d t) := by
  unfold Dev.notifyPreempted
  try dsimp only
  repeat' first | with_reducible apply Dev.KeepsBut.refl | with_reducible apply Dev.KeepsBut.then (Dev.postDone_keeps _ _ _) | (with_reducible apply Dev.KeepsBut.foldl; intro _ _) | (with_reducible apply Dev.KeepsBut.foldl_snd; intro _ _) | split | decide | (with_reducible intro _) | (dsimp only)

theorem Dev.moverWrite_keeps (d : Dev) (area : Nat) (img : ByteMem) (parts : List (Nat × Nat)) : d.KeepsBut [.regs, .mem, .dram] (Dev.moverWrite d area img parts) := by
  unfold Dev.moverWrite
  try dsimp only
  repeat' first | with_reducible apply Dev.KeepsBut.refl | with_reducible apply Dev.KeepsBut.then (Dev.memBlit_keeps _ _ _ _ _) | (with_reducible apply Dev.KeepsBut.foldl; intro _ _) | (with_reducible apply Dev.KeepsBut.foldl_snd; intro _ _) | split | decide | (with_reducible intro _) | (dsimp only)

theorem Dev.moverRead_keeps (d : Dev) (area : Nat) (parts : List (Nat × Nat)) : d.KeepsBut [.regs, .mem, .dram, .freeCtr] (Dev.moverRead d area parts).2 := by
  unfold Dev.moverRead
  try dsimp only
  repeat' first | with_reducible apply Dev.KeepsBut.refl | with_reducible apply Dev.KeepsBut.then (Dev.quietTouch_keeps _ _ _) | (with_reducible apply Dev.KeepsBut.foldl; intro _ _) | (with_reducible apply Dev.KeepsBut.foldl_snd; intro _ _) | split | decide | (with_reducible intro _) | (dsimp only)

theorem Dev.loadCluster_keeps (img : ByteMem) (d : Dev) (k : Nat) : d.KeepsBut [.weevil, .scarab, .talus] (Dev.loadCluster img d k) := by
  unfold Dev.loadCluster
  try dsimp only
  repeat' first | with_reducible apply Dev.KeepsBut.refl | with_reducible apply Dev.KeepsBut.then (Dev.setWvl_keeps _ _ _) | with_reducible apply Dev.KeepsBut.then (Dev.setScb_keeps _ _ _) | with_reducible apply Dev.KeepsBut.then (Dev.setTls_keeps _ _ _) | (with_reducible apply Dev.KeepsBut.foldl; intro _ _) | (with_reducible apply Dev.KeepsBut.foldl_snd; intro _ _) | split | decide | (with_reducible intro _) | (dsimp only)

theorem Dev.loadImage_keeps (d : Dev) (c : Context) (area : Nat) (cshwm : Nat) : d.KeepsBut [.regs, .massif, .weevil, .scarab, .talus] (Dev.loadImage d c area cshwm) := by
  unfold Dev.loadImage
  try dsimp only
  repeat' first | with_reducible apply Dev.KeepsBut.refl | with_reducible apply Dev.KeepsBut.then (Dev.clearOnDie_keeps _) | with_reducible apply Dev.KeepsBut.then (Dev.loadCluster_keeps _ _ _) | (with_reducible apply Dev.KeepsBut.foldl; intro _ _) | (with_reducible apply Dev.KeepsBut.foldl_snd; intro _ _) | with_reducible apply Dev.keeps_massif_regs_scarab_talus_weevil | ((with_reducible apply Dev.keeps_mk_module); (case g => intro p hp; cases p <;> first | exact absurd hp (by decide) | rfl)) | ((with_reducible apply Dev.keeps_mk_bus); (case g => intro p hp; cases p <;> first | exact absurd hp (by decide) | rfl)) | ((with_reducible apply Dev.keeps_mk_power); (case g => intro p hp; cases p <;> first | exact absurd hp (by decide) | rfl)) | simp only [Dev.keeps_mk] | split | decide | (with_reducible intro _) | (dsimp only)

theorem Dev.switchEnd_keeps (d : Dev) (w : Switch) : d.KeepsBut [.regs, .hive] (Dev.switchEnd d w) := by
  unfold Dev.switchEnd
  try dsimp only
  repeat' first | with_reducible apply Dev.KeepsBut.refl | with_reducible apply Dev.KeepsBut.then (Dev.setNum_keeps _ _ _) | with_reducible apply Dev.KeepsBut.then (Dev.setFlag_keeps _ _ _ _) | with_reducible apply Dev.KeepsBut.then (Dev.drop_keeps _ _ _) | with_reducible apply Dev.KeepsBut.then (Dev.countSat_keeps _ _ _) | with_reducible apply Dev.KeepsBut.then (Dev.irq_keeps _ _ _) | with_reducible apply Dev.KeepsBut.then (Dev.setBusy_keeps _ _ _) | (with_reducible apply Dev.KeepsBut.foldl; intro _ _) | (with_reducible apply Dev.KeepsBut.foldl_snd; intro _ _) | with_reducible apply Dev.keeps_hive | simp only [Dev.keeps_mk] | split | decide | (with_reducible intro _) | (dsimp only)

theorem Dev.switchLoad_keeps (d : Dev) (w : Switch) : d.KeepsBut [.regs, .massif, .weevil, .scarab, .talus, .hive] (Dev.switchLoad d w) := by
  unfold Dev.switchLoad
  try dsimp only
  repeat' first | with_reducible apply Dev.KeepsBut.refl | with_reducible apply Dev.KeepsBut.then (Dev.setFld_keeps _ _ _ _ _) | with_reducible apply Dev.KeepsBut.then (Dev.startLong_keeps _ _ _) | with_reducible apply Dev.KeepsBut.then (Dev.clearOnDie_keeps _) | with_reducible apply Dev.KeepsBut.then (Dev.switchEnd_keeps _ _) | (with_reducible apply Dev.KeepsBut.foldl; intro _ _) | (with_reducible apply Dev.KeepsBut.foldl_snd; intro _ _) | with_reducible apply Dev.keeps_hive | simp only [Dev.keeps_mk] | split | decide | (with_reducible intro _) | (dsimp only)

theorem Dev.switchStart_keeps (d : Dev) (n : Nat) (t : Nat) : d.KeepsBut [.regs, .massif, .weevil, .scarab, .talus, .hive] (Dev.switchStart d n t) := by
  unfold Dev.switchStart
  try dsimp only
  repeat' first | with_reducible apply Dev.KeepsBut.refl | with_reducible apply Dev.KeepsBut.then (Dev.setFld_keeps _ _ _ _ _) | with_reducible apply Dev.KeepsBut.then (Dev.raise_keeps _ _ _) | with_reducible apply Dev.KeepsBut.then (Dev.startLong_keeps _ _ _) | with_reducible apply Dev.KeepsBut.then (Dev.switchLoad_keeps _ _) | (with_reducible apply Dev.KeepsBut.foldl; intro _ _) | (with_reducible apply Dev.KeepsBut.foldl_snd; intro _ _) | with_reducible apply Dev.keeps_hive | simp only [Dev.keeps_mk] | split | decide | (with_reducible intro _) | (dsimp only)

theorem Dev.failJobs_keeps (d : Dev) (t : Nat) (code : Nat) : d.KeepsBut [.host] (Dev.failJobs d t code) := by
  unfold Dev.failJobs
  try dsimp only
  repeat' first | with_reducible apply Dev.KeepsBut.refl | with_reducible apply Dev.KeepsBut.then (Dev.endJob_keeps _ _ _) | (with_reducible apply Dev.KeepsBut.foldl; intro _ _) | (with_reducible apply Dev.KeepsBut.foldl_snd; intro _ _) | split | decide | (with_reducible intro _) | (dsimp only)

theorem Dev.endMove_keeps (d : Dev) (code : Nat) : d.KeepsBut [.regs] (Dev.endMove d code) := by
  unfold Dev.endMove
  try dsimp only
  repeat' first | with_reducible apply Dev.KeepsBut.refl | with_reducible apply Dev.KeepsBut.then (Dev.position_keeps _ _ _) | with_reducible apply Dev.KeepsBut.then (Dev.endLong_keeps _ _ _) | (with_reducible apply Dev.KeepsBut.foldl; intro _ _) | (with_reducible apply Dev.KeepsBut.foldl_snd; intro _ _) | split | decide | (with_reducible intro _) | (dsimp only)

theorem Dev.contextSaveDone_keeps (d : Dev) (ok : Bool) : d.KeepsBut [.regs, .host, .mem, .dram, .massif, .weevil, .scarab, .talus, .hive, .freeCtr] (Dev.contextSaveDone d ok) := by
  unfold Dev.contextSaveDone
  try dsimp only
  repeat' first | with_reducible apply Dev.KeepsBut.refl | with_reducible apply Dev.KeepsBut.then (Dev.setFld_keeps _ _ _ _ _) | with_reducible apply Dev.KeepsBut.then (Dev.setFlag_keeps _ _ _ _) | with_reducible apply Dev.KeepsBut.then (Dev.err_keeps _ _ _) | with_reducible apply Dev.KeepsBut.then (Dev.moverWrite_keeps _ _ _ _) | with_reducible apply Dev.KeepsBut.then (Dev.switchLoad_keeps _ _) | with_reducible apply Dev.KeepsBut.then (Dev.failJobs_keeps _ _ _) | with_reducible apply Dev.KeepsBut.then (Dev.endMove_keeps _ _) | (with_reducible apply Dev.KeepsBut.foldl; intro _ _) | (with_reducible apply Dev.KeepsBut.foldl_snd; intro _ _) | with_reducible apply Dev.keeps_freeCtr | with_reducible apply Dev.keeps_hive | ((with_reducible apply Dev.keeps_mk_module); (case g => intro p hp; cases p <;> first | exact absurd hp (by decide) | rfl)) | ((with_reducible apply Dev.keeps_mk_bus); (case g => intro p hp; cases p <;> first | exact absurd hp (by decide) | rfl)) | ((with_reducible apply Dev.keeps_mk_power); (case g => intro p hp; cases p <;> first | exact absurd hp (by decide) | rfl)) | simp only [Dev.keeps_mk] | split | decide | (with_reducible intro _) | (dsimp only)

theorem Dev.contextLoadDone_keeps (d : Dev) (ok : Bool) : d.KeepsBut [.regs, .mem, .dram, .massif, .weevil, .scarab, .talus, .hive, .freeCtr] (Dev.contextLoadDone d ok) := by
  unfold Dev.contextLoadDone
  try dsimp only
  repeat' first | with_reducible apply Dev.KeepsBut.refl | with_reducible apply Dev.KeepsBut.then (Dev.setFld_keeps _ _ _ _ _) | with_reducible apply Dev.KeepsBut.then (Dev.err_keeps _ _ _) | with_reducible apply Dev.KeepsBut.then (Dev.clearOnDie_keeps _) | with_reducible apply Dev.KeepsBut.then (Dev.moverRead_keeps _ _ _) | with_reducible apply Dev.KeepsBut.then (Dev.loadImage_keeps _ _ _ _) | with_reducible apply Dev.KeepsBut.then (Dev.switchEnd_keeps _ _) | with_reducible apply Dev.KeepsBut.then (Dev.endMove_keeps _ _) | (with_reducible apply Dev.KeepsBut.foldl; intro _ _) | (with_reducible apply Dev.KeepsBut.foldl_snd; intro _ _) | with_reducible apply Dev.keeps_hive | simp only [Dev.keeps_mk] | split | decide | (with_reducible intro _) | (dsimp only)

theorem Dev.applyEnabled_keeps (d : Dev) (p : Nat × Bool) : d.KeepsBut [.regs, .mem, .dram, .hive, .freeCtr] (Dev.applyEnabled d p) := by
  unfold Dev.applyEnabled
  try dsimp only
  repeat' first | with_reducible apply Dev.KeepsBut.refl | with_reducible apply Dev.KeepsBut.then (Dev.drop_keeps _ _ _) | with_reducible apply Dev.KeepsBut.then (Dev.readPool_keeps _ _) | (with_reducible apply Dev.KeepsBut.foldl; intro _ _) | (with_reducible apply Dev.KeepsBut.foldl_snd; intro _ _) | with_reducible apply Dev.keeps_hive | simp only [Dev.keeps_mk] | split | decide | (with_reducible intro _) | (dsimp only)

theorem Dev.writeEnabled_keeps (d : Dev) (t : Nat) (on : Bool) : d.KeepsBut [.regs, .mem, .dram, .hive, .freeCtr] (Dev.writeEnabled d t on) := by
  unfold Dev.writeEnabled
  try dsimp only
  repeat' first | with_reducible apply Dev.KeepsBut.refl | with_reducible apply Dev.KeepsBut.then (Dev.setFlag_keeps _ _ _ _) | with_reducible apply Dev.KeepsBut.then (Dev.applyEnabled_keeps _ _) | (with_reducible apply Dev.KeepsBut.foldl; intro _ _) | (with_reducible apply Dev.KeepsBut.foldl_snd; intro _ _) | with_reducible apply Dev.keeps_hive | ((with_reducible apply Dev.keeps_mk_module); (case g => intro p hp; cases p <;> first | exact absurd hp (by decide) | rfl)) | ((with_reducible apply Dev.keeps_mk_bus); (case g => intro p hp; cases p <;> first | exact absurd hp (by decide) | rfl)) | ((with_reducible apply Dev.keeps_mk_power); (case g => intro p hp; cases p <;> first | exact absurd hp (by decide) | rfl)) | simp only [Dev.keeps_mk] | split | decide | (with_reducible intro _) | (dsimp only)

theorem Dev.writeTencfg_keeps (d : Dev) (t : Nat) (v : Word) : d.KeepsBut [.regs, .mem, .dram, .hive, .freeCtr] (Dev.writeTencfg d t v) := by
  unfold Dev.writeTencfg
  try dsimp only
  repeat' first | with_reducible apply Dev.KeepsBut.refl | with_reducible apply Dev.KeepsBut.then (Dev.setFld_keeps _ _ _ _ _) | with_reducible apply Dev.KeepsBut.then (Dev.writeEnabled_keeps _ _ _) | (with_reducible apply Dev.KeepsBut.foldl; intro _ _) | (with_reducible apply Dev.KeepsBut.foldl_snd; intro _ _) | split | decide | (with_reducible intro _) | (dsimp only)

end Sys2Proof.Machine
end

