-- ==== Sys2Proof/Laws/KeepsPower.lean ====
section
/-!
SUPPORT. Which parts of the device the operations of Machine/Power.lean may change.
-/
namespace Sys2Proof.Machine

theorem Dev.showTelemetry_keeps (d : Dev) (t : Telemetry) (avgMw : Nat) : d.KeepsBut [.regs] (Dev.showTelemetry d t avgMw) := by
  unfold Dev.showTelemetry
  try dsimp only
  repeat' first | with_reducible apply Dev.KeepsBut.refl | with_reducible apply Dev.KeepsBut.then (Dev.setNum_keeps _ _ _) | (with_reducible apply Dev.KeepsBut.foldl; intro _ _) | (with_reducible apply Dev.KeepsBut.foldl_snd; intro _ _) | split | decide | (with_reducible intro _) | (dsimp only)

theorem Dev.powerSample_keeps (d : Dev) (t : Telemetry) : d.KeepsBut [.regs, .power] (Dev.powerSample d t) := by
  unfold Dev.powerSample
  try dsimp only
  repeat' first | with_reducible apply Dev.KeepsBut.refl | with_reducible apply Dev.KeepsBut.then (Dev.setFld_keeps _ _ _ _ _) | with_reducible apply Dev.KeepsBut.then (Dev.count64_keeps _ _ _) | with_reducible apply Dev.KeepsBut.then (Dev.err_keeps _ _ _) | with_reducible apply Dev.KeepsBut.then (Dev.irq_keeps _ _ _) | with_reducible apply Dev.KeepsBut.then (Dev.showTelemetry_keeps _ _ _) | (with_reducible apply Dev.KeepsBut.foldl; intro _ _) | (with_reducible apply Dev.KeepsBut.foldl_snd; intro _ _) | with_reducible apply Dev.keeps_power | simp only [Dev.keeps_mk] | split | decide | (with_reducible intro _) | (dsimp only)

end Sys2Proof.Machine
end

