-- ==== Sys2Proof/Laws/KeepsTalus.lean ====
section
/-!
SUPPORT. Which parts of the device the operations of Machine/Talus.lean may change.
-/
namespace Sys2Proof.Machine

theorem Dev.refreshTls_keeps (d : Dev) (k : Nat) : d.KeepsBut [.regs] (Dev.refreshTls d k) := by
  unfold Dev.refreshTls
  try dsimp only
  repeat' first | with_reducible apply Dev.KeepsBut.refl | with_reducible apply Dev.KeepsBut.then (Dev.setNum_keeps _ _ _) | (with_reducible apply Dev.KeepsBut.foldl; intro _ _) | (with_reducible apply Dev.KeepsBut.foldl_snd; intro _ _) | split | decide | (with_reducible intro _) | (dsimp only)

theorem Dev.putTls_keeps (d : Dev) (k : Nat) (t : Tls) : d.KeepsBut [.regs, .talus] (Dev.putTls d k t) := by
  unfold Dev.putTls
  try dsimp only
  repeat' first | with_reducible apply Dev.KeepsBut.refl | with_reducible apply Dev.KeepsBut.then (Dev.setTls_keeps _ _ _) | with_reducible apply Dev.KeepsBut.then (Dev.refreshTls_keeps _ _) | (with_reducible apply Dev.KeepsBut.foldl; intro _ _) | (with_reducible apply Dev.KeepsBut.foldl_snd; intro _ _) | split | decide | (with_reducible intro _) | (dsimp only)

theorem Dev.talusFault_keeps (d : Dev) (k : Nat) (addr : Nat) : d.KeepsBut [.regs, .dram, .cricket, .freeCtr] (Dev.talusFault d k addr) := by
  unfold Dev.talusFault
  try dsimp only
  repeat' first | with_reducible apply Dev.KeepsBut.refl | with_reducible apply Dev.KeepsBut.then (Dev.err_keeps _ _ _) | with_reducible apply Dev.KeepsBut.then (Dev.beatFail_keeps _ _ _ _) | (with_reducible apply Dev.KeepsBut.foldl; intro _ _) | (with_reducible apply Dev.KeepsBut.foldl_snd; intro _ _) | split | decide | (with_reducible intro _) | (dsimp only)

theorem Dev.entryRead_keeps (d : Dev) (k : Nat) (e : Nat) (o : Nat) (n : Nat) : d.KeepsBut [.regs, .mem, .dram, .cricket, .freeCtr] (Dev.entryRead d k e o n).2 := by
  unfold Dev.entryRead
  try dsimp only
  repeat' first | with_reducible apply Dev.KeepsBut.refl | with_reducible apply Dev.KeepsBut.then (Dev.drop_keeps _ _ _) | with_reducible apply Dev.KeepsBut.then (Dev.engRead_keeps _ _ _) | (with_reducible apply Dev.KeepsBut.foldl; intro _ _) | (with_reducible apply Dev.KeepsBut.foldl_snd; intro _ _) | split | decide | (with_reducible intro _) | (dsimp only)

theorem Dev.pageCheck_keeps (d : Dev) (k : Nat) (e : Nat) (addr : Nat) : d.KeepsBut [.regs, .dram, .cricket, .freeCtr] (Dev.pageCheck d k e addr) := by
  unfold Dev.pageCheck
  try dsimp only
  repeat' first | with_reducible apply Dev.KeepsBut.refl | with_reducible apply Dev.KeepsBut.then (Dev.errData_keeps _ _ _) | with_reducible apply Dev.KeepsBut.then (Dev.beatFail_keeps _ _ _ _) | (with_reducible apply Dev.KeepsBut.foldl; intro _ _) | (with_reducible apply Dev.KeepsBut.foldl_snd; intro _ _) | split | decide | (with_reducible intro _) | (dsimp only)

theorem Dev.talusRead_keeps (d : Dev) (k : Nat) (addr : Nat) (n : Nat) : d.KeepsBut [.regs, .mem, .dram, .cricket, .freeCtr] (Dev.talusRead d k addr n).2 := by
  unfold Dev.talusRead
  try dsimp only
  repeat' first | with_reducible apply Dev.KeepsBut.refl | with_reducible apply Dev.KeepsBut.then (Dev.talusFault_keeps _ _ _) | with_reducible apply Dev.KeepsBut.then (Dev.entryRead_keeps _ _ _ _ _) | with_reducible apply Dev.KeepsBut.then (Dev.pageCheck_keeps _ _ _ _) | (with_reducible apply Dev.KeepsBut.foldl; intro _ _) | (with_reducible apply Dev.KeepsBut.foldl_snd; intro _ _) | split | decide | (with_reducible intro _) | (dsimp only)

theorem Dev.talusWrite_keeps (d : Dev) (k : Nat) (addr : Nat) (bs : List Byte) : d.KeepsBut [.regs, .dram, .cricket, .talus, .freeCtr] (Dev.talusWrite d k addr bs) := by
  unfold Dev.talusWrite
  try dsimp only
  repeat' first | with_reducible apply Dev.KeepsBut.refl | with_reducible apply Dev.KeepsBut.then (Dev.setTls_keeps _ _ _) | with_reducible apply Dev.KeepsBut.then (Dev.talusFault_keeps _ _ _) | (with_reducible apply Dev.KeepsBut.foldl; intro _ _) | (with_reducible apply Dev.KeepsBut.foldl_snd; intro _ _) | split | decide | (with_reducible intro _) | (dsimp only)

theorem Dev.talusDone_keeps (d : Dev) (k : Nat) (q : QDesc) : d.KeepsBut [.regs, .talus] (Dev.talusDone d k q) := by
  unfold Dev.talusDone
  try dsimp only
  repeat' first | with_reducible apply Dev.KeepsBut.refl | with_reducible apply Dev.KeepsBut.then (Dev.drop_keeps _ _ _) | with_reducible apply Dev.KeepsBut.then (Dev.lastCode_keeps _ _ _) | with_reducible apply Dev.KeepsBut.then (Dev.setTls_keeps _ _ _) | (with_reducible apply Dev.KeepsBut.foldl; intro _ _) | (with_reducible apply Dev.KeepsBut.foldl_snd; intro _ _) | with_reducible apply Dev.keeps_talus | simp only [Dev.keeps_mk] | split | decide | (with_reducible intro _) | (dsimp only)

theorem Dev.countFirst_keeps (d : Dev) (fin : List (QDesc × Nat)) (q : QDesc) : d.KeepsBut [.cricket] (Dev.countFirst d fin q) := by
  unfold Dev.countFirst
  try dsimp only
  repeat' first | with_reducible apply Dev.KeepsBut.refl | with_reducible apply Dev.KeepsBut.then (Dev.countIssue_keeps _) | (with_reducible apply Dev.KeepsBut.foldl; intro _ _) | (with_reducible apply Dev.KeepsBut.foldl_snd; intro _ _) | split | decide | (with_reducible intro _) | (dsimp only)

theorem Dev.talusFail_keeps (d : Dev) (k : Nat) (q : QDesc) (code : Nat) : d.KeepsBut [.regs, .dram, .cricket, .talus, .freeCtr] (Dev.talusFail d k q code) := by
  unfold Dev.talusFail
  try dsimp only
  repeat' first | with_reducible apply Dev.KeepsBut.refl | with_reducible apply Dev.KeepsBut.then (Dev.err_keeps _ _ _) | with_reducible apply Dev.KeepsBut.then (Dev.lastCode_keeps _ _ _) | with_reducible apply Dev.KeepsBut.then (Dev.beatFail_keeps _ _ _ _) | with_reducible apply Dev.KeepsBut.then (Dev.talusDone_keeps _ _ _) | (with_reducible apply Dev.KeepsBut.foldl; intro _ _) | (with_reducible apply Dev.KeepsBut.foldl_snd; intro _ _) | with_reducible apply Dev.keeps_talus | simp only [Dev.keeps_mk] | split | decide | (with_reducible intro _) | (dsimp only)

theorem Dev.talusStep_keeps {ps : List Part} (d : Dev) (k : Nat) (op : Nat) (bad : TlsEnt → Bool) (act : Dev → QDesc → Dev) (hact : ∀ (y0 : Dev) (y1 : QDesc), y0.KeepsBut ps (act y0 y1)) (hp : ([.regs, .dram, .cricket, .talus, .freeCtr].all fun p => ps.contains p) = true) : d.KeepsBut ps (Dev.talusStep d k op bad act) := by
  unfold Dev.talusStep
  try dsimp only
  repeat' first | with_reducible apply Dev.KeepsBut.refl | ((with_reducible apply Part.sub hp); decide) | with_reducible apply fun z => Dev.KeepsBut.then (Dev.talusFail_keeps _ _ _ _ ) z | with_reducible apply fun x => Dev.KeepsBut.trans x (hact _ _ ) | (with_reducible apply Dev.KeepsBut.foldl; intro _ _) | (with_reducible apply Dev.KeepsBut.foldl_snd; intro _ _) | split | decide | (with_reducible intro _) | (dsimp only)

theorem Dev.openEntry_keeps (d : Dev) (k : Nat) (q : QDesc) : d.KeepsBut [.regs, .cricket, .talus, .hive, .freeCtr] (Dev.openEntry d k q) := by
  unfold Dev.openEntry
  try dsimp only
  repeat' first | with_reducible apply Dev.KeepsBut.refl | with_reducible apply Dev.KeepsBut.then (Dev.setEnt_keeps _ _ _ _ _) | with_reducible apply Dev.KeepsBut.then (Dev.putTls_keeps _ _ _) | with_reducible apply Dev.KeepsBut.then (Dev.talusDone_keeps _ _ _) | with_reducible apply Dev.KeepsBut.then (Dev.countFirst_keeps _ _ _) | (with_reducible apply Dev.KeepsBut.foldl; intro _ _) | (with_reducible apply Dev.KeepsBut.foldl_snd; intro _ _) | with_reducible apply Dev.keeps_freeCtr | simp only [Dev.keeps_mk] | split | decide | (with_reducible intro _) | (dsimp only)

theorem Dev.beginSpills_keeps (d : Dev) (k p fuel : Nat) : d.KeepsBut [.regs, .talus, .hive] (Dev.beginSpills d k p fuel) := by
  induction fuel generalizing d with
  | zero => exact Dev.KeepsBut.refl _ _
  | succ m ih =>
    unfold Dev.beginSpills
    try dsimp only
    repeat' first | with_reducible apply Dev.KeepsBut.refl | with_reducible apply fun x => Dev.KeepsBut.trans x (ih _ ) | with_reducible apply Dev.KeepsBut.then (Dev.setNum64_keeps _ _ _) | with_reducible apply Dev.KeepsBut.then (Dev.err_keeps _ _ _) | with_reducible apply Dev.KeepsBut.then (Dev.irq_keeps _ _ _) | with_reducible apply Dev.KeepsBut.then (Dev.setTls_keeps _ _ _) | with_reducible apply Dev.KeepsBut.then (Dev.setEnt_keeps _ _ _ _ _) | with_reducible apply Dev.KeepsBut.then (Dev.putTls_keeps _ _ _) | (with_reducible apply Dev.KeepsBut.foldl; intro _ _) | (with_reducible apply Dev.KeepsBut.foldl_snd; intro _ _) | split | decide | (with_reducible intro _) | (dsimp only)

theorem Dev.talusOpenAct_keeps (k : Nat) (d : Dev) (q : QDesc) : d.KeepsBut [.regs, .dram, .cricket, .talus, .hive, .freeCtr] (Dev.talusOpenAct k d q) := by
  unfold Dev.talusOpenAct
  try dsimp only
  repeat' first | with_reducible apply Dev.KeepsBut.refl | with_reducible apply Dev.KeepsBut.then (Dev.talusFail_keeps _ _ _ _) | with_reducible apply Dev.KeepsBut.then (Dev.openEntry_keeps _ _ _) | with_reducible apply Dev.KeepsBut.then (Dev.beginSpills_keeps _ _ _ _) | (with_reducible apply Dev.KeepsBut.foldl; intro _ _) | (with_reducible apply Dev.KeepsBut.foldl_snd; intro _ _) | split | decide | (with_reducible intro _) | (dsimp only)

theorem Dev.talusCloseAct_keeps (k : Nat) (d : Dev) (q : QDesc) : d.KeepsBut [.regs, .dram, .cricket, .talus, .hive, .freeCtr] (Dev.talusCloseAct k d q) := by
  unfold Dev.talusCloseAct
  try dsimp only
  repeat' first | with_reducible apply Dev.KeepsBut.refl | with_reducible apply Dev.KeepsBut.then (Dev.setEnt_keeps _ _ _ _ _) | with_reducible apply Dev.KeepsBut.then (Dev.putTls_keeps _ _ _) | with_reducible apply Dev.KeepsBut.then (Dev.pageCheck_keeps _ _ _ _) | with_reducible apply Dev.KeepsBut.then (Dev.talusDone_keeps _ _ _) | with_reducible apply Dev.KeepsBut.then (Dev.countFirst_keeps _ _ _) | (with_reducible apply Dev.KeepsBut.foldl; intro _ _) | (with_reducible apply Dev.KeepsBut.foldl_snd; intro _ _) | split | decide | (with_reducible intro _) | (dsimp only)

theorem Dev.popStash_keeps (d : Dev) (k fuel : Nat) : d.KeepsBut [.regs, .talus, .hive] (Dev.popStash d k fuel) := by
  induction fuel generalizing d with
  | zero => exact Dev.KeepsBut.refl _ _
  | succ m ih =>
    unfold Dev.popStash
    try dsimp only
    repeat' first | with_reducible apply Dev.KeepsBut.refl | with_reducible apply fun x => Dev.KeepsBut.trans x (ih _ ) | with_reducible apply Dev.KeepsBut.then (Dev.setNum64_keeps _ _ _) | with_reducible apply Dev.KeepsBut.then (Dev.setEnt_keeps _ _ _ _ _) | with_reducible apply Dev.KeepsBut.then (Dev.putTls_keeps _ _ _) | (with_reducible apply Dev.KeepsBut.foldl; intro _ _) | (with_reducible apply Dev.KeepsBut.foldl_snd; intro _ _) | split | decide | (with_reducible intro _) | (dsimp only)

theorem Dev.talusReleaseAct_keeps (k : Nat) (d : Dev) (q : QDesc) : d.KeepsBut [.regs, .cricket, .talus, .hive] (Dev.talusReleaseAct k d q) := by
  unfold Dev.talusReleaseAct
  try dsimp only
  repeat' first | with_reducible apply Dev.KeepsBut.refl | with_reducible apply Dev.KeepsBut.then (Dev.setEnt_keeps _ _ _ _ _) | with_reducible apply Dev.KeepsBut.then (Dev.putTls_keeps _ _ _) | with_reducible apply Dev.KeepsBut.then (Dev.talusDone_keeps _ _ _) | with_reducible apply Dev.KeepsBut.then (Dev.countFirst_keeps _ _ _) | with_reducible apply Dev.KeepsBut.then (Dev.popStash_keeps _ _ _) | (with_reducible apply Dev.KeepsBut.foldl; intro _ _) | (with_reducible apply Dev.KeepsBut.foldl_snd; intro _ _) | split | decide | (with_reducible intro _) | (dsimp only)

theorem Dev.spillEnd_keeps (d : Dev) (k : Nat) : d.KeepsBut [.regs, .mem, .dram, .cricket, .talus, .hive, .freeCtr] (Dev.spillEnd d k) := by
  unfold Dev.spillEnd
  try dsimp only
  repeat' first | with_reducible apply Dev.KeepsBut.refl | with_reducible apply Dev.KeepsBut.then (Dev.countSat_keeps _ _ _) | with_reducible apply Dev.KeepsBut.then (Dev.count64_keeps _ _ _) | with_reducible apply Dev.KeepsBut.then (Dev.engWrite_keeps _ _ _ _) | with_reducible apply Dev.KeepsBut.then (Dev.setEnt_keeps _ _ _ _ _) | with_reducible apply Dev.KeepsBut.then (Dev.putTls_keeps _ _ _) | with_reducible apply Dev.KeepsBut.then (Dev.pageCheck_keeps _ _ _ _) | (with_reducible apply Dev.KeepsBut.foldl; intro _ _) | (with_reducible apply Dev.KeepsBut.foldl_snd; intro _ _) | split | decide | (with_reducible intro _) | (dsimp only)

theorem Dev.talusDescComplete_keeps (d : Dev) : d.KeepsBut [.regs, .talus] (Dev.talusDescComplete d) := by
  unfold Dev.talusDescComplete
  try dsimp only
  repeat' first | with_reducible apply Dev.KeepsBut.refl | with_reducible apply Dev.KeepsBut.then (Dev.applySignal_keeps _ _) | (with_reducible apply Dev.KeepsBut.foldl; intro _ _) | (with_reducible apply Dev.KeepsBut.foldl_snd; intro _ _) | with_reducible apply Dev.keeps_talus | simp only [Dev.keeps_mk] | split | decide | (with_reducible intro _) | (dsimp only)

end Sys2Proof.Machine
end

