-- ==== Sys2Proof/Laws/KeepsWeevil.lean ====
section
/-!
SUPPORT. Which parts of the device the operations of Machine/Weevil.lean may change.
-/
namespace Sys2Proof.Machine

theorem Dev.weevilPop_keeps (d : Dev) : d.KeepsBut [.regs, .weevil] (Dev.weevilPop d) := by
  unfold Dev.weevilPop
  try dsimp only
  repeat' first | with_reducible apply Dev.KeepsBut.refl | with_reducible apply Dev.KeepsBut.then (Dev.drop_keeps _ _ _) | (with_reducible apply Dev.KeepsBut.foldl; intro _ _) | (with_reducible apply Dev.KeepsBut.foldl_snd; intro _ _) | with_reducible apply Dev.keeps_weevil | simp only [Dev.keeps_mk] | split | decide | (with_reducible intro _) | (dsimp only)

theorem Dev.weevilFail_keeps (d : Dev) (q : QDesc) (code : Nat) : d.KeepsBut [.regs, .dram, .cricket, .weevil, .freeCtr] (Dev.weevilFail d q code) := by
  unfold Dev.weevilFail
  try dsimp only
  repeat' first | with_reducible apply Dev.KeepsBut.refl | with_reducible apply Dev.KeepsBut.then (Dev.err_keeps _ _ _) | with_reducible apply Dev.KeepsBut.then (Dev.lastCode_keeps _ _ _) | with_reducible apply Dev.KeepsBut.then (Dev.beatFail_keeps _ _ _ _) | with_reducible apply Dev.KeepsBut.then (Dev.weevilPop_keeps _) | (with_reducible apply Dev.KeepsBut.foldl; intro _ _) | (with_reducible apply Dev.KeepsBut.foldl_snd; intro _ _) | split | decide | (with_reducible intro _) | (dsimp only)

theorem Dev.weevilRun_keeps (d : Dev) : d.KeepsBut [.regs, .mem, .dram, .cricket, .weevil, .freeCtr] (Dev.weevilRun d) := by
  unfold Dev.weevilRun
  try dsimp only
  repeat' first | with_reducible apply Dev.KeepsBut.refl | with_reducible apply Dev.KeepsBut.then (Dev.drop_keeps _ _ _) | with_reducible apply Dev.KeepsBut.then (Dev.countIssue_keeps _) | with_reducible apply Dev.KeepsBut.then (Dev.engRead_keeps _ _ _) | with_reducible apply Dev.KeepsBut.then (Dev.setWvl_keeps _ _ _) | with_reducible apply Dev.KeepsBut.then (Dev.weevilFail_keeps _ _ _) | (with_reducible apply Dev.KeepsBut.foldl; intro _ _) | (with_reducible apply Dev.KeepsBut.foldl_snd; intro _ _) | with_reducible apply Dev.keeps_weevil | simp only [Dev.keeps_mk] | split | decide | (with_reducible intro _) | (dsimp only)

theorem Dev.pwlload_keeps (d : Dev) : d.KeepsBut [.regs, .mem, .dram, .cricket, .weevil, .freeCtr] (Dev.pwlload d) := by
  unfold Dev.pwlload
  try dsimp only
  repeat' first | with_reducible apply Dev.KeepsBut.refl | with_reducible apply Dev.KeepsBut.then (Dev.drop_keeps _ _ _) | with_reducible apply Dev.KeepsBut.then (Dev.countIssue_keeps _) | with_reducible apply Dev.KeepsBut.then (Dev.engRead_keeps _ _ _) | with_reducible apply Dev.KeepsBut.then (Dev.setWvl_keeps _ _ _) | with_reducible apply Dev.KeepsBut.then (Dev.weevilFail_keeps _ _ _) | (with_reducible apply Dev.KeepsBut.foldl; intro _ _) | (with_reducible apply Dev.KeepsBut.foldl_snd; intro _ _) | with_reducible apply Dev.keeps_weevil | simp only [Dev.keeps_mk] | split | decide | (with_reducible intro _) | (dsimp only)

theorem Dev.weevilDescComplete_keeps (d : Dev) : d.KeepsBut [.regs, .weevil] (Dev.weevilDescComplete d) := by
  unfold Dev.weevilDescComplete
  try dsimp only
  repeat' first | with_reducible apply Dev.KeepsBut.refl | with_reducible apply Dev.KeepsBut.then (Dev.countSat_keeps _ _ _) | with_reducible apply Dev.KeepsBut.then (Dev.lastCode_keeps _ _ _) | with_reducible apply Dev.KeepsBut.then (Dev.applySignal_keeps _ _) | (with_reducible apply Dev.KeepsBut.foldl; intro _ _) | (with_reducible apply Dev.KeepsBut.foldl_snd; intro _ _) | with_reducible apply Dev.keeps_weevil | simp only [Dev.keeps_mk] | split | decide | (with_reducible intro _) | (dsimp only)

theorem Dev.wvlFail_keeps (d : Dev) (k : Nat) (e : Option Nat) (code : Nat) (addr : Nat) : d.KeepsBut [.regs, .dram, .cricket, .weevil, .freeCtr] (Dev.wvlFail d k e code addr) := by
  unfold Dev.wvlFail
  try dsimp only
  repeat' first | with_reducible apply Dev.KeepsBut.refl | with_reducible apply Dev.KeepsBut.then (Dev.err_keeps _ _ _) | with_reducible apply Dev.KeepsBut.then (Dev.lastCode_keeps _ _ _) | with_reducible apply Dev.KeepsBut.then (Dev.beatFail_keeps _ _ _ _) | with_reducible apply Dev.KeepsBut.then (Dev.setWvl_keeps _ _ _) | (with_reducible apply Dev.KeepsBut.foldl; intro _ _) | (with_reducible apply Dev.KeepsBut.foldl_snd; intro _ _) | split | decide | (with_reducible intro _) | (dsimp only)

theorem Dev.wvlNext_keeps (d : Dev) (k : Nat) (i : Nat) : d.KeepsBut [.regs, .weevil] (Dev.wvlNext d k i) := by
  unfold Dev.wvlNext
  try dsimp only
  repeat' first | with_reducible apply Dev.KeepsBut.refl | with_reducible apply Dev.KeepsBut.then (Dev.count64_keeps _ _ _) | with_reducible apply Dev.KeepsBut.then (Dev.setWvl_keeps _ _ _) | (with_reducible apply Dev.KeepsBut.foldl; intro _ _) | (with_reducible apply Dev.KeepsBut.foldl_snd; intro _ _) | split | decide | (with_reducible intro _) | (dsimp only)

theorem Dev.wvlStep_keeps {ps : List Part} (d : Dev) (k : Nat) (op : Nat) (act : Dev → Nat → Dev) (hact : ∀ (y0 : Dev) (y1 : Nat), y0.KeepsBut ps (act y0 y1)) (hp : ([.regs, .dram, .cricket, .weevil, .freeCtr].all fun p => ps.contains p) = true) : d.KeepsBut ps (Dev.wvlStep d k op act) := by
  unfold Dev.wvlStep
  try dsimp only
  repeat' first | with_reducible apply Dev.KeepsBut.refl | ((with_reducible apply Part.sub hp); decide) | with_reducible apply fun z => Dev.KeepsBut.then (Dev.err_keeps _ _ _ ) z | with_reducible apply fun z => Dev.KeepsBut.then (Dev.wvlFail_keeps _ _ _ _ _ ) z | with_reducible apply fun x => Dev.KeepsBut.trans x (hact _ _ ) | (with_reducible apply Dev.KeepsBut.foldl; intro _ _) | (with_reducible apply Dev.KeepsBut.foldl_snd; intro _ _) | split | decide | (with_reducible intro _) | (dsimp only)

theorem arith_keeps (k : Nat) (f : Wvl → Nat → Nat → Nat → FVal × Nat) (d : Dev) (i : Nat) : d.KeepsBut [.regs, .cricket, .weevil] (arith k f d i) := by
  unfold arith
  try dsimp only
  repeat' first | with_reducible apply Dev.KeepsBut.refl | with_reducible apply Dev.KeepsBut.then (Dev.setWvl_keeps _ _ _) | with_reducible apply Dev.KeepsBut.then (Dev.weevilFlags_keeps _ _ _) | with_reducible apply Dev.KeepsBut.then (Dev.wvlNext_keeps _ _ _) | (with_reducible apply Dev.KeepsBut.foldl; intro _ _) | (with_reducible apply Dev.KeepsBut.foldl_snd; intro _ _) | split | decide | (with_reducible intro _) | (dsimp only)

theorem bitCopy_keeps (k : Nat) (f : Wvl → Nat → Nat → Nat → Nat) (d : Dev) (i : Nat) : d.KeepsBut [.regs, .cricket, .weevil] (bitCopy k f d i) := by
  unfold bitCopy
  try dsimp only
  repeat' first | with_reducible apply Dev.KeepsBut.refl | with_reducible apply Dev.KeepsBut.then (Dev.setWvl_keeps _ _ _) | with_reducible apply Dev.KeepsBut.then (Dev.weevilFlags_keeps _ _ _) | with_reducible apply Dev.KeepsBut.then (Dev.wvlNext_keeps _ _ _) | (with_reducible apply Dev.KeepsBut.foldl; intro _ _) | (with_reducible apply Dev.KeepsBut.foldl_snd; intro _ _) | split | decide | (with_reducible intro _) | (dsimp only)

theorem Dev.memFail_keeps (d : Dev) (k : Nat) (i : Nat) (c : Nat × Nat) : d.KeepsBut [.regs, .dram, .cricket, .weevil, .freeCtr] (Dev.memFail d k i c) := by
  unfold Dev.memFail
  try dsimp only
  repeat' first | with_reducible apply Dev.KeepsBut.refl | with_reducible apply Dev.KeepsBut.then (Dev.err_keeps _ _ _) | with_reducible apply Dev.KeepsBut.then (Dev.wvlFail_keeps _ _ _ _ _) | (with_reducible apply Dev.KeepsBut.foldl; intro _ _) | (with_reducible apply Dev.KeepsBut.foldl_snd; intro _ _) | split | decide | (with_reducible intro _) | (dsimp only)

theorem Dev.memGet_keeps (d : Dev) (k : Nat) (space : Nat) (a : Nat) (n : Nat) : d.KeepsBut [.regs, .mem, .dram, .cricket, .freeCtr] (Dev.memGet d k space a n).2 := by
  unfold Dev.memGet
  try dsimp only
  repeat' first | with_reducible apply Dev.KeepsBut.refl | with_reducible apply Dev.KeepsBut.then (Dev.engRead_keeps _ _ _) | with_reducible apply Dev.KeepsBut.then (Dev.csRead_keeps _ _ _ _) | with_reducible apply Dev.KeepsBut.then (Dev.talusRead_keeps _ _ _ _) | (with_reducible apply Dev.KeepsBut.foldl; intro _ _) | (with_reducible apply Dev.KeepsBut.foldl_snd; intro _ _) | split | decide | (with_reducible intro _) | (dsimp only)

theorem Dev.memPut_keeps (d : Dev) (k : Nat) (space : Nat) (a : Nat) (bs : List Byte) : d.KeepsBut [.regs, .mem, .dram, .cricket, .massif, .talus, .freeCtr] (Dev.memPut d k space a bs) := by
  unfold Dev.memPut
  try dsimp only
  repeat' first | with_reducible apply Dev.KeepsBut.refl | with_reducible apply Dev.KeepsBut.then (Dev.engWrite_keeps _ _ _ _) | with_reducible apply Dev.KeepsBut.then (Dev.csWrite_keeps _ _ _ _) | with_reducible apply Dev.KeepsBut.then (Dev.talusWrite_keeps _ _ _ _) | (with_reducible apply Dev.KeepsBut.foldl; intro _ _) | (with_reducible apply Dev.KeepsBut.foldl_snd; intro _ _) | split | decide | (with_reducible intro _) | (dsimp only)

theorem Dev.wvlLd_keeps (k : Nat) (d : Dev) (i : Nat) : d.KeepsBut [.regs, .mem, .dram, .cricket, .weevil, .freeCtr] (Dev.wvlLd k d i) := by
  unfold Dev.wvlLd
  try dsimp only
  repeat' first | with_reducible apply Dev.KeepsBut.refl | with_reducible apply Dev.KeepsBut.then (Dev.setWvl_keeps _ _ _) | with_reducible apply Dev.KeepsBut.then (Dev.wvlNext_keeps _ _ _) | with_reducible apply Dev.KeepsBut.then (Dev.memFail_keeps _ _ _ _) | with_reducible apply Dev.KeepsBut.then (Dev.memGet_keeps _ _ _ _ _) | (with_reducible apply Dev.KeepsBut.foldl; intro _ _) | (with_reducible apply Dev.KeepsBut.foldl_snd; intro _ _) | with_reducible apply Dev.keeps_freeCtr | simp only [Dev.keeps_mk] | split | decide | (with_reducible intro _) | (dsimp only)

theorem Dev.putImage_keeps (d : Dev) (k : Nat) (i : Nat) (rows : List (List Nat)) (scales : List Byte) : d.KeepsBut [.regs, .mem, .dram, .cricket, .massif, .talus, .freeCtr] (Dev.putImage d k i rows scales) := by
  unfold Dev.putImage
  try dsimp only
  repeat' first | with_reducible apply Dev.KeepsBut.refl | with_reducible apply Dev.KeepsBut.then (Dev.memPut_keeps _ _ _ _ _) | (with_reducible apply Dev.KeepsBut.foldl; intro _ _) | (with_reducible apply Dev.KeepsBut.foldl_snd; intro _ _) | split | decide | (with_reducible intro _) | (dsimp only)

theorem Dev.wvlSt_keeps (k : Nat) (d : Dev) (i : Nat) : d.KeepsBut [.regs, .mem, .dram, .cricket, .massif, .weevil, .talus, .freeCtr] (Dev.wvlSt k d i) := by
  unfold Dev.wvlSt
  try dsimp only
  repeat' first | with_reducible apply Dev.KeepsBut.refl | with_reducible apply Dev.KeepsBut.then (Dev.drop_keeps _ _ _) | with_reducible apply Dev.KeepsBut.then (Dev.wvlNext_keeps _ _ _) | with_reducible apply Dev.KeepsBut.then (Dev.memFail_keeps _ _ _ _) | with_reducible apply Dev.KeepsBut.then (Dev.putImage_keeps _ _ _ _ _) | (with_reducible apply Dev.KeepsBut.foldl; intro _ _) | (with_reducible apply Dev.KeepsBut.foldl_snd; intro _ _) | split | decide | (with_reducible intro _) | (dsimp only)

theorem Dev.wvlStn_keeps (k : Nat) (d : Dev) (i : Nat) : d.KeepsBut [.regs, .mem, .dram, .cricket, .massif, .weevil, .talus, .freeCtr] (Dev.wvlStn k d i) := by
  unfold Dev.wvlStn
  try dsimp only
  repeat' first | with_reducible apply Dev.KeepsBut.refl | with_reducible apply Dev.KeepsBut.then (Dev.weevilFlags_keeps _ _ _) | with_reducible apply Dev.KeepsBut.then (Dev.wvlNext_keeps _ _ _) | with_reducible apply Dev.KeepsBut.then (Dev.memFail_keeps _ _ _ _) | with_reducible apply Dev.KeepsBut.then (Dev.putImage_keeps _ _ _ _ _) | (with_reducible apply Dev.KeepsBut.foldl; intro _ _) | (with_reducible apply Dev.KeepsBut.foldl_snd; intro _ _) | split | decide | (with_reducible intro _) | (dsimp only)

theorem Dev.wvlTwait_keeps (k : Nat) (d : Dev) (i : Nat) : d.KeepsBut [.regs, .weevil, .freeCtr] (Dev.wvlTwait k d i) := by
  unfold Dev.wvlTwait
  try dsimp only
  repeat' first | with_reducible apply Dev.KeepsBut.refl | with_reducible apply Dev.KeepsBut.then (Dev.countFree64_keeps _ _) | with_reducible apply Dev.KeepsBut.then (Dev.setWvl_keeps _ _ _) | with_reducible apply Dev.KeepsBut.then (Dev.wvlNext_keeps _ _ _) | (with_reducible apply Dev.KeepsBut.foldl; intro _ _) | (with_reducible apply Dev.KeepsBut.foldl_snd; intro _ _) | split | decide | (with_reducible intro _) | (dsimp only)

theorem Dev.wvlEndl_keeps (k : Nat) (d : Dev) (i : Nat) : d.KeepsBut [.regs, .dram, .cricket, .weevil, .freeCtr] (Dev.wvlEndl k d i) := by
  unfold Dev.wvlEndl
  try dsimp only
  repeat' first | with_reducible apply Dev.KeepsBut.refl | with_reducible apply Dev.KeepsBut.then (Dev.setWvl_keeps _ _ _) | with_reducible apply Dev.KeepsBut.then (Dev.wvlFail_keeps _ _ _ _ _) | with_reducible apply Dev.KeepsBut.then (Dev.wvlNext_keeps _ _ _) | (with_reducible apply Dev.KeepsBut.foldl; intro _ _) | (with_reducible apply Dev.KeepsBut.foldl_snd; intro _ _) | split | decide | (with_reducible intro _) | (dsimp only)

theorem Dev.pwldata_keeps (d : Dev) (r : Requester) (k : Nat) (a : WinAccess) : d.KeepsBut [.regs, .bus, .weevil] (Dev.pwldata d r k a) := by
  unfold Dev.pwldata
  try dsimp only
  repeat' first | with_reducible apply Dev.KeepsBut.refl | with_reducible apply Dev.KeepsBut.then (Dev.setFld_keeps _ _ _ _ _) | with_reducible apply Dev.KeepsBut.then (Dev.setWvl_keeps _ _ _) | with_reducible apply fun q0 z x => Dev.KeepsBut.trans x (Dev.winRead_keeps (ps := [.regs, .bus, .weevil]) _ _ _ _ _ _ _  q0 z) | with_reducible apply fun q0 q1 z x => Dev.KeepsBut.trans x (Dev.winWrite_keeps (ps := [.regs, .bus, .weevil]) _ _ _ _ _ _ _ _  q0 q1 z) | with_reducible apply Dev.KeepsBut.then (Dev.noWindow_keeps _ _) | (with_reducible apply Dev.KeepsBut.foldl; intro _ _) | (with_reducible apply Dev.KeepsBut.foldl_snd; intro _ _) | split | decide | (with_reducible intro _) | (dsimp only)

theorem Dev.trdata_keeps (d : Dev) (r : Requester) (k : Nat) (a : WinAccess) : d.KeepsBut [.regs, .bus, .weevil] (Dev.trdata d r k a) := by
  unfold Dev.trdata
  try dsimp only
  repeat' first | with_reducible apply Dev.KeepsBut.refl | with_reducible apply Dev.KeepsBut.then (Dev.setFld_keeps _ _ _ _ _) | with_reducible apply Dev.KeepsBut.then (Dev.err_keeps _ _ _) | with_reducible apply Dev.KeepsBut.then (Dev.setWvl_keeps _ _ _) | with_reducible apply fun q0 z x => Dev.KeepsBut.trans x (Dev.winRead_keeps (ps := [.regs, .bus, .weevil]) _ _ _ _ _ _ _  q0 z) | with_reducible apply fun q0 q1 z x => Dev.KeepsBut.trans x (Dev.winWrite_keeps (ps := [.regs, .bus, .weevil]) _ _ _ _ _ _ _ _  q0 q1 z) | with_reducible apply Dev.KeepsBut.then (Dev.noWindow_keeps _ _) | (with_reducible apply Dev.KeepsBut.foldl; intro _ _) | (with_reducible apply Dev.KeepsBut.foldl_snd; intro _ _) | split | decide | (with_reducible intro _) | (dsimp only)

end Sys2Proof.Machine
end

