-- ==== Sys2Proof/Laws/KeepsScarab.lean ====
section
/-!
SUPPORT. Which parts of the device the operations of Machine/Scarab.lean may change.
-/
namespace Sys2Proof.Machine

theorem Dev.scbRow_keeps (d : Dev) (b : List Byte) (k : Nat) (r : Nat) : d.KeepsBut [.regs, .mem, .dram, .cricket, .freeCtr] (Dev.scbRow d b k r).2 := by
  unfold Dev.scbRow
  try dsimp only
  repeat' first | with_reducible apply Dev.KeepsBut.refl | with_reducible apply Dev.KeepsBut.then (Dev.engRead_keeps _ _ _) | with_reducible apply Dev.KeepsBut.then (Dev.talusRead_keeps _ _ _ _) | (with_reducible apply Dev.KeepsBut.foldl; intro _ _) | (with_reducible apply Dev.KeepsBut.foldl_snd; intro _ _) | split | decide | (with_reducible intro _) | (dsimp only)

theorem Dev.scbDy_keeps (d : Dev) (b : List Byte) (r : Nat) : d.KeepsBut [.regs, .mem, .dram, .cricket, .freeCtr] (Dev.scbDy d b r).2 := by
  unfold Dev.scbDy
  try dsimp only
  repeat' first | with_reducible apply Dev.KeepsBut.refl | with_reducible apply Dev.KeepsBut.then (Dev.engRead_keeps _ _ _) | (with_reducible apply Dev.KeepsBut.foldl; intro _ _) | (with_reducible apply Dev.KeepsBut.foldl_snd; intro _ _) | split | decide | (with_reducible intro _) | (dsimp only)

theorem Dev.scbVec_keeps (d : Dev) (b : List Byte) (a : Nat) (dflt : JVal) : d.KeepsBut [.regs, .mem, .dram, .cricket, .freeCtr] (Dev.scbVec d b a dflt).2 := by
  unfold Dev.scbVec
  try dsimp only
  repeat' first | with_reducible apply Dev.KeepsBut.refl | with_reducible apply Dev.KeepsBut.then (Dev.engRead_keeps _ _ _) | (with_reducible apply Dev.KeepsBut.foldl; intro _ _) | (with_reducible apply Dev.KeepsBut.foldl_snd; intro _ _) | split | decide | (with_reducible intro _) | (dsimp only)

theorem Dev.statGet_keeps (d : Dev) (k : Nat) (e : Nat) : d.KeepsBut [.regs, .dram, .cricket, .freeCtr] (Dev.statGet d k e).2 := by
  unfold Dev.statGet
  try dsimp only
  repeat' first | with_reducible apply Dev.KeepsBut.refl | with_reducible apply Dev.KeepsBut.then (Dev.errData_keeps _ _ _) | with_reducible apply Dev.KeepsBut.then (Dev.beatFail_keeps _ _ _ _) | (with_reducible apply Dev.KeepsBut.foldl; intro _ _) | (with_reducible apply Dev.KeepsBut.foldl_snd; intro _ _) | split | decide | (with_reducible intro _) | (dsimp only)

theorem Dev.statPut_keeps (d : Dev) (k : Nat) (e : Nat) (v : DWord) : d.KeepsBut [.scarab] (Dev.statPut d k e v) := by
  unfold Dev.statPut
  try dsimp only
  repeat' first | with_reducible apply Dev.KeepsBut.refl | with_reducible apply Dev.KeepsBut.then (Dev.setScb_keeps _ _ _) | (with_reducible apply Dev.KeepsBut.foldl; intro _ _) | (with_reducible apply Dev.KeepsBut.foldl_snd; intro _ _) | split | decide | (with_reducible intro _) | (dsimp only)

theorem Dev.scbCompute_keeps (d : Dev) (b : List Byte) (k : Nat) (r : Nat) (g : List JVal) (be : List JVal) (stats : Bool) : d.KeepsBut [.regs, .mem, .dram, .cricket, .scarab, .freeCtr] (Dev.scbCompute d b k r g be stats).2 := by
  unfold Dev.scbCompute
  try dsimp only
  repeat' first | with_reducible apply Dev.KeepsBut.refl | with_reducible apply Dev.KeepsBut.then (Dev.scbRow_keeps _ _ _ _) | with_reducible apply Dev.KeepsBut.then (Dev.scbDy_keeps _ _ _) | with_reducible apply Dev.KeepsBut.then (Dev.statGet_keeps _ _ _) | with_reducible apply Dev.KeepsBut.then (Dev.statPut_keeps _ _ _ _) | (with_reducible apply Dev.KeepsBut.foldl; intro _ _) | (with_reducible apply Dev.KeepsBut.foldl_snd; intro _ _) | split | decide | (with_reducible intro _) | (dsimp only)

theorem Dev.scbFlags_keeps (d : Dev) (k : Nat) (f : Nat) : d.KeepsBut [.regs, .cricket, .scarab] (Dev.scbFlags d k f) := by
  unfold Dev.scbFlags
  try dsimp only
  repeat' first | with_reducible apply Dev.KeepsBut.refl | with_reducible apply Dev.KeepsBut.then (Dev.success_keeps _ _) | with_reducible apply Dev.KeepsBut.then (Dev.setScb_keeps _ _ _) | with_reducible apply Dev.KeepsBut.then (Dev.orFlags_keeps _ _ _ _) | (with_reducible apply Dev.KeepsBut.foldl; intro _ _) | (with_reducible apply Dev.KeepsBut.foldl_snd; intro _ _) | split | decide | (with_reducible intro _) | (dsimp only)

theorem Dev.scbBand_keeps (d : Dev) (b : List Byte) (k : Nat) (x : Nat) (g : List JVal) (be : List JVal) (stats : Bool) : d.KeepsBut [.regs, .mem, .dram, .cricket, .scarab, .freeCtr] (Dev.scbBand d b k x g be stats).2 := by
  unfold Dev.scbBand
  try dsimp only
  repeat' first | with_reducible apply Dev.KeepsBut.refl | with_reducible apply Dev.KeepsBut.then (Dev.scbCompute_keeps _ _ _ _ _ _ _) | (with_reducible apply Dev.KeepsBut.foldl; intro _ _) | (with_reducible apply Dev.KeepsBut.foldl_snd; intro _ _) | split | decide | (with_reducible intro _) | (dsimp only)

theorem Dev.scbStore_keeps (d : Dev) (b : List Byte) (k : Nat) (x : Nat) (rows : List RowOut) : d.KeepsBut [.regs, .mem, .dram, .cricket, .scarab, .freeCtr] (Dev.scbStore d b k x rows) := by
  unfold Dev.scbStore
  try dsimp only
  repeat' first | with_reducible apply Dev.KeepsBut.refl | with_reducible apply Dev.KeepsBut.then (Dev.countSat_keeps _ _ _) | with_reducible apply Dev.KeepsBut.then (Dev.engWrite_keeps _ _ _ _) | with_reducible apply Dev.KeepsBut.then (Dev.scbFlags_keeps _ _ _) | (with_reducible apply Dev.KeepsBut.foldl; intro _ _) | (with_reducible apply Dev.KeepsBut.foldl_snd; intro _ _) | split | decide | (with_reducible intro _) | (dsimp only)

theorem Dev.scbDeliver_keeps (d : Dev) (b : List Byte) (k : Nat) (g be : List JVal) (fuel : Nat) : d.KeepsBut [.regs, .mem, .dram, .cricket, .weevil, .scarab, .freeCtr] (Dev.scbDeliver d b k g be fuel) := by
  induction fuel generalizing d with
  | zero => exact Dev.KeepsBut.refl _ _
  | succ m ih =>
    unfold Dev.scbDeliver
    try dsimp only
    repeat' first | with_reducible apply Dev.KeepsBut.refl | with_reducible apply fun x => Dev.KeepsBut.trans x (ih _ ) | with_reducible apply Dev.KeepsBut.then (Dev.drop_keeps _ _ _) | with_reducible apply Dev.KeepsBut.then (Dev.setWvl_keeps _ _ _) | with_reducible apply Dev.KeepsBut.then (Dev.scbBand_keeps _ _ _ _ _ _ _) | (with_reducible apply Dev.KeepsBut.foldl; intro _ _) | (with_reducible apply Dev.KeepsBut.foldl_snd; intro _ _) | with_reducible apply Dev.keeps_freeCtr | simp only [Dev.keeps_mk] | split | decide | (with_reducible intro _) | (dsimp only)

theorem Dev.scbRingEnd_keeps (d : Dev) (k : Nat) : d.KeepsBut [.weevil] (Dev.scbRingEnd d k) := by
  unfold Dev.scbRingEnd
  try dsimp only
  repeat' first | with_reducible apply Dev.KeepsBut.refl | with_reducible apply Dev.KeepsBut.then (Dev.setWvl_keeps _ _ _) | (with_reducible apply Dev.KeepsBut.foldl; intro _ _) | (with_reducible apply Dev.KeepsBut.foldl_snd; intro _ _) | split | decide | (with_reducible intro _) | (dsimp only)

theorem Dev.scbBegin_keeps (d : Dev) (q : QDesc) : d.KeepsBut [.cricket, .scarab] (Dev.scbBegin d q) := by
  unfold Dev.scbBegin
  try dsimp only
  repeat' first | with_reducible apply Dev.KeepsBut.refl | with_reducible apply Dev.KeepsBut.then (Dev.countIssue_keeps _) | (with_reducible apply Dev.KeepsBut.foldl; intro _ _) | (with_reducible apply Dev.KeepsBut.foldl_snd; intro _ _) | with_reducible apply Dev.keeps_scarab | simp only [Dev.keeps_mk] | split | decide | (with_reducible intro _) | (dsimp only)

theorem Dev.scbDone_keeps (d : Dev) (k : Nat) (q : QDesc) : d.KeepsBut [.regs, .cricket, .scarab, .freeCtr] (Dev.scbDone d k q) := by
  unfold Dev.scbDone
  try dsimp only
  repeat' first | with_reducible apply Dev.KeepsBut.refl | with_reducible apply Dev.KeepsBut.then (Dev.setNum_keeps _ _ _) | with_reducible apply Dev.KeepsBut.then (Dev.drop_keeps _ _ _) | with_reducible apply Dev.KeepsBut.then (Dev.lastCode_keeps _ _ _) | with_reducible apply Dev.KeepsBut.then (Dev.countFree64_keeps _ _) | with_reducible apply Dev.KeepsBut.then (Dev.setScb_keeps _ _ _) | with_reducible apply Dev.KeepsBut.then (Dev.scbBegin_keeps _ _) | (with_reducible apply Dev.KeepsBut.foldl; intro _ _) | (with_reducible apply Dev.KeepsBut.foldl_snd; intro _ _) | with_reducible apply Dev.keeps_scarab | simp only [Dev.keeps_mk] | split | decide | (with_reducible intro _) | (dsimp only)

theorem Dev.scbFail_keeps (d : Dev) (k : Nat) (q : QDesc) (code : Nat) : d.KeepsBut [.regs, .dram, .cricket, .scarab, .freeCtr] (Dev.scbFail d k q code) := by
  unfold Dev.scbFail
  try dsimp only
  repeat' first | with_reducible apply Dev.KeepsBut.refl | with_reducible apply Dev.KeepsBut.then (Dev.setNum_keeps _ _ _) | with_reducible apply Dev.KeepsBut.then (Dev.drop_keeps _ _ _) | with_reducible apply Dev.KeepsBut.then (Dev.err_keeps _ _ _) | with_reducible apply Dev.KeepsBut.then (Dev.lastCode_keeps _ _ _) | with_reducible apply Dev.KeepsBut.then (Dev.beatFail_keeps _ _ _ _) | with_reducible apply Dev.KeepsBut.then (Dev.setScb_keeps _ _ _) | (with_reducible apply Dev.KeepsBut.foldl; intro _ _) | (with_reducible apply Dev.KeepsBut.foldl_snd; intro _ _) | with_reducible apply Dev.keeps_scarab | simp only [Dev.keeps_mk] | split | decide | (with_reducible intro _) | (dsimp only)

theorem Dev.scbStep_keeps {ps : List Part} (d : Dev) (k : Nat) (op : Nat) (act : Dev → QDesc → Dev) (hact : ∀ (y0 : Dev) (y1 : QDesc), y0.KeepsBut ps (act y0 y1)) (hp : ([.regs, .dram, .cricket, .scarab, .freeCtr].all fun p => ps.contains p) = true) : d.KeepsBut ps (Dev.scbStep d k op act) := by
  unfold Dev.scbStep
  try dsimp only
  repeat' first | with_reducible apply Dev.KeepsBut.refl | ((with_reducible apply Part.sub hp); decide) | with_reducible apply fun z => Dev.KeepsBut.then (Dev.scbFail_keeps _ _ _ _ ) z | with_reducible apply fun x => Dev.KeepsBut.trans x (hact _ _ ) | (with_reducible apply Dev.KeepsBut.foldl; intro _ _) | (with_reducible apply Dev.KeepsBut.foldl_snd; intro _ _) | split | decide | (with_reducible intro _) | (dsimp only)

theorem Dev.scbBands_keeps (d : Dev) (b : List Byte) (k : Nat) (g : List JVal) (be : List JVal) : d.KeepsBut [.regs, .mem, .dram, .cricket, .scarab, .freeCtr] (Dev.scbBands d b k g be) := by
  unfold Dev.scbBands
  try dsimp only
  repeat' first | with_reducible apply Dev.KeepsBut.refl | with_reducible apply Dev.KeepsBut.then (Dev.scbBand_keeps _ _ _ _ _ _ _) | with_reducible apply Dev.KeepsBut.then (Dev.scbStore_keeps _ _ _ _ _) | (with_reducible apply Dev.KeepsBut.foldl; intro _ _) | (with_reducible apply Dev.KeepsBut.foldl_snd; intro _ _) | split | decide | (with_reducible intro _) | (dsimp only)

theorem Dev.rowBuffer_keeps (d : Dev) (k : Nat) : d.KeepsBut [.regs, .dram, .cricket, .scarab, .freeCtr] (Dev.rowBuffer d k) := by
  unfold Dev.rowBuffer
  try dsimp only
  repeat' first | with_reducible apply Dev.KeepsBut.refl | with_reducible apply Dev.KeepsBut.then (Dev.errData_keeps _ _ _) | with_reducible apply Dev.KeepsBut.then (Dev.beatFail_keeps _ _ _ _) | with_reducible apply Dev.KeepsBut.then (Dev.setScb_keeps _ _ _) | (with_reducible apply Dev.KeepsBut.foldl; intro _ _) | (with_reducible apply Dev.KeepsBut.foldl_snd; intro _ _) | split | decide | (with_reducible intro _) | (dsimp only)

theorem scbRows_keeps (k : Nat) (d : Dev) (q : QDesc) : d.KeepsBut [.regs, .mem, .dram, .cricket, .weevil, .scarab, .freeCtr] (scbRows k d q) := by
  unfold scbRows
  try dsimp only
  repeat' first | with_reducible apply Dev.KeepsBut.refl | with_reducible apply Dev.KeepsBut.then (Dev.setWvl_keeps _ _ _) | with_reducible apply Dev.KeepsBut.then (Dev.scbVec_keeps _ _ _ _) | with_reducible apply Dev.KeepsBut.then (Dev.scbDeliver_keeps _ _ _ _ _ _) | with_reducible apply Dev.KeepsBut.then (Dev.scbRingEnd_keeps _ _) | with_reducible apply Dev.KeepsBut.then (Dev.scbBegin_keeps _ _) | with_reducible apply Dev.KeepsBut.then (Dev.scbDone_keeps _ _ _) | with_reducible apply Dev.KeepsBut.then (Dev.scbBands_keeps _ _ _ _ _) | with_reducible apply Dev.KeepsBut.then (Dev.rowBuffer_keeps _ _) | (with_reducible apply Dev.KeepsBut.foldl; intro _ _) | (with_reducible apply Dev.KeepsBut.foldl_snd; intro _ _) | split | decide | (with_reducible intro _) | (dsimp only)

theorem Dev.bandBlock_keeps (d : Dev) (b : List Byte) (k : Nat) (q : Nat) : d.KeepsBut [.regs, .mem, .dram, .cricket, .scarab, .freeCtr] (Dev.bandBlock d b k q) := by
  unfold Dev.bandBlock
  try dsimp only
  repeat' first | with_reducible apply Dev.KeepsBut.refl | with_reducible apply Dev.KeepsBut.then (Dev.engRead_keeps _ _ _) | with_reducible apply Dev.KeepsBut.then (Dev.engWrite_keeps _ _ _ _) | with_reducible apply Dev.KeepsBut.then (Dev.scbFlags_keeps _ _ _) | (with_reducible apply Dev.KeepsBut.foldl; intro _ _) | (with_reducible apply Dev.KeepsBut.foldl_snd; intro _ _) | split | decide | (with_reducible intro _) | (dsimp only)

theorem bandsumAct_keeps (k : Nat) (d : Dev) (q : QDesc) : d.KeepsBut [.regs, .mem, .dram, .cricket, .scarab, .freeCtr] (bandsumAct k d q) := by
  unfold bandsumAct
  try dsimp only
  repeat' first | with_reducible apply Dev.KeepsBut.refl | with_reducible apply Dev.KeepsBut.then (Dev.scbDone_keeps _ _ _) | with_reducible apply Dev.KeepsBut.then (Dev.rowBuffer_keeps _ _) | with_reducible apply Dev.KeepsBut.then (Dev.bandBlock_keeps _ _ _ _) | (with_reducible apply Dev.KeepsBut.foldl; intro _ _) | (with_reducible apply Dev.KeepsBut.foldl_snd; intro _ _) | split | decide | (with_reducible intro _) | (dsimp only)

theorem statsaveAct_keeps (k : Nat) (d : Dev) (q : QDesc) : d.KeepsBut [.regs, .mem, .dram, .cricket, .scarab, .freeCtr] (statsaveAct k d q) := by
  unfold statsaveAct
  try dsimp only
  repeat' first | with_reducible apply Dev.KeepsBut.refl | with_reducible apply Dev.KeepsBut.then (Dev.engWrite_keeps _ _ _ _) | with_reducible apply Dev.KeepsBut.then (Dev.statGet_keeps _ _ _) | with_reducible apply Dev.KeepsBut.then (Dev.scbDone_keeps _ _ _) | (with_reducible apply Dev.KeepsBut.foldl; intro _ _) | (with_reducible apply Dev.KeepsBut.foldl_snd; intro _ _) | split | decide | (with_reducible intro _) | (dsimp only)

theorem statloadAct_keeps (k : Nat) (d : Dev) (q : QDesc) : d.KeepsBut [.regs, .mem, .dram, .cricket, .scarab, .freeCtr] (statloadAct k d q) := by
  unfold statloadAct
  try dsimp only
  repeat' first | with_reducible apply Dev.KeepsBut.refl | with_reducible apply Dev.KeepsBut.then (Dev.engRead_keeps _ _ _) | with_reducible apply Dev.KeepsBut.then (Dev.statPut_keeps _ _ _ _) | with_reducible apply Dev.KeepsBut.then (Dev.scbDone_keeps _ _ _) | (with_reducible apply Dev.KeepsBut.foldl; intro _ _) | (with_reducible apply Dev.KeepsBut.foldl_snd; intro _ _) | split | decide | (with_reducible intro _) | (dsimp only)

theorem Dev.scarabDescComplete_keeps (d : Dev) : d.KeepsBut [.regs, .scarab] (Dev.scarabDescComplete d) := by
  unfold Dev.scarabDescComplete
  try dsimp only
  repeat' first | with_reducible apply Dev.KeepsBut.refl | with_reducible apply Dev.KeepsBut.then (Dev.applySignal_keeps _ _) | (with_reducible apply Dev.KeepsBut.foldl; intro _ _) | (with_reducible apply Dev.KeepsBut.foldl_snd; intro _ _) | with_reducible apply Dev.keeps_scarab | simp only [Dev.keeps_mk] | split | decide | (with_reducible intro _) | (dsimp only)

theorem Dev.statdata_keeps (d : Dev) (r : Requester) (k : Nat) (a : WinAccess) : d.KeepsBut [.regs, .bus, .scarab] (Dev.statdata d r k a) := by
  unfold Dev.statdata
  try dsimp only
  repeat' first | with_reducible apply Dev.KeepsBut.refl | with_reducible apply Dev.KeepsBut.then (Dev.setFld_keeps _ _ _ _ _) | with_reducible apply Dev.KeepsBut.then (Dev.err_keeps _ _ _) | with_reducible apply fun q0 z x => Dev.KeepsBut.trans x (Dev.winRead_keeps (ps := [.regs, .bus, .scarab]) _ _ _ _ _ _ _  q0 z) | with_reducible apply fun q0 q1 z x => Dev.KeepsBut.trans x (Dev.winWrite_keeps (ps := [.regs, .bus, .scarab]) _ _ _ _ _ _ _ _  q0 q1 z) | with_reducible apply Dev.KeepsBut.then (Dev.noWindow_keeps _ _) | with_reducible apply Dev.KeepsBut.then (Dev.statPut_keeps _ _ _ _) | (with_reducible apply Dev.KeepsBut.foldl; intro _ _) | (with_reducible apply Dev.KeepsBut.foldl_snd; intro _ _) | split | decide | (with_reducible intro _) | (dsimp only)

end Sys2Proof.Machine
end

