-- ==== Sys2Proof/Laws/KeepsCol.lean ====
section
/-!
SUPPORT. Which parts of the device the operations of Machine/Col.lean may change.
-/
namespace Sys2Proof.Machine

theorem Dev.colFail_keeps (d : Dev) (q : QDesc) (code : Nat) : d.KeepsBut [.regs, .dram, .cricket, .col, .freeCtr] (Dev.colFail d q code) := by
  unfold Dev.colFail
  try dsimp only
  repeat' first | with_reducible apply Dev.KeepsBut.refl | with_reducible apply Dev.KeepsBut.then (Dev.setNum_keeps _ _ _) | with_reducible apply Dev.KeepsBut.then (Dev.drop_keeps _ _ _) | with_reducible apply Dev.KeepsBut.then (Dev.err_keeps _ _ _) | with_reducible apply Dev.KeepsBut.then (Dev.lastCode_keeps _ _ _) | with_reducible apply Dev.KeepsBut.then (Dev.beatFail_keeps _ _ _ _) | (with_reducible apply Dev.KeepsBut.foldl; intro _ _) | (with_reducible apply Dev.KeepsBut.foldl_snd; intro _ _) | with_reducible apply Dev.keeps_col | simp only [Dev.keeps_mk] | split | decide | (with_reducible intro _) | (dsimp only)

theorem Dev.colIssue_keeps (d : Dev) (op : Nat) : d.KeepsBut [.regs, .dram, .cricket, .col, .freeCtr] (Dev.colIssue d op) := by
  unfold Dev.colIssue
  try dsimp only
  repeat' first | with_reducible apply Dev.KeepsBut.refl | with_reducible apply Dev.KeepsBut.then (Dev.drop_keeps _ _ _) | with_reducible apply Dev.KeepsBut.then (Dev.countIssue_keeps _) | with_reducible apply Dev.KeepsBut.then (Dev.colFail_keeps _ _ _) | (with_reducible apply Dev.KeepsBut.foldl; intro _ _) | (with_reducible apply Dev.KeepsBut.foldl_snd; intro _ _) | with_reducible apply Dev.keeps_col | simp only [Dev.keeps_mk] | split | decide | (with_reducible intro _) | (dsimp only)

theorem Dev.placeSet_keeps (d : Dev) (src : Dev) (b : List Byte) (i : Nat) : d.KeepsBut [.regs, .dram, .cricket, .massif, .freeCtr] (Dev.placeSet d src b i) := by
  unfold Dev.placeSet
  try dsimp only
  repeat' first | with_reducible apply Dev.KeepsBut.refl | with_reducible apply Dev.KeepsBut.then (Dev.err_keeps _ _ _) | with_reducible apply Dev.KeepsBut.then (Dev.placeOperand_keeps _ _ _ _ _ _) | with_reducible apply Dev.KeepsBut.then (Dev.placeScales_keeps _ _ _ _ _) | (with_reducible apply Dev.KeepsBut.foldl; intro _ _) | (with_reducible apply Dev.KeepsBut.foldl_snd; intro _ _) | split | decide | (with_reducible intro _) | (dsimp only)

theorem Dev.colDescComplete_keeps (d : Dev) : d.KeepsBut [.regs, .mem, .dram, .cricket, .massif, .col, .freeCtr] (Dev.colDescComplete d) := by
  unfold Dev.colDescComplete
  try dsimp only
  repeat' first | with_reducible apply Dev.KeepsBut.refl | with_reducible apply Dev.KeepsBut.then (Dev.setNum_keeps _ _ _) | with_reducible apply Dev.KeepsBut.then (Dev.countSat_keeps _ _ _) | with_reducible apply Dev.KeepsBut.then (Dev.count64_keeps _ _ _) | with_reducible apply Dev.KeepsBut.then (Dev.err_keeps _ _ _) | with_reducible apply Dev.KeepsBut.then (Dev.lastCode_keeps _ _ _) | with_reducible apply Dev.KeepsBut.then (Dev.countFree64_keeps _ _) | with_reducible apply Dev.KeepsBut.then (Dev.applySignal_keeps _ _) | with_reducible apply Dev.KeepsBut.then (Dev.stageCheck_keeps _ _) | with_reducible apply Dev.KeepsBut.then (Dev.touchAll_keeps _ _) | with_reducible apply Dev.KeepsBut.then (Dev.placeSet_keeps _ _ _ _) | (with_reducible apply Dev.KeepsBut.foldl; intro _ _) | (with_reducible apply Dev.KeepsBut.foldl_snd; intro _ _) | with_reducible apply Dev.keeps_col | simp only [Dev.keeps_mk] | split | decide | (with_reducible intro _) | (dsimp only)

end Sys2Proof.Machine
end

