-- ==== Sys2Proof/Laws/KeepsImages.lean ====
section
/-!
SUPPORT. Which parts of the device the operations of Machine/Images.lean may change.
-/
namespace Sys2Proof.Machine

theorem Dev.checkImage_keeps (d : Dev) (r : ImgReg) : d.KeepsBut [.regs, .mem, .dram, .freeCtr] (Dev.checkImage d r).2 := by
  unfold Dev.checkImage
  try dsimp only
  repeat' first | with_reducible apply Dev.KeepsBut.refl | with_reducible apply Dev.KeepsBut.then (Dev.drop_keeps _ _ _) | with_reducible apply Dev.KeepsBut.then (Dev.quietRead_keeps _ _ _) | (with_reducible apply Dev.KeepsBut.foldl; intro _ _) | (with_reducible apply Dev.KeepsBut.foldl_snd; intro _ _) | split | decide | (with_reducible intro _) | (dsimp only)

theorem Dev.countImages_keeps (d : Dev) : d.KeepsBut [.regs] (Dev.countImages d) := by
  unfold Dev.countImages
  try dsimp only
  repeat' first | with_reducible apply Dev.KeepsBut.refl | with_reducible apply Dev.KeepsBut.then (Dev.setNum_keeps _ _ _) | (with_reducible apply Dev.KeepsBut.foldl; intro _ _) | (with_reducible apply Dev.KeepsBut.foldl_snd; intro _ _) | split | decide | (with_reducible intro _) | (dsimp only)

theorem Dev.enterImage_keeps (d : Dev) (i : Image) : d.KeepsBut [.regs, .cricket] (Dev.enterImage d i) := by
  unfold Dev.enterImage
  try dsimp only
  repeat' first | with_reducible apply Dev.KeepsBut.refl | with_reducible apply Dev.KeepsBut.then (Dev.countImages_keeps _) | (with_reducible apply Dev.KeepsBut.foldl; intro _ _) | (with_reducible apply Dev.KeepsBut.foldl_snd; intro _ _) | with_reducible apply Dev.keeps_cricket | simp only [Dev.keeps_mk] | split | decide | (with_reducible intro _) | (dsimp only)

theorem Dev.removeImage_keeps (d : Dev) (k : Nat) : d.KeepsBut [.regs, .cricket] (Dev.removeImage d k) := by
  unfold Dev.removeImage
  try dsimp only
  repeat' first | with_reducible apply Dev.KeepsBut.refl | with_reducible apply Dev.KeepsBut.then (Dev.countImages_keeps _) | (with_reducible apply Dev.KeepsBut.foldl; intro _ _) | (with_reducible apply Dev.KeepsBut.foldl_snd; intro _ _) | with_reducible apply Dev.keeps_cricket | simp only [Dev.keeps_mk] | split | decide | (with_reducible intro _) | (dsimp only)

end Sys2Proof.Machine
end

