-- ==== Sys2Proof/Laws/KeepsTime.lean ====
section
/-!
SUPPORT. Which parts of the device the operations of Machine/Time.lean may change.
-/
namespace Sys2Proof.Machine

theorem Dev.agePortBy_keeps (n : Nat) (d : Dev) (p : Nat) : d.KeepsBut [.link] (Dev.agePortBy n d p) := by
  unfold Dev.agePortBy
  try dsimp only
  repeat' first | with_reducible apply Dev.KeepsBut.refl | with_reducible apply Dev.KeepsBut.then (Dev.setPort_keeps _ _ _) | (with_reducible apply Dev.KeepsBut.foldl; intro _ _) | (with_reducible apply Dev.KeepsBut.foldl_snd; intro _ _) | split | decide | (with_reducible intro _) | (dsimp only)

theorem Dev.cpClock_keeps (t : Nat) (n : Nat) (d : Dev) (c : Nat) : d.KeepsBut [.regs] (Dev.cpClock t n d c) := by
  unfold Dev.cpClock
  try dsimp only
  repeat' first | with_reducible apply Dev.KeepsBut.refl | with_reducible apply Dev.KeepsBut.then (Dev.count64_keeps _ _ _) | (with_reducible apply Dev.KeepsBut.foldl; intro _ _) | (with_reducible apply Dev.KeepsBut.foldl_snd; intro _ _) | split | decide | (with_reducible intro _) | (dsimp only)

theorem Dev.advance_keeps (d : Dev) (n : Nat) : d.KeepsBut [.regs, .link] (Dev.advance d n) := by
  unfold Dev.advance
  try dsimp only
  repeat' first | with_reducible apply Dev.KeepsBut.refl | with_reducible apply Dev.KeepsBut.then (Dev.setNow_keeps _ _) | (with_reducible apply Dev.KeepsBut.foldl; intro _ _) | (with_reducible apply Dev.KeepsBut.foldl_snd; intro _ _) | with_reducible apply Dev.keeps_link | simp only [Dev.keeps_mk] | split | decide | (with_reducible intro _) | (dsimp only)

theorem Dev.elapse_keeps (d : Dev) (n : Nat) : d.KeepsBut [.regs, .link] (Dev.elapse d n) := by
  unfold Dev.elapse
  try dsimp only
  repeat' first | with_reducible apply Dev.KeepsBut.refl | with_reducible apply Dev.KeepsBut.then (Dev.agePortBy_keeps _ _ _) | with_reducible apply Dev.KeepsBut.then (Dev.cpClock_keeps _ _ _ _) | with_reducible apply Dev.KeepsBut.then (Dev.advance_keeps _ _) | (with_reducible apply Dev.KeepsBut.foldl; intro _ _) | (with_reducible apply Dev.KeepsBut.foldl_snd; intro _ _) | with_reducible apply Dev.keeps_link | simp only [Dev.keeps_mk] | split | decide | (with_reducible intro _) | (dsimp only)

theorem Dev.elapseTo_keeps (d : Dev) (t : Nat) : d.KeepsBut [.regs, .link] (Dev.elapseTo d t) := by
  unfold Dev.elapseTo
  try dsimp only
  repeat' first | with_reducible apply Dev.KeepsBut.refl | with_reducible apply Dev.KeepsBut.then (Dev.setNow_keeps _ _) | with_reducible apply Dev.KeepsBut.then (Dev.elapse_keeps _ _) | (with_reducible apply Dev.KeepsBut.foldl; intro _ _) | (with_reducible apply Dev.KeepsBut.foldl_snd; intro _ _) | split | decide | (with_reducible intro _) | (dsimp only)

end Sys2Proof.Machine
end

