-- ==== Sys2Proof/Laws/KeepsGrid.lean ====
section
/-!
SUPPORT. Which parts of the device the operations of Machine/Grid.lean may change.
-/
namespace Sys2Proof.Machine

theorem Dev.enqueue_keeps (d : Dev) (q : QDesc) : d.KeepsBut [.mem, .massif, .weevil, .col, .scarab, .talus, .stag, .forager] (Dev.enqueue d q) := by
  unfold Dev.enqueue
  try dsimp only
  repeat' first | with_reducible apply Dev.KeepsBut.refl | with_reducible apply Dev.KeepsBut.then (Dev.setScb_keeps _ _ _) | with_reducible apply Dev.KeepsBut.then (Dev.setTls_keeps _ _ _) | (with_reducible apply Dev.KeepsBut.foldl; intro _ _) | (with_reducible apply Dev.KeepsBut.foldl_snd; intro _ _) | with_reducible apply Dev.keeps_col | with_reducible apply Dev.keeps_forager | with_reducible apply Dev.keeps_massif | with_reducible apply Dev.keeps_memRest | with_reducible apply Dev.keeps_scarab | with_reducible apply Dev.keeps_stag | with_reducible apply Dev.keeps_talus | with_reducible apply Dev.keeps_weevil | ((with_reducible apply Dev.keeps_mk_module); (case g => intro p hp; cases p <;> first | exact absurd hp (by decide) | rfl)) | ((with_reducible apply Dev.keeps_mk_bus); (case g => intro p hp; cases p <;> first | exact absurd hp (by decide) | rfl)) | ((with_reducible apply Dev.keeps_mk_power); (case g => intro p hp; cases p <;> first | exact absurd hp (by decide) | rfl)) | simp only [Dev.keeps_mk] | split | decide | (with_reducible intro _) | (dsimp only)

theorem Dev.dispatch_keeps (d : Dev) : d.KeepsBut [.regs, .mem, .dram, .cricket, .massif, .weevil, .col, .scarab, .talus, .stag, .forager, .freeCtr] (Dev.dispatch d) := by
  unfold Dev.dispatch
  try dsimp only
  repeat' first | with_reducible apply Dev.KeepsBut.refl | with_reducible apply Dev.KeepsBut.then (Dev.engRead_keeps _ _ _) | with_reducible apply Dev.KeepsBut.then (Dev.enqueue_keeps _ _) | (with_reducible apply Dev.KeepsBut.foldl; intro _ _) | (with_reducible apply Dev.KeepsBut.foldl_snd; intro _ _) | with_reducible apply Dev.keeps_cricket | simp only [Dev.keeps_mk] | split | decide | (with_reducible intro _) | (dsimp only)

theorem Dev.markSubst_keeps (d : Dev) (i : Image) : d.KeepsBut [.cricket] (Dev.markSubst d i) := by
  unfold Dev.markSubst
  try dsimp only
  repeat' first | with_reducible apply Dev.KeepsBut.refl | (with_reducible apply Dev.KeepsBut.foldl; intro _ _) | (with_reducible apply Dev.KeepsBut.foldl_snd; intro _ _) | with_reducible apply Dev.keeps_cricket | simp only [Dev.keeps_mk] | split | decide | (with_reducible intro _) | (dsimp only)

theorem Dev.closeCode_keeps (d : Dev) : d.KeepsBut [.regs, .dram, .cricket, .link, .freeCtr] (Dev.closeCode d) := by
  unfold Dev.closeCode
  try dsimp only
  repeat' first | with_reducible apply Dev.KeepsBut.refl | with_reducible apply Dev.KeepsBut.then (Dev.beatFail_keeps _ _ _ _) | with_reducible apply Dev.KeepsBut.then (Dev.complete_keeps _ _ _ _ _) | with_reducible apply Dev.KeepsBut.then (Dev.markSubst_keeps _ _) | (with_reducible apply Dev.KeepsBut.foldl; intro _ _) | (with_reducible apply Dev.KeepsBut.foldl_snd; intro _ _) | split | decide | (with_reducible intro _) | (dsimp only)

theorem Dev.stopBeat_keeps (d : Dev) (m : StopMark) : d.KeepsBut [.dram, .cricket, .freeCtr] (Dev.stopBeat d m) := by
  unfold Dev.stopBeat
  try dsimp only
  repeat' first | with_reducible apply Dev.KeepsBut.refl | with_reducible apply Dev.KeepsBut.then (Dev.beatFail_keeps _ _ _ _) | (with_reducible apply Dev.KeepsBut.foldl; intro _ _) | (with_reducible apply Dev.KeepsBut.foldl_snd; intro _ _) | with_reducible apply Dev.keeps_cricket | simp only [Dev.keeps_mk] | split | decide | (with_reducible intro _) | (dsimp only)

theorem Dev.boundaryPort_keeps (d : Dev) (p : Nat) : d.KeepsBut [.link] (Dev.boundaryPort d p) := by
  unfold Dev.boundaryPort
  try dsimp only
  repeat' first | with_reducible apply Dev.KeepsBut.refl | with_reducible apply Dev.KeepsBut.then (Dev.setPort_keeps _ _ _) | (with_reducible apply Dev.KeepsBut.foldl; intro _ _) | (with_reducible apply Dev.KeepsBut.foldl_snd; intro _ _) | split | decide | (with_reducible intro _) | (dsimp only)

theorem Dev.flush_keeps (d : Dev) (code : Option Nat) : d.KeepsBut [.regs, .mem, .massif, .weevil, .col, .scarab, .talus, .stag, .forager, .link, .freeCtr] (Dev.flush d code) := by
  unfold Dev.flush
  try dsimp only
  repeat' first | with_reducible apply Dev.KeepsBut.refl | with_reducible apply Dev.KeepsBut.then (Dev.closeSlots_keeps _ _) | with_reducible apply Dev.KeepsBut.then (Dev.boundaryPort_keeps _ _) | (with_reducible apply Dev.KeepsBut.foldl; intro _ _) | (with_reducible apply Dev.KeepsBut.foldl_snd; intro _ _) | with_reducible apply Dev.keeps_col_forager_freeCtr_link_massif_mem_scarab_stag_talus_weevil | ((with_reducible apply Dev.keeps_mk_module); (case g => intro p hp; cases p <;> first | exact absurd hp (by decide) | rfl)) | ((with_reducible apply Dev.keeps_mk_bus); (case g => intro p hp; cases p <;> first | exact absurd hp (by decide) | rfl)) | ((with_reducible apply Dev.keeps_mk_power); (case g => intro p hp; cases p <;> first | exact absurd hp (by decide) | rfl)) | simp only [Dev.keeps_mk] | split | decide | (with_reducible intro _) | (dsimp only)

theorem Dev.jobRan_keeps (d : Dev) (j : Job) (n : Nat) (code : Nat) : d.KeepsBut [.host] (Dev.jobRan d j n code) := by
  unfold Dev.jobRan
  try dsimp only
  repeat' first | with_reducible apply Dev.KeepsBut.refl | with_reducible apply Dev.KeepsBut.then (Dev.endJob_keeps _ _ _) | (with_reducible apply Dev.KeepsBut.foldl; intro _ _) | (with_reducible apply Dev.KeepsBut.foldl_snd; intro _ _) | with_reducible apply Dev.keeps_host | simp only [Dev.keeps_mk] | split | decide | (with_reducible intro _) | (dsimp only)

theorem Dev.accountJob_keeps (d : Dev) (b : Beat) : d.KeepsBut [.host, .cricket] (Dev.accountJob d b) := by
  unfold Dev.accountJob
  try dsimp only
  repeat' first | with_reducible apply Dev.KeepsBut.refl | with_reducible apply Dev.KeepsBut.then (Dev.jobRan_keeps _ _ _ _) | (with_reducible apply Dev.KeepsBut.foldl; intro _ _) | (with_reducible apply Dev.KeepsBut.foldl_snd; intro _ _) | with_reducible apply Dev.keeps_cricket | simp only [Dev.keeps_mk] | split | decide | (with_reducible intro _) | (dsimp only)

theorem Dev.stopJobs_keeps (d : Dev) (l : List StopMark) : d.KeepsBut [.host] (Dev.stopJobs d l) := by
  unfold Dev.stopJobs
  try dsimp only
  repeat' first | with_reducible apply Dev.KeepsBut.refl | with_reducible apply Dev.KeepsBut.then (Dev.endJob_keeps _ _ _) | (with_reducible apply Dev.KeepsBut.foldl; intro _ _) | (with_reducible apply Dev.KeepsBut.foldl_snd; intro _ _) | split | decide | (with_reducible intro _) | (dsimp only)

theorem Dev.stopRan_keeps (d : Dev) (m : StopMark) : d.KeepsBut [.regs, .dram, .freeCtr] (Dev.stopRan d m) := by
  unfold Dev.stopRan
  try dsimp only
  repeat' first | with_reducible apply Dev.KeepsBut.refl | with_reducible apply Dev.KeepsBut.then (Dev.countSat_keeps _ _ _) | with_reducible apply Dev.KeepsBut.then (Dev.openRanges_keeps _ _) | (with_reducible apply Dev.KeepsBut.foldl; intro _ _) | (with_reducible apply Dev.KeepsBut.foldl_snd; intro _ _) | split | decide | (with_reducible intro _) | (dsimp only)

theorem Dev.lateStop_keeps (d : Dev) (b : Beat) : d.KeepsBut [.host] (Dev.lateStop d b) := by
  unfold Dev.lateStop
  try dsimp only
  repeat' first | with_reducible apply Dev.KeepsBut.refl | with_reducible apply Dev.KeepsBut.then (Dev.endJob_keeps _ _ _) | (with_reducible apply Dev.KeepsBut.foldl; intro _ _) | (with_reducible apply Dev.KeepsBut.foldl_snd; intro _ _) | with_reducible apply Dev.keeps_host | simp only [Dev.keeps_mk] | split | decide | (with_reducible intro _) | (dsimp only)

theorem Dev.noteRan_keeps (d : Dev) (b : Beat) : d.KeepsBut [.cricket] (Dev.noteRan d b) := by
  unfold Dev.noteRan
  try dsimp only
  repeat' first | with_reducible apply Dev.KeepsBut.refl | (with_reducible apply Dev.KeepsBut.foldl; intro _ _) | (with_reducible apply Dev.KeepsBut.foldl_snd; intro _ _) | with_reducible apply Dev.keeps_cricket | simp only [Dev.keeps_mk] | split | decide | (with_reducible intro _) | (dsimp only)

theorem Dev.closePower_keeps (d : Dev) (code : Option Nat) : d.KeepsBut [.regs] (Dev.closePower d code) := by
  unfold Dev.closePower
  try dsimp only
  repeat' first | with_reducible apply Dev.KeepsBut.refl | with_reducible apply Dev.KeepsBut.then (Dev.err_keeps _ _ _) | (with_reducible apply Dev.KeepsBut.foldl; intro _ _) | (with_reducible apply Dev.KeepsBut.foldl_snd; intro _ _) | split | decide | (with_reducible intro _) | (dsimp only)

theorem Dev.closeBeat_keeps (d : Dev) : d.KeepsBut [.regs, .ascent, .host, .mem, .dram, .cricket, .massif, .weevil, .col, .scarab, .talus, .stag, .forager, .link, .freeCtr] (Dev.closeBeat d) := by
  unfold Dev.closeBeat
  try dsimp only
  repeat' first | with_reducible apply Dev.KeepsBut.refl | with_reducible apply Dev.KeepsBut.then (Dev.openWindows_keeps _ _) | with_reducible apply Dev.KeepsBut.then (Dev.success_keeps _ _) | with_reducible apply Dev.KeepsBut.then (Dev.residueReset_keeps _ _ _) | with_reducible apply Dev.KeepsBut.then (Dev.complete_keeps _ _ _ _ _) | with_reducible apply Dev.KeepsBut.then (Dev.closeCode_keeps _) | with_reducible apply Dev.KeepsBut.then (Dev.stopBeat_keeps _ _) | with_reducible apply Dev.KeepsBut.then (Dev.flush_keeps _ _) | with_reducible apply Dev.KeepsBut.then (Dev.accountJob_keeps _ _) | with_reducible apply Dev.KeepsBut.then (Dev.stopJobs_keeps _ _) | with_reducible apply Dev.KeepsBut.then (Dev.stopRan_keeps _ _) | with_reducible apply Dev.KeepsBut.then (Dev.closePower_keeps _ _) | (with_reducible apply Dev.KeepsBut.foldl; intro _ _) | (with_reducible apply Dev.KeepsBut.foldl_snd; intro _ _) | with_reducible apply Dev.keeps_cricket | simp only [Dev.keeps_mk] | split | decide | (with_reducible intro _) | (dsimp only)

theorem Dev.issueClose_keeps (d : Dev) : d.KeepsBut [.regs, .ascent, .host, .mem, .dram, .cricket, .massif, .weevil, .col, .scarab, .talus, .stag, .hive, .forager, .link, .freeCtr] (Dev.issueClose d) := by
  unfold Dev.issueClose
  try dsimp only
  repeat' first | with_reducible apply Dev.KeepsBut.refl | with_reducible apply Dev.KeepsBut.then (Dev.quiesceWaiting_keeps _) | with_reducible apply Dev.KeepsBut.then (Dev.routeSelect_keeps _) | with_reducible apply Dev.KeepsBut.then (Dev.applyPins_keeps _) | with_reducible apply Dev.KeepsBut.then (Dev.capturePreempt_keeps _) | with_reducible apply Dev.KeepsBut.then (Dev.elapseTo_keeps _ _) | with_reducible apply Dev.KeepsBut.then (Dev.closeBeat_keeps _) | (with_reducible apply Dev.KeepsBut.foldl; intro _ _) | (with_reducible apply Dev.KeepsBut.foldl_snd; intro _ _) | with_reducible apply Dev.keeps_cricket | simp only [Dev.keeps_mk] | split | decide | (with_reducible intro _) | (dsimp only)

theorem Dev.writeRecord_keeps (d : Dev) (bytes : List Byte) : d.KeepsBut [.regs, .mem, .dram, .cricket] (Dev.writeRecord d bytes) := by
  unfold Dev.writeRecord
  try dsimp only
  repeat' first | with_reducible apply Dev.KeepsBut.refl | with_reducible apply Dev.KeepsBut.then (Dev.setNum_keeps _ _ _) | with_reducible apply Dev.KeepsBut.then (Dev.irq_keeps _ _ _) | with_reducible apply Dev.KeepsBut.then (Dev.memWrite_keeps _ _ _) | (with_reducible apply Dev.KeepsBut.foldl; intro _ _) | (with_reducible apply Dev.KeepsBut.foldl_snd; intro _ _) | with_reducible apply Dev.keeps_cricket | simp only [Dev.keeps_mk] | split | decide | (with_reducible intro _) | (dsimp only)

theorem Dev.countBeat_keeps (d : Dev) (b : Beat) : d.KeepsBut [.regs] (Dev.countBeat d b) := by
  unfold Dev.countBeat
  try dsimp only
  repeat' first | with_reducible apply Dev.KeepsBut.refl | with_reducible apply Dev.KeepsBut.then (Dev.setNum_keeps _ _ _) | with_reducible apply Dev.KeepsBut.then (Dev.countSat_keeps _ _ _) | with_reducible apply Dev.KeepsBut.then (Dev.err_keeps _ _ _) | with_reducible apply Dev.KeepsBut.then (Dev.irq_keeps _ _ _) | with_reducible apply Dev.KeepsBut.then (Dev.lastCode_keeps _ _ _) | (with_reducible apply Dev.KeepsBut.foldl; intro _ _) | (with_reducible apply Dev.KeepsBut.foldl_snd; intro _ _) | split | decide | (with_reducible intro _) | (dsimp only)

theorem Dev.judgeEnergy_keeps (d : Dev) (b : Beat) (energy : Nat) : d.KeepsBut [.regs] (Dev.judgeEnergy d b energy) := by
  unfold Dev.judgeEnergy
  try dsimp only
  repeat' first | with_reducible apply Dev.KeepsBut.refl | with_reducible apply Dev.KeepsBut.then (Dev.countSat_keeps _ _ _) | with_reducible apply Dev.KeepsBut.then (Dev.err_keeps _ _ _) | (with_reducible apply Dev.KeepsBut.foldl; intro _ _) | (with_reducible apply Dev.KeepsBut.foldl_snd; intro _ _) | split | decide | (with_reducible intro _) | (dsimp only)

theorem Dev.finishBeat_keeps (d : Dev) (b : Beat) : d.KeepsBut [.regs, .host, .mem, .dram, .cricket, .hive, .link, .freeCtr] (Dev.finishBeat d b) := by
  unfold Dev.finishBeat
  try dsimp only
  repeat' first | with_reducible apply Dev.KeepsBut.refl | with_reducible apply Dev.KeepsBut.then (Dev.sendMarker_keeps _ _) | with_reducible apply Dev.KeepsBut.then (Dev.serveUpdate_keeps _ _ _ _) | with_reducible apply Dev.KeepsBut.then (Dev.lateStop_keeps _ _) | with_reducible apply Dev.KeepsBut.then (Dev.noteRan_keeps _ _) | with_reducible apply Dev.KeepsBut.then (Dev.writeRecord_keeps _ _) | with_reducible apply Dev.KeepsBut.then (Dev.countBeat_keeps _ _) | with_reducible apply Dev.KeepsBut.then (Dev.judgeEnergy_keeps _ _ _) | (with_reducible apply Dev.KeepsBut.foldl; intro _ _) | (with_reducible apply Dev.KeepsBut.foldl_snd; intro _ _) | split | decide | (with_reducible intro _) | (dsimp only)

theorem Dev.beatMarker_keeps (d : Dev) : d.KeepsBut [.regs, .host, .mem, .dram, .cricket, .hive, .link, .freeCtr] (Dev.beatMarker d) := by
  unfold Dev.beatMarker
  try dsimp only
  repeat' first | with_reducible apply Dev.KeepsBut.refl | with_reducible apply Dev.KeepsBut.then (Dev.elapseTo_keeps _ _) | with_reducible apply Dev.KeepsBut.then (Dev.finishBeat_keeps _ _) | (with_reducible apply Dev.KeepsBut.foldl; intro _ _) | (with_reducible apply Dev.KeepsBut.foldl_snd; intro _ _) | with_reducible apply Dev.keeps_cricket_host | ((with_reducible apply Dev.keeps_mk_module); (case g => intro p hp; cases p <;> first | exact absurd hp (by decide) | rfl)) | ((with_reducible apply Dev.keeps_mk_bus); (case g => intro p hp; cases p <;> first | exact absurd hp (by decide) | rfl)) | ((with_reducible apply Dev.keeps_mk_power); (case g => intro p hp; cases p <;> first | exact absurd hp (by decide) | rfl)) | simp only [Dev.keeps_mk] | split | decide | (with_reducible intro _) | (dsimp only)

theorem Dev.hostWrite_keeps (d : Dev) (fn : Nat) (a : Nat) (bs : List Byte) : d.KeepsBut [.host] (Dev.hostWrite d fn a bs) := by
  unfold Dev.hostWrite
  try dsimp only
  repeat' first | with_reducible apply Dev.KeepsBut.refl | (with_reducible apply Dev.KeepsBut.foldl; intro _ _) | (with_reducible apply Dev.KeepsBut.foldl_snd; intro _ _) | with_reducible apply Dev.keeps_host | simp only [Dev.keeps_mk] | split | decide | (with_reducible intro _) | (dsimp only)

theorem Dev.ringFault_keeps (d : Dev) (fn : Nat) : d.KeepsBut [.regs] (Dev.ringFault d fn) := by
  unfold Dev.ringFault
  try dsimp only
  repeat' first | with_reducible apply Dev.KeepsBut.refl | with_reducible apply Dev.KeepsBut.then (Dev.setFlag_keeps _ _ _ _) | with_reducible apply Dev.KeepsBut.then (Dev.err_keeps _ _ _) | with_reducible apply Dev.KeepsBut.then (Dev.irq_keeps _ _ _) | (with_reducible apply Dev.KeepsBut.foldl; intro _ _) | (with_reducible apply Dev.KeepsBut.foldl_snd; intro _ _) | split | decide | (with_reducible intro _) | (dsimp only)

theorem Dev.ringFetch_keeps (d : Dev) (fn : Nat) (rsp : RingReply) : d.KeepsBut [.regs, .host, .forager, .freeCtr] (Dev.ringFetch d fn rsp) := by
  unfold Dev.ringFetch
  try dsimp only
  repeat' first | with_reducible apply Dev.KeepsBut.refl | with_reducible apply Dev.KeepsBut.then (Dev.countSat_keeps _ _ _) | with_reducible apply Dev.KeepsBut.then (Dev.settleJobs_keeps _ _) | with_reducible apply Dev.KeepsBut.then (Dev.hostWrite_keeps _ _ _ _) | with_reducible apply Dev.KeepsBut.then (Dev.ringFault_keeps _ _) | (with_reducible apply Dev.KeepsBut.foldl; intro _ _) | (with_reducible apply Dev.KeepsBut.foldl_snd; intro _ _) | with_reducible apply Dev.keeps_host | ((with_reducible apply Dev.keeps_mk_module); (case g => intro p hp; cases p <;> first | exact absurd hp (by decide) | rfl)) | ((with_reducible apply Dev.keeps_mk_bus); (case g => intro p hp; cases p <;> first | exact absurd hp (by decide) | rfl)) | ((with_reducible apply Dev.keeps_mk_power); (case g => intro p hp; cases p <;> first | exact absurd hp (by decide) | rfl)) | simp only [Dev.keeps_mk] | split | decide | (with_reducible intro _) | (dsimp only)

theorem Dev.ringMessage_keeps (d : Dev) (fn : Nat) : d.KeepsBut [.host] (Dev.ringMessage d fn) := by
  unfold Dev.ringMessage
  try dsimp only
  repeat' first | with_reducible apply Dev.KeepsBut.refl | with_reducible apply Dev.KeepsBut.then (Dev.sendMsix_keeps _ _ _) | (with_reducible apply Dev.KeepsBut.foldl; intro _ _) | (with_reducible apply Dev.KeepsBut.foldl_snd; intro _ _) | with_reducible apply Dev.keeps_host | simp only [Dev.keeps_mk] | split | decide | (with_reducible intro _) | (dsimp only)

theorem Dev.writeEntries_keeps (fn : Nat) (l : List Completion) (d : Dev) : d.KeepsBut [.host] (Dev.writeEntries fn l d) := by
  induction l generalizing d with
  | nil => exact Dev.KeepsBut.refl _ _
  | cons c l ih =>
    unfold Dev.writeEntries
    try dsimp only
    repeat' first | with_reducible apply Dev.KeepsBut.refl | with_reducible apply fun x => Dev.KeepsBut.trans x (ih _ ) | with_reducible apply Dev.KeepsBut.then (Dev.hostWrite_keeps _ _ _ _) | (with_reducible apply Dev.KeepsBut.foldl; intro _ _) | (with_reducible apply Dev.KeepsBut.foldl_snd; intro _ _) | with_reducible apply Dev.keeps_host | simp only [Dev.keeps_mk] | split | decide | (with_reducible intro _) | (dsimp only)

theorem Dev.postFn_keeps (d : Dev) (fn : Nat) : d.KeepsBut [.regs, .host] (Dev.postFn d fn) := by
  unfold Dev.postFn
  try dsimp only
  repeat' first | with_reducible apply Dev.KeepsBut.refl | with_reducible apply Dev.KeepsBut.then (Dev.drop_keeps _ _ _) | with_reducible apply Dev.KeepsBut.then (Dev.countSat_keeps _ _ _) | with_reducible apply Dev.KeepsBut.then (Dev.err_keeps _ _ _) | with_reducible apply Dev.KeepsBut.then (Dev.hostWrite_keeps _ _ _ _) | with_reducible apply Dev.KeepsBut.then (Dev.ringMessage_keeps _ _) | with_reducible apply Dev.KeepsBut.then (Dev.writeEntries_keeps _ _ _) | (with_reducible apply Dev.KeepsBut.foldl; intro _ _) | (with_reducible apply Dev.KeepsBut.foldl_snd; intro _ _) | with_reducible apply Dev.keeps_host | simp only [Dev.keeps_mk] | split | decide | (with_reducible intro _) | (dsimp only)

theorem Dev.completionPost_keeps (d : Dev) : d.KeepsBut [.regs, .host, .cricket] (Dev.completionPost d) := by
  unfold Dev.completionPost
  try dsimp only
  repeat' first | with_reducible apply Dev.KeepsBut.refl | with_reducible apply Dev.KeepsBut.then (Dev.postFn_keeps _ _) | (with_reducible apply Dev.KeepsBut.foldl; intro _ _) | (with_reducible apply Dev.KeepsBut.foldl_snd; intro _ _) | with_reducible apply Dev.keeps_cricket_host | ((with_reducible apply Dev.keeps_mk_module); (case g => intro p hp; cases p <;> first | exact absurd hp (by decide) | rfl)) | ((with_reducible apply Dev.keeps_mk_bus); (case g => intro p hp; cases p <;> first | exact absurd hp (by decide) | rfl)) | ((with_reducible apply Dev.keeps_mk_power); (case g => intro p hp; cases p <;> first | exact absurd hp (by decide) | rfl)) | simp only [Dev.keeps_mk] | split | decide | (with_reducible intro _) | (dsimp only)

theorem Dev.applyEnables_keeps (d : Dev) : d.KeepsBut [.regs, .dram, .cricket, .link, .enPend, .freeCtr] (Dev.applyEnables d) := by
  unfold Dev.applyEnables
  try dsimp only
  repeat' first | with_reducible apply Dev.KeepsBut.refl | with_reducible apply Dev.KeepsBut.then (Dev.lnkEnable_keeps _ _ _) | (with_reducible apply Dev.KeepsBut.foldl; intro _ _) | (with_reducible apply Dev.KeepsBut.foldl_snd; intro _ _) | with_reducible apply Dev.keeps_enPend | simp only [Dev.keeps_mk] | split | decide | (with_reducible intro _) | (dsimp only)

theorem Dev.deliverHeld_keeps (d : Dev) (p : Nat) : d.KeepsBut [.link] (Dev.deliverHeld d p) := by
  unfold Dev.deliverHeld
  try dsimp only
  repeat' first | with_reducible apply Dev.KeepsBut.refl | with_reducible apply Dev.KeepsBut.then (Dev.setPort_keeps _ _ _) | (with_reducible apply Dev.KeepsBut.foldl; intro _ _) | (with_reducible apply Dev.KeepsBut.foldl_snd; intro _ _) | split | decide | (with_reducible intro _) | (dsimp only)

theorem Dev.boundary_keeps (d : Dev) : d.KeepsBut [.regs, .mem, .dram, .cricket, .hive, .forager, .link, .enPend, .freeCtr] (Dev.boundary d) := by
  unfold Dev.boundary
  try dsimp only
  repeat' first | with_reducible apply Dev.KeepsBut.refl | with_reducible apply Dev.KeepsBut.then (Dev.reopenStream_keeps _ _) | with_reducible apply Dev.KeepsBut.then (Dev.applyEnabled_keeps _ _) | with_reducible apply Dev.KeepsBut.then (Dev.applyEnables_keeps _) | with_reducible apply Dev.KeepsBut.then (Dev.deliverHeld_keeps _ _) | (with_reducible apply Dev.KeepsBut.foldl; intro _ _) | (with_reducible apply Dev.KeepsBut.foldl_snd; intro _ _) | split | decide | (with_reducible intro _) | (dsimp only)

theorem Dev.startPower_keeps (d : Dev) : d.KeepsBut [.regs, .power] (Dev.startPower d) := by
  unfold Dev.startPower
  try dsimp only
  repeat' first | with_reducible apply Dev.KeepsBut.refl | with_reducible apply Dev.KeepsBut.then (Dev.setNum_keeps _ _ _) | (with_reducible apply Dev.KeepsBut.foldl; intro _ _) | (with_reducible apply Dev.KeepsBut.foldl_snd; intro _ _) | with_reducible apply Dev.keeps_power | simp only [Dev.keeps_mk] | split | decide | (with_reducible intro _) | (dsimp only)

theorem Dev.countTenancy_keeps (d : Dev) : d.KeepsBut [.regs] (Dev.countTenancy d) := by
  unfold Dev.countTenancy
  try dsimp only
  repeat' first | with_reducible apply Dev.KeepsBut.refl | with_reducible apply Dev.KeepsBut.then (Dev.setFlag_keeps _ _ _ _) | with_reducible apply Dev.KeepsBut.then (Dev.count64_keeps _ _ _) | (with_reducible apply Dev.KeepsBut.foldl; intro _ _) | (with_reducible apply Dev.KeepsBut.foldl_snd; intro _ _) | split | decide | (with_reducible intro _) | (dsimp only)

theorem Dev.beginSwitch_keeps (d : Dev) (n : Nat) : d.KeepsBut [.regs, .massif, .weevil, .scarab, .talus, .hive] (Dev.beginSwitch d n) := by
  unfold Dev.beginSwitch
  try dsimp only
  repeat' first | with_reducible apply Dev.KeepsBut.refl | with_reducible apply Dev.KeepsBut.then (Dev.switchStart_keeps _ _ _) | (with_reducible apply Dev.KeepsBut.foldl; intro _ _) | (with_reducible apply Dev.KeepsBut.foldl_snd; intro _ _) | with_reducible apply Dev.keeps_hive | simp only [Dev.keeps_mk] | split | decide | (with_reducible intro _) | (dsimp only)

theorem Dev.runBeat_keeps (d : Dev) (n : Nat) : d.KeepsBut [.regs, .dram, .cricket, .massif, .weevil, .scarab, .talus, .hive, .link, .power, .freeCtr] (Dev.runBeat d n) := by
  unfold Dev.runBeat
  try dsimp only
  repeat' first | with_reducible apply Dev.KeepsBut.refl | with_reducible apply Dev.KeepsBut.then (Dev.setNum64_keeps _ _ _) | with_reducible apply Dev.KeepsBut.then (Dev.beatFail_keeps _ _ _ _) | with_reducible apply Dev.KeepsBut.then (Dev.noteDone_keeps _) | with_reducible apply Dev.KeepsBut.then (Dev.startPower_keeps _) | with_reducible apply Dev.KeepsBut.then (Dev.countTenancy_keeps _) | with_reducible apply Dev.KeepsBut.then (Dev.beginSwitch_keeps _ _) | (with_reducible apply Dev.KeepsBut.foldl; intro _ _) | (with_reducible apply Dev.KeepsBut.foldl_snd; intro _ _) | with_reducible apply Dev.keeps_cricket_hive | ((with_reducible apply Dev.keeps_mk_module); (case g => intro p hp; cases p <;> first | exact absurd hp (by decide) | rfl)) | ((with_reducible apply Dev.keeps_mk_bus); (case g => intro p hp; cases p <;> first | exact absurd hp (by decide) | rfl)) | ((with_reducible apply Dev.keeps_mk_power); (case g => intro p hp; cases p <;> first | exact absurd hp (by decide) | rfl)) | simp only [Dev.keeps_mk] | split | decide | (with_reducible intro _) | (dsimp only)

theorem Dev.beatStart_keeps (d : Dev) : d.KeepsBut [.regs, .host, .mem, .dram, .cricket, .massif, .weevil, .scarab, .talus, .hive, .forager, .link, .power, .enPend, .freeCtr] (Dev.beatStart d) := by
  unfold Dev.beatStart
  try dsimp only
  repeat' first | with_reducible apply Dev.KeepsBut.refl | with_reducible apply Dev.KeepsBut.then (Dev.notifyPreempted_keeps _ _) | with_reducible apply Dev.KeepsBut.then (Dev.elapseTo_keeps _ _) | with_reducible apply Dev.KeepsBut.then (Dev.boundary_keeps _) | with_reducible apply Dev.KeepsBut.then (Dev.runBeat_keeps _ _) | (with_reducible apply Dev.KeepsBut.foldl; intro _ _) | (with_reducible apply Dev.KeepsBut.foldl_snd; intro _ _) | with_reducible apply Dev.keeps_cricket | simp only [Dev.keeps_mk] | split | decide | (with_reducible intro _) | (dsimp only)

end Sys2Proof.Machine
end

