-- ==== Sys2Proof/Laws/KeepsAdmission.lean ====
section
/-!
SUPPORT. Which parts of the device the operations of Machine/Admission.lean may change.
-/
namespace Sys2Proof.Machine

theorem Dev.refuse_keeps (d : Dev) (j : Job) (code : Nat) : d.KeepsBut [.regs, .host] (Dev.refuse d j code) := by
  unfold Dev.refuse
  try dsimp only
  repeat' first | with_reducible apply Dev.KeepsBut.refl | with_reducible apply Dev.KeepsBut.then (Dev.err_keeps _ _ _) | with_reducible apply Dev.KeepsBut.then (Dev.endJob_keeps _ _ _) | (with_reducible apply Dev.KeepsBut.foldl; intro _ _) | (with_reducible apply Dev.KeepsBut.foldl_snd; intro _ _) | split | decide | (with_reducible intro _) | (dsimp only)

theorem Dev.markAdmitted_keeps (d : Dev) (j : Job) : d.KeepsBut [.host] (Dev.markAdmitted d j) := by
  unfold Dev.markAdmitted
  try dsimp only
  repeat' first | with_reducible apply Dev.KeepsBut.refl | (with_reducible apply Dev.KeepsBut.foldl; intro _ _) | (with_reducible apply Dev.KeepsBut.foldl_snd; intro _ _) | with_reducible apply Dev.keeps_host | simp only [Dev.keeps_mk] | split | decide | (with_reducible intro _) | (dsimp only)

theorem Dev.admitFrom_keeps (n : Nat) (l : List Job) (d : Dev) : d.KeepsBut [.regs, .host, .cricket] (Dev.admitFrom n l d) := by
  induction l generalizing d with
  | nil => exact Dev.KeepsBut.refl _ _
  | cons c l ih =>
    unfold Dev.admitFrom
    try dsimp only
    repeat' first | with_reducible apply Dev.KeepsBut.refl | with_reducible apply fun x => Dev.KeepsBut.trans x (ih _ ) | with_reducible apply Dev.KeepsBut.then (Dev.refuse_keeps _ _ _) | with_reducible apply Dev.KeepsBut.then (Dev.markAdmitted_keeps _ _) | (with_reducible apply Dev.KeepsBut.foldl; intro _ _) | (with_reducible apply Dev.KeepsBut.foldl_snd; intro _ _) | with_reducible apply Dev.keeps_cricket | simp only [Dev.keeps_mk] | split | decide | (with_reducible intro _) | (dsimp only)

theorem Dev.failLoaded_keeps (d : Dev) (t : Nat) : d.KeepsBut [.host, .hive] (Dev.failLoaded d t) := by
  unfold Dev.failLoaded
  try dsimp only
  repeat' first | with_reducible apply Dev.KeepsBut.refl | with_reducible apply Dev.KeepsBut.then (Dev.failJobs_keeps _ _ _) | (with_reducible apply Dev.KeepsBut.foldl; intro _ _) | (with_reducible apply Dev.KeepsBut.foldl_snd; intro _ _) | with_reducible apply Dev.keeps_hive | simp only [Dev.keeps_mk] | split | decide | (with_reducible intro _) | (dsimp only)

theorem Dev.admitTenancy_keeps (d : Dev) (t : Nat) (n : Nat) : d.KeepsBut [.regs, .host, .mem, .dram, .cricket, .hive, .freeCtr] (Dev.admitTenancy d t n) := by
  unfold Dev.admitTenancy
  try dsimp only
  repeat' first | with_reducible apply Dev.KeepsBut.refl | with_reducible apply Dev.KeepsBut.then (Dev.buildList_keeps _ _ _ _) | with_reducible apply Dev.KeepsBut.then (Dev.admitFrom_keeps _ _ _) | with_reducible apply Dev.KeepsBut.then (Dev.failLoaded_keeps _ _) | (with_reducible apply Dev.KeepsBut.foldl; intro _ _) | (with_reducible apply Dev.KeepsBut.foldl_snd; intro _ _) | split | decide | (with_reducible intro _) | (dsimp only)

theorem Dev.chooseTenancy_keeps (d : Dev) (n : Nat) : d.KeepsBut [.regs, .host, .mem, .dram, .cricket, .hive, .freeCtr] (Dev.chooseTenancy d n) := by
  unfold Dev.chooseTenancy
  try dsimp only
  repeat' first | with_reducible apply Dev.KeepsBut.refl | with_reducible apply Dev.KeepsBut.then (Dev.admitTenancy_keeps _ _ _) | (with_reducible apply Dev.KeepsBut.foldl; intro _ _) | (with_reducible apply Dev.KeepsBut.foldl_snd; intro _ _) | with_reducible apply Dev.keeps_hive | ((with_reducible apply Dev.keeps_mk_module); (case g => intro p hp; cases p <;> first | exact absurd hp (by decide) | rfl)) | ((with_reducible apply Dev.keeps_mk_bus); (case g => intro p hp; cases p <;> first | exact absurd hp (by decide) | rfl)) | ((with_reducible apply Dev.keeps_mk_power); (case g => intro p hp; cases p <;> first | exact absurd hp (by decide) | rfl)) | simp only [Dev.keeps_mk] | split | decide | (with_reducible intro _) | (dsimp only)

theorem Dev.admission_keeps (d : Dev) : d.KeepsBut [.regs, .host, .mem, .dram, .cricket, .hive, .link, .freeCtr] (Dev.admission d) := by
  unfold Dev.admission
  try dsimp only
  repeat' first | with_reducible apply Dev.KeepsBut.refl | with_reducible apply Dev.KeepsBut.then (Dev.promoteAll_keeps _) | with_reducible apply Dev.KeepsBut.then (Dev.elapseTo_keeps _ _) | with_reducible apply Dev.KeepsBut.then (Dev.chooseTenancy_keeps _ _) | (with_reducible apply Dev.KeepsBut.foldl; intro _ _) | (with_reducible apply Dev.KeepsBut.foldl_snd; intro _ _) | with_reducible apply Dev.keeps_cricket | with_reducible apply Dev.keeps_cricket_hive | ((with_reducible apply Dev.keeps_mk_module); (case g => intro p hp; cases p <;> first | exact absurd hp (by decide) | rfl)) | ((with_reducible apply Dev.keeps_mk_bus); (case g => intro p hp; cases p <;> first | exact absurd hp (by decide) | rfl)) | ((with_reducible apply Dev.keeps_mk_power); (case g => intro p hp; cases p <;> first | exact absurd hp (by decide) | rfl)) | simp only [Dev.keeps_mk] | split | decide | (with_reducible intro _) | (dsimp only)

end Sys2Proof.Machine
end

