-- ==== Sys2Proof/Laws/KeepsAttention.lean ====
section
/-!
SUPPORT. Which parts of the device the operations of Machine/Attention.lean may change.
-/
namespace Sys2Proof.Machine

theorem Dev.recordIn_keeps (d : Dev) (k : Nat) (f : Nat) : d.KeepsBut [.regs, .cricket, .massif] (Dev.recordIn d k f) := by
  unfold Dev.recordIn
  try dsimp only
  repeat' first | with_reducible apply Dev.KeepsBut.refl | with_reducible apply Dev.KeepsBut.then (Dev.exitFlags_keeps _ _ _) | with_reducible apply Dev.KeepsBut.then (Dev.tileOverflow_keeps _ _ _) | (with_reducible apply Dev.KeepsBut.foldl; intro _ _) | (with_reducible apply Dev.KeepsBut.foldl_snd; intro _ _) | split | decide | (with_reducible intro _) | (dsimp only)

theorem Dev.writePartial_keeps (d : Dev) (b : List Byte) (blk : Nat) (e : AttEntry) (h : Nat) (r : Nat) (s : AttRow) : d.KeepsBut [.regs, .mem, .dram, .cricket, .freeCtr] (Dev.writePartial d b blk e h r s) := by
  unfold Dev.writePartial
  try dsimp only
  repeat' first | with_reducible apply Dev.KeepsBut.refl | with_reducible apply Dev.KeepsBut.then (Dev.engWrite_keeps _ _ _ _) | (with_reducible apply Dev.KeepsBut.foldl; intro _ _) | (with_reducible apply Dev.KeepsBut.foldl_snd; intro _ _) | split | decide | (with_reducible intro _) | (dsimp only)

theorem Dev.writeAttTile_keeps (d : Dev) (b : List Byte) (blk : Nat) (k : Nat) (e : AttEntry) (h : Nat) (qt : Nat) (c : Nat) (rows : List (List (FVal × Bool))) : d.KeepsBut [.regs, .mem, .dram, .cricket, .massif, .freeCtr] (Dev.writeAttTile d b blk k e h qt c rows) := by
  unfold Dev.writeAttTile
  try dsimp only
  repeat' first | with_reducible apply Dev.KeepsBut.refl | with_reducible apply Dev.KeepsBut.then (Dev.engWrite_keeps _ _ _ _) | with_reducible apply Dev.KeepsBut.then (Dev.recordIn_keeps _ _ _) | (with_reducible apply Dev.KeepsBut.foldl; intro _ _) | (with_reducible apply Dev.KeepsBut.foldl_snd; intro _ _) | split | decide | (with_reducible intro _) | (dsimp only)

theorem Dev.attTile_keeps (d : Dev) (src : Dev) (b : List Byte) (blk : Nat) (k : Nat) (e : AttEntry) (h : Nat) (qt : Nat) : d.KeepsBut [.regs, .mem, .dram, .cricket, .massif, .freeCtr] (Dev.attTile d src b blk k e h qt) := by
  unfold Dev.attTile
  try dsimp only
  repeat' first | with_reducible apply Dev.KeepsBut.refl | with_reducible apply Dev.KeepsBut.then (Dev.recordIn_keeps _ _ _) | with_reducible apply Dev.KeepsBut.then (Dev.writePartial_keeps _ _ _ _ _ _ _) | with_reducible apply Dev.KeepsBut.then (Dev.writeAttTile_keeps _ _ _ _ _ _ _ _ _) | (with_reducible apply Dev.KeepsBut.foldl; intro _ _) | (with_reducible apply Dev.KeepsBut.foldl_snd; intro _ _) | split | decide | (with_reducible intro _) | (dsimp only)

theorem Dev.attPages_keeps (d : Dev) (b : List Byte) (es : List AttEntry) : d.KeepsBut [.regs] (Dev.attPages d b es) := by
  unfold Dev.attPages
  try dsimp only
  repeat' first | with_reducible apply Dev.KeepsBut.refl | with_reducible apply Dev.KeepsBut.then (Dev.countPlaced_keeps _ _ _) | (with_reducible apply Dev.KeepsBut.foldl; intro _ _) | (with_reducible apply Dev.KeepsBut.foldl_snd; intro _ _) | split | decide | (with_reducible intro _) | (dsimp only)

theorem Dev.attRun_keeps (d : Dev) (b : List Byte) (es : List AttEntry) : d.KeepsBut [.regs, .mem, .dram, .cricket, .massif, .freeCtr] (Dev.attRun d b es) := by
  unfold Dev.attRun
  try dsimp only
  repeat' first | with_reducible apply Dev.KeepsBut.refl | with_reducible apply Dev.KeepsBut.then (Dev.csOpen_keeps _ _ _ _) | with_reducible apply Dev.KeepsBut.then (Dev.attTile_keeps _ _ _ _ _ _ _ _) | (with_reducible apply Dev.KeepsBut.foldl; intro _ _) | (with_reducible apply Dev.KeepsBut.foldl_snd; intro _ _) | split | decide | (with_reducible intro _) | (dsimp only)

theorem Dev.appendRow_keeps (d : Dev) (b : List Byte) (blk : Nat) (e : AttEntry) (q : Nat) (h : Nat) (v : Nat) : d.KeepsBut [.regs, .mem, .dram, .cricket, .massif, .freeCtr] (Dev.appendRow d b blk e q h v) := by
  unfold Dev.appendRow
  try dsimp only
  repeat' first | with_reducible apply Dev.KeepsBut.refl | with_reducible apply Dev.KeepsBut.then (Dev.freshNat_keeps _) | with_reducible apply Dev.KeepsBut.then (Dev.engWrite_keeps _ _ _ _) | with_reducible apply Dev.KeepsBut.then (Dev.recordIn_keeps _ _ _) | (with_reducible apply Dev.KeepsBut.foldl; intro _ _) | (with_reducible apply Dev.KeepsBut.foldl_snd; intro _ _) | split | decide | (with_reducible intro _) | (dsimp only)

theorem Dev.appendRun_keeps (d : Dev) (b : List Byte) (es : List AttEntry) : d.KeepsBut [.regs, .mem, .dram, .cricket, .massif, .freeCtr] (Dev.appendRun d b es) := by
  unfold Dev.appendRun
  try dsimp only
  repeat' first | with_reducible apply Dev.KeepsBut.refl | with_reducible apply Dev.KeepsBut.then (Dev.appendRow_keeps _ _ _ _ _ _ _) | (with_reducible apply Dev.KeepsBut.foldl; intro _ _) | (with_reducible apply Dev.KeepsBut.foldl_snd; intro _ _) | split | decide | (with_reducible intro _) | (dsimp only)

theorem Dev.kvCommand_keeps (d : Dev) (op : Nat) : d.KeepsBut [.regs, .ascent, .mem, .dram, .cricket, .massif, .col, .freeCtr] (Dev.kvCommand d op) := by
  unfold Dev.kvCommand
  try dsimp only
  repeat' first | with_reducible apply Dev.KeepsBut.refl | with_reducible apply Dev.KeepsBut.then (Dev.countIssue_keeps _) | with_reducible apply Dev.KeepsBut.then (Dev.engRead_keeps _ _ _) | with_reducible apply Dev.KeepsBut.then (Dev.massifPop_keeps _) | with_reducible apply Dev.KeepsBut.then (Dev.massifFail_keeps _ _ _ _) | with_reducible apply Dev.KeepsBut.then (Dev.niCheck_keeps _ _) | with_reducible apply Dev.KeepsBut.then (Dev.countFold_keeps _ _ _ _) | with_reducible apply Dev.KeepsBut.then (Dev.stageCheck_keeps _ _) | with_reducible apply Dev.KeepsBut.then (Dev.colBusy_keeps _ _) | with_reducible apply Dev.KeepsBut.then (Dev.touchAll_keeps _ _) | with_reducible apply Dev.KeepsBut.then (Dev.listFail_keeps _ _ _ _) | with_reducible apply Dev.KeepsBut.then (Dev.attPages_keeps _ _ _) | with_reducible apply Dev.KeepsBut.then (Dev.attRun_keeps _ _ _) | with_reducible apply Dev.KeepsBut.then (Dev.appendRun_keeps _ _ _) | (with_reducible apply Dev.KeepsBut.foldl; intro _ _) | (with_reducible apply Dev.KeepsBut.foldl_snd; intro _ _) | with_reducible apply Dev.keeps_freeCtr | with_reducible apply Dev.keeps_massif | ((with_reducible apply Dev.keeps_mk_module); (case g => intro p hp; cases p <;> first | exact absurd hp (by decide) | rfl)) | ((with_reducible apply Dev.keeps_mk_bus); (case g => intro p hp; cases p <;> first | exact absurd hp (by decide) | rfl)) | ((with_reducible apply Dev.keeps_mk_power); (case g => intro p hp; cases p <;> first | exact absurd hp (by decide) | rfl)) | simp only [Dev.keeps_mk] | split | decide | (with_reducible intro _) | (dsimp only)

end Sys2Proof.Machine
end

