-- ==== Sys2Proof/Laws/KeepsBar2.lean ====
section
/-!
SUPPORT. Which parts of the device the operations of Machine/Bar2.lean may change.
-/
namespace Sys2Proof.Machine

theorem Dev.unsupported_keeps (d : Dev) : d.KeepsBut [.bus] (Dev.unsupported d) := by
  unfold Dev.unsupported
  try dsimp only
  repeat' first | with_reducible apply Dev.KeepsBut.refl | (with_reducible apply Dev.KeepsBut.foldl; intro _ _) | (with_reducible apply Dev.KeepsBut.foldl_snd; intro _ _) | with_reducible apply Dev.keeps_bus | simp only [Dev.keeps_mk] | split | decide | (with_reducible intro _) | (dsimp only)

theorem Dev.pushWrite_keeps (d : Dev) (off : Nat) (bs : List Byte) : d.KeepsBut [.regs, .trust] (Dev.pushWrite d off bs) := by
  unfold Dev.pushWrite
  try dsimp only
  repeat' first | with_reducible apply Dev.KeepsBut.refl | with_reducible apply Dev.KeepsBut.then (Dev.drop_keeps _ _ _) | (with_reducible apply Dev.KeepsBut.foldl; intro _ _) | (with_reducible apply Dev.KeepsBut.foldl_snd; intro _ _) | with_reducible apply Dev.keeps_trust | simp only [Dev.keeps_mk] | split | decide | (with_reducible intro _) | (dsimp only)

theorem Dev.hostReadPart_keeps (d : Dev) (a : Nat) (n : Nat) : d.KeepsBut [.regs, .mem, .dram, .freeCtr] (Dev.hostReadPart d a n).2 := by
  unfold Dev.hostReadPart
  try dsimp only
  repeat' first | with_reducible apply Dev.KeepsBut.refl | with_reducible apply Dev.KeepsBut.then (Dev.quietRead_keeps _ _ _) | with_reducible apply Dev.KeepsBut.then (Dev.absorb_keeps _) | (with_reducible apply Dev.KeepsBut.foldl; intro _ _) | (with_reducible apply Dev.KeepsBut.foldl_snd; intro _ _) | split | decide | (with_reducible intro _) | (dsimp only)

theorem Dev.hostRead_keeps (d : Dev) (a : Nat) (n : Nat) : d.KeepsBut [.regs, .mem, .dram, .freeCtr] (Dev.hostRead d a n).2 := by
  unfold Dev.hostRead
  try dsimp only
  repeat' first | with_reducible apply Dev.KeepsBut.refl | with_reducible apply Dev.KeepsBut.then (Dev.hostReadPart_keeps _ _ _) | (with_reducible apply Dev.KeepsBut.foldl; intro _ _) | (with_reducible apply Dev.KeepsBut.foldl_snd; intro _ _) | split | decide | (with_reducible intro _) | (dsimp only)

theorem Dev.bar2Read_keeps (d : Dev) (fn : Nat) (off : Nat) (len : Nat) : d.KeepsBut [.regs, .bus, .mem, .dram, .freeCtr] (Dev.bar2Read d fn off len) := by
  unfold Dev.bar2Read
  try dsimp only
  repeat' first | with_reducible apply Dev.KeepsBut.refl | with_reducible apply Dev.KeepsBut.then (Dev.absorb_keeps _) | with_reducible apply Dev.KeepsBut.then (Dev.answer_keeps _ _) | with_reducible apply Dev.KeepsBut.then (Dev.unsupported_keeps _) | with_reducible apply Dev.KeepsBut.then (Dev.hostRead_keeps _ _ _) | (with_reducible apply Dev.KeepsBut.foldl; intro _ _) | (with_reducible apply Dev.KeepsBut.foldl_snd; intro _ _) | split | decide | (with_reducible intro _) | (dsimp only)

theorem Dev.hostWritePart_keeps (d : Dev) (a : Nat) (bs : List Byte) : d.KeepsBut [.regs, .mem, .dram] (Dev.hostWritePart d a bs) := by
  unfold Dev.hostWritePart
  try dsimp only
  repeat' first | with_reducible apply Dev.KeepsBut.refl | with_reducible apply Dev.KeepsBut.then (Dev.memWrite_keeps _ _ _) | with_reducible apply Dev.KeepsBut.then (Dev.absorb_keeps _) | (with_reducible apply Dev.KeepsBut.foldl; intro _ _) | (with_reducible apply Dev.KeepsBut.foldl_snd; intro _ _) | split | decide | (with_reducible intro _) | (dsimp only)

theorem Dev.hostStore_keeps (d : Dev) (a : Nat) (bs : List Byte) : d.KeepsBut [.regs, .mem, .dram] (Dev.hostStore d a bs) := by
  unfold Dev.hostStore
  try dsimp only
  repeat' first | with_reducible apply Dev.KeepsBut.refl | with_reducible apply Dev.KeepsBut.then (Dev.drop_keeps _ _ _) | with_reducible apply Dev.KeepsBut.then (Dev.hostWritePart_keeps _ _ _) | (with_reducible apply Dev.KeepsBut.foldl; intro _ _) | (with_reducible apply Dev.KeepsBut.foldl_snd; intro _ _) | split | decide | (with_reducible intro _) | (dsimp only)

theorem Dev.bar2Write_keeps (d : Dev) (fn : Nat) (off : Nat) (bs : List Byte) : d.KeepsBut [.regs, .bus, .trust, .mem, .dram] (Dev.bar2Write d fn off bs) := by
  unfold Dev.bar2Write
  try dsimp only
  repeat' first | with_reducible apply Dev.KeepsBut.refl | with_reducible apply Dev.KeepsBut.then (Dev.absorb_keeps _) | with_reducible apply Dev.KeepsBut.then (Dev.unsupported_keeps _) | with_reducible apply Dev.KeepsBut.then (Dev.pushWrite_keeps _ _ _) | with_reducible apply Dev.KeepsBut.then (Dev.hostStore_keeps _ _ _) | (with_reducible apply Dev.KeepsBut.foldl; intro _ _) | (with_reducible apply Dev.KeepsBut.foldl_snd; intro _ _) | split | decide | (with_reducible intro _) | (dsimp only)

end Sys2Proof.Machine
end

