-- ==== Sys2Proof/Laws/KeepsControl.lean ====
section
/-!
SUPPORT. Which parts of the device the operations of Machine/Control.lean may change.
-/
namespace Sys2Proof.Machine

theorem Dev.abortPage_keeps (d : Dev) (p : Page) : d.KeepsBut [.regs, .ascent, .mem, .dram, .cricket, .forager, .link, .freeCtr] (Dev.abortPage d p) := by
  unfold Dev.abortPage
  try dsimp only
  repeat' first | with_reducible apply Dev.KeepsBut.refl | with_reducible apply Dev.KeepsBut.then (Dev.lastCode_keeps _ _ _) | with_reducible apply Dev.KeepsBut.then (Dev.endLong_keeps _ _ _) | with_reducible apply Dev.KeepsBut.then (Dev.fallDark_keeps _ _) | with_reducible apply Dev.KeepsBut.then (Dev.ctrlAbortPage_keeps _ _) | (with_reducible apply Dev.KeepsBut.foldl; intro _ _) | (with_reducible apply Dev.KeepsBut.foldl_snd; intro _ _) | with_reducible apply Dev.keeps_forager | simp only [Dev.keeps_mk] | split | decide | (with_reducible intro _) | (dsimp only)

theorem Dev.writeCtrl_keeps (d : Dev) (slot : Nat) (p : Page) (enable : Bool) (reset : Bool) (abort : Bool) : d.KeepsBut [.regs, .ascent, .mem, .dram, .cricket, .forager, .link, .enPend, .freeCtr] (Dev.writeCtrl d slot p enable reset abort) := by
  unfold Dev.writeCtrl
  try dsimp only
  repeat' first | with_reducible apply Dev.KeepsBut.refl | with_reducible apply Dev.KeepsBut.then (Dev.ctrlResetPage_keeps _ _ _) | with_reducible apply Dev.KeepsBut.then (Dev.ctrlEnablePage_keeps _ _ _) | with_reducible apply Dev.KeepsBut.then (Dev.abortPage_keeps _ _) | (with_reducible apply Dev.KeepsBut.foldl; intro _ _) | (with_reducible apply Dev.KeepsBut.foldl_snd; intro _ _) | split | decide | (with_reducible intro _) | (dsimp only)

theorem Dev.ctrlWrite_keeps (d : Dev) (r : Requester) (slot : Nat) (enable : Bool) (reset : Bool) (abort : Bool) : d.KeepsBut [.regs, .ascent, .mem, .dram, .cricket, .forager, .link, .enPend, .freeCtr] (Dev.ctrlWrite d r slot enable reset abort) := by
  unfold Dev.ctrlWrite
  try dsimp only
  repeat' first | with_reducible apply Dev.KeepsBut.refl | with_reducible apply Dev.KeepsBut.then (Dev.writeCtrl_keeps _ _ _ _ _ _) | (with_reducible apply Dev.KeepsBut.foldl; intro _ _) | (with_reducible apply Dev.KeepsBut.foldl_snd; intro _ _) | split | decide | (with_reducible intro _) | (dsimp only)

theorem Dev.cpRun_keeps (d : Dev) (c : Nat) (run : Bool) : d.KeepsBut [.regs, .freeCtr] (Dev.cpRun d c run) := by
  unfold Dev.cpRun
  try dsimp only
  repeat' first | with_reducible apply Dev.KeepsBut.refl | with_reducible apply Dev.KeepsBut.then (Dev.setNum64_keeps _ _ _) | with_reducible apply Dev.KeepsBut.then (Dev.setFld_keeps _ _ _ _ _) | with_reducible apply Dev.KeepsBut.then (Dev.freshNat_keeps _) | with_reducible apply Dev.KeepsBut.then (Dev.cpStart_keeps _ _) | (with_reducible apply Dev.KeepsBut.foldl; intro _ _) | (with_reducible apply Dev.KeepsBut.foldl_snd; intro _ _) | split | decide | (with_reducible intro _) | (dsimp only)

theorem Dev.writeCpctrl_keeps (d : Dev) (c : Nat) (run : Bool) (reset : Bool) : d.KeepsBut [.regs, .freeCtr] (Dev.writeCpctrl d c run reset) := by
  unfold Dev.writeCpctrl
  try dsimp only
  repeat' first | with_reducible apply Dev.KeepsBut.refl | with_reducible apply Dev.KeepsBut.then (Dev.setFlag_keeps _ _ _ _) | with_reducible apply Dev.KeepsBut.then (Dev.raise_keeps _ _ _) | with_reducible apply Dev.KeepsBut.then (Dev.cpReset_keeps _ _) | with_reducible apply Dev.KeepsBut.then (Dev.cpRun_keeps _ _ _) | (with_reducible apply Dev.KeepsBut.foldl; intro _ _) | (with_reducible apply Dev.KeepsBut.foldl_snd; intro _ _) | split | decide | (with_reducible intro _) | (dsimp only)

theorem Dev.cpResetEnd_keeps (d : Dev) (c : Nat) : d.KeepsBut [.regs] (Dev.cpResetEnd d c) := by
  unfold Dev.cpResetEnd
  try dsimp only
  repeat' first | with_reducible apply Dev.KeepsBut.refl | with_reducible apply Dev.KeepsBut.then (Dev.drop_keeps _ _ _) | with_reducible apply Dev.KeepsBut.then (Dev.cpStart_keeps _ _) | (with_reducible apply Dev.KeepsBut.foldl; intro _ _) | (with_reducible apply Dev.KeepsBut.foldl_snd; intro _ _) | split | decide | (with_reducible intro _) | (dsimp only)

theorem Dev.putMboxin_keeps (d : Dev) (c : Nat) (v : Nat) : d.KeepsBut [.regs] (Dev.putMboxin d c v) := by
  unfold Dev.putMboxin
  try dsimp only
  repeat' first | with_reducible apply Dev.KeepsBut.refl | with_reducible apply Dev.KeepsBut.then (Dev.setNum64_keeps _ _ _) | with_reducible apply Dev.KeepsBut.then (Dev.irq_keeps _ _ _) | with_reducible apply Dev.KeepsBut.then (Dev.absorb_keeps _) | (with_reducible apply Dev.KeepsBut.foldl; intro _ _) | (with_reducible apply Dev.KeepsBut.foldl_snd; intro _ _) | split | decide | (with_reducible intro _) | (dsimp only)

theorem Dev.putMboxout_keeps (d : Dev) (r : Requester) (c : Nat) (v : Nat) : d.KeepsBut [.regs] (Dev.putMboxout d r c v) := by
  unfold Dev.putMboxout
  try dsimp only
  repeat' first | with_reducible apply Dev.KeepsBut.refl | with_reducible apply Dev.KeepsBut.then (Dev.setNum64_keeps _ _ _) | with_reducible apply Dev.KeepsBut.then (Dev.irq_keeps _ _ _) | with_reducible apply Dev.KeepsBut.then (Dev.absorb_keeps _) | (with_reducible apply Dev.KeepsBut.foldl; intro _ _) | (with_reducible apply Dev.KeepsBut.foldl_snd; intro _ _) | split | decide | (with_reducible intro _) | (dsimp only)

end Sys2Proof.Machine
end

