-- ==== Sys2Proof/Laws/KeepsRegView.lean ====
section
/-!
SUPPORT. Which parts of the device the operations of Machine/RegView.lean may change.
-/
namespace Sys2Proof.Machine

theorem Dev.readReg_keeps (d : Dev) (a : Nat) : d.KeepsBut [.regs, .bus, .firefly] (Dev.readReg d a).2 := by
  unfold Dev.readReg
  try dsimp only
  repeat' first | with_reducible apply Dev.KeepsBut.refl | with_reducible apply Dev.KeepsBut.then (Dev.wr_keeps _ _ _) | with_reducible apply Dev.KeepsBut.then (Dev.setFld_keeps _ _ _ _ _) | with_reducible apply Dev.KeepsBut.then (Dev.claim_keeps _ _) | (with_reducible apply Dev.KeepsBut.foldl; intro _ _) | (with_reducible apply Dev.KeepsBut.foldl_snd; intro _ _) | split | decide | (with_reducible intro _) | (dsimp only)

end Sys2Proof.Machine
end

