-- ==== Sys2Proof/Laws/KeepsRegWrite.lean ====
section
/-!
SUPPORT. Which parts of the device the operations of Machine/RegWrite.lean may change.
-/
namespace Sys2Proof.Machine

theorem Dev.putCoded_keeps (d : Dev) (a : Nat) (v : Word) : d.KeepsBut [.regs] (Dev.putCoded d a v) := by
  unfold Dev.putCoded
  try dsimp only
  repeat' first | with_reducible apply Dev.KeepsBut.refl | with_reducible apply Dev.KeepsBut.then (Dev.wr_keeps _ _ _) | (with_reducible apply Dev.KeepsBut.foldl; intro _ _) | (with_reducible apply Dev.KeepsBut.foldl_snd; intro _ _) | split | decide | (with_reducible intro _) | (dsimp only)

theorem Dev.putRing_keeps (d : Dev) (fn : Nat) (o : Nat) (v : Word) : d.KeepsBut [.regs] (Dev.putRing d fn o v) := by
  unfold Dev.putRing
  try dsimp only
  repeat' first | with_reducible apply Dev.KeepsBut.refl | with_reducible apply Dev.KeepsBut.then (Dev.putCoded_keeps _ _ _) | (with_reducible apply Dev.KeepsBut.foldl; intro _ _) | (with_reducible apply Dev.KeepsBut.foldl_snd; intro _ _) | split | decide | (with_reducible intro _) | (dsimp only)

theorem Dev.putGrant_keeps (d : Dev) (o : Nat) (v : Word) : d.KeepsBut [.regs] (Dev.putGrant d o v) := by
  unfold Dev.putGrant
  try dsimp only
  repeat' first | with_reducible apply Dev.KeepsBut.refl | with_reducible apply Dev.KeepsBut.then (Dev.putCoded_keeps _ _ _) | (with_reducible apply Dev.KeepsBut.foldl; intro _ _) | (with_reducible apply Dev.KeepsBut.foldl_snd; intro _ _) | split | decide | (with_reducible intro _) | (dsimp only)

theorem Dev.putHst_keeps (d : Dev) (o : Nat) (v : Word) : d.KeepsBut [.regs, .trust] (Dev.putHst d o v) := by
  unfold Dev.putHst
  try dsimp only
  repeat' first | with_reducible apply Dev.KeepsBut.refl | with_reducible apply Dev.KeepsBut.then (Dev.writeRecovery_keeps _ _) | with_reducible apply Dev.KeepsBut.then (Dev.putCoded_keeps _ _ _) | with_reducible apply Dev.KeepsBut.then (Dev.putRing_keeps _ _ _ _) | with_reducible apply Dev.KeepsBut.then (Dev.putGrant_keeps _ _ _) | (with_reducible apply Dev.KeepsBut.foldl; intro _ _) | (with_reducible apply Dev.KeepsBut.foldl_snd; intro _ _) | split | decide | (with_reducible intro _) | (dsimp only)

theorem Dev.putAsc_keeps (d : Dev) (o : Nat) (v : Word) : d.KeepsBut [.regs, .ascent, .dram, .cricket, .freeCtr] (Dev.putAsc d o v) := by
  unfold Dev.putAsc
  try dsimp only
  repeat' first | with_reducible apply Dev.KeepsBut.refl | with_reducible apply Dev.KeepsBut.then (Dev.writeSwarmctrl_keeps _ _) | with_reducible apply Dev.KeepsBut.then (Dev.writeSurveyctrl_keeps _ _) | with_reducible apply Dev.KeepsBut.then (Dev.writeSvcstate_keeps _ _) | with_reducible apply Dev.KeepsBut.then (Dev.writeCellreset_keeps _ _) | with_reducible apply Dev.KeepsBut.then (Dev.writeClreset_keeps _ _) | with_reducible apply Dev.KeepsBut.then (Dev.putCoded_keeps _ _ _) | (with_reducible apply Dev.KeepsBut.foldl; intro _ _) | (with_reducible apply Dev.KeepsBut.foldl_snd; intro _ _) | split | decide | (with_reducible intro _) | (dsimp only)

theorem Dev.putApx_keeps (d : Dev) (o : Nat) (v : Word) : d.KeepsBut [.regs, .apex] (Dev.putApx d o v) := by
  unfold Dev.putApx
  try dsimp only
  repeat' first | with_reducible apply Dev.KeepsBut.refl | with_reducible apply Dev.KeepsBut.then (Dev.writeClkout_keeps _ _) | with_reducible apply Dev.KeepsBut.then (Dev.writeFcctrl_keeps _ _) | with_reducible apply Dev.KeepsBut.then (Dev.putCoded_keeps _ _ _) | (with_reducible apply Dev.KeepsBut.foldl; intro _ _) | (with_reducible apply Dev.KeepsBut.foldl_snd; intro _ _) | split | decide | (with_reducible intro _) | (dsimp only)

theorem Dev.putPwr_keeps (d : Dev) (o : Nat) (v : Word) : d.KeepsBut [.regs] (Dev.putPwr d o v) := by
  unfold Dev.putPwr
  try dsimp only
  repeat' first | with_reducible apply Dev.KeepsBut.refl | with_reducible apply Dev.KeepsBut.then (Dev.putCoded_keeps _ _ _) | (with_reducible apply Dev.KeepsBut.foldl; intro _ _) | (with_reducible apply Dev.KeepsBut.foldl_snd; intro _ _) | split | decide | (with_reducible intro _) | (dsimp only)

theorem Dev.writeTimectrl_keeps (d : Dev) (v : Word) : d.KeepsBut [.regs, .link] (Dev.writeTimectrl d v) := by
  unfold Dev.writeTimectrl
  try dsimp only
  repeat' first | with_reducible apply Dev.KeepsBut.refl | with_reducible apply Dev.KeepsBut.then (Dev.setFlag_keeps _ _ _ _) | with_reducible apply Dev.KeepsBut.then (Dev.refreshTime_keeps _) | with_reducible apply Dev.KeepsBut.then (Dev.setTimeGood_keeps _ _) | (with_reducible apply Dev.KeepsBut.foldl; intro _ _) | (with_reducible apply Dev.KeepsBut.foldl_snd; intro _ _) | split | decide | (with_reducible intro _) | (dsimp only)

theorem Dev.putCkt_keeps (d : Dev) (o : Nat) (v : Word) : d.KeepsBut [.regs, .cricket, .link] (Dev.putCkt d o v) := by
  unfold Dev.putCkt
  try dsimp only
  repeat' first | with_reducible apply Dev.KeepsBut.refl | with_reducible apply Dev.KeepsBut.then (Dev.setNum_keeps _ _ _) | with_reducible apply Dev.KeepsBut.then (Dev.putCoded_keeps _ _ _) | with_reducible apply Dev.KeepsBut.then (Dev.writeTimectrl_keeps _ _) | (with_reducible apply Dev.KeepsBut.foldl; intro _ _) | (with_reducible apply Dev.KeepsBut.foldl_snd; intro _ _) | with_reducible apply Dev.keeps_cricket | simp only [Dev.keeps_mk] | split | decide | (with_reducible intro _) | (dsimp only)

theorem Dev.writeSchedctrl_keeps (d : Dev) (v : Word) : d.KeepsBut [.regs] (Dev.writeSchedctrl d v) := by
  unfold Dev.writeSchedctrl
  try dsimp only
  repeat' first | with_reducible apply Dev.KeepsBut.refl | with_reducible apply Dev.KeepsBut.then (Dev.err_keeps _ _ _) | with_reducible apply Dev.KeepsBut.then (Dev.putCoded_keeps _ _ _) | (with_reducible apply Dev.KeepsBut.foldl; intro _ _) | (with_reducible apply Dev.KeepsBut.foldl_snd; intro _ _) | split | decide | (with_reducible intro _) | (dsimp only)

theorem Dev.putTen_keeps (d : Dev) (t : Nat) (o : Nat) (v : Word) : d.KeepsBut [.regs, .mem, .dram, .hive, .freeCtr] (Dev.putTen d t o v) := by
  unfold Dev.putTen
  try dsimp only
  repeat' first | with_reducible apply Dev.KeepsBut.refl | with_reducible apply Dev.KeepsBut.then (Dev.writeTencfg_keeps _ _ _) | with_reducible apply Dev.KeepsBut.then (Dev.putCoded_keeps _ _ _) | (with_reducible apply Dev.KeepsBut.foldl; intro _ _) | (with_reducible apply Dev.KeepsBut.foldl_snd; intro _ _) | split | decide | (with_reducible intro _) | (dsimp only)

theorem Dev.putHiv_keeps (d : Dev) (o : Nat) (v : Word) : d.KeepsBut [.regs, .mem, .dram, .hive, .freeCtr] (Dev.putHiv d o v) := by
  unfold Dev.putHiv
  try dsimp only
  repeat' first | with_reducible apply Dev.KeepsBut.refl | with_reducible apply Dev.KeepsBut.then (Dev.writePreempt_keeps _ _) | with_reducible apply Dev.KeepsBut.then (Dev.putCoded_keeps _ _ _) | with_reducible apply Dev.KeepsBut.then (Dev.writeSchedctrl_keeps _ _) | with_reducible apply Dev.KeepsBut.then (Dev.putTen_keeps _ _ _ _) | (with_reducible apply Dev.KeepsBut.foldl; intro _ _) | (with_reducible apply Dev.KeepsBut.foldl_snd; intro _ _) | split | decide | (with_reducible intro _) | (dsimp only)

theorem Dev.putFfy_keeps (d : Dev) (i : Nat) (o : Nat) (v : Word) : d.KeepsBut [.regs, .host, .firefly] (Dev.putFfy d i o v) := by
  unfold Dev.putFfy
  try dsimp only
  repeat' first | with_reducible apply Dev.KeepsBut.refl | with_reducible apply Dev.KeepsBut.then (Dev.writeSwset_keeps _ _) | with_reducible apply Dev.KeepsBut.then (Dev.writeSwclr_keeps _ _) | with_reducible apply Dev.KeepsBut.then (Dev.writeSrccfg_keeps _ _ _) | with_reducible apply Dev.KeepsBut.then (Dev.writeEoi_keeps _ _ _) | with_reducible apply Dev.KeepsBut.then (Dev.writeHosteoi_keeps _ _) | with_reducible apply Dev.KeepsBut.then (Dev.putCoded_keeps _ _ _) | (with_reducible apply Dev.KeepsBut.foldl; intro _ _) | (with_reducible apply Dev.KeepsBut.foldl_snd; intro _ _) | split | decide | (with_reducible intro _) | (dsimp only)

theorem Dev.putFor_keeps (d : Dev) (i : Nat) (o : Nat) (v : Word) : d.KeepsBut [.regs, .forager] (Dev.putFor d i o v) := by
  unfold Dev.putFor
  try dsimp only
  repeat' first | with_reducible apply Dev.KeepsBut.refl | with_reducible apply Dev.KeepsBut.then (Dev.writeStrmctrl_keeps _ _ _) | with_reducible apply Dev.KeepsBut.then (Dev.putCoded_keeps _ _ _) | (with_reducible apply Dev.KeepsBut.foldl; intro _ _) | (with_reducible apply Dev.KeepsBut.foldl_snd; intro _ _) | split | decide | (with_reducible intro _) | (dsimp only)

theorem Dev.writePortcfg_keeps (d : Dev) (p : Nat) (v : Word) : d.KeepsBut [.regs, .link] (Dev.writePortcfg d p v) := by
  unfold Dev.writePortcfg
  try dsimp only
  repeat' first | with_reducible apply Dev.KeepsBut.refl | with_reducible apply Dev.KeepsBut.then (Dev.irq_keeps _ _ _) | with_reducible apply Dev.KeepsBut.then (Dev.setDegraded_keeps _ _ _) | with_reducible apply Dev.KeepsBut.then (Dev.refreshTime_keeps _) | with_reducible apply Dev.KeepsBut.then (Dev.putCoded_keeps _ _ _) | (with_reducible apply Dev.KeepsBut.foldl; intro _ _) | (with_reducible apply Dev.KeepsBut.foldl_snd; intro _ _) | split | decide | (with_reducible intro _) | (dsimp only)

theorem Dev.putLnk_keeps (d : Dev) (p : Nat) (o : Nat) (v : Word) : d.KeepsBut [.regs, .link] (Dev.putLnk d p o v) := by
  unfold Dev.putLnk
  try dsimp only
  repeat' first | with_reducible apply Dev.KeepsBut.refl | with_reducible apply Dev.KeepsBut.then (Dev.writeRoutedata_keeps _ _) | with_reducible apply Dev.KeepsBut.then (Dev.putCoded_keeps _ _ _) | with_reducible apply Dev.KeepsBut.then (Dev.writePortcfg_keeps _ _ _) | (with_reducible apply Dev.KeepsBut.foldl; intro _ _) | (with_reducible apply Dev.KeepsBut.foldl_snd; intro _ _) | split | decide | (with_reducible intro _) | (dsimp only)

theorem Dev.putStk_keeps (d : Dev) (s : Nat) (o : Nat) (v : Word) : d.KeepsBut [.regs, .mem, .dram, .freeCtr] (Dev.putStk d s o v) := by
  unfold Dev.putStk
  try dsimp only
  repeat' first | with_reducible apply Dev.KeepsBut.refl | with_reducible apply Dev.KeepsBut.then (Dev.writeScrubctrl_keeps _ _ _) | with_reducible apply Dev.KeepsBut.then (Dev.writeMgctrl_keeps _ _ _) | with_reducible apply Dev.KeepsBut.then (Dev.writeTgctrl_keeps _ _ _) | with_reducible apply Dev.KeepsBut.then (Dev.putCoded_keeps _ _ _) | (with_reducible apply Dev.KeepsBut.foldl; intro _ _) | (with_reducible apply Dev.KeepsBut.foldl_snd; intro _ _) | split | decide | (with_reducible intro _) | (dsimp only)

theorem Dev.putMsc_keeps (d : Dev) (s : Nat) (o : Nat) (v : Word) : d.KeepsBut [.regs, .mem] (Dev.putMsc d s o v) := by
  unfold Dev.putMsc
  try dsimp only
  repeat' first | with_reducible apply Dev.KeepsBut.refl | with_reducible apply Dev.KeepsBut.then (Dev.writePinctrl_keeps _ _) | with_reducible apply Dev.KeepsBut.then (Dev.putCoded_keeps _ _ _) | (with_reducible apply Dev.KeepsBut.foldl; intro _ _) | (with_reducible apply Dev.KeepsBut.foldl_snd; intro _ _) | split | decide | (with_reducible intro _) | (dsimp only)

theorem Dev.putPage_keeps (d : Dev) (r : Requester) (slot : Nat) (p : Page) (o : Nat) (v : Word) : d.KeepsBut [.regs, .apex, .ascent, .trust, .host, .mem, .dram, .cricket, .hive, .forager, .link, .firefly, .enPend, .freeCtr] (Dev.putPage d r slot p o v) := by
  unfold Dev.putPage
  try dsimp only
  repeat' first | with_reducible apply Dev.KeepsBut.refl | with_reducible apply Dev.KeepsBut.then (Dev.writeSigport_keeps _ _ _) | with_reducible apply Dev.KeepsBut.then (Dev.writeSvncommit_keeps _ _ _) | with_reducible apply Dev.KeepsBut.then (Dev.writeCtrl_keeps _ _ _ _ _ _) | with_reducible apply Dev.KeepsBut.then (Dev.writeCpctrl_keeps _ _ _ _) | with_reducible apply Dev.KeepsBut.then (Dev.putCoded_keeps _ _ _) | with_reducible apply Dev.KeepsBut.then (Dev.putHst_keeps _ _ _) | with_reducible apply Dev.KeepsBut.then (Dev.putAsc_keeps _ _ _) | with_reducible apply Dev.KeepsBut.then (Dev.putApx_keeps _ _ _) | with_reducible apply Dev.KeepsBut.then (Dev.putPwr_keeps _ _ _) | with_reducible apply Dev.KeepsBut.then (Dev.putCkt_keeps _ _ _) | with_reducible apply Dev.KeepsBut.then (Dev.putHiv_keeps _ _ _) | with_reducible apply Dev.KeepsBut.then (Dev.putFfy_keeps _ _ _ _) | with_reducible apply Dev.KeepsBut.then (Dev.putFor_keeps _ _ _ _) | with_reducible apply Dev.KeepsBut.then (Dev.putLnk_keeps _ _ _ _) | with_reducible apply Dev.KeepsBut.then (Dev.putStk_keeps _ _ _ _) | with_reducible apply Dev.KeepsBut.then (Dev.putMsc_keeps _ _ _ _) | (with_reducible apply Dev.KeepsBut.foldl; intro _ _) | (with_reducible apply Dev.KeepsBut.foldl_snd; intro _ _) | split | decide | (with_reducible intro _) | (dsimp only)

theorem Dev.put32_keeps (d : Dev) (r : Requester) (a : Nat) (v : Word) : d.KeepsBut [.regs, .apex, .ascent, .trust, .host, .mem, .dram, .cricket, .hive, .forager, .link, .firefly, .enPend, .freeCtr] (Dev.put32 d r a v) := by
  unfold Dev.put32
  try dsimp only
  repeat' first | with_reducible apply Dev.KeepsBut.refl | with_reducible apply Dev.KeepsBut.then (Dev.writeHosteoi_keeps _ _) | with_reducible apply Dev.KeepsBut.then (Dev.putRing_keeps _ _ _ _) | with_reducible apply Dev.KeepsBut.then (Dev.putPage_keeps _ _ _ _ _ _) | (with_reducible apply Dev.KeepsBut.foldl; intro _ _) | (with_reducible apply Dev.KeepsBut.foldl_snd; intro _ _) | split | decide | (with_reducible intro _) | (dsimp only)

theorem Dev.put64_keeps (d : Dev) (r : Requester) (a : Nat) (v : Nat) : d.KeepsBut [.regs, .cricket] (Dev.put64 d r a v) := by
  unfold Dev.put64
  try dsimp only
  repeat' first | with_reducible apply Dev.KeepsBut.refl | with_reducible apply Dev.KeepsBut.then (Dev.setNum64_keeps _ _ _) | with_reducible apply Dev.KeepsBut.then (Dev.putMboxin_keeps _ _ _) | with_reducible apply Dev.KeepsBut.then (Dev.putMboxout_keeps _ _ _ _) | (with_reducible apply Dev.KeepsBut.foldl; intro _ _) | (with_reducible apply Dev.KeepsBut.foldl_snd; intro _ _) | with_reducible apply Dev.keeps_cricket | simp only [Dev.keeps_mk] | split | decide | (with_reducible intro _) | (dsimp only)

end Sys2Proof.Machine
end

