-- ==== Sys2Proof/Laws/KeepsRegAccess.lean ====
section
/-!
SUPPORT. Which parts of the device the operations of Machine/RegAccess.lean may change.
-/
namespace Sys2Proof.Machine

theorem Dev.windowRead_keeps (d : Dev) (r : Requester) (w : WindowReg) (a : WinRead) : d.KeepsBut [.regs, .bus, .weevil, .scarab] (Dev.windowRead d r w a) := by
  unfold Dev.windowRead
  try dsimp only
  repeat' first | with_reducible apply Dev.KeepsBut.refl | with_reducible apply Dev.KeepsBut.then (Dev.csdataRead_keeps _ _ _ _) | with_reducible apply Dev.KeepsBut.then (Dev.pwldata_keeps _ _ _ _) | with_reducible apply Dev.KeepsBut.then (Dev.trdata_keeps _ _ _ _) | with_reducible apply Dev.KeepsBut.then (Dev.statdata_keeps _ _ _ _) | (with_reducible apply Dev.KeepsBut.foldl; intro _ _) | (with_reducible apply Dev.KeepsBut.foldl_snd; intro _ _) | split | decide | (with_reducible intro _) | (dsimp only)

theorem Dev.windowWrite_keeps (d : Dev) (r : Requester) (w : WindowReg) (a : WinWrite) : d.KeepsBut [.regs, .bus, .massif, .weevil, .scarab] (Dev.windowWrite d r w a) := by
  unfold Dev.windowWrite
  try dsimp only
  repeat' first | with_reducible apply Dev.KeepsBut.refl | with_reducible apply Dev.KeepsBut.then (Dev.csdataWrite_keeps _ _ _ _) | with_reducible apply Dev.KeepsBut.then (Dev.pwldata_keeps _ _ _ _) | with_reducible apply Dev.KeepsBut.then (Dev.trdata_keeps _ _ _ _) | with_reducible apply Dev.KeepsBut.then (Dev.statdata_keeps _ _ _ _) | (with_reducible apply Dev.KeepsBut.foldl; intro _ _) | (with_reducible apply Dev.KeepsBut.foldl_snd; intro _ _) | split | decide | (with_reducible intro _) | (dsimp only)

theorem Dev.read4_keeps (d : Dev) (r : Requester) (a : Nat) : d.KeepsBut [.regs, .bus, .weevil, .scarab, .firefly] (Dev.read4 d r a).2 := by
  unfold Dev.read4
  try dsimp only
  repeat' first | with_reducible apply Dev.KeepsBut.refl | with_reducible apply Dev.KeepsBut.then (Dev.dropShadow_keeps _ _ _) | with_reducible apply Dev.KeepsBut.then (Dev.setShadow_keeps _ _ _ _) | with_reducible apply Dev.KeepsBut.then (Dev.readReg_keeps _ _) | with_reducible apply Dev.KeepsBut.then (Dev.windowRead_keeps _ _ _ _) | (with_reducible apply Dev.KeepsBut.foldl; intro _ _) | (with_reducible apply Dev.KeepsBut.foldl_snd; intro _ _) | split | decide | (with_reducible intro _) | (dsimp only)

theorem Dev.readAt_keeps (d : Dev) (r : Requester) (a : Nat) : d.KeepsBut [.regs, .bus, .weevil, .scarab, .firefly] (Dev.readAt d r a).2 := by
  unfold Dev.readAt
  try dsimp only
  repeat' first | with_reducible apply Dev.KeepsBut.refl | with_reducible apply Dev.KeepsBut.then (Dev.read4_keeps _ _ _) | (with_reducible apply Dev.KeepsBut.foldl; intro _ _) | (with_reducible apply Dev.KeepsBut.foldl_snd; intro _ _) | split | decide | (with_reducible intro _) | (dsimp only)

theorem Dev.read8_keeps (d : Dev) (r : Requester) (a : Nat) : d.KeepsBut [.regs, .bus, .weevil, .scarab, .firefly] (Dev.read8 d r a) := by
  unfold Dev.read8
  try dsimp only
  repeat' first | with_reducible apply Dev.KeepsBut.refl | with_reducible apply Dev.KeepsBut.then (Dev.answer_keeps _ _) | with_reducible apply Dev.KeepsBut.then (Dev.windowRead_keeps _ _ _ _) | with_reducible apply Dev.KeepsBut.then (Dev.readAt_keeps _ _ _) | (with_reducible apply Dev.KeepsBut.foldl; intro _ _) | (with_reducible apply Dev.KeepsBut.foldl_snd; intro _ _) | split | decide | (with_reducible intro _) | (dsimp only)

theorem Dev.bar4Read_keeps (d : Dev) (r : Requester) (o : Nat) (n : Nat) : d.KeepsBut [.bus] (Dev.bar4Read d r o n) := by
  unfold Dev.bar4Read
  try dsimp only
  repeat' first | with_reducible apply Dev.KeepsBut.refl | with_reducible apply Dev.KeepsBut.then (Dev.answer_keeps _ _) | (with_reducible apply Dev.KeepsBut.foldl; intro _ _) | (with_reducible apply Dev.KeepsBut.foldl_snd; intro _ _) | split | decide | (with_reducible intro _) | (dsimp only)

theorem Dev.bar4Write_keeps (d : Dev) (r : Requester) (o : Nat) (v : Word) : d.KeepsBut [.regs, .host, .firefly] (Dev.bar4Write d r o v) := by
  unfold Dev.bar4Write
  try dsimp only
  repeat' first | with_reducible apply Dev.KeepsBut.refl | with_reducible apply Dev.KeepsBut.then (Dev.msixWrite_keeps _ _ _ _ _) | (with_reducible apply Dev.KeepsBut.foldl; intro _ _) | (with_reducible apply Dev.KeepsBut.foldl_snd; intro _ _) | split | decide | (with_reducible intro _) | (dsimp only)

theorem Dev.busRead_keeps (d : Dev) (r : Requester) (a : Nat) (sz : AccessSize) : d.KeepsBut [.regs, .bus, .weevil, .scarab, .firefly] (Dev.busRead d r a sz) := by
  unfold Dev.busRead
  try dsimp only
  repeat' first | with_reducible apply Dev.KeepsBut.refl | with_reducible apply Dev.KeepsBut.then (Dev.drop_keeps _ _ _) | with_reducible apply Dev.KeepsBut.then (Dev.err_keeps _ _ _) | with_reducible apply Dev.KeepsBut.then (Dev.answer_keeps _ _) | with_reducible apply Dev.KeepsBut.then (Dev.readAt_keeps _ _ _) | with_reducible apply Dev.KeepsBut.then (Dev.read8_keeps _ _ _) | with_reducible apply Dev.KeepsBut.then (Dev.bar4Read_keeps _ _ _ _) | (with_reducible apply Dev.KeepsBut.foldl; intro _ _) | (with_reducible apply Dev.KeepsBut.foldl_snd; intro _ _) | split | decide | (with_reducible intro _) | (dsimp only)

theorem Dev.write4_keeps (d : Dev) (r : Requester) (a : Nat) (v : Word) : d.KeepsBut [.regs, .bus, .apex, .ascent, .trust, .host, .mem, .dram, .cricket, .massif, .weevil, .scarab, .hive, .forager, .link, .firefly, .enPend, .freeCtr] (Dev.write4 d r a v) := by
  unfold Dev.write4
  try dsimp only
  repeat' first | with_reducible apply Dev.KeepsBut.refl | with_reducible apply Dev.KeepsBut.then (Dev.dropBuffer_keeps _ _ _) | with_reducible apply Dev.KeepsBut.then (Dev.setBuffer_keeps _ _ _ _) | with_reducible apply Dev.KeepsBut.then (Dev.put32_keeps _ _ _ _) | with_reducible apply Dev.KeepsBut.then (Dev.put64_keeps _ _ _ _) | with_reducible apply Dev.KeepsBut.then (Dev.windowWrite_keeps _ _ _ _) | (with_reducible apply Dev.KeepsBut.foldl; intro _ _) | (with_reducible apply Dev.KeepsBut.foldl_snd; intro _ _) | split | decide | (with_reducible intro _) | (dsimp only)

theorem Dev.writeAt_keeps (d : Dev) (r : Requester) (a : Nat) (v : Word) : d.KeepsBut [.regs, .bus, .apex, .ascent, .trust, .host, .mem, .dram, .cricket, .massif, .weevil, .scarab, .hive, .forager, .link, .firefly, .enPend, .freeCtr] (Dev.writeAt d r a v) := by
  unfold Dev.writeAt
  try dsimp only
  repeat' first | with_reducible apply Dev.KeepsBut.refl | with_reducible apply Dev.KeepsBut.then (Dev.write4_keeps _ _ _ _) | (with_reducible apply Dev.KeepsBut.foldl; intro _ _) | (with_reducible apply Dev.KeepsBut.foldl_snd; intro _ _) | split | decide | (with_reducible intro _) | (dsimp only)

theorem Dev.write8_keeps (d : Dev) (r : Requester) (a : Nat) (v : DWord) : d.KeepsBut [.regs, .bus, .apex, .ascent, .trust, .host, .mem, .dram, .cricket, .massif, .weevil, .scarab, .hive, .forager, .link, .firefly, .enPend, .freeCtr] (Dev.write8 d r a v) := by
  unfold Dev.write8
  try dsimp only
  repeat' first | with_reducible apply Dev.KeepsBut.refl | with_reducible apply Dev.KeepsBut.then (Dev.put64_keeps _ _ _ _) | with_reducible apply Dev.KeepsBut.then (Dev.windowWrite_keeps _ _ _ _) | with_reducible apply Dev.KeepsBut.then (Dev.writeAt_keeps _ _ _ _) | (with_reducible apply Dev.KeepsBut.foldl; intro _ _) | (with_reducible apply Dev.KeepsBut.foldl_snd; intro _ _) | split | decide | (with_reducible intro _) | (dsimp only)

theorem Dev.busWrite_keeps (d : Dev) (r : Requester) (a : Nat) (sz : AccessSize) (v : DWord) : d.KeepsBut [.regs, .bus, .apex, .ascent, .trust, .host, .mem, .dram, .cricket, .massif, .weevil, .scarab, .hive, .forager, .link, .firefly, .enPend, .freeCtr] (Dev.busWrite d r a sz v) := by
  unfold Dev.busWrite
  try dsimp only
  repeat' first | with_reducible apply Dev.KeepsBut.refl | with_reducible apply Dev.KeepsBut.then (Dev.err_keeps _ _ _) | with_reducible apply Dev.KeepsBut.then (Dev.bar4Write_keeps _ _ _ _) | with_reducible apply Dev.KeepsBut.then (Dev.writeAt_keeps _ _ _ _) | with_reducible apply Dev.KeepsBut.then (Dev.write8_keeps _ _ _ _) | (with_reducible apply Dev.KeepsBut.foldl; intro _ _) | (with_reducible apply Dev.KeepsBut.foldl_snd; intro _ _) | split | decide | (with_reducible intro _) | (dsimp only)

end Sys2Proof.Machine
end

