-- ==== Sys2Proof/Laws/KeepsHostIf.lean ====
section
/-!
SUPPORT. Which parts of the device the operations of Machine/HostIf.lean may change.
-/
namespace Sys2Proof.Machine

theorem Dev.runJob_keeps (fn : Nat) (d : Dev) (b : List Byte) : d.KeepsBut [.regs, .host, .mem, .dram, .forager, .freeCtr] (Dev.runJob fn d b) := by
  unfold Dev.runJob
  try dsimp only
  repeat' first | with_reducible apply Dev.KeepsBut.refl | with_reducible apply Dev.KeepsBut.then (Dev.quietRead_keeps _ _ _) | with_reducible apply Dev.KeepsBut.then (Dev.noLastBeat_keeps _) | with_reducible apply Dev.KeepsBut.then (Dev.refuseJob_keeps _ _ _ _) | (with_reducible apply Dev.KeepsBut.foldl; intro _ _) | (with_reducible apply Dev.KeepsBut.foldl_snd; intro _ _) | with_reducible apply Dev.keeps_host | ((with_reducible apply Dev.keeps_mk_module); (case g => intro p hp; cases p <;> first | exact absurd hp (by decide) | rfl)) | ((with_reducible apply Dev.keeps_mk_bus); (case g => intro p hp; cases p <;> first | exact absurd hp (by decide) | rfl)) | ((with_reducible apply Dev.keeps_mk_power); (case g => intro p hp; cases p <;> first | exact absurd hp (by decide) | rfl)) | simp only [Dev.keeps_mk] | split | decide | (with_reducible intro _) | (dsimp only)

theorem Dev.cancelJob_keeps (fn : Nat) (d : Dev) (b : List Byte) : d.KeepsBut [.regs, .host, .forager, .freeCtr] (Dev.cancelJob fn d b) := by
  unfold Dev.cancelJob
  try dsimp only
  repeat' first | with_reducible apply Dev.KeepsBut.refl | with_reducible apply Dev.KeepsBut.then (Dev.answerJob_keeps _ _ _ _ _ _) | with_reducible apply Dev.KeepsBut.then (Dev.refuseJob_keeps _ _ _ _) | with_reducible apply Dev.KeepsBut.then (Dev.endJob_keeps _ _ _) | (with_reducible apply Dev.KeepsBut.foldl; intro _ _) | (with_reducible apply Dev.KeepsBut.foldl_snd; intro _ _) | split | decide | (with_reducible intro _) | (dsimp only)

theorem Dev.imgReg_keeps (fn : Nat) (d : Dev) (b : List Byte) : d.KeepsBut [.regs, .host, .forager, .freeCtr] (Dev.imgReg fn d b) := by
  unfold Dev.imgReg
  try dsimp only
  repeat' first | with_reducible apply Dev.KeepsBut.refl | with_reducible apply Dev.KeepsBut.then (Dev.refuseJob_keeps _ _ _ _) | (with_reducible apply Dev.KeepsBut.foldl; intro _ _) | (with_reducible apply Dev.KeepsBut.foldl_snd; intro _ _) | with_reducible apply Dev.keeps_host | simp only [Dev.keeps_mk] | split | decide | (with_reducible intro _) | (dsimp only)

theorem Dev.registrationDone_keeps (d : Dev) : d.KeepsBut [.regs, .host, .mem, .dram, .cricket, .freeCtr] (Dev.registrationDone d) := by
  unfold Dev.registrationDone
  try dsimp only
  repeat' first | with_reducible apply Dev.KeepsBut.refl | with_reducible apply Dev.KeepsBut.then (Dev.err_keeps _ _ _) | with_reducible apply Dev.KeepsBut.then (Dev.postDone_keeps _ _ _) | with_reducible apply Dev.KeepsBut.then (Dev.checkImage_keeps _ _) | with_reducible apply Dev.KeepsBut.then (Dev.enterImage_keeps _ _) | (with_reducible apply Dev.KeepsBut.foldl; intro _ _) | (with_reducible apply Dev.KeepsBut.foldl_snd; intro _ _) | with_reducible apply Dev.keeps_host | simp only [Dev.keeps_mk] | split | decide | (with_reducible intro _) | (dsimp only)

theorem Dev.imgDereg_keeps (fn : Nat) (d : Dev) (b : List Byte) : d.KeepsBut [.regs, .host, .cricket, .forager, .freeCtr] (Dev.imgDereg fn d b) := by
  unfold Dev.imgDereg
  try dsimp only
  repeat' first | with_reducible apply Dev.KeepsBut.refl | with_reducible apply Dev.KeepsBut.then (Dev.answerJob_keeps _ _ _ _ _ _) | with_reducible apply Dev.KeepsBut.then (Dev.refuseJob_keeps _ _ _ _) | with_reducible apply Dev.KeepsBut.then (Dev.removeImage_keeps _ _) | (with_reducible apply Dev.KeepsBut.foldl; intro _ _) | (with_reducible apply Dev.KeepsBut.foldl_snd; intro _ _) | split | decide | (with_reducible intro _) | (dsimp only)

theorem Dev.dropFunction_keeps (d : Dev) (fn : Nat) : d.KeepsBut [.host, .cricket, .forager] (Dev.dropFunction d fn) := by
  unfold Dev.dropFunction
  try dsimp only
  repeat' first | with_reducible apply Dev.KeepsBut.refl | (with_reducible apply Dev.KeepsBut.foldl; intro _ _) | (with_reducible apply Dev.KeepsBut.foldl_snd; intro _ _) | with_reducible apply Dev.keeps_cricket_forager_host | ((with_reducible apply Dev.keeps_mk_module); (case g => intro p hp; cases p <;> first | exact absurd hp (by decide) | rfl)) | ((with_reducible apply Dev.keeps_mk_bus); (case g => intro p hp; cases p <;> first | exact absurd hp (by decide) | rfl)) | ((with_reducible apply Dev.keeps_mk_power); (case g => intro p hp; cases p <;> first | exact absurd hp (by decide) | rfl)) | simp only [Dev.keeps_mk] | split | decide | (with_reducible intro _) | (dsimp only)

theorem Dev.vfFlr_keeps (d : Dev) (v : Nat) : d.KeepsBut [.regs, .host, .dram, .cricket, .massif, .weevil, .scarab, .talus, .forager, .freeCtr] (Dev.vfFlr d v) := by
  unfold Dev.vfFlr
  try dsimp only
  repeat' first | with_reducible apply Dev.KeepsBut.refl | with_reducible apply Dev.KeepsBut.then (Dev.setFlag_keeps _ _ _ _) | with_reducible apply Dev.KeepsBut.then (Dev.beatFail_keeps _ _ _ _) | with_reducible apply Dev.KeepsBut.then (Dev.clearOnDie_keeps _) | with_reducible apply Dev.KeepsBut.then (Dev.dropFunction_keeps _ _) | (with_reducible apply Dev.KeepsBut.foldl; intro _ _) | (with_reducible apply Dev.KeepsBut.foldl_snd; intro _ _) | split | decide | (with_reducible intro _) | (dsimp only)

end Sys2Proof.Machine
end

