-- ==== Sys2Proof/Laws/KeepsReduce.lean ====
section
/-!
SUPPORT. Which parts of the device the operations of Machine/Reduce.lean may change.
-/
namespace Sys2Proof.Machine

theorem Dev.setAct_keeps (d : Dev) (n : Nat) (f : StagAct → StagAct) : d.KeepsBut [.stag] (Dev.setAct d n f) := by
  unfold Dev.setAct
  try dsimp only
  repeat' first | with_reducible apply Dev.KeepsBut.refl | (with_reducible apply Dev.KeepsBut.foldl; intro _ _) | (with_reducible apply Dev.KeepsBut.foldl_snd; intro _ _) | with_reducible apply Dev.keeps_stag | simp only [Dev.keeps_mk] | split | decide | (with_reducible intro _) | (dsimp only)

theorem Dev.stagSend_keeps (n : Nat) (step : Nat) (unit : Nat) (d : Dev) (t : Txn) : d.KeepsBut [.regs, .dram, .cricket, .stag, .link, .freeCtr] (Dev.stagSend n step unit d t) := by
  unfold Dev.stagSend
  try dsimp only
  repeat' first | with_reducible apply Dev.KeepsBut.refl | with_reducible apply Dev.KeepsBut.then (Dev.issueRequest_keeps _ _ _) | with_reducible apply Dev.KeepsBut.then (Dev.setAct_keeps _ _ _) | (with_reducible apply Dev.KeepsBut.foldl; intro _ _) | (with_reducible apply Dev.KeepsBut.foldl_snd; intro _ _) | split | decide | (with_reducible intro _) | (dsimp only)

theorem Dev.sendLine_keeps (n : Nat) (step : Nat) (slot : Nat) (btag : Nat) (dst : Nat) (op : Nat) (src : Nat) (seq : Nat) (addr : Nat) (elems : Nat) (from_ : Nat) (payload : List Byte) (d : Dev) : d.KeepsBut [.regs, .dram, .cricket, .stag, .link, .freeCtr] (Dev.sendLine n step slot btag dst op src seq addr elems from_ payload d) := by
  unfold Dev.sendLine
  try dsimp only
  repeat' first | with_reducible apply Dev.KeepsBut.refl | with_reducible apply Dev.KeepsBut.then (Dev.count64_keeps _ _ _) | with_reducible apply Dev.KeepsBut.then (Dev.stagSend_keeps _ _ _ _ _) | (with_reducible apply Dev.KeepsBut.foldl; intro _ _) | (with_reducible apply Dev.KeepsBut.foldl_snd; intro _ _) | split | decide | (with_reducible intro _) | (dsimp only)

theorem Dev.sendWrite_keeps (n step dst : Nat) (unit : Nat → Nat) (fuel : Nat) (d : Dev) (a : Nat) (bs : List Byte) : d.KeepsBut [.regs, .dram, .cricket, .stag, .link, .freeCtr] (Dev.sendWrite n step dst unit fuel d a bs) := by
  induction fuel generalizing d a bs with
  | zero => exact Dev.KeepsBut.refl _ _
  | succ m ih =>
    unfold Dev.sendWrite
    try dsimp only
    repeat' first | with_reducible apply Dev.KeepsBut.refl | with_reducible apply fun x => Dev.KeepsBut.trans x (ih _ _ _ ) | with_reducible apply Dev.KeepsBut.then (Dev.drop_keeps _ _ _) | with_reducible apply Dev.KeepsBut.then (Dev.stagSend_keeps _ _ _ _ _) | (with_reducible apply Dev.KeepsBut.foldl; intro _ _) | (with_reducible apply Dev.KeepsBut.foldl_snd; intro _ _) | split | decide | (with_reducible intro _) | (dsimp only)

theorem Dev.sendSync_keeps (n : Nat) (step : Nat) (unit : Nat) (dst : Nat) (obj : Nat) (d : Dev) : d.KeepsBut [.regs, .dram, .cricket, .stag, .link, .freeCtr] (Dev.sendSync n step unit dst obj d) := by
  unfold Dev.sendSync
  try dsimp only
  repeat' first | with_reducible apply Dev.KeepsBut.refl | with_reducible apply Dev.KeepsBut.then (Dev.stagSend_keeps _ _ _ _ _) | (with_reducible apply Dev.KeepsBut.foldl; intro _ _) | (with_reducible apply Dev.KeepsBut.foldl_snd; intro _ _) | split | decide | (with_reducible intro _) | (dsimp only)

theorem Dev.stepOne_keeps (d : Dev) (q : QDesc) (g : List Byte) : d.KeepsBut [.regs, .mem, .dram, .cricket, .stag, .link, .freeCtr] (Dev.stepOne d q g) := by
  unfold Dev.stepOne
  try dsimp only
  repeat' first | with_reducible apply Dev.KeepsBut.refl | with_reducible apply Dev.KeepsBut.then (Dev.touchAll_keeps _ _) | with_reducible apply Dev.KeepsBut.then (Dev.laneBusy_keeps _ _) | with_reducible apply Dev.KeepsBut.then (Dev.sendLine_keeps _ _ _ _ _ _ _ _ _ _ _ _ _) | (with_reducible apply Dev.KeepsBut.foldl; intro _ _) | (with_reducible apply Dev.KeepsBut.foldl_snd; intro _ _) | split | decide | (with_reducible intro _) | (dsimp only)

theorem Dev.stepTwo_keeps (d : Dev) (q : QDesc) (g : List Byte) (words : List Nat) : d.KeepsBut [.regs, .dram, .cricket, .stag, .link, .freeCtr] (Dev.stepTwo d q g words) := by
  unfold Dev.stepTwo
  try dsimp only
  repeat' first | with_reducible apply Dev.KeepsBut.refl | with_reducible apply Dev.KeepsBut.then (Dev.sendWrite_keeps _ _ _ _ _ _ _ _) | with_reducible apply Dev.KeepsBut.then (Dev.sendSync_keeps _ _ _ _ _ _) | (with_reducible apply Dev.KeepsBut.foldl; intro _ _) | (with_reducible apply Dev.KeepsBut.foldl_snd; intro _ _) | split | decide | (with_reducible intro _) | (dsimp only)

theorem Dev.stepThree_keeps (d : Dev) (q : QDesc) (g : List Byte) : d.KeepsBut [.regs, .mem, .dram, .cricket, .stag, .link, .freeCtr] (Dev.stepThree d q g) := by
  unfold Dev.stepThree
  try dsimp only
  repeat' first | with_reducible apply Dev.KeepsBut.refl | with_reducible apply Dev.KeepsBut.then (Dev.touchAll_keeps _ _) | with_reducible apply Dev.KeepsBut.then (Dev.laneBusy_keeps _ _) | with_reducible apply Dev.KeepsBut.then (Dev.sendLine_keeps _ _ _ _ _ _ _ _ _ _ _ _ _) | (with_reducible apply Dev.KeepsBut.foldl; intro _ _) | (with_reducible apply Dev.KeepsBut.foldl_snd; intro _ _) | split | decide | (with_reducible intro _) | (dsimp only)

theorem Dev.treeWalk_keeps (q : QDesc) (g : List Byte) (self j fuel : Nat) (d : Dev) (v : Nat) : d.KeepsBut [.regs, .dram, .cricket, .stag, .link, .freeCtr] (Dev.treeWalk q g self j fuel d v).1 := by
  induction fuel generalizing d v with
  | zero => exact Dev.KeepsBut.refl _ _
  | succ m ih =>
    unfold Dev.treeWalk
    try dsimp only
    repeat' first | with_reducible apply Dev.KeepsBut.refl | with_reducible apply fun x => Dev.KeepsBut.trans x (ih _ _ ) | with_reducible apply Dev.KeepsBut.then (Dev.sendLine_keeps _ _ _ _ _ _ _ _ _ _ _ _ _) | (with_reducible apply Dev.KeepsBut.foldl; intro _ _) | (with_reducible apply Dev.KeepsBut.foldl_snd; intro _ _) | split | decide | (with_reducible intro _) | (dsimp only)

theorem Dev.setLevel_keeps (d : Dev) (n : Nat) (j : Nat) (v : Nat) : d.KeepsBut [.stag] (Dev.setLevel d n j v) := by
  unfold Dev.setLevel
  try dsimp only
  repeat' first | with_reducible apply Dev.KeepsBut.refl | with_reducible apply Dev.KeepsBut.then (Dev.setAct_keeps _ _ _) | (with_reducible apply Dev.KeepsBut.foldl; intro _ _) | (with_reducible apply Dev.KeepsBut.foldl_snd; intro _ _) | split | decide | (with_reducible intro _) | (dsimp only)

theorem Dev.treeStart_keeps (d : Dev) (q : QDesc) (g : List Byte) : d.KeepsBut [.regs, .dram, .cricket, .stag, .link, .freeCtr] (Dev.treeStart d q g) := by
  unfold Dev.treeStart
  try dsimp only
  repeat' first | with_reducible apply Dev.KeepsBut.refl | with_reducible apply Dev.KeepsBut.then (Dev.treeWalk_keeps _ _ _ _ _ _ _) | with_reducible apply Dev.KeepsBut.then (Dev.setLevel_keeps _ _ _ _) | (with_reducible apply Dev.KeepsBut.foldl; intro _ _) | (with_reducible apply Dev.KeepsBut.foldl_snd; intro _ _) | split | decide | (with_reducible intro _) | (dsimp only)

theorem Dev.treeAdd_keeps (d : Dev) (a : StagAct) (self : Nat) (j : Nat) (v : Nat) : d.KeepsBut [.regs, .dram, .cricket, .stag, .link, .freeCtr] (Dev.treeAdd d a self j v) := by
  unfold Dev.treeAdd
  try dsimp only
  repeat' first | with_reducible apply Dev.KeepsBut.refl | with_reducible apply Dev.KeepsBut.then (Dev.stagFlags_keeps _ _ _) | with_reducible apply Dev.KeepsBut.then (Dev.laneBusy_keeps _ _) | with_reducible apply Dev.KeepsBut.then (Dev.treeWalk_keeps _ _ _ _ _ _ _) | with_reducible apply Dev.KeepsBut.then (Dev.setLevel_keeps _ _ _ _) | (with_reducible apply Dev.KeepsBut.foldl; intro _ _) | (with_reducible apply Dev.KeepsBut.foldl_snd; intro _ _) | with_reducible apply Dev.keeps_stag | simp only [Dev.keeps_mk] | split | decide | (with_reducible intro _) | (dsimp only)

theorem Dev.floatTreeAdd_keeps (d : Dev) (slot : Nat) : d.KeepsBut [.regs, .dram, .cricket, .stag, .link, .freeCtr] (Dev.floatTreeAdd d slot) := by
  unfold Dev.floatTreeAdd
  try dsimp only
  repeat' first | with_reducible apply Dev.KeepsBut.refl | with_reducible apply Dev.KeepsBut.then (Dev.treeAdd_keeps _ _ _ _ _) | (with_reducible apply Dev.KeepsBut.foldl; intro _ _) | (with_reducible apply Dev.KeepsBut.foldl_snd; intro _ _) | split | decide | (with_reducible intro _) | (dsimp only)

theorem Dev.finishUpdate_keeps (d : Dev) (a : StagAct) : d.KeepsBut [.regs, .mem, .dram, .cricket, .stag, .link, .freeCtr] (Dev.finishUpdate d a) := by
  unfold Dev.finishUpdate
  try dsimp only
  repeat' first | with_reducible apply Dev.KeepsBut.refl | with_reducible apply Dev.KeepsBut.then (Dev.engWrite_keeps _ _ _ _) | with_reducible apply Dev.KeepsBut.then (Dev.setAct_keeps _ _ _) | with_reducible apply Dev.KeepsBut.then (Dev.sendWrite_keeps _ _ _ _ _ _ _ _) | with_reducible apply Dev.KeepsBut.then (Dev.sendSync_keeps _ _ _ _ _ _) | (with_reducible apply Dev.KeepsBut.foldl; intro _ _) | (with_reducible apply Dev.KeepsBut.foldl_snd; intro _ _) | split | decide | (with_reducible intro _) | (dsimp only)

theorem Dev.microLoad_keeps (d : Dev) (a : StagAct) (i : Nat) : d.KeepsBut [.regs, .cricket, .stag] (Dev.microLoad d a i) := by
  unfold Dev.microLoad
  try dsimp only
  repeat' first | with_reducible apply Dev.KeepsBut.refl | with_reducible apply Dev.KeepsBut.then (Dev.stagFlags_keeps _ _ _) | (with_reducible apply Dev.KeepsBut.foldl; intro _ _) | (with_reducible apply Dev.KeepsBut.foldl_snd; intro _ _) | with_reducible apply Dev.keeps_stag | simp only [Dev.keeps_mk] | split | decide | (with_reducible intro _) | (dsimp only)

theorem Dev.stepFive_keeps (d : Dev) (a : StagAct) : d.KeepsBut [.regs, .mem, .dram, .cricket, .stag, .link, .freeCtr] (Dev.stepFive d a) := by
  unfold Dev.stepFive
  try dsimp only
  repeat' first | with_reducible apply Dev.KeepsBut.refl | with_reducible apply Dev.KeepsBut.then (Dev.err_keeps _ _ _) | with_reducible apply Dev.KeepsBut.then (Dev.beatFail_keeps _ _ _ _) | with_reducible apply Dev.KeepsBut.then (Dev.touchAll_keeps _ _) | with_reducible apply Dev.KeepsBut.then (Dev.stagCode_keeps _ _) | with_reducible apply Dev.KeepsBut.then (Dev.laneBusy_keeps _ _) | with_reducible apply Dev.KeepsBut.then (Dev.runSimple_keeps _ _ _ _) | with_reducible apply Dev.KeepsBut.then (Dev.runBands_keeps _ _ _ _) | with_reducible apply Dev.KeepsBut.then (Dev.finishUpdate_keeps _ _) | with_reducible apply Dev.KeepsBut.then (Dev.microLoad_keeps _ _ _) | (with_reducible apply Dev.KeepsBut.foldl; intro _ _) | (with_reducible apply Dev.KeepsBut.foldl_snd; intro _ _) | with_reducible apply Dev.keeps_stag | simp only [Dev.keeps_mk] | split | decide | (with_reducible intro _) | (dsimp only)

theorem Dev.stagReduce_keeps (d : Dev) : d.KeepsBut [.regs, .mem, .dram, .cricket, .stag, .link, .freeCtr] (Dev.stagReduce d) := by
  unfold Dev.stagReduce
  try dsimp only
  repeat' first | with_reducible apply Dev.KeepsBut.refl | with_reducible apply Dev.KeepsBut.then (Dev.beatFail_keeps _ _ _ _) | with_reducible apply Dev.KeepsBut.then (Dev.countIssue_keeps _) | with_reducible apply Dev.KeepsBut.then (Dev.setSlot_keeps _ _ _) | with_reducible apply Dev.KeepsBut.then (Dev.touchAll_keeps _ _) | with_reducible apply Dev.KeepsBut.then (Dev.popStag_keeps _ _) | with_reducible apply Dev.KeepsBut.then (Dev.stagCode_keeps _ _) | with_reducible apply Dev.KeepsBut.then (Dev.stepOne_keeps _ _ _) | with_reducible apply Dev.KeepsBut.then (Dev.treeStart_keeps _ _ _) | (with_reducible apply Dev.KeepsBut.foldl; intro _ _) | (with_reducible apply Dev.KeepsBut.foldl_snd; intro _ _) | with_reducible apply Dev.keeps_stag | simp only [Dev.keeps_mk] | split | decide | (with_reducible intro _) | (dsimp only)

theorem Dev.stagUpdate_keeps (d : Dev) : d.KeepsBut [.regs, .mem, .dram, .cricket, .stag, .link, .freeCtr] (Dev.stagUpdate d) := by
  unfold Dev.stagUpdate
  try dsimp only
  repeat' first | with_reducible apply Dev.KeepsBut.refl | with_reducible apply Dev.KeepsBut.then (Dev.beatFail_keeps _ _ _ _) | with_reducible apply Dev.KeepsBut.then (Dev.countIssue_keeps _) | with_reducible apply Dev.KeepsBut.then (Dev.touchAll_keeps _ _) | with_reducible apply Dev.KeepsBut.then (Dev.popStag_keeps _ _) | with_reducible apply Dev.KeepsBut.then (Dev.stagCode_keeps _ _) | with_reducible apply Dev.KeepsBut.then (Dev.stepFive_keeps _ _) | (with_reducible apply Dev.KeepsBut.foldl; intro _ _) | (with_reducible apply Dev.KeepsBut.foldl_snd; intro _ _) | with_reducible apply Dev.keeps_stag | simp only [Dev.keeps_mk] | split | decide | (with_reducible intro _) | (dsimp only)

theorem Dev.agreedWordsSend_keeps (d : Dev) (slot : Nat) : d.KeepsBut [.regs, .dram, .cricket, .stag, .link, .freeCtr] (Dev.agreedWordsSend d slot) := by
  unfold Dev.agreedWordsSend
  try dsimp only
  repeat' first | with_reducible apply Dev.KeepsBut.refl | with_reducible apply Dev.KeepsBut.then (Dev.setAct_keeps _ _ _) | with_reducible apply Dev.KeepsBut.then (Dev.stepTwo_keeps _ _ _ _) | (with_reducible apply Dev.KeepsBut.foldl; intro _ _) | (with_reducible apply Dev.KeepsBut.foldl_snd; intro _ _) | split | decide | (with_reducible intro _) | (dsimp only)

theorem Dev.valueLinesSend_keeps (d : Dev) (slot : Nat) : d.KeepsBut [.regs, .mem, .dram, .cricket, .stag, .link, .freeCtr] (Dev.valueLinesSend d slot) := by
  unfold Dev.valueLinesSend
  try dsimp only
  repeat' first | with_reducible apply Dev.KeepsBut.refl | with_reducible apply Dev.KeepsBut.then (Dev.setAct_keeps _ _ _) | with_reducible apply Dev.KeepsBut.then (Dev.stepThree_keeps _ _ _) | (with_reducible apply Dev.KeepsBut.foldl; intro _ _) | (with_reducible apply Dev.KeepsBut.foldl_snd; intro _ _) | split | decide | (with_reducible intro _) | (dsimp only)

theorem Dev.stepFour_keeps (d : Dev) (a : StagAct) : d.KeepsBut [.regs, .mem, .dram, .cricket, .stag, .freeCtr] (Dev.stepFour d a) := by
  unfold Dev.stepFour
  try dsimp only
  repeat' first | with_reducible apply Dev.KeepsBut.refl | with_reducible apply Dev.KeepsBut.then (Dev.engWrite_keeps _ _ _ _) | with_reducible apply Dev.KeepsBut.then (Dev.touchAll_keeps _ _) | with_reducible apply Dev.KeepsBut.then (Dev.stagFlags_keeps _ _ _) | with_reducible apply Dev.KeepsBut.then (Dev.laneBusy_keeps _ _) | with_reducible apply Dev.KeepsBut.then (Dev.setAct_keeps _ _ _) | (with_reducible apply Dev.KeepsBut.foldl; intro _ _) | (with_reducible apply Dev.KeepsBut.foldl_snd; intro _ _) | with_reducible apply Dev.keeps_freeCtr | simp only [Dev.keeps_mk] | split | decide | (with_reducible intro _) | (dsimp only)

theorem Dev.shardConvert_keeps (d : Dev) (slot : Nat) : d.KeepsBut [.regs, .mem, .dram, .cricket, .stag, .freeCtr] (Dev.shardConvert d slot) := by
  unfold Dev.shardConvert
  try dsimp only
  repeat' first | with_reducible apply Dev.KeepsBut.refl | with_reducible apply Dev.KeepsBut.then (Dev.stepFour_keeps _ _) | (with_reducible apply Dev.KeepsBut.foldl; intro _ _) | (with_reducible apply Dev.KeepsBut.foldl_snd; intro _ _) | split | decide | (with_reducible intro _) | (dsimp only)

theorem Dev.shardUpdate_keeps (d : Dev) (slot : Nat) : d.KeepsBut [.regs, .mem, .dram, .cricket, .stag, .link, .freeCtr] (Dev.shardUpdate d slot) := by
  unfold Dev.shardUpdate
  try dsimp only
  repeat' first | with_reducible apply Dev.KeepsBut.refl | with_reducible apply Dev.KeepsBut.then (Dev.stepFive_keeps _ _) | (with_reducible apply Dev.KeepsBut.foldl; intro _ _) | (with_reducible apply Dev.KeepsBut.foldl_snd; intro _ _) | split | decide | (with_reducible intro _) | (dsimp only)

theorem Dev.closeBucket_keeps (d : Dev) (a : StagAct) : d.KeepsBut [.regs, .dram, .stag, .freeCtr] (Dev.closeBucket d a) := by
  unfold Dev.closeBucket
  try dsimp only
  repeat' first | with_reducible apply Dev.KeepsBut.refl | with_reducible apply Dev.KeepsBut.then (Dev.setNum_keeps _ _ _) | with_reducible apply Dev.KeepsBut.then (Dev.countSat_keeps _ _ _) | with_reducible apply Dev.KeepsBut.then (Dev.setSlot_keeps _ _ _) | with_reducible apply Dev.KeepsBut.then (Dev.giveBits_keeps _ _) | (with_reducible apply Dev.KeepsBut.foldl; intro _ _) | (with_reducible apply Dev.KeepsBut.foldl_snd; intro _ _) | with_reducible apply Dev.keeps_freeCtr_mem_stag | ((with_reducible apply Dev.keeps_mk_module); (case g => intro p hp; cases p <;> first | exact absurd hp (by decide) | rfl)) | ((with_reducible apply Dev.keeps_mk_bus); (case g => intro p hp; cases p <;> first | exact absurd hp (by decide) | rfl)) | ((with_reducible apply Dev.keeps_mk_power); (case g => intro p hp; cases p <;> first | exact absurd hp (by decide) | rfl)) | simp only [Dev.keeps_mk] | split | decide | (with_reducible intro _) | (dsimp only)

theorem Dev.stagDescComplete_keeps (d : Dev) : d.KeepsBut [.regs, .dram, .stag, .freeCtr] (Dev.stagDescComplete d) := by
  unfold Dev.stagDescComplete
  try dsimp only
  repeat' first | with_reducible apply Dev.KeepsBut.refl | with_reducible apply Dev.KeepsBut.then (Dev.applySignal_keeps _ _) | with_reducible apply Dev.KeepsBut.then (Dev.stagCode_keeps _ _) | with_reducible apply Dev.KeepsBut.then (Dev.closeBucket_keeps _ _) | (with_reducible apply Dev.KeepsBut.foldl; intro _ _) | (with_reducible apply Dev.KeepsBut.foldl_snd; intro _ _) | with_reducible apply Dev.keeps_stag | simp only [Dev.keeps_mk] | split | decide | (with_reducible intro _) | (dsimp only)

end Sys2Proof.Machine
end

