-- ==== Sys2Proof/Laws/KeepsMicro.lean ====
section
/-!
SUPPORT. Which parts of the device the operations of Machine/Micro.lean may change.
-/
namespace Sys2Proof.Machine

theorem Dev.microOp_keeps (d : Dev) (op : Nat) (f : FVal → FVal → FVal → FVal × Bool) : d.KeepsBut [.regs, .cricket, .stag] (Dev.microOp d op f) := by
  unfold Dev.microOp
  try dsimp only
  repeat' first | with_reducible apply Dev.KeepsBut.refl | with_reducible apply Dev.KeepsBut.then (Dev.stagFlags_keeps _ _ _) | (with_reducible apply Dev.KeepsBut.foldl; intro _ _) | (with_reducible apply Dev.KeepsBut.foldl_snd; intro _ _) | with_reducible apply Dev.keeps_stag | simp only [Dev.keeps_mk] | split | decide | (with_reducible intro _) | (dsimp only)

theorem Dev.microEnd_keeps (d : Dev) : d.KeepsBut [.regs, .mem, .dram, .cricket, .stag, .link, .freeCtr] (Dev.microEnd d) := by
  unfold Dev.microEnd
  try dsimp only
  repeat' first | with_reducible apply Dev.KeepsBut.refl | with_reducible apply Dev.KeepsBut.then (Dev.count64_keeps _ _ _) | with_reducible apply Dev.KeepsBut.then (Dev.engWrite_keeps _ _ _ _) | with_reducible apply Dev.KeepsBut.then (Dev.finishUpdate_keeps _ _) | with_reducible apply Dev.KeepsBut.then (Dev.microLoad_keeps _ _ _) | (with_reducible apply Dev.KeepsBut.foldl; intro _ _) | (with_reducible apply Dev.KeepsBut.foldl_snd; intro _ _) | with_reducible apply Dev.keeps_stag | simp only [Dev.keeps_mk] | split | decide | (with_reducible intro _) | (dsimp only)

end Sys2Proof.Machine
end

