-- ==== Sys2Proof/Laws/KeepsTxnOps.lean ====
section
/-!
SUPPORT. Which parts of the device the operations of Machine/TxnOps.lean may change.
-/
namespace Sys2Proof.Machine

theorem Dev.countResent_keeps (d : Dev) (p : Option Nat) : d.KeepsBut [.regs] (Dev.countResent d p) := by
  unfold Dev.countResent
  try dsimp only
  repeat' first | with_reducible apply Dev.KeepsBut.refl | with_reducible apply Dev.KeepsBut.then (Dev.countSat_keeps _ _ _) | (with_reducible apply Dev.KeepsBut.foldl; intro _ _) | (with_reducible apply Dev.KeepsBut.foldl_snd; intro _ _) | split | decide | (with_reducible intro _) | (dsimp only)

theorem Dev.takeTxn_keeps {ps : List Part} (d : Dev) (p : Option Nat) (t : Txn) (ok : Nat → Bool) (act : Dev → Dev × Nat × List Byte) (hact : ∀ (y0 : Dev), y0.KeepsBut ps (act y0).1) (hp : ([.regs, .dram, .cricket, .link, .freeCtr].all fun p => ps.contains p) = true) : d.KeepsBut ps (Dev.takeTxn d p t ok act) := by
  unfold Dev.takeTxn
  try dsimp only
  repeat' first | with_reducible apply Dev.KeepsBut.refl | ((with_reducible apply Part.sub hp); decide) | with_reducible apply fun z => Dev.KeepsBut.then (Dev.complete_keeps _ _ _ _ _ ) z | with_reducible apply fun z => Dev.KeepsBut.then (Dev.forward_keeps _ _ _ ) z | with_reducible apply fun z => Dev.KeepsBut.then (Dev.leavePort_keeps _ _ _ ) z | with_reducible apply fun z => Dev.KeepsBut.then (Dev.receive_keeps _ _ _ ) z | with_reducible apply fun x => Dev.KeepsBut.trans x (hact _ ) | (with_reducible apply Dev.KeepsBut.foldl; intro _ _) | (with_reducible apply Dev.KeepsBut.foldl_snd; intro _ _) | split | decide | (with_reducible intro _) | (dsimp only)

theorem Dev.doRwrite_keeps (t : Txn) (p : Option Nat) (d : Dev) : d.KeepsBut [.regs, .mem, .dram, .freeCtr] (Dev.doRwrite t p d).1 := by
  unfold Dev.doRwrite
  try dsimp only
  repeat' first | with_reducible apply Dev.KeepsBut.refl | with_reducible apply Dev.KeepsBut.then (Dev.freshNat_keeps _) | with_reducible apply Dev.KeepsBut.then (Dev.memWrite_keeps _ _ _) | with_reducible apply Dev.KeepsBut.then (Dev.absorb_keeps _) | with_reducible apply Dev.KeepsBut.then (Dev.countResent_keeps _ _) | (with_reducible apply Dev.KeepsBut.foldl; intro _ _) | (with_reducible apply Dev.KeepsBut.foldl_snd; intro _ _) | split | decide | (with_reducible intro _) | (dsimp only)

theorem Dev.doRread_keeps (t : Txn) (p : Option Nat) (d : Dev) : d.KeepsBut [.regs, .mem, .dram, .cricket, .freeCtr] (Dev.doRread t p d).1 := by
  unfold Dev.doRread
  try dsimp only
  repeat' first | with_reducible apply Dev.KeepsBut.refl | with_reducible apply Dev.KeepsBut.then (Dev.freshNat_keeps _) | with_reducible apply Dev.KeepsBut.then (Dev.engRead_keeps _ _ _) | with_reducible apply Dev.KeepsBut.then (Dev.absorb_keeps _) | with_reducible apply Dev.KeepsBut.then (Dev.countResent_keeps _ _) | (with_reducible apply Dev.KeepsBut.foldl; intro _ _) | (with_reducible apply Dev.KeepsBut.foldl_snd; intro _ _) | split | decide | (with_reducible intro _) | (dsimp only)

theorem Dev.doRacc_keeps (t : Txn) (p : Option Nat) (d : Dev) : d.KeepsBut [.regs, .mem, .dram, .cricket, .stag, .link, .freeCtr] (Dev.doRacc t p d).1 := by
  unfold Dev.doRacc
  try dsimp only
  repeat' first | with_reducible apply Dev.KeepsBut.refl | with_reducible apply Dev.KeepsBut.then (Dev.absorb_keeps _) | with_reducible apply Dev.KeepsBut.then (Dev.stagLine_keeps _ _) | with_reducible apply Dev.KeepsBut.then (Dev.countResent_keeps _ _) | (with_reducible apply Dev.KeepsBut.foldl; intro _ _) | (with_reducible apply Dev.KeepsBut.foldl_snd; intro _ _) | split | decide | (with_reducible intro _) | (dsimp only)

theorem Dev.doSync_keeps (t : Txn) (p : Option Nat) (d : Dev) : d.KeepsBut [.regs, .link] (Dev.doSync t p d).1 := by
  unfold Dev.doSync
  try dsimp only
  repeat' first | with_reducible apply Dev.KeepsBut.refl | with_reducible apply Dev.KeepsBut.then (Dev.absorb_keeps _) | with_reducible apply Dev.KeepsBut.then (Dev.signal_keeps _ _ _) | with_reducible apply Dev.KeepsBut.then (Dev.countResent_keeps _ _) | (with_reducible apply Dev.KeepsBut.foldl; intro _ _) | (with_reducible apply Dev.KeepsBut.foldl_snd; intro _ _) | with_reducible apply Dev.keeps_link | simp only [Dev.keeps_mk] | split | decide | (with_reducible intro _) | (dsimp only)

theorem Dev.takeCpl_keeps (d : Dev) (p : Option Nat) (t : Txn) : d.KeepsBut [.regs, .ascent, .dram, .cricket, .link, .freeCtr] (Dev.takeCpl d p t) := by
  unfold Dev.takeCpl
  try dsimp only
  repeat' first | with_reducible apply Dev.KeepsBut.refl | with_reducible apply Dev.KeepsBut.then (Dev.countSat_keeps _ _ _) | with_reducible apply Dev.KeepsBut.then (Dev.completeAt_keeps _ _ _ _ _ _) | with_reducible apply Dev.KeepsBut.then (Dev.forward_keeps _ _ _) | with_reducible apply Dev.KeepsBut.then (Dev.leavePort_keeps _ _ _) | with_reducible apply Dev.KeepsBut.then (Dev.countResent_keeps _ _) | (with_reducible apply Dev.KeepsBut.foldl; intro _ _) | (with_reducible apply Dev.KeepsBut.foldl_snd; intro _ _) | with_reducible apply Dev.keeps_ascent | simp only [Dev.keeps_mk] | split | decide | (with_reducible intro _) | (dsimp only)

end Sys2Proof.Machine
end

