-- ==== Sys2Proof/Laws/KeepsSpdm.lean ====
section
/-!
SUPPORT. Which parts of the device the operations of Machine/Spdm.lean may change.
-/
namespace Sys2Proof.Machine

theorem Dev.setSpdm_keeps (d : Dev) (t : Transport) (c : SpdmConn) : d.KeepsBut [.trust] (Dev.setSpdm d t c) := by
  unfold Dev.setSpdm
  try dsimp only
  repeat' first | with_reducible apply Dev.KeepsBut.refl | (with_reducible apply Dev.KeepsBut.foldl; intro _ _) | (with_reducible apply Dev.KeepsBut.foldl_snd; intro _ _) | with_reducible apply Dev.keeps_trust | ((with_reducible apply Dev.keeps_mk_module); (case g => intro p hp; cases p <;> first | exact absurd hp (by decide) | rfl)) | ((with_reducible apply Dev.keeps_mk_bus); (case g => intro p hp; cases p <;> first | exact absurd hp (by decide) | rfl)) | ((with_reducible apply Dev.keeps_mk_power); (case g => intro p hp; cases p <;> first | exact absurd hp (by decide) | rfl)) | simp only [Dev.keeps_mk] | split | decide | (with_reducible intro _) | (dsimp only)

theorem Dev.respond_keeps (d : Dev) (bs : List Byte) : d.KeepsBut [.regs, .trust] (Dev.respond d bs) := by
  unfold Dev.respond
  try dsimp only
  repeat' first | with_reducible apply Dev.KeepsBut.refl | with_reducible apply Dev.KeepsBut.then (Dev.countSat_keeps _ _ _) | (with_reducible apply Dev.KeepsBut.foldl; intro _ _) | (with_reducible apply Dev.KeepsBut.foldl_snd; intro _ _) | with_reducible apply Dev.keeps_trust | simp only [Dev.keeps_mk] | split | decide | (with_reducible intro _) | (dsimp only)

theorem Dev.spdmError_keeps (d : Dev) (code : Nat) : d.KeepsBut [.regs, .trust] (Dev.spdmError d code) := by
  unfold Dev.spdmError
  try dsimp only
  repeat' first | with_reducible apply Dev.KeepsBut.refl | with_reducible apply Dev.KeepsBut.then (Dev.err_keeps _ _ _) | with_reducible apply Dev.KeepsBut.then (Dev.respond_keeps _ _) | (with_reducible apply Dev.KeepsBut.foldl; intro _ _) | (with_reducible apply Dev.KeepsBut.foldl_snd; intro _ _) | split | decide | (with_reducible intro _) | (dsimp only)

theorem Dev.serve_keeps {ps : List Part} (d : Dev) (t : Transport) (level : Nat) (code : Nat) (p : List Byte) (f : Dev → Dev) (hf : ∀ (y0 : Dev), y0.KeepsBut ps (f y0)) (hp : ([.regs, .trust].all fun p => ps.contains p) = true) : d.KeepsBut ps (Dev.serve d t level code p f) := by
  unfold Dev.serve
  try dsimp only
  repeat' first | with_reducible apply Dev.KeepsBut.refl | ((with_reducible apply Part.sub hp); decide) | with_reducible apply fun z => Dev.KeepsBut.then (Dev.spdmError_keeps _ _ ) z | with_reducible apply fun x => Dev.KeepsBut.trans x (hf _ ) | (with_reducible apply Dev.KeepsBut.foldl; intro _ _) | (with_reducible apply Dev.KeepsBut.foldl_snd; intro _ _) | split | decide | (with_reducible intro _) | (dsimp only)

theorem Dev.exchange_keeps (d : Dev) (t : Transport) (level : Nat) (req : List Byte) (rsp : List Byte) : d.KeepsBut [.regs, .trust] (Dev.exchange d t level req rsp) := by
  unfold Dev.exchange
  try dsimp only
  repeat' first | with_reducible apply Dev.KeepsBut.refl | with_reducible apply Dev.KeepsBut.then (Dev.setSpdm_keeps _ _ _) | with_reducible apply Dev.KeepsBut.then (Dev.respond_keeps _ _) | (with_reducible apply Dev.KeepsBut.foldl; intro _ _) | (with_reducible apply Dev.KeepsBut.foldl_snd; intro _ _) | split | decide | (with_reducible intro _) | (dsimp only)

theorem Dev.getVersion_keeps (t : Transport) (p : List Byte) (d : Dev) : d.KeepsBut [.regs, .trust] (Dev.getVersion t p d) := by
  unfold Dev.getVersion
  try dsimp only
  repeat' first | with_reducible apply Dev.KeepsBut.refl | with_reducible apply Dev.KeepsBut.then (Dev.setSpdm_keeps _ _ _) | with_reducible apply fun q0 z x => Dev.KeepsBut.trans x (Dev.serve_keeps (ps := [.regs, .trust]) _ _ _ _ _ _  q0 z) | with_reducible apply Dev.KeepsBut.then (Dev.exchange_keeps _ _ _ _ _) | (with_reducible apply Dev.KeepsBut.foldl; intro _ _) | (with_reducible apply Dev.KeepsBut.foldl_snd; intro _ _) | split | decide | (with_reducible intro _) | (dsimp only)

theorem Dev.getCapabilities_keeps (t : Transport) (p : List Byte) (d : Dev) : d.KeepsBut [.regs, .trust] (Dev.getCapabilities t p d) := by
  unfold Dev.getCapabilities
  try dsimp only
  repeat' first | with_reducible apply Dev.KeepsBut.refl | with_reducible apply fun q0 z x => Dev.KeepsBut.trans x (Dev.serve_keeps (ps := [.regs, .trust]) _ _ _ _ _ _  q0 z) | with_reducible apply Dev.KeepsBut.then (Dev.exchange_keeps _ _ _ _ _) | (with_reducible apply Dev.KeepsBut.foldl; intro _ _) | (with_reducible apply Dev.KeepsBut.foldl_snd; intro _ _) | split | decide | (with_reducible intro _) | (dsimp only)

theorem Dev.negotiateAlgorithms_keeps (t : Transport) (p : List Byte) (d : Dev) : d.KeepsBut [.regs, .trust] (Dev.negotiateAlgorithms t p d) := by
  unfold Dev.negotiateAlgorithms
  try dsimp only
  repeat' first | with_reducible apply Dev.KeepsBut.refl | with_reducible apply fun q0 z x => Dev.KeepsBut.trans x (Dev.serve_keeps (ps := [.regs, .trust]) _ _ _ _ _ _  q0 z) | with_reducible apply Dev.KeepsBut.then (Dev.exchange_keeps _ _ _ _ _) | (with_reducible apply Dev.KeepsBut.foldl; intro _ _) | (with_reducible apply Dev.KeepsBut.foldl_snd; intro _ _) | split | decide | (with_reducible intro _) | (dsimp only)

theorem Dev.getDigests_keeps (t : Transport) (p : List Byte) (d : Dev) : d.KeepsBut [.regs, .trust] (Dev.getDigests t p d) := by
  unfold Dev.getDigests
  try dsimp only
  repeat' first | with_reducible apply Dev.KeepsBut.refl | with_reducible apply fun q0 z x => Dev.KeepsBut.trans x (Dev.serve_keeps (ps := [.regs, .trust]) _ _ _ _ _ _  q0 z) | with_reducible apply Dev.KeepsBut.then (Dev.exchange_keeps _ _ _ _ _) | (with_reducible apply Dev.KeepsBut.foldl; intro _ _) | (with_reducible apply Dev.KeepsBut.foldl_snd; intro _ _) | split | decide | (with_reducible intro _) | (dsimp only)

theorem Dev.getCertificate_keeps (t : Transport) (p : List Byte) (d : Dev) : d.KeepsBut [.regs, .trust] (Dev.getCertificate t p d) := by
  unfold Dev.getCertificate
  try dsimp only
  repeat' first | with_reducible apply Dev.KeepsBut.refl | with_reducible apply Dev.KeepsBut.then (Dev.drop_keeps _ _ _) | with_reducible apply Dev.KeepsBut.then (Dev.spdmError_keeps _ _) | with_reducible apply fun q0 z x => Dev.KeepsBut.trans x (Dev.serve_keeps (ps := [.regs, .trust]) _ _ _ _ _ _  q0 z) | with_reducible apply Dev.KeepsBut.then (Dev.exchange_keeps _ _ _ _ _) | (with_reducible apply Dev.KeepsBut.foldl; intro _ _) | (with_reducible apply Dev.KeepsBut.foldl_snd; intro _ _) | split | decide | (with_reducible intro _) | (dsimp only)

theorem Dev.challenge_keeps (t : Transport) (p : List Byte) (d : Dev) : d.KeepsBut [.regs, .trust, .freeCtr] (Dev.challenge t p d) := by
  unfold Dev.challenge
  try dsimp only
  repeat' first | with_reducible apply Dev.KeepsBut.refl | with_reducible apply Dev.KeepsBut.then (Dev.drop_keeps _ _ _) | with_reducible apply Dev.KeepsBut.then (Dev.setSpdm_keeps _ _ _) | with_reducible apply Dev.KeepsBut.then (Dev.respond_keeps _ _) | with_reducible apply Dev.KeepsBut.then (Dev.spdmError_keeps _ _) | with_reducible apply fun q0 z x => Dev.KeepsBut.trans x (Dev.serve_keeps (ps := [.regs, .trust, .freeCtr]) _ _ _ _ _ _  q0 z) | (with_reducible apply Dev.KeepsBut.foldl; intro _ _) | (with_reducible apply Dev.KeepsBut.foldl_snd; intro _ _) | with_reducible apply Dev.keeps_freeCtr | simp only [Dev.keeps_mk] | split | decide | (with_reducible intro _) | (dsimp only)

theorem Dev.getMeasurements_keeps (t : Transport) (p : List Byte) (d : Dev) : d.KeepsBut [.regs, .trust, .freeCtr] (Dev.getMeasurements t p d) := by
  unfold Dev.getMeasurements
  try dsimp only
  repeat' first | with_reducible apply Dev.KeepsBut.refl | with_reducible apply Dev.KeepsBut.then (Dev.drop_keeps _ _ _) | with_reducible apply Dev.KeepsBut.then (Dev.setSpdm_keeps _ _ _) | with_reducible apply Dev.KeepsBut.then (Dev.respond_keeps _ _) | with_reducible apply Dev.KeepsBut.then (Dev.spdmError_keeps _ _) | with_reducible apply fun q0 z x => Dev.KeepsBut.trans x (Dev.serve_keeps (ps := [.regs, .trust, .freeCtr]) _ _ _ _ _ _  q0 z) | (with_reducible apply Dev.KeepsBut.foldl; intro _ _) | (with_reducible apply Dev.KeepsBut.foldl_snd; intro _ _) | with_reducible apply Dev.keeps_freeCtr | simp only [Dev.keeps_mk] | split | decide | (with_reducible intro _) | (dsimp only)

end Sys2Proof.Machine
end

