-- ==== Sys2Proof/Laws/KeepsPhysical.lean ====
section
/-!
SUPPORT. Which parts of the device the operations of Machine/Physical.lean may change.
-/
namespace Sys2Proof.Machine

theorem Dev.corrected_keeps (d : Dev) (counter : Nat) (page : Nat) : d.KeepsBut [.regs] (Dev.corrected d counter page) := by
  unfold Dev.corrected
  try dsimp only
  repeat' first | with_reducible apply Dev.KeepsBut.refl | with_reducible apply Dev.KeepsBut.then (Dev.countSat_keeps _ _ _) | with_reducible apply Dev.KeepsBut.then (Dev.err_keeps _ _ _) | (with_reducible apply Dev.KeepsBut.foldl; intro _ _) | (with_reducible apply Dev.KeepsBut.foldl_snd; intro _ _) | split | decide | (with_reducible intro _) | (dsimp only)

theorem Dev.parityError_keeps (d : Dev) (p : Page) : d.KeepsBut [.dram, .cricket, .freeCtr] (Dev.parityError d p) := by
  unfold Dev.parityError
  try dsimp only
  repeat' first | with_reducible apply Dev.KeepsBut.refl | with_reducible apply Dev.KeepsBut.then (Dev.beatFail_keeps _ _ _ _) | (with_reducible apply Dev.KeepsBut.foldl; intro _ _) | (with_reducible apply Dev.KeepsBut.foldl_snd; intro _ _) | split | decide | (with_reducible intro _) | (dsimp only)

theorem Dev.lineError_keeps (d : Dev) (blk : Nat) : d.KeepsBut [.regs, .mem] (Dev.lineError d blk) := by
  unfold Dev.lineError
  try dsimp only
  repeat' first | with_reducible apply Dev.KeepsBut.refl | with_reducible apply Dev.KeepsBut.then (Dev.count64_keeps _ _ _) | with_reducible apply Dev.KeepsBut.then (Dev.corrected_keeps _ _ _) | (with_reducible apply Dev.KeepsBut.foldl; intro _ _) | (with_reducible apply Dev.KeepsBut.foldl_snd; intro _ _) | with_reducible apply Dev.keeps_memRest | simp only [Dev.keeps_mk] | split | decide | (with_reducible intro _) | (dsimp only)

theorem Dev.stackParity_keeps (d : Dev) (blk : Nat) (again : Bool) (inBeat : Bool) : d.KeepsBut [.regs, .mem, .dram, .cricket, .freeCtr] (Dev.stackParity d blk again inBeat) := by
  unfold Dev.stackParity
  try dsimp only
  repeat' first | with_reducible apply Dev.KeepsBut.refl | with_reducible apply Dev.KeepsBut.then (Dev.beatFail_keeps _ _ _ _) | with_reducible apply Dev.KeepsBut.then (Dev.noteUE_keeps _ _) | (with_reducible apply Dev.KeepsBut.foldl; intro _ _) | (with_reducible apply Dev.KeepsBut.foldl_snd; intro _ _) | split | decide | (with_reducible intro _) | (dsimp only)

theorem Dev.codeword_keeps (d : Dev) (p : Nat) (bad : Bool) : d.KeepsBut [.regs, .link] (Dev.codeword d p bad) := by
  unfold Dev.codeword
  try dsimp only
  repeat' first | with_reducible apply Dev.KeepsBut.refl | with_reducible apply Dev.KeepsBut.then (Dev.count64_keeps _ _ _) | with_reducible apply Dev.KeepsBut.then (Dev.err_keeps _ _ _) | with_reducible apply Dev.KeepsBut.then (Dev.discard_keeps _ _) | (with_reducible apply Dev.KeepsBut.foldl; intro _ _) | (with_reducible apply Dev.KeepsBut.foldl_snd; intro _ _) | split | decide | (with_reducible intro _) | (dsimp only)

theorem Dev.cpTrap_keeps (d : Dev) (c : Nat) (cause : Nat) (pc : Nat) : d.KeepsBut [.regs] (Dev.cpTrap d c cause pc) := by
  unfold Dev.cpTrap
  try dsimp only
  repeat' first | with_reducible apply Dev.KeepsBut.refl | with_reducible apply Dev.KeepsBut.then (Dev.setNum64_keeps _ _ _) | (with_reducible apply Dev.KeepsBut.foldl; intro _ _) | (with_reducible apply Dev.KeepsBut.foldl_snd; intro _ _) | split | decide | (with_reducible intro _) | (dsimp only)

theorem Dev.cpTurn_keeps (d : Dev) (c : Nat) (old : Nat) (new : Nat) : d.KeepsBut [.regs] (Dev.cpTurn d c old new) := by
  unfold Dev.cpTurn
  try dsimp only
  repeat' first | with_reducible apply Dev.KeepsBut.refl | with_reducible apply Dev.KeepsBut.then (Dev.setFld_keeps _ _ _ _ _) | (with_reducible apply Dev.KeepsBut.foldl; intro _ _) | (with_reducible apply Dev.KeepsBut.foldl_snd; intro _ _) | split | decide | (with_reducible intro _) | (dsimp only)

theorem Dev.befall_keeps (d : Dev) (e : PhysEvent) : d.KeepsBut [.regs, .ascent, .mem, .dram, .cricket, .massif, .weevil, .col, .scarab, .talus, .forager, .link, .freeCtr] (Dev.befall d e) := by
  unfold Dev.befall
  try dsimp only
  repeat' first | with_reducible apply Dev.KeepsBut.refl | with_reducible apply Dev.KeepsBut.then (Dev.err_keeps _ _ _) | with_reducible apply Dev.KeepsBut.then (Dev.setWvl_keeps _ _ _) | with_reducible apply Dev.KeepsBut.then (Dev.setScb_keeps _ _ _) | with_reducible apply Dev.KeepsBut.then (Dev.setTls_keeps _ _ _) | with_reducible apply Dev.KeepsBut.then (Dev.corrected_keeps _ _ _) | with_reducible apply Dev.KeepsBut.then (Dev.parityError_keeps _ _) | with_reducible apply Dev.KeepsBut.then (Dev.lineError_keeps _ _) | with_reducible apply Dev.KeepsBut.then (Dev.stackParity_keeps _ _ _ _) | with_reducible apply Dev.KeepsBut.then (Dev.codeword_keeps _ _ _) | with_reducible apply Dev.KeepsBut.then (Dev.cpTrap_keeps _ _ _ _) | with_reducible apply Dev.KeepsBut.then (Dev.cpTurn_keeps _ _ _ _) | (with_reducible apply Dev.KeepsBut.foldl; intro _ _) | (with_reducible apply Dev.KeepsBut.foldl_snd; intro _ _) | with_reducible apply Dev.keeps_ascent | with_reducible apply Dev.keeps_col | with_reducible apply Dev.keeps_forager | with_reducible apply Dev.keeps_massif | with_reducible apply Dev.keeps_dram | with_reducible apply Dev.keeps_memRest | with_reducible apply Dev.keeps_mem | ((with_reducible apply Dev.keeps_mk_module); (case g => intro p hp; cases p <;> first | exact absurd hp (by decide) | rfl)) | ((with_reducible apply Dev.keeps_mk_bus); (case g => intro p hp; cases p <;> first | exact absurd hp (by decide) | rfl)) | ((with_reducible apply Dev.keeps_mk_power); (case g => intro p hp; cases p <;> first | exact absurd hp (by decide) | rfl)) | simp only [Dev.keeps_mk] | split | decide | (with_reducible intro _) | (dsimp only)

theorem Dev.tick_keeps (d : Dev) : d.KeepsBut [.regs, .ascent, .mem, .dram, .cricket, .massif, .weevil, .col, .scarab, .talus, .forager, .link, .freeCtr] (Dev.tick d) := by
  unfold Dev.tick
  try dsimp only
  repeat' first | with_reducible apply Dev.KeepsBut.refl | with_reducible apply Dev.KeepsBut.then (Dev.elapse_keeps _ _) | with_reducible apply Dev.KeepsBut.then (Dev.befall_keeps _ _) | (with_reducible apply Dev.KeepsBut.foldl; intro _ _) | (with_reducible apply Dev.KeepsBut.foldl_snd; intro _ _) | with_reducible apply Dev.keeps_freeCtr | simp only [Dev.keeps_mk] | split | decide | (with_reducible intro _) | (dsimp only)

end Sys2Proof.Machine
end

