-- ==== Sys2Proof/Laws/Regs.lean ====
section
/-!
SUPPORT. What register words, fields and bits read as after the named operations on them.
-/
namespace Sys2Proof.Machine

/-! ### Fields of a number -/

theorem withField_eq (n hi lo v : Nat) : withField n hi lo v =
    n % 2 ^ lo + (v % 2 ^ (hi - lo + 1)) * 2 ^ lo + n / 2 ^ lo / 2 ^ (hi - lo + 1) * 2 ^ (hi - lo + 1) * 2 ^ lo := by
  unfold withField field
  generalize hw : 2 ^ (hi - lo + 1) = W
  generalize hl : 2 ^ lo = L
  have h1 : n % L + n / L * L = n := by rw [Nat.mul_comm]; exact Nat.mod_add_div n L
  have h2 : n / L % W + n / L / W * W = n / L := by rw [Nat.mul_comm (n / L / W)]; exact Nat.mod_add_div _ W
  have h3 : n / L * L = n / L % W * L + n / L / W * W * L := by rw [← Nat.add_mul, h2]
  omega

theorem withField_lt {n hi lo v : Nat} (h : n < 2 ^ 32) (hh : hi < 32) (hl : lo ≤ hi) : withField n hi lo v < 2 ^ 32 := by
  rw [withField_eq]
  have hw : 2 ^ lo * 2 ^ (hi - lo + 1) = 2 ^ (hi + 1) := by rw [← Nat.pow_add]; congr 1; omega
  have hd : 2 ^ 32 = 2 ^ (hi + 1) * 2 ^ (31 - hi) := by rw [← Nat.pow_add]; congr 1; omega
  have ht : n / 2 ^ lo / 2 ^ (hi - lo + 1) = n / 2 ^ (hi + 1) := by rw [Nat.div_div_eq_div_mul, hw]
  rw [ht]
  have hq : n / 2 ^ (hi + 1) < 2 ^ (31 - hi) := Nat.div_lt_of_lt_mul (hd ▸ h)
  have hv : v % 2 ^ (hi - lo + 1) < 2 ^ (hi - lo + 1) := Nat.mod_lt _ (Nat.two_pow_pos _)
  have hr : n % 2 ^ lo < 2 ^ lo := Nat.mod_lt _ (Nat.two_pow_pos _)
  have e1 : n / 2 ^ (hi + 1) * 2 ^ (hi - lo + 1) * 2 ^ lo = n / 2 ^ (hi + 1) * 2 ^ (hi + 1) := by
    rw [Nat.mul_assoc, Nat.mul_comm (2 ^ (hi - lo + 1)), hw]
  have e2 : (v % 2 ^ (hi - lo + 1) + 1) * 2 ^ lo ≤ 2 ^ (hi + 1) := by
    rw [← hw, Nat.mul_comm (2 ^ lo)]; exact Nat.mul_le_mul_right _ hv
  have e3 : (n / 2 ^ (hi + 1) + 1) * 2 ^ (hi + 1) ≤ 2 ^ 32 := by
    rw [hd, Nat.mul_comm (2 ^ (hi + 1))]; exact Nat.mul_le_mul_right _ hq
  rw [e1]
  rw [Nat.add_mul] at e2 e3
  omega

theorem field_withField {n hi lo v : Nat} : field (withField n hi lo v) hi lo = v % 2 ^ (hi - lo + 1) := by
  rw [withField_eq]
  unfold field
  have hr : n % 2 ^ lo < 2 ^ lo := Nat.mod_lt _ (Nat.two_pow_pos _)
  generalize 2 ^ (hi - lo + 1) = W at *
  have e : n % 2 ^ lo + v % W * 2 ^ lo + n / 2 ^ lo / W * W * 2 ^ lo =
      n % 2 ^ lo + (v % W + n / 2 ^ lo / W * W) * 2 ^ lo := by rw [Nat.add_mul]; omega
  rw [e, Nat.add_mul_div_right _ _ (Nat.two_pow_pos lo), Nat.div_eq_of_lt hr, Nat.zero_add, Nat.add_mul_mod_self_right,
    Nat.mod_mod]

theorem testBit_withField {n hi lo v i : Nat} (hl : lo ≤ hi) :
    (withField n hi lo v).testBit i = if lo ≤ i ∧ i ≤ hi then v.testBit (i - lo) else n.testBit i := by
  have hw : 2 ^ lo * 2 ^ (hi - lo + 1) = 2 ^ (hi + 1) := by rw [← Nat.pow_add]; congr 1; omega
  have e : withField n hi lo v = 2 ^ lo * (2 ^ (hi - lo + 1) * (n / 2 ^ (hi + 1)) + v % 2 ^ (hi - lo + 1)) + n % 2 ^ lo := by
    rw [withField_eq, Nat.div_div_eq_div_mul, hw, Nat.mul_add, Nat.mul_comm _ (2 ^ lo), Nat.mul_comm _ (2 ^ (hi - lo + 1)),
      Nat.mul_comm _ (2 ^ lo)]
    omega
  rw [e, Nat.testBit_two_pow_mul_add _ (Nat.mod_lt _ (Nat.two_pow_pos _))]
  by_cases h1 : i < lo
  · rw [if_pos h1, if_neg (by omega), Nat.testBit_mod_two_pow]
    simp [h1]
  · rw [if_neg h1, Nat.testBit_two_pow_mul_add _ (Nat.mod_lt _ (Nat.two_pow_pos _))]
    by_cases h2 : i ≤ hi
    · rw [if_pos (by omega), if_pos (by omega), Nat.testBit_mod_two_pow]
      simp; omega
    · rw [if_neg (by omega), if_neg (by omega), Nat.testBit_div_two_pow]
      congr 1
      omega

theorem field_testBit {n hi lo i : Nat} : (field n hi lo).testBit i = (decide (i < hi - lo + 1) && n.testBit (i + lo)) := by
  unfold field
  rw [Nat.testBit_mod_two_pow, Nat.testBit_div_two_pow]

theorem field_withField_ne {n hi lo v h l : Nat} (hl : lo ≤ hi) (hd : h < lo ∨ hi < l) (hb : l ≤ h) :
    field (withField n hi lo v) h l = field n h l := by
  apply Nat.eq_of_testBit_eq
  intro i
  rw [field_testBit, field_testBit, testBit_withField hl]
  by_cases hi' : i < h - l + 1
  · rw [if_neg (by omega)]
  · simp [hi']

/-! ### Words -/

theorem Dev.rd_wr (d : Dev) (a : Nat) (v : Word) (b : Nat) : (d.wr a v).rd b = if b = a then v else d.rd b := by
  unfold Dev.rd Dev.wr
  exact SMap.get_set _ _ _ _ _

@[simp] theorem Dev.rd_wr_same (d : Dev) (a : Nat) (v : Word) : (d.wr a v).rd a = v := by simp [Dev.rd_wr]

@[simp] theorem Dev.num_setNum (d : Dev) (a n : Nat) : (d.setNum a n).num a = n % 2 ^ 32 := by
  simp [Dev.num, Dev.setNum]

theorem Dev.num_lt (d : Dev) (a : Nat) : d.num a < 2 ^ 32 := (d.rd a).isLt

@[simp] theorem Dev.fld_setFld (d : Dev) (a hi lo v : Nat) (hh : hi < 32 := by decide) (hl : lo ≤ hi := by decide) :
    (d.setFld a hi lo v).fld a hi lo = v % 2 ^ (hi - lo + 1) := by
  unfold Dev.fld Dev.setFld
  rw [Dev.num_setNum, Nat.mod_eq_of_lt (withField_lt (d.num_lt a) hh hl), field_withField]

theorem Dev.fld_setFld_apart (d : Dev) (a hi lo v h l : Nat) (hh : hi < 32) (hl : lo ≤ hi) (hb : l ≤ h) (hd : h < lo ∨ hi < l) :
    (d.setFld a hi lo v).fld a h l = d.fld a h l := by
  unfold Dev.fld Dev.setFld
  rw [Dev.num_setNum, Nat.mod_eq_of_lt (withField_lt (d.num_lt a) hh hl), field_withField_ne hl hd hb]

theorem Dev.flag_setFld (d : Dev) (a hi lo v i : Nat) (hh : hi < 32) (hl : lo ≤ hi) :
    (d.setFld a hi lo v).flag a i = if lo ≤ i ∧ i ≤ hi then v.testBit (i - lo) else d.flag a i := by
  unfold Dev.flag Dev.setFld bit
  rw [Dev.num_setNum, Nat.mod_eq_of_lt (withField_lt (d.num_lt a) hh hl), testBit_withField hl]

theorem Dev.flag_setFlag (d : Dev) (a i : Nat) (b : Bool) (j : Nat) (hh : i < 32) :
    (d.setFlag a i b).flag a j = if j = i then b else d.flag a j := by
  unfold Dev.setFlag
  rw [Dev.flag_setFld _ _ _ _ _ _ hh (Nat.le_refl _)]
  by_cases h : j = i
  · subst h; cases b <;> simp
  · rw [if_neg h, if_neg (by omega)]

@[simp] theorem Dev.flag_raise (d : Dev) (a i : Nat) (hh : i < 32 := by decide) : (d.raise a i).flag a i = true := by
  simp [Dev.raise, Dev.flag_setFlag _ _ _ _ _ hh]

@[simp] theorem Dev.flag_drop (d : Dev) (a i : Nat) (hh : i < 32 := by decide) : (d.drop a i).flag a i = false := by
  simp [Dev.drop, Dev.flag_setFlag _ _ _ _ _ hh]

/-! ### Other words -/

theorem Dev.RegsBut.refl (d : Dev) (l : List Nat) : d.RegsBut l d := fun _ _ => rfl

theorem Dev.RegsBut.trans {d e f : Dev} {l m : List Nat} (h : d.RegsBut l e) (g : e.RegsBut m f) : d.RegsBut (l ++ m) f := by
  intro a ha
  rw [List.mem_append, not_or] at ha
  rw [g a ha.2, h a ha.1]

theorem Dev.RegsBut.mono {d e : Dev} {l m : List Nat} (h : d.RegsBut l e) (hs : ∀ a ∈ l, a ∈ m) : d.RegsBut m e :=
  fun a ha => h a (fun hl => ha (hs a hl))

theorem Dev.RegsBut.then {d e f : Dev} {l m : List Nat} (g : e.RegsBut m f) (hs : ∀ a ∈ m, a ∈ l) (h : d.RegsBut l e) :
    d.RegsBut l f := fun a ha => (g a (fun hl => ha (hs a hl))).trans (h a ha)

theorem Dev.wr_regs (d : Dev) (a : Nat) (v : Word) : d.RegsBut [a] (d.wr a v) := by
  intro b hb
  rw [Dev.rd_wr, if_neg (by simpa using hb)]

theorem Dev.setNum_regs (d : Dev) (a n : Nat) : d.RegsBut [a] (d.setNum a n) := Dev.wr_regs d a _
theorem Dev.setFld_regs (d : Dev) (a hi lo v : Nat) : d.RegsBut [a] (d.setFld a hi lo v) := Dev.setNum_regs d a _
theorem Dev.setFlag_regs (d : Dev) (a i : Nat) (b : Bool) : d.RegsBut [a] (d.setFlag a i b) := Dev.setFld_regs d a _ _ _
theorem Dev.raise_regs (d : Dev) (a i : Nat) : d.RegsBut [a] (d.raise a i) := Dev.setFlag_regs d a i true
theorem Dev.drop_regs (d : Dev) (a i : Nat) : d.RegsBut [a] (d.drop a i) := Dev.setFlag_regs d a i false
theorem Dev.countSat_regs (d : Dev) (a n : Nat) : d.RegsBut [a] (d.countSat a n) := Dev.setNum_regs d a _
theorem Dev.setNum64_regs (d : Dev) (a n : Nat) : d.RegsBut [a, a + 4] (d.setNum64 a n) :=
  (Dev.setNum_regs d a n).trans (Dev.setNum_regs _ (a + 4) _)
theorem Dev.count64_regs (d : Dev) (a n : Nat) : d.RegsBut [a, a + 4] (d.count64 a n) := Dev.setNum64_regs d a _
theorem Dev.err_regs (d : Dev) (b i : Nat) : d.RegsBut [oErrsum b] (d.err b i) := Dev.raise_regs d _ i
theorem Dev.irq_regs (d : Dev) (b i : Nat) : d.RegsBut [oIrqsum b] (d.irq b i) := Dev.raise_regs d _ i
theorem Dev.setReady_regs (d : Dev) (b : Nat) (v : Bool) : d.RegsBut [oStatus b] (d.setReady b v) := Dev.setFlag_regs d _ _ _
theorem Dev.setBusy_regs (d : Dev) (b : Nat) (v : Bool) : d.RegsBut [oStatus b] (d.setBusy b v) := Dev.setFlag_regs d _ _ _
theorem Dev.setDegraded_regs (d : Dev) (b : Nat) (v : Bool) : d.RegsBut [oStatus b] (d.setDegraded b v) :=
  Dev.setFlag_regs d _ _ _
theorem Dev.lastCode_regs (d : Dev) (b c : Nat) : d.RegsBut [oStatus b] (d.lastCode b c) := Dev.setFld_regs d _ _ _ _
theorem Dev.endLong_regs (d : Dev) (b c : Nat) : d.RegsBut [oStatus b] (d.endLong b c) :=
  Dev.RegsBut.then (Dev.lastCode_regs _ b c) (by simp) (Dev.setBusy_regs d b false)

@[simp] theorem Dev.num64_setNum64 (d : Dev) (a n : Nat) : (d.setNum64 a n).num64 a = n % 2 ^ 64 := by
  have h1 : ((d.setNum a n).setNum (a + 4) (n / 2 ^ 32)).num a = n % 2 ^ 32 := by
    unfold Dev.num
    rw [Dev.setNum_regs _ (a + 4) _ a (by simp)]
    exact Dev.num_setNum d a n
  unfold Dev.num64 Dev.setNum64
  rw [h1, Dev.num_setNum]
  omega

end Sys2Proof.Machine
end

