-- ==== Sys2Proof/Laws/RegsNe.lean ====
section
/-!
SUPPORT. A register word, number, field or bit at another offset than the one an operation writes reads as before.
-/
namespace Sys2Proof.Machine

theorem Dev.num_eq {d e : Dev} {a : Nat} (h : e.rd a = d.rd a) : e.num a = d.num a := congrArg BitVec.toNat h
theorem Dev.fld_eq {d e : Dev} {a : Nat} (h : e.rd a = d.rd a) (hi lo : Nat) : e.fld a hi lo = d.fld a hi lo :=
  congrArg (fun n => field n hi lo) (Dev.num_eq h)
theorem Dev.flag_eq {d e : Dev} {a : Nat} (h : e.rd a = d.rd a) (i : Nat) : e.flag a i = d.flag a i :=
  congrArg (fun n => bit n i) (Dev.num_eq h)

theorem Dev.rd_wr_ne (d : Dev) (a : Nat) (v : Word) {x : Nat} (h : x ≠ a) : (d.wr a v).rd x = d.rd x :=
  Dev.wr_regs d a v x (by simpa using h)
theorem Dev.num_wr_ne (d : Dev) (a : Nat) (v : Word) {x : Nat} (h : x ≠ a) : (d.wr a v).num x = d.num x :=
  Dev.num_eq (Dev.wr_regs d a v x (by simpa using h))
theorem Dev.fld_wr_ne (d : Dev) (a : Nat) (v : Word) {x p q : Nat} (h : x ≠ a) : (d.wr a v).fld x p q = d.fld x p q :=
  Dev.fld_eq (Dev.wr_regs d a v x (by simpa using h)) p q
theorem Dev.flag_wr_ne (d : Dev) (a : Nat) (v : Word) {x p : Nat} (h : x ≠ a) : (d.wr a v).flag x p = d.flag x p :=
  Dev.flag_eq (Dev.wr_regs d a v x (by simpa using h)) p

theorem Dev.rd_setNum_ne (d : Dev) (a : Nat) (n : Nat) {x : Nat} (h : x ≠ a) : (d.setNum a n).rd x = d.rd x :=
  Dev.setNum_regs d a n x (by simpa using h)
theorem Dev.num_setNum_ne (d : Dev) (a : Nat) (n : Nat) {x : Nat} (h : x ≠ a) : (d.setNum a n).num x = d.num x :=
  Dev.num_eq (Dev.setNum_regs d a n x (by simpa using h))
theorem Dev.fld_setNum_ne (d : Dev) (a : Nat) (n : Nat) {x p q : Nat} (h : x ≠ a) : (d.setNum a n).fld x p q = d.fld x p q :=
  Dev.fld_eq (Dev.setNum_regs d a n x (by simpa using h)) p q
theorem Dev.flag_setNum_ne (d : Dev) (a : Nat) (n : Nat) {x p : Nat} (h : x ≠ a) : (d.setNum a n).flag x p = d.flag x p :=
  Dev.flag_eq (Dev.setNum_regs d a n x (by simpa using h)) p

theorem Dev.rd_setFld_ne (d : Dev) (a : Nat) (hi lo v : Nat) {x : Nat} (h : x ≠ a) : (d.setFld a hi lo v).rd x = d.rd x :=
  Dev.setFld_regs d a hi lo v x (by simpa using h)
theorem Dev.num_setFld_ne (d : Dev) (a : Nat) (hi lo v : Nat) {x : Nat} (h : x ≠ a) : (d.setFld a hi lo v).num x = d.num x :=
  Dev.num_eq (Dev.setFld_regs d a hi lo v x (by simpa using h))
theorem Dev.fld_setFld_ne (d : Dev) (a : Nat) (hi lo v : Nat) {x p q : Nat} (h : x ≠ a) : (d.setFld a hi lo v).fld x p q = d.fld x p q :=
  Dev.fld_eq (Dev.setFld_regs d a hi lo v x (by simpa using h)) p q
theorem Dev.flag_setFld_ne (d : Dev) (a : Nat) (hi lo v : Nat) {x p : Nat} (h : x ≠ a) : (d.setFld a hi lo v).flag x p = d.flag x p :=
  Dev.flag_eq (Dev.setFld_regs d a hi lo v x (by simpa using h)) p

theorem Dev.rd_setFlag_ne (d : Dev) (a : Nat) (i : Nat) (b : Bool) {x : Nat} (h : x ≠ a) : (d.setFlag a i b).rd x = d.rd x :=
  Dev.setFlag_regs d a i b x (by simpa using h)
theorem Dev.num_setFlag_ne (d : Dev) (a : Nat) (i : Nat) (b : Bool) {x : Nat} (h : x ≠ a) : (d.setFlag a i b).num x = d.num x :=
  Dev.num_eq (Dev.setFlag_regs d a i b x (by simpa using h))
theorem Dev.fld_setFlag_ne (d : Dev) (a : Nat) (i : Nat) (b : Bool) {x p q : Nat} (h : x ≠ a) : (d.setFlag a i b).fld x p q = d.fld x p q :=
  Dev.fld_eq (Dev.setFlag_regs d a i b x (by simpa using h)) p q
theorem Dev.flag_setFlag_ne (d : Dev) (a : Nat) (i : Nat) (b : Bool) {x p : Nat} (h : x ≠ a) : (d.setFlag a i b).flag x p = d.flag x p :=
  Dev.flag_eq (Dev.setFlag_regs d a i b x (by simpa using h)) p

theorem Dev.rd_raise_ne (d : Dev) (a : Nat) (i : Nat) {x : Nat} (h : x ≠ a) : (d.raise a i).rd x = d.rd x :=
  Dev.raise_regs d a i x (by simpa using h)
theorem Dev.num_raise_ne (d : Dev) (a : Nat) (i : Nat) {x : Nat} (h : x ≠ a) : (d.raise a i).num x = d.num x :=
  Dev.num_eq (Dev.raise_regs d a i x (by simpa using h))
theorem Dev.fld_raise_ne (d : Dev) (a : Nat) (i : Nat) {x p q : Nat} (h : x ≠ a) : (d.raise a i).fld x p q = d.fld x p q :=
  Dev.fld_eq (Dev.raise_regs d a i x (by simpa using h)) p q
theorem Dev.flag_raise_ne (d : Dev) (a : Nat) (i : Nat) {x p : Nat} (h : x ≠ a) : (d.raise a i).flag x p = d.flag x p :=
  Dev.flag_eq (Dev.raise_regs d a i x (by simpa using h)) p

theorem Dev.rd_drop_ne (d : Dev) (a : Nat) (i : Nat) {x : Nat} (h : x ≠ a) : (d.drop a i).rd x = d.rd x :=
  Dev.drop_regs d a i x (by simpa using h)
theorem Dev.num_drop_ne (d : Dev) (a : Nat) (i : Nat) {x : Nat} (h : x ≠ a) : (d.drop a i).num x = d.num x :=
  Dev.num_eq (Dev.drop_regs d a i x (by simpa using h))
theorem Dev.fld_drop_ne (d : Dev) (a : Nat) (i : Nat) {x p q : Nat} (h : x ≠ a) : (d.drop a i).fld x p q = d.fld x p q :=
  Dev.fld_eq (Dev.drop_regs d a i x (by simpa using h)) p q
theorem Dev.flag_drop_ne (d : Dev) (a : Nat) (i : Nat) {x p : Nat} (h : x ≠ a) : (d.drop a i).flag x p = d.flag x p :=
  Dev.flag_eq (Dev.drop_regs d a i x (by simpa using h)) p

theorem Dev.rd_countSat_ne (d : Dev) (a : Nat) (n : Nat) {x : Nat} (h : x ≠ a) : (d.countSat a n).rd x = d.rd x :=
  Dev.countSat_regs d a n x (by simpa using h)
theorem Dev.num_countSat_ne (d : Dev) (a : Nat) (n : Nat) {x : Nat} (h : x ≠ a) : (d.countSat a n).num x = d.num x :=
  Dev.num_eq (Dev.countSat_regs d a n x (by simpa using h))
theorem Dev.fld_countSat_ne (d : Dev) (a : Nat) (n : Nat) {x p q : Nat} (h : x ≠ a) : (d.countSat a n).fld x p q = d.fld x p q :=
  Dev.fld_eq (Dev.countSat_regs d a n x (by simpa using h)) p q
theorem Dev.flag_countSat_ne (d : Dev) (a : Nat) (n : Nat) {x p : Nat} (h : x ≠ a) : (d.countSat a n).flag x p = d.flag x p :=
  Dev.flag_eq (Dev.countSat_regs d a n x (by simpa using h)) p

theorem Dev.rd_err_ne (d : Dev) (a : Nat) (i : Nat) {x : Nat} (h : x ≠ oErrsum a) : (d.err a i).rd x = d.rd x :=
  Dev.err_regs d a i x (by simpa using h)
theorem Dev.num_err_ne (d : Dev) (a : Nat) (i : Nat) {x : Nat} (h : x ≠ oErrsum a) : (d.err a i).num x = d.num x :=
  Dev.num_eq (Dev.err_regs d a i x (by simpa using h))
theorem Dev.fld_err_ne (d : Dev) (a : Nat) (i : Nat) {x p q : Nat} (h : x ≠ oErrsum a) : (d.err a i).fld x p q = d.fld x p q :=
  Dev.fld_eq (Dev.err_regs d a i x (by simpa using h)) p q
theorem Dev.flag_err_ne (d : Dev) (a : Nat) (i : Nat) {x p : Nat} (h : x ≠ oErrsum a) : (d.err a i).flag x p = d.flag x p :=
  Dev.flag_eq (Dev.err_regs d a i x (by simpa using h)) p

theorem Dev.rd_irq_ne (d : Dev) (a : Nat) (i : Nat) {x : Nat} (h : x ≠ oIrqsum a) : (d.irq a i).rd x = d.rd x :=
  Dev.irq_regs d a i x (by simpa using h)
theorem Dev.num_irq_ne (d : Dev) (a : Nat) (i : Nat) {x : Nat} (h : x ≠ oIrqsum a) : (d.irq a i).num x = d.num x :=
  Dev.num_eq (Dev.irq_regs d a i x (by simpa using h))
theorem Dev.fld_irq_ne (d : Dev) (a : Nat) (i : Nat) {x p q : Nat} (h : x ≠ oIrqsum a) : (d.irq a i).fld x p q = d.fld x p q :=
  Dev.fld_eq (Dev.irq_regs d a i x (by simpa using h)) p q
theorem Dev.flag_irq_ne (d : Dev) (a : Nat) (i : Nat) {x p : Nat} (h : x ≠ oIrqsum a) : (d.irq a i).flag x p = d.flag x p :=
  Dev.flag_eq (Dev.irq_regs d a i x (by simpa using h)) p

theorem Dev.rd_setReady_ne (d : Dev) (a : Nat) (b : Bool) {x : Nat} (h : x ≠ oStatus a) : (d.setReady a b).rd x = d.rd x :=
  Dev.setReady_regs d a b x (by simpa using h)
theorem Dev.num_setReady_ne (d : Dev) (a : Nat) (b : Bool) {x : Nat} (h : x ≠ oStatus a) : (d.setReady a b).num x = d.num x :=
  Dev.num_eq (Dev.setReady_regs d a b x (by simpa using h))
theorem Dev.fld_setReady_ne (d : Dev) (a : Nat) (b : Bool) {x p q : Nat} (h : x ≠ oStatus a) : (d.setReady a b).fld x p q = d.fld x p q :=
  Dev.fld_eq (Dev.setReady_regs d a b x (by simpa using h)) p q
theorem Dev.flag_setReady_ne (d : Dev) (a : Nat) (b : Bool) {x p : Nat} (h : x ≠ oStatus a) : (d.setReady a b).flag x p = d.flag x p :=
  Dev.flag_eq (Dev.setReady_regs d a b x (by simpa using h)) p

theorem Dev.rd_setBusy_ne (d : Dev) (a : Nat) (b : Bool) {x : Nat} (h : x ≠ oStatus a) : (d.setBusy a b).rd x = d.rd x :=
  Dev.setBusy_regs d a b x (by simpa using h)
theorem Dev.num_setBusy_ne (d : Dev) (a : Nat) (b : Bool) {x : Nat} (h : x ≠ oStatus a) : (d.setBusy a b).num x = d.num x :=
  Dev.num_eq (Dev.setBusy_regs d a b x (by simpa using h))
theorem Dev.fld_setBusy_ne (d : Dev) (a : Nat) (b : Bool) {x p q : Nat} (h : x ≠ oStatus a) : (d.setBusy a b).fld x p q = d.fld x p q :=
  Dev.fld_eq (Dev.setBusy_regs d a b x (by simpa using h)) p q
theorem Dev.flag_setBusy_ne (d : Dev) (a : Nat) (b : Bool) {x p : Nat} (h : x ≠ oStatus a) : (d.setBusy a b).flag x p = d.flag x p :=
  Dev.flag_eq (Dev.setBusy_regs d a b x (by simpa using h)) p

theorem Dev.rd_setDegraded_ne (d : Dev) (a : Nat) (b : Bool) {x : Nat} (h : x ≠ oStatus a) : (d.setDegraded a b).rd x = d.rd x :=
  Dev.setDegraded_regs d a b x (by simpa using h)
theorem Dev.num_setDegraded_ne (d : Dev) (a : Nat) (b : Bool) {x : Nat} (h : x ≠ oStatus a) : (d.setDegraded a b).num x = d.num x :=
  Dev.num_eq (Dev.setDegraded_regs d a b x (by simpa using h))
theorem Dev.fld_setDegraded_ne (d : Dev) (a : Nat) (b : Bool) {x p q : Nat} (h : x ≠ oStatus a) : (d.setDegraded a b).fld x p q = d.fld x p q :=
  Dev.fld_eq (Dev.setDegraded_regs d a b x (by simpa using h)) p q
theorem Dev.flag_setDegraded_ne (d : Dev) (a : Nat) (b : Bool) {x p : Nat} (h : x ≠ oStatus a) : (d.setDegraded a b).flag x p = d.flag x p :=
  Dev.flag_eq (Dev.setDegraded_regs d a b x (by simpa using h)) p

theorem Dev.rd_lastCode_ne (d : Dev) (a : Nat) (c : Nat) {x : Nat} (h : x ≠ oStatus a) : (d.lastCode a c).rd x = d.rd x :=
  Dev.lastCode_regs d a c x (by simpa using h)
theorem Dev.num_lastCode_ne (d : Dev) (a : Nat) (c : Nat) {x : Nat} (h : x ≠ oStatus a) : (d.lastCode a c).num x = d.num x :=
  Dev.num_eq (Dev.lastCode_regs d a c x (by simpa using h))
theorem Dev.fld_lastCode_ne (d : Dev) (a : Nat) (c : Nat) {x p q : Nat} (h : x ≠ oStatus a) : (d.lastCode a c).fld x p q = d.fld x p q :=
  Dev.fld_eq (Dev.lastCode_regs d a c x (by simpa using h)) p q
theorem Dev.flag_lastCode_ne (d : Dev) (a : Nat) (c : Nat) {x p : Nat} (h : x ≠ oStatus a) : (d.lastCode a c).flag x p = d.flag x p :=
  Dev.flag_eq (Dev.lastCode_regs d a c x (by simpa using h)) p

theorem Dev.rd_endLong_ne (d : Dev) (a : Nat) (c : Nat) {x : Nat} (h : x ≠ oStatus a) : (d.endLong a c).rd x = d.rd x :=
  Dev.endLong_regs d a c x (by simpa using h)
theorem Dev.num_endLong_ne (d : Dev) (a : Nat) (c : Nat) {x : Nat} (h : x ≠ oStatus a) : (d.endLong a c).num x = d.num x :=
  Dev.num_eq (Dev.endLong_regs d a c x (by simpa using h))
theorem Dev.fld_endLong_ne (d : Dev) (a : Nat) (c : Nat) {x p q : Nat} (h : x ≠ oStatus a) : (d.endLong a c).fld x p q = d.fld x p q :=
  Dev.fld_eq (Dev.endLong_regs d a c x (by simpa using h)) p q
theorem Dev.flag_endLong_ne (d : Dev) (a : Nat) (c : Nat) {x p : Nat} (h : x ≠ oStatus a) : (d.endLong a c).flag x p = d.flag x p :=
  Dev.flag_eq (Dev.endLong_regs d a c x (by simpa using h)) p

@[simp] theorem Dev.flag_err (d : Dev) (b i : Nat) (hh : i < 32 := by decide) : (d.err b i).flag (oErrsum b) i = true :=
  Dev.flag_raise d _ i hh
@[simp] theorem Dev.flag_irq (d : Dev) (b i : Nat) (hh : i < 32 := by decide) : (d.irq b i).flag (oIrqsum b) i = true :=
  Dev.flag_raise d _ i hh
@[simp] theorem Dev.ready_setReady (d : Dev) (b : Nat) (v : Bool) : (d.setReady b v).ready b = (v && !d.isFault b) := by
  simp [Dev.ready, Dev.setReady, Dev.flag_setFlag, Dev.isFault]

theorem Dev.fld_setFld_other (d : Dev) (a hi lo v : Nat) {h l : Nat} (hx : (decide (hi < 32) && decide (lo ≤ hi) &&
    decide (l ≤ h) && (decide (h < lo) || decide (hi < l))) = true) : (d.setFld a hi lo v).fld a h l = d.fld a h l := by
  simp at hx
  exact Dev.fld_setFld_apart d a hi lo v h l hx.1.1.1 hx.1.1.2 hx.1.2 hx.2

theorem Dev.flag_setFlag_other (d : Dev) (a i : Nat) (b : Bool) {j : Nat} (hx : (decide (i < 32) && decide (j ≠ i)) = true) :
    (d.setFlag a i b).flag a j = d.flag a j := by
  simp at hx
  rw [Dev.flag_setFlag _ _ _ _ _ hx.1, if_neg hx.2]

theorem Dev.flag_setFld_other (d : Dev) (a hi lo v : Nat) {j : Nat} (hx : (decide (hi < 32) && decide (lo ≤ hi) &&
    (decide (j < lo) || decide (hi < j))) = true) : (d.setFld a hi lo v).flag a j = d.flag a j := by
  simp at hx
  rw [Dev.flag_setFld _ _ _ _ _ _ hx.1.1 hx.1.2, if_neg (by omega)]

theorem Dev.fld_setFlag_other (d : Dev) (a i : Nat) (b : Bool) {h l : Nat} (hx : (decide (i < 32) &&
    decide (l ≤ h) && (decide (h < i) || decide (i < l))) = true) : (d.setFlag a i b).fld a h l = d.fld a h l := by
  simp at hx
  exact Dev.fld_setFld_apart d a i i _ h l hx.1.1 (Nat.le_refl _) hx.1.2 hx.2

end Sys2Proof.Machine
end

