-- ==== Sys2Proof/Laws/State.lean ====
section
/-!
SUPPORT. What the named updates of the device's state leave alone, field by field, and what reading back after a keyed
update gives. Every field lemma is true by rfl.
-/
namespace Sys2Proof.Machine

/-! ### Fields under the named updates -/

@[simp] theorem Dev.wr_bus (d : Dev) (a : Nat) (v : Word) : (d.wr a v).bus = d.bus := rfl
@[simp] theorem Dev.wr_module (d : Dev) (a : Nat) (v : Word) : (d.wr a v).module = d.module := rfl
@[simp] theorem Dev.wr_apex (d : Dev) (a : Nat) (v : Word) : (d.wr a v).apex = d.apex := rfl
@[simp] theorem Dev.wr_ascent (d : Dev) (a : Nat) (v : Word) : (d.wr a v).ascent = d.ascent := rfl
@[simp] theorem Dev.wr_trust (d : Dev) (a : Nat) (v : Word) : (d.wr a v).trust = d.trust := rfl
@[simp] theorem Dev.wr_host (d : Dev) (a : Nat) (v : Word) : (d.wr a v).host = d.host := rfl
@[simp] theorem Dev.wr_mem (d : Dev) (a : Nat) (v : Word) : (d.wr a v).mem = d.mem := rfl
@[simp] theorem Dev.wr_cricket (d : Dev) (a : Nat) (v : Word) : (d.wr a v).cricket = d.cricket := rfl
@[simp] theorem Dev.wr_massif (d : Dev) (a : Nat) (v : Word) : (d.wr a v).massif = d.massif := rfl
@[simp] theorem Dev.wr_weevil (d : Dev) (a : Nat) (v : Word) : (d.wr a v).weevil = d.weevil := rfl
@[simp] theorem Dev.wr_col (d : Dev) (a : Nat) (v : Word) : (d.wr a v).col = d.col := rfl
@[simp] theorem Dev.wr_scarab (d : Dev) (a : Nat) (v : Word) : (d.wr a v).scarab = d.scarab := rfl
@[simp] theorem Dev.wr_talus (d : Dev) (a : Nat) (v : Word) : (d.wr a v).talus = d.talus := rfl
@[simp] theorem Dev.wr_stag (d : Dev) (a : Nat) (v : Word) : (d.wr a v).stag = d.stag := rfl
@[simp] theorem Dev.wr_hive (d : Dev) (a : Nat) (v : Word) : (d.wr a v).hive = d.hive := rfl
@[simp] theorem Dev.wr_forager (d : Dev) (a : Nat) (v : Word) : (d.wr a v).forager = d.forager := rfl
@[simp] theorem Dev.wr_link (d : Dev) (a : Nat) (v : Word) : (d.wr a v).link = d.link := rfl
@[simp] theorem Dev.wr_power (d : Dev) (a : Nat) (v : Word) : (d.wr a v).power = d.power := rfl
@[simp] theorem Dev.wr_firefly (d : Dev) (a : Nat) (v : Word) : (d.wr a v).firefly = d.firefly := rfl
@[simp] theorem Dev.wr_enPend (d : Dev) (a : Nat) (v : Word) : (d.wr a v).enPend = d.enPend := rfl
@[simp] theorem Dev.wr_freeCtr (d : Dev) (a : Nat) (v : Word) : (d.wr a v).freeCtr = d.freeCtr := rfl

@[simp] theorem Dev.setWvl_regs (d : Dev) (k : Nat) (w : Wvl) : (d.setWvl k w).regs = d.regs := rfl
@[simp] theorem Dev.setWvl_bus (d : Dev) (k : Nat) (w : Wvl) : (d.setWvl k w).bus = d.bus := rfl
@[simp] theorem Dev.setWvl_module (d : Dev) (k : Nat) (w : Wvl) : (d.setWvl k w).module = d.module := rfl
@[simp] theorem Dev.setWvl_apex (d : Dev) (k : Nat) (w : Wvl) : (d.setWvl k w).apex = d.apex := rfl
@[simp] theorem Dev.setWvl_ascent (d : Dev) (k : Nat) (w : Wvl) : (d.setWvl k w).ascent = d.ascent := rfl
@[simp] theorem Dev.setWvl_trust (d : Dev) (k : Nat) (w : Wvl) : (d.setWvl k w).trust = d.trust := rfl
@[simp] theorem Dev.setWvl_host (d : Dev) (k : Nat) (w : Wvl) : (d.setWvl k w).host = d.host := rfl
@[simp] theorem Dev.setWvl_mem (d : Dev) (k : Nat) (w : Wvl) : (d.setWvl k w).mem = d.mem := rfl
@[simp] theorem Dev.setWvl_cricket (d : Dev) (k : Nat) (w : Wvl) : (d.setWvl k w).cricket = d.cricket := rfl
@[simp] theorem Dev.setWvl_massif (d : Dev) (k : Nat) (w : Wvl) : (d.setWvl k w).massif = d.massif := rfl
@[simp] theorem Dev.setWvl_col (d : Dev) (k : Nat) (w : Wvl) : (d.setWvl k w).col = d.col := rfl
@[simp] theorem Dev.setWvl_scarab (d : Dev) (k : Nat) (w : Wvl) : (d.setWvl k w).scarab = d.scarab := rfl
@[simp] theorem Dev.setWvl_talus (d : Dev) (k : Nat) (w : Wvl) : (d.setWvl k w).talus = d.talus := rfl
@[simp] theorem Dev.setWvl_stag (d : Dev) (k : Nat) (w : Wvl) : (d.setWvl k w).stag = d.stag := rfl
@[simp] theorem Dev.setWvl_hive (d : Dev) (k : Nat) (w : Wvl) : (d.setWvl k w).hive = d.hive := rfl
@[simp] theorem Dev.setWvl_forager (d : Dev) (k : Nat) (w : Wvl) : (d.setWvl k w).forager = d.forager := rfl
@[simp] theorem Dev.setWvl_link (d : Dev) (k : Nat) (w : Wvl) : (d.setWvl k w).link = d.link := rfl
@[simp] theorem Dev.setWvl_power (d : Dev) (k : Nat) (w : Wvl) : (d.setWvl k w).power = d.power := rfl
@[simp] theorem Dev.setWvl_firefly (d : Dev) (k : Nat) (w : Wvl) : (d.setWvl k w).firefly = d.firefly := rfl
@[simp] theorem Dev.setWvl_enPend (d : Dev) (k : Nat) (w : Wvl) : (d.setWvl k w).enPend = d.enPend := rfl
@[simp] theorem Dev.setWvl_freeCtr (d : Dev) (k : Nat) (w : Wvl) : (d.setWvl k w).freeCtr = d.freeCtr := rfl

@[simp] theorem Dev.setScb_regs (d : Dev) (k : Nat) (w : Scb) : (d.setScb k w).regs = d.regs := rfl
@[simp] theorem Dev.setScb_bus (d : Dev) (k : Nat) (w : Scb) : (d.setScb k w).bus = d.bus := rfl
@[simp] theorem Dev.setScb_module (d : Dev) (k : Nat) (w : Scb) : (d.setScb k w).module = d.module := rfl
@[simp] theorem Dev.setScb_apex (d : Dev) (k : Nat) (w : Scb) : (d.setScb k w).apex = d.apex := rfl
@[simp] theorem Dev.setScb_ascent (d : Dev) (k : Nat) (w : Scb) : (d.setScb k w).ascent = d.ascent := rfl
@[simp] theorem Dev.setScb_trust (d : Dev) (k : Nat) (w : Scb) : (d.setScb k w).trust = d.trust := rfl
@[simp] theorem Dev.setScb_host (d : Dev) (k : Nat) (w : Scb) : (d.setScb k w).host = d.host := rfl
@[simp] theorem Dev.setScb_mem (d : Dev) (k : Nat) (w : Scb) : (d.setScb k w).mem = d.mem := rfl
@[simp] theorem Dev.setScb_cricket (d : Dev) (k : Nat) (w : Scb) : (d.setScb k w).cricket = d.cricket := rfl
@[simp] theorem Dev.setScb_massif (d : Dev) (k : Nat) (w : Scb) : (d.setScb k w).massif = d.massif := rfl
@[simp] theorem Dev.setScb_weevil (d : Dev) (k : Nat) (w : Scb) : (d.setScb k w).weevil = d.weevil := rfl
@[simp] theorem Dev.setScb_col (d : Dev) (k : Nat) (w : Scb) : (d.setScb k w).col = d.col := rfl
@[simp] theorem Dev.setScb_talus (d : Dev) (k : Nat) (w : Scb) : (d.setScb k w).talus = d.talus := rfl
@[simp] theorem Dev.setScb_stag (d : Dev) (k : Nat) (w : Scb) : (d.setScb k w).stag = d.stag := rfl
@[simp] theorem Dev.setScb_hive (d : Dev) (k : Nat) (w : Scb) : (d.setScb k w).hive = d.hive := rfl
@[simp] theorem Dev.setScb_forager (d : Dev) (k : Nat) (w : Scb) : (d.setScb k w).forager = d.forager := rfl
@[simp] theorem Dev.setScb_link (d : Dev) (k : Nat) (w : Scb) : (d.setScb k w).link = d.link := rfl
@[simp] theorem Dev.setScb_power (d : Dev) (k : Nat) (w : Scb) : (d.setScb k w).power = d.power := rfl
@[simp] theorem Dev.setScb_firefly (d : Dev) (k : Nat) (w : Scb) : (d.setScb k w).firefly = d.firefly := rfl
@[simp] theorem Dev.setScb_enPend (d : Dev) (k : Nat) (w : Scb) : (d.setScb k w).enPend = d.enPend := rfl
@[simp] theorem Dev.setScb_freeCtr (d : Dev) (k : Nat) (w : Scb) : (d.setScb k w).freeCtr = d.freeCtr := rfl

@[simp] theorem Dev.setTls_regs (d : Dev) (k : Nat) (w : Tls) : (d.setTls k w).regs = d.regs := rfl
@[simp] theorem Dev.setTls_bus (d : Dev) (k : Nat) (w : Tls) : (d.setTls k w).bus = d.bus := rfl
@[simp] theorem Dev.setTls_module (d : Dev) (k : Nat) (w : Tls) : (d.setTls k w).module = d.module := rfl
@[simp] theorem Dev.setTls_apex (d : Dev) (k : Nat) (w : Tls) : (d.setTls k w).apex = d.apex := rfl
@[simp] theorem Dev.setTls_ascent (d : Dev) (k : Nat) (w : Tls) : (d.setTls k w).ascent = d.ascent := rfl
@[simp] theorem Dev.setTls_trust (d : Dev) (k : Nat) (w : Tls) : (d.setTls k w).trust = d.trust := rfl
@[simp] theorem Dev.setTls_host (d : Dev) (k : Nat) (w : Tls) : (d.setTls k w).host = d.host := rfl
@[simp] theorem Dev.setTls_mem (d : Dev) (k : Nat) (w : Tls) : (d.setTls k w).mem = d.mem := rfl
@[simp] theorem Dev.setTls_cricket (d : Dev) (k : Nat) (w : Tls) : (d.setTls k w).cricket = d.cricket := rfl
@[simp] theorem Dev.setTls_massif (d : Dev) (k : Nat) (w : Tls) : (d.setTls k w).massif = d.massif := rfl
@[simp] theorem Dev.setTls_weevil (d : Dev) (k : Nat) (w : Tls) : (d.setTls k w).weevil = d.weevil := rfl
@[simp] theorem Dev.setTls_col (d : Dev) (k : Nat) (w : Tls) : (d.setTls k w).col = d.col := rfl
@[simp] theorem Dev.setTls_scarab (d : Dev) (k : Nat) (w : Tls) : (d.setTls k w).scarab = d.scarab := rfl
@[simp] theorem Dev.setTls_stag (d : Dev) (k : Nat) (w : Tls) : (d.setTls k w).stag = d.stag := rfl
@[simp] theorem Dev.setTls_hive (d : Dev) (k : Nat) (w : Tls) : (d.setTls k w).hive = d.hive := rfl
@[simp] theorem Dev.setTls_forager (d : Dev) (k : Nat) (w : Tls) : (d.setTls k w).forager = d.forager := rfl
@[simp] theorem Dev.setTls_link (d : Dev) (k : Nat) (w : Tls) : (d.setTls k w).link = d.link := rfl
@[simp] theorem Dev.setTls_power (d : Dev) (k : Nat) (w : Tls) : (d.setTls k w).power = d.power := rfl
@[simp] theorem Dev.setTls_firefly (d : Dev) (k : Nat) (w : Tls) : (d.setTls k w).firefly = d.firefly := rfl
@[simp] theorem Dev.setTls_enPend (d : Dev) (k : Nat) (w : Tls) : (d.setTls k w).enPend = d.enPend := rfl
@[simp] theorem Dev.setTls_freeCtr (d : Dev) (k : Nat) (w : Tls) : (d.setTls k w).freeCtr = d.freeCtr := rfl

@[simp] theorem Dev.setBank_regs (d : Dev) (c b : Nat) (v : Bank) : (d.setBank c b v).regs = d.regs := rfl
@[simp] theorem Dev.setBank_bus (d : Dev) (c b : Nat) (v : Bank) : (d.setBank c b v).bus = d.bus := rfl
@[simp] theorem Dev.setBank_module (d : Dev) (c b : Nat) (v : Bank) : (d.setBank c b v).module = d.module := rfl
@[simp] theorem Dev.setBank_apex (d : Dev) (c b : Nat) (v : Bank) : (d.setBank c b v).apex = d.apex := rfl
@[simp] theorem Dev.setBank_ascent (d : Dev) (c b : Nat) (v : Bank) : (d.setBank c b v).ascent = d.ascent := rfl
@[simp] theorem Dev.setBank_trust (d : Dev) (c b : Nat) (v : Bank) : (d.setBank c b v).trust = d.trust := rfl
@[simp] theorem Dev.setBank_host (d : Dev) (c b : Nat) (v : Bank) : (d.setBank c b v).host = d.host := rfl
@[simp] theorem Dev.setBank_mem (d : Dev) (c b : Nat) (v : Bank) : (d.setBank c b v).mem = d.mem := rfl
@[simp] theorem Dev.setBank_cricket (d : Dev) (c b : Nat) (v : Bank) : (d.setBank c b v).cricket = d.cricket := rfl
@[simp] theorem Dev.setBank_weevil (d : Dev) (c b : Nat) (v : Bank) : (d.setBank c b v).weevil = d.weevil := rfl
@[simp] theorem Dev.setBank_col (d : Dev) (c b : Nat) (v : Bank) : (d.setBank c b v).col = d.col := rfl
@[simp] theorem Dev.setBank_scarab (d : Dev) (c b : Nat) (v : Bank) : (d.setBank c b v).scarab = d.scarab := rfl
@[simp] theorem Dev.setBank_talus (d : Dev) (c b : Nat) (v : Bank) : (d.setBank c b v).talus = d.talus := rfl
@[simp] theorem Dev.setBank_stag (d : Dev) (c b : Nat) (v : Bank) : (d.setBank c b v).stag = d.stag := rfl
@[simp] theorem Dev.setBank_hive (d : Dev) (c b : Nat) (v : Bank) : (d.setBank c b v).hive = d.hive := rfl
@[simp] theorem Dev.setBank_forager (d : Dev) (c b : Nat) (v : Bank) : (d.setBank c b v).forager = d.forager := rfl
@[simp] theorem Dev.setBank_link (d : Dev) (c b : Nat) (v : Bank) : (d.setBank c b v).link = d.link := rfl
@[simp] theorem Dev.setBank_power (d : Dev) (c b : Nat) (v : Bank) : (d.setBank c b v).power = d.power := rfl
@[simp] theorem Dev.setBank_firefly (d : Dev) (c b : Nat) (v : Bank) : (d.setBank c b v).firefly = d.firefly := rfl
@[simp] theorem Dev.setBank_enPend (d : Dev) (c b : Nat) (v : Bank) : (d.setBank c b v).enPend = d.enPend := rfl
@[simp] theorem Dev.setBank_freeCtr (d : Dev) (c b : Nat) (v : Bank) : (d.setBank c b v).freeCtr = d.freeCtr := rfl

@[simp] theorem Dev.csPut_regs (d : Dev) (x off : Nat) (bs : List Byte) : (d.csPut x off bs).regs = d.regs := rfl
@[simp] theorem Dev.csPut_bus (d : Dev) (x off : Nat) (bs : List Byte) : (d.csPut x off bs).bus = d.bus := rfl
@[simp] theorem Dev.csPut_module (d : Dev) (x off : Nat) (bs : List Byte) : (d.csPut x off bs).module = d.module := rfl
@[simp] theorem Dev.csPut_apex (d : Dev) (x off : Nat) (bs : List Byte) : (d.csPut x off bs).apex = d.apex := rfl
@[simp] theorem Dev.csPut_ascent (d : Dev) (x off : Nat) (bs : List Byte) : (d.csPut x off bs).ascent = d.ascent := rfl
@[simp] theorem Dev.csPut_trust (d : Dev) (x off : Nat) (bs : List Byte) : (d.csPut x off bs).trust = d.trust := rfl
@[simp] theorem Dev.csPut_host (d : Dev) (x off : Nat) (bs : List Byte) : (d.csPut x off bs).host = d.host := rfl
@[simp] theorem Dev.csPut_mem (d : Dev) (x off : Nat) (bs : List Byte) : (d.csPut x off bs).mem = d.mem := rfl
@[simp] theorem Dev.csPut_cricket (d : Dev) (x off : Nat) (bs : List Byte) : (d.csPut x off bs).cricket = d.cricket := rfl
@[simp] theorem Dev.csPut_weevil (d : Dev) (x off : Nat) (bs : List Byte) : (d.csPut x off bs).weevil = d.weevil := rfl
@[simp] theorem Dev.csPut_col (d : Dev) (x off : Nat) (bs : List Byte) : (d.csPut x off bs).col = d.col := rfl
@[simp] theorem Dev.csPut_scarab (d : Dev) (x off : Nat) (bs : List Byte) : (d.csPut x off bs).scarab = d.scarab := rfl
@[simp] theorem Dev.csPut_talus (d : Dev) (x off : Nat) (bs : List Byte) : (d.csPut x off bs).talus = d.talus := rfl
@[simp] theorem Dev.csPut_stag (d : Dev) (x off : Nat) (bs : List Byte) : (d.csPut x off bs).stag = d.stag := rfl
@[simp] theorem Dev.csPut_hive (d : Dev) (x off : Nat) (bs : List Byte) : (d.csPut x off bs).hive = d.hive := rfl
@[simp] theorem Dev.csPut_forager (d : Dev) (x off : Nat) (bs : List Byte) : (d.csPut x off bs).forager = d.forager := rfl
@[simp] theorem Dev.csPut_link (d : Dev) (x off : Nat) (bs : List Byte) : (d.csPut x off bs).link = d.link := rfl
@[simp] theorem Dev.csPut_power (d : Dev) (x off : Nat) (bs : List Byte) : (d.csPut x off bs).power = d.power := rfl
@[simp] theorem Dev.csPut_firefly (d : Dev) (x off : Nat) (bs : List Byte) : (d.csPut x off bs).firefly = d.firefly := rfl
@[simp] theorem Dev.csPut_enPend (d : Dev) (x off : Nat) (bs : List Byte) : (d.csPut x off bs).enPend = d.enPend := rfl
@[simp] theorem Dev.csPut_freeCtr (d : Dev) (x off : Nat) (bs : List Byte) : (d.csPut x off bs).freeCtr = d.freeCtr := rfl

@[simp] theorem Dev.massifPop_regs (d : Dev) : d.massifPop.regs = d.regs := rfl
@[simp] theorem Dev.massifPop_bus (d : Dev) : d.massifPop.bus = d.bus := rfl
@[simp] theorem Dev.massifPop_module (d : Dev) : d.massifPop.module = d.module := rfl
@[simp] theorem Dev.massifPop_apex (d : Dev) : d.massifPop.apex = d.apex := rfl
@[simp] theorem Dev.massifPop_ascent (d : Dev) : d.massifPop.ascent = d.ascent := rfl
@[simp] theorem Dev.massifPop_trust (d : Dev) : d.massifPop.trust = d.trust := rfl
@[simp] theorem Dev.massifPop_host (d : Dev) : d.massifPop.host = d.host := rfl
@[simp] theorem Dev.massifPop_mem (d : Dev) : d.massifPop.mem = d.mem := rfl
@[simp] theorem Dev.massifPop_cricket (d : Dev) : d.massifPop.cricket = d.cricket := rfl
@[simp] theorem Dev.massifPop_weevil (d : Dev) : d.massifPop.weevil = d.weevil := rfl
@[simp] theorem Dev.massifPop_col (d : Dev) : d.massifPop.col = d.col := rfl
@[simp] theorem Dev.massifPop_scarab (d : Dev) : d.massifPop.scarab = d.scarab := rfl
@[simp] theorem Dev.massifPop_talus (d : Dev) : d.massifPop.talus = d.talus := rfl
@[simp] theorem Dev.massifPop_stag (d : Dev) : d.massifPop.stag = d.stag := rfl
@[simp] theorem Dev.massifPop_hive (d : Dev) : d.massifPop.hive = d.hive := rfl
@[simp] theorem Dev.massifPop_forager (d : Dev) : d.massifPop.forager = d.forager := rfl
@[simp] theorem Dev.massifPop_link (d : Dev) : d.massifPop.link = d.link := rfl
@[simp] theorem Dev.massifPop_power (d : Dev) : d.massifPop.power = d.power := rfl
@[simp] theorem Dev.massifPop_firefly (d : Dev) : d.massifPop.firefly = d.firefly := rfl
@[simp] theorem Dev.massifPop_enPend (d : Dev) : d.massifPop.enPend = d.enPend := rfl
@[simp] theorem Dev.massifPop_freeCtr (d : Dev) : d.massifPop.freeCtr = d.freeCtr := rfl

@[simp] theorem Dev.setSlot_regs (d : Dev) (i : Nat) (v : StagSlot) : (d.setSlot i v).regs = d.regs := rfl
@[simp] theorem Dev.setSlot_bus (d : Dev) (i : Nat) (v : StagSlot) : (d.setSlot i v).bus = d.bus := rfl
@[simp] theorem Dev.setSlot_module (d : Dev) (i : Nat) (v : StagSlot) : (d.setSlot i v).module = d.module := rfl
@[simp] theorem Dev.setSlot_apex (d : Dev) (i : Nat) (v : StagSlot) : (d.setSlot i v).apex = d.apex := rfl
@[simp] theorem Dev.setSlot_ascent (d : Dev) (i : Nat) (v : StagSlot) : (d.setSlot i v).ascent = d.ascent := rfl
@[simp] theorem Dev.setSlot_trust (d : Dev) (i : Nat) (v : StagSlot) : (d.setSlot i v).trust = d.trust := rfl
@[simp] theorem Dev.setSlot_host (d : Dev) (i : Nat) (v : StagSlot) : (d.setSlot i v).host = d.host := rfl
@[simp] theorem Dev.setSlot_mem (d : Dev) (i : Nat) (v : StagSlot) : (d.setSlot i v).mem = d.mem := rfl
@[simp] theorem Dev.setSlot_cricket (d : Dev) (i : Nat) (v : StagSlot) : (d.setSlot i v).cricket = d.cricket := rfl
@[simp] theorem Dev.setSlot_massif (d : Dev) (i : Nat) (v : StagSlot) : (d.setSlot i v).massif = d.massif := rfl
@[simp] theorem Dev.setSlot_weevil (d : Dev) (i : Nat) (v : StagSlot) : (d.setSlot i v).weevil = d.weevil := rfl
@[simp] theorem Dev.setSlot_col (d : Dev) (i : Nat) (v : StagSlot) : (d.setSlot i v).col = d.col := rfl
@[simp] theorem Dev.setSlot_scarab (d : Dev) (i : Nat) (v : StagSlot) : (d.setSlot i v).scarab = d.scarab := rfl
@[simp] theorem Dev.setSlot_talus (d : Dev) (i : Nat) (v : StagSlot) : (d.setSlot i v).talus = d.talus := rfl
@[simp] theorem Dev.setSlot_hive (d : Dev) (i : Nat) (v : StagSlot) : (d.setSlot i v).hive = d.hive := rfl
@[simp] theorem Dev.setSlot_forager (d : Dev) (i : Nat) (v : StagSlot) : (d.setSlot i v).forager = d.forager := rfl
@[simp] theorem Dev.setSlot_link (d : Dev) (i : Nat) (v : StagSlot) : (d.setSlot i v).link = d.link := rfl
@[simp] theorem Dev.setSlot_power (d : Dev) (i : Nat) (v : StagSlot) : (d.setSlot i v).power = d.power := rfl
@[simp] theorem Dev.setSlot_firefly (d : Dev) (i : Nat) (v : StagSlot) : (d.setSlot i v).firefly = d.firefly := rfl
@[simp] theorem Dev.setSlot_enPend (d : Dev) (i : Nat) (v : StagSlot) : (d.setSlot i v).enPend = d.enPend := rfl
@[simp] theorem Dev.setSlot_freeCtr (d : Dev) (i : Nat) (v : StagSlot) : (d.setSlot i v).freeCtr = d.freeCtr := rfl

@[simp] theorem Dev.popStag_regs (d : Dev) (rest : List QDesc) : (d.popStag rest).regs = d.regs := rfl
@[simp] theorem Dev.popStag_bus (d : Dev) (rest : List QDesc) : (d.popStag rest).bus = d.bus := rfl
@[simp] theorem Dev.popStag_module (d : Dev) (rest : List QDesc) : (d.popStag rest).module = d.module := rfl
@[simp] theorem Dev.popStag_apex (d : Dev) (rest : List QDesc) : (d.popStag rest).apex = d.apex := rfl
@[simp] theorem Dev.popStag_ascent (d : Dev) (rest : List QDesc) : (d.popStag rest).ascent = d.ascent := rfl
@[simp] theorem Dev.popStag_trust (d : Dev) (rest : List QDesc) : (d.popStag rest).trust = d.trust := rfl
@[simp] theorem Dev.popStag_host (d : Dev) (rest : List QDesc) : (d.popStag rest).host = d.host := rfl
@[simp] theorem Dev.popStag_mem (d : Dev) (rest : List QDesc) : (d.popStag rest).mem = d.mem := rfl
@[simp] theorem Dev.popStag_cricket (d : Dev) (rest : List QDesc) : (d.popStag rest).cricket = d.cricket := rfl
@[simp] theorem Dev.popStag_massif (d : Dev) (rest : List QDesc) : (d.popStag rest).massif = d.massif := rfl
@[simp] theorem Dev.popStag_weevil (d : Dev) (rest : List QDesc) : (d.popStag rest).weevil = d.weevil := rfl
@[simp] theorem Dev.popStag_col (d : Dev) (rest : List QDesc) : (d.popStag rest).col = d.col := rfl
@[simp] theorem Dev.popStag_scarab (d : Dev) (rest : List QDesc) : (d.popStag rest).scarab = d.scarab := rfl
@[simp] theorem Dev.popStag_talus (d : Dev) (rest : List QDesc) : (d.popStag rest).talus = d.talus := rfl
@[simp] theorem Dev.popStag_hive (d : Dev) (rest : List QDesc) : (d.popStag rest).hive = d.hive := rfl
@[simp] theorem Dev.popStag_forager (d : Dev) (rest : List QDesc) : (d.popStag rest).forager = d.forager := rfl
@[simp] theorem Dev.popStag_link (d : Dev) (rest : List QDesc) : (d.popStag rest).link = d.link := rfl
@[simp] theorem Dev.popStag_power (d : Dev) (rest : List QDesc) : (d.popStag rest).power = d.power := rfl
@[simp] theorem Dev.popStag_firefly (d : Dev) (rest : List QDesc) : (d.popStag rest).firefly = d.firefly := rfl
@[simp] theorem Dev.popStag_enPend (d : Dev) (rest : List QDesc) : (d.popStag rest).enPend = d.enPend := rfl
@[simp] theorem Dev.popStag_freeCtr (d : Dev) (rest : List QDesc) : (d.popStag rest).freeCtr = d.freeCtr := rfl

@[simp] theorem Dev.setFeed_regs (d : Dev) (f : Nat) (v : Feed) : (d.setFeed f v).regs = d.regs := rfl
@[simp] theorem Dev.setFeed_bus (d : Dev) (f : Nat) (v : Feed) : (d.setFeed f v).bus = d.bus := rfl
@[simp] theorem Dev.setFeed_module (d : Dev) (f : Nat) (v : Feed) : (d.setFeed f v).module = d.module := rfl
@[simp] theorem Dev.setFeed_apex (d : Dev) (f : Nat) (v : Feed) : (d.setFeed f v).apex = d.apex := rfl
@[simp] theorem Dev.setFeed_ascent (d : Dev) (f : Nat) (v : Feed) : (d.setFeed f v).ascent = d.ascent := rfl
@[simp] theorem Dev.setFeed_trust (d : Dev) (f : Nat) (v : Feed) : (d.setFeed f v).trust = d.trust := rfl
@[simp] theorem Dev.setFeed_host (d : Dev) (f : Nat) (v : Feed) : (d.setFeed f v).host = d.host := rfl
@[simp] theorem Dev.setFeed_mem (d : Dev) (f : Nat) (v : Feed) : (d.setFeed f v).mem = d.mem := rfl
@[simp] theorem Dev.setFeed_cricket (d : Dev) (f : Nat) (v : Feed) : (d.setFeed f v).cricket = d.cricket := rfl
@[simp] theorem Dev.setFeed_massif (d : Dev) (f : Nat) (v : Feed) : (d.setFeed f v).massif = d.massif := rfl
@[simp] theorem Dev.setFeed_weevil (d : Dev) (f : Nat) (v : Feed) : (d.setFeed f v).weevil = d.weevil := rfl
@[simp] theorem Dev.setFeed_col (d : Dev) (f : Nat) (v : Feed) : (d.setFeed f v).col = d.col := rfl
@[simp] theorem Dev.setFeed_scarab (d : Dev) (f : Nat) (v : Feed) : (d.setFeed f v).scarab = d.scarab := rfl
@[simp] theorem Dev.setFeed_talus (d : Dev) (f : Nat) (v : Feed) : (d.setFeed f v).talus = d.talus := rfl
@[simp] theorem Dev.setFeed_stag (d : Dev) (f : Nat) (v : Feed) : (d.setFeed f v).stag = d.stag := rfl
@[simp] theorem Dev.setFeed_hive (d : Dev) (f : Nat) (v : Feed) : (d.setFeed f v).hive = d.hive := rfl
@[simp] theorem Dev.setFeed_link (d : Dev) (f : Nat) (v : Feed) : (d.setFeed f v).link = d.link := rfl
@[simp] theorem Dev.setFeed_power (d : Dev) (f : Nat) (v : Feed) : (d.setFeed f v).power = d.power := rfl
@[simp] theorem Dev.setFeed_firefly (d : Dev) (f : Nat) (v : Feed) : (d.setFeed f v).firefly = d.firefly := rfl
@[simp] theorem Dev.setFeed_enPend (d : Dev) (f : Nat) (v : Feed) : (d.setFeed f v).enPend = d.enPend := rfl
@[simp] theorem Dev.setFeed_freeCtr (d : Dev) (f : Nat) (v : Feed) : (d.setFeed f v).freeCtr = d.freeCtr := rfl

@[simp] theorem Dev.setStream_regs (d : Dev) (i : Nat) (v : Stream) : (d.setStream i v).regs = d.regs := rfl
@[simp] theorem Dev.setStream_bus (d : Dev) (i : Nat) (v : Stream) : (d.setStream i v).bus = d.bus := rfl
@[simp] theorem Dev.setStream_module (d : Dev) (i : Nat) (v : Stream) : (d.setStream i v).module = d.module := rfl
@[simp] theorem Dev.setStream_apex (d : Dev) (i : Nat) (v : Stream) : (d.setStream i v).apex = d.apex := rfl
@[simp] theorem Dev.setStream_ascent (d : Dev) (i : Nat) (v : Stream) : (d.setStream i v).ascent = d.ascent := rfl
@[simp] theorem Dev.setStream_trust (d : Dev) (i : Nat) (v : Stream) : (d.setStream i v).trust = d.trust := rfl
@[simp] theorem Dev.setStream_host (d : Dev) (i : Nat) (v : Stream) : (d.setStream i v).host = d.host := rfl
@[simp] theorem Dev.setStream_mem (d : Dev) (i : Nat) (v : Stream) : (d.setStream i v).mem = d.mem := rfl
@[simp] theorem Dev.setStream_cricket (d : Dev) (i : Nat) (v : Stream) : (d.setStream i v).cricket = d.cricket := rfl
@[simp] theorem Dev.setStream_massif (d : Dev) (i : Nat) (v : Stream) : (d.setStream i v).massif = d.massif := rfl
@[simp] theorem Dev.setStream_weevil (d : Dev) (i : Nat) (v : Stream) : (d.setStream i v).weevil = d.weevil := rfl
@[simp] theorem Dev.setStream_col (d : Dev) (i : Nat) (v : Stream) : (d.setStream i v).col = d.col := rfl
@[simp] theorem Dev.setStream_scarab (d : Dev) (i : Nat) (v : Stream) : (d.setStream i v).scarab = d.scarab := rfl
@[simp] theorem Dev.setStream_talus (d : Dev) (i : Nat) (v : Stream) : (d.setStream i v).talus = d.talus := rfl
@[simp] theorem Dev.setStream_stag (d : Dev) (i : Nat) (v : Stream) : (d.setStream i v).stag = d.stag := rfl
@[simp] theorem Dev.setStream_hive (d : Dev) (i : Nat) (v : Stream) : (d.setStream i v).hive = d.hive := rfl
@[simp] theorem Dev.setStream_link (d : Dev) (i : Nat) (v : Stream) : (d.setStream i v).link = d.link := rfl
@[simp] theorem Dev.setStream_power (d : Dev) (i : Nat) (v : Stream) : (d.setStream i v).power = d.power := rfl
@[simp] theorem Dev.setStream_firefly (d : Dev) (i : Nat) (v : Stream) : (d.setStream i v).firefly = d.firefly := rfl
@[simp] theorem Dev.setStream_enPend (d : Dev) (i : Nat) (v : Stream) : (d.setStream i v).enPend = d.enPend := rfl
@[simp] theorem Dev.setStream_freeCtr (d : Dev) (i : Nat) (v : Stream) : (d.setStream i v).freeCtr = d.freeCtr := rfl

@[simp] theorem Dev.setPort_regs (d : Dev) (p : Nat) (v : Port) : (d.setPort p v).regs = d.regs := rfl
@[simp] theorem Dev.setPort_bus (d : Dev) (p : Nat) (v : Port) : (d.setPort p v).bus = d.bus := rfl
@[simp] theorem Dev.setPort_module (d : Dev) (p : Nat) (v : Port) : (d.setPort p v).module = d.module := rfl
@[simp] theorem Dev.setPort_apex (d : Dev) (p : Nat) (v : Port) : (d.setPort p v).apex = d.apex := rfl
@[simp] theorem Dev.setPort_ascent (d : Dev) (p : Nat) (v : Port) : (d.setPort p v).ascent = d.ascent := rfl
@[simp] theorem Dev.setPort_trust (d : Dev) (p : Nat) (v : Port) : (d.setPort p v).trust = d.trust := rfl
@[simp] theorem Dev.setPort_host (d : Dev) (p : Nat) (v : Port) : (d.setPort p v).host = d.host := rfl
@[simp] theorem Dev.setPort_mem (d : Dev) (p : Nat) (v : Port) : (d.setPort p v).mem = d.mem := rfl
@[simp] theorem Dev.setPort_cricket (d : Dev) (p : Nat) (v : Port) : (d.setPort p v).cricket = d.cricket := rfl
@[simp] theorem Dev.setPort_massif (d : Dev) (p : Nat) (v : Port) : (d.setPort p v).massif = d.massif := rfl
@[simp] theorem Dev.setPort_weevil (d : Dev) (p : Nat) (v : Port) : (d.setPort p v).weevil = d.weevil := rfl
@[simp] theorem Dev.setPort_col (d : Dev) (p : Nat) (v : Port) : (d.setPort p v).col = d.col := rfl
@[simp] theorem Dev.setPort_scarab (d : Dev) (p : Nat) (v : Port) : (d.setPort p v).scarab = d.scarab := rfl
@[simp] theorem Dev.setPort_talus (d : Dev) (p : Nat) (v : Port) : (d.setPort p v).talus = d.talus := rfl
@[simp] theorem Dev.setPort_stag (d : Dev) (p : Nat) (v : Port) : (d.setPort p v).stag = d.stag := rfl
@[simp] theorem Dev.setPort_hive (d : Dev) (p : Nat) (v : Port) : (d.setPort p v).hive = d.hive := rfl
@[simp] theorem Dev.setPort_forager (d : Dev) (p : Nat) (v : Port) : (d.setPort p v).forager = d.forager := rfl
@[simp] theorem Dev.setPort_power (d : Dev) (p : Nat) (v : Port) : (d.setPort p v).power = d.power := rfl
@[simp] theorem Dev.setPort_firefly (d : Dev) (p : Nat) (v : Port) : (d.setPort p v).firefly = d.firefly := rfl
@[simp] theorem Dev.setPort_enPend (d : Dev) (p : Nat) (v : Port) : (d.setPort p v).enPend = d.enPend := rfl
@[simp] theorem Dev.setPort_freeCtr (d : Dev) (p : Nat) (v : Port) : (d.setPort p v).freeCtr = d.freeCtr := rfl

@[simp] theorem Dev.setIrqState_regs (d : Dev) (n : Nat) (v : IrqState) : (d.setIrqState n v).regs = d.regs := rfl
@[simp] theorem Dev.setIrqState_bus (d : Dev) (n : Nat) (v : IrqState) : (d.setIrqState n v).bus = d.bus := rfl
@[simp] theorem Dev.setIrqState_module (d : Dev) (n : Nat) (v : IrqState) : (d.setIrqState n v).module = d.module := rfl
@[simp] theorem Dev.setIrqState_apex (d : Dev) (n : Nat) (v : IrqState) : (d.setIrqState n v).apex = d.apex := rfl
@[simp] theorem Dev.setIrqState_ascent (d : Dev) (n : Nat) (v : IrqState) : (d.setIrqState n v).ascent = d.ascent := rfl
@[simp] theorem Dev.setIrqState_trust (d : Dev) (n : Nat) (v : IrqState) : (d.setIrqState n v).trust = d.trust := rfl
@[simp] theorem Dev.setIrqState_host (d : Dev) (n : Nat) (v : IrqState) : (d.setIrqState n v).host = d.host := rfl
@[simp] theorem Dev.setIrqState_mem (d : Dev) (n : Nat) (v : IrqState) : (d.setIrqState n v).mem = d.mem := rfl
@[simp] theorem Dev.setIrqState_cricket (d : Dev) (n : Nat) (v : IrqState) : (d.setIrqState n v).cricket = d.cricket := rfl
@[simp] theorem Dev.setIrqState_massif (d : Dev) (n : Nat) (v : IrqState) : (d.setIrqState n v).massif = d.massif := rfl
@[simp] theorem Dev.setIrqState_weevil (d : Dev) (n : Nat) (v : IrqState) : (d.setIrqState n v).weevil = d.weevil := rfl
@[simp] theorem Dev.setIrqState_col (d : Dev) (n : Nat) (v : IrqState) : (d.setIrqState n v).col = d.col := rfl
@[simp] theorem Dev.setIrqState_scarab (d : Dev) (n : Nat) (v : IrqState) : (d.setIrqState n v).scarab = d.scarab := rfl
@[simp] theorem Dev.setIrqState_talus (d : Dev) (n : Nat) (v : IrqState) : (d.setIrqState n v).talus = d.talus := rfl
@[simp] theorem Dev.setIrqState_stag (d : Dev) (n : Nat) (v : IrqState) : (d.setIrqState n v).stag = d.stag := rfl
@[simp] theorem Dev.setIrqState_hive (d : Dev) (n : Nat) (v : IrqState) : (d.setIrqState n v).hive = d.hive := rfl
@[simp] theorem Dev.setIrqState_forager (d : Dev) (n : Nat) (v : IrqState) : (d.setIrqState n v).forager = d.forager := rfl
@[simp] theorem Dev.setIrqState_link (d : Dev) (n : Nat) (v : IrqState) : (d.setIrqState n v).link = d.link := rfl
@[simp] theorem Dev.setIrqState_power (d : Dev) (n : Nat) (v : IrqState) : (d.setIrqState n v).power = d.power := rfl
@[simp] theorem Dev.setIrqState_enPend (d : Dev) (n : Nat) (v : IrqState) : (d.setIrqState n v).enPend = d.enPend := rfl
@[simp] theorem Dev.setIrqState_freeCtr (d : Dev) (n : Nat) (v : IrqState) : (d.setIrqState n v).freeCtr = d.freeCtr := rfl

@[simp] theorem Dev.setStkOp_regs (d : Dev) (i : Nat) (o : Option StkOp) : (d.setStkOp i o).regs = d.regs := rfl
@[simp] theorem Dev.setStkOp_bus (d : Dev) (i : Nat) (o : Option StkOp) : (d.setStkOp i o).bus = d.bus := rfl
@[simp] theorem Dev.setStkOp_module (d : Dev) (i : Nat) (o : Option StkOp) : (d.setStkOp i o).module = d.module := rfl
@[simp] theorem Dev.setStkOp_apex (d : Dev) (i : Nat) (o : Option StkOp) : (d.setStkOp i o).apex = d.apex := rfl
@[simp] theorem Dev.setStkOp_ascent (d : Dev) (i : Nat) (o : Option StkOp) : (d.setStkOp i o).ascent = d.ascent := rfl
@[simp] theorem Dev.setStkOp_trust (d : Dev) (i : Nat) (o : Option StkOp) : (d.setStkOp i o).trust = d.trust := rfl
@[simp] theorem Dev.setStkOp_host (d : Dev) (i : Nat) (o : Option StkOp) : (d.setStkOp i o).host = d.host := rfl
@[simp] theorem Dev.setStkOp_cricket (d : Dev) (i : Nat) (o : Option StkOp) : (d.setStkOp i o).cricket = d.cricket := rfl
@[simp] theorem Dev.setStkOp_massif (d : Dev) (i : Nat) (o : Option StkOp) : (d.setStkOp i o).massif = d.massif := rfl
@[simp] theorem Dev.setStkOp_weevil (d : Dev) (i : Nat) (o : Option StkOp) : (d.setStkOp i o).weevil = d.weevil := rfl
@[simp] theorem Dev.setStkOp_col (d : Dev) (i : Nat) (o : Option StkOp) : (d.setStkOp i o).col = d.col := rfl
@[simp] theorem Dev.setStkOp_scarab (d : Dev) (i : Nat) (o : Option StkOp) : (d.setStkOp i o).scarab = d.scarab := rfl
@[simp] theorem Dev.setStkOp_talus (d : Dev) (i : Nat) (o : Option StkOp) : (d.setStkOp i o).talus = d.talus := rfl
@[simp] theorem Dev.setStkOp_stag (d : Dev) (i : Nat) (o : Option StkOp) : (d.setStkOp i o).stag = d.stag := rfl
@[simp] theorem Dev.setStkOp_hive (d : Dev) (i : Nat) (o : Option StkOp) : (d.setStkOp i o).hive = d.hive := rfl
@[simp] theorem Dev.setStkOp_forager (d : Dev) (i : Nat) (o : Option StkOp) : (d.setStkOp i o).forager = d.forager := rfl
@[simp] theorem Dev.setStkOp_link (d : Dev) (i : Nat) (o : Option StkOp) : (d.setStkOp i o).link = d.link := rfl
@[simp] theorem Dev.setStkOp_power (d : Dev) (i : Nat) (o : Option StkOp) : (d.setStkOp i o).power = d.power := rfl
@[simp] theorem Dev.setStkOp_firefly (d : Dev) (i : Nat) (o : Option StkOp) : (d.setStkOp i o).firefly = d.firefly := rfl
@[simp] theorem Dev.setStkOp_enPend (d : Dev) (i : Nat) (o : Option StkOp) : (d.setStkOp i o).enPend = d.enPend := rfl
@[simp] theorem Dev.setStkOp_freeCtr (d : Dev) (i : Nat) (o : Option StkOp) : (d.setStkOp i o).freeCtr = d.freeCtr := rfl

@[simp] theorem Dev.postDone_regs (d : Dev) (fn : Nat) (c : Completion) : (d.postDone fn c).regs = d.regs := rfl
@[simp] theorem Dev.postDone_bus (d : Dev) (fn : Nat) (c : Completion) : (d.postDone fn c).bus = d.bus := rfl
@[simp] theorem Dev.postDone_module (d : Dev) (fn : Nat) (c : Completion) : (d.postDone fn c).module = d.module := rfl
@[simp] theorem Dev.postDone_apex (d : Dev) (fn : Nat) (c : Completion) : (d.postDone fn c).apex = d.apex := rfl
@[simp] theorem Dev.postDone_ascent (d : Dev) (fn : Nat) (c : Completion) : (d.postDone fn c).ascent = d.ascent := rfl
@[simp] theorem Dev.postDone_trust (d : Dev) (fn : Nat) (c : Completion) : (d.postDone fn c).trust = d.trust := rfl
@[simp] theorem Dev.postDone_mem (d : Dev) (fn : Nat) (c : Completion) : (d.postDone fn c).mem = d.mem := rfl
@[simp] theorem Dev.postDone_cricket (d : Dev) (fn : Nat) (c : Completion) : (d.postDone fn c).cricket = d.cricket := rfl
@[simp] theorem Dev.postDone_massif (d : Dev) (fn : Nat) (c : Completion) : (d.postDone fn c).massif = d.massif := rfl
@[simp] theorem Dev.postDone_weevil (d : Dev) (fn : Nat) (c : Completion) : (d.postDone fn c).weevil = d.weevil := rfl
@[simp] theorem Dev.postDone_col (d : Dev) (fn : Nat) (c : Completion) : (d.postDone fn c).col = d.col := rfl
@[simp] theorem Dev.postDone_scarab (d : Dev) (fn : Nat) (c : Completion) : (d.postDone fn c).scarab = d.scarab := rfl
@[simp] theorem Dev.postDone_talus (d : Dev) (fn : Nat) (c : Completion) : (d.postDone fn c).talus = d.talus := rfl
@[simp] theorem Dev.postDone_stag (d : Dev) (fn : Nat) (c : Completion) : (d.postDone fn c).stag = d.stag := rfl
@[simp] theorem Dev.postDone_hive (d : Dev) (fn : Nat) (c : Completion) : (d.postDone fn c).hive = d.hive := rfl
@[simp] theorem Dev.postDone_forager (d : Dev) (fn : Nat) (c : Completion) : (d.postDone fn c).forager = d.forager := rfl
@[simp] theorem Dev.postDone_link (d : Dev) (fn : Nat) (c : Completion) : (d.postDone fn c).link = d.link := rfl
@[simp] theorem Dev.postDone_power (d : Dev) (fn : Nat) (c : Completion) : (d.postDone fn c).power = d.power := rfl
@[simp] theorem Dev.postDone_firefly (d : Dev) (fn : Nat) (c : Completion) : (d.postDone fn c).firefly = d.firefly := rfl
@[simp] theorem Dev.postDone_enPend (d : Dev) (fn : Nat) (c : Completion) : (d.postDone fn c).enPend = d.enPend := rfl
@[simp] theorem Dev.postDone_freeCtr (d : Dev) (fn : Nat) (c : Completion) : (d.postDone fn c).freeCtr = d.freeCtr := rfl

@[simp] theorem Dev.popFetched_regs (d : Dev) (fn : Nat) : (d.popFetched fn).regs = d.regs := rfl
@[simp] theorem Dev.popFetched_bus (d : Dev) (fn : Nat) : (d.popFetched fn).bus = d.bus := rfl
@[simp] theorem Dev.popFetched_module (d : Dev) (fn : Nat) : (d.popFetched fn).module = d.module := rfl
@[simp] theorem Dev.popFetched_apex (d : Dev) (fn : Nat) : (d.popFetched fn).apex = d.apex := rfl
@[simp] theorem Dev.popFetched_ascent (d : Dev) (fn : Nat) : (d.popFetched fn).ascent = d.ascent := rfl
@[simp] theorem Dev.popFetched_trust (d : Dev) (fn : Nat) : (d.popFetched fn).trust = d.trust := rfl
@[simp] theorem Dev.popFetched_mem (d : Dev) (fn : Nat) : (d.popFetched fn).mem = d.mem := rfl
@[simp] theorem Dev.popFetched_cricket (d : Dev) (fn : Nat) : (d.popFetched fn).cricket = d.cricket := rfl
@[simp] theorem Dev.popFetched_massif (d : Dev) (fn : Nat) : (d.popFetched fn).massif = d.massif := rfl
@[simp] theorem Dev.popFetched_weevil (d : Dev) (fn : Nat) : (d.popFetched fn).weevil = d.weevil := rfl
@[simp] theorem Dev.popFetched_col (d : Dev) (fn : Nat) : (d.popFetched fn).col = d.col := rfl
@[simp] theorem Dev.popFetched_scarab (d : Dev) (fn : Nat) : (d.popFetched fn).scarab = d.scarab := rfl
@[simp] theorem Dev.popFetched_talus (d : Dev) (fn : Nat) : (d.popFetched fn).talus = d.talus := rfl
@[simp] theorem Dev.popFetched_stag (d : Dev) (fn : Nat) : (d.popFetched fn).stag = d.stag := rfl
@[simp] theorem Dev.popFetched_hive (d : Dev) (fn : Nat) : (d.popFetched fn).hive = d.hive := rfl
@[simp] theorem Dev.popFetched_forager (d : Dev) (fn : Nat) : (d.popFetched fn).forager = d.forager := rfl
@[simp] theorem Dev.popFetched_link (d : Dev) (fn : Nat) : (d.popFetched fn).link = d.link := rfl
@[simp] theorem Dev.popFetched_power (d : Dev) (fn : Nat) : (d.popFetched fn).power = d.power := rfl
@[simp] theorem Dev.popFetched_firefly (d : Dev) (fn : Nat) : (d.popFetched fn).firefly = d.firefly := rfl
@[simp] theorem Dev.popFetched_enPend (d : Dev) (fn : Nat) : (d.popFetched fn).enPend = d.enPend := rfl
@[simp] theorem Dev.popFetched_freeCtr (d : Dev) (fn : Nat) : (d.popFetched fn).freeCtr = d.freeCtr := rfl

@[simp] theorem Dev.answer_regs (d : Dev) (bs : List Byte) : (d.answer bs).regs = d.regs := rfl
@[simp] theorem Dev.answer_module (d : Dev) (bs : List Byte) : (d.answer bs).module = d.module := rfl
@[simp] theorem Dev.answer_apex (d : Dev) (bs : List Byte) : (d.answer bs).apex = d.apex := rfl
@[simp] theorem Dev.answer_ascent (d : Dev) (bs : List Byte) : (d.answer bs).ascent = d.ascent := rfl
@[simp] theorem Dev.answer_trust (d : Dev) (bs : List Byte) : (d.answer bs).trust = d.trust := rfl
@[simp] theorem Dev.answer_host (d : Dev) (bs : List Byte) : (d.answer bs).host = d.host := rfl
@[simp] theorem Dev.answer_mem (d : Dev) (bs : List Byte) : (d.answer bs).mem = d.mem := rfl
@[simp] theorem Dev.answer_cricket (d : Dev) (bs : List Byte) : (d.answer bs).cricket = d.cricket := rfl
@[simp] theorem Dev.answer_massif (d : Dev) (bs : List Byte) : (d.answer bs).massif = d.massif := rfl
@[simp] theorem Dev.answer_weevil (d : Dev) (bs : List Byte) : (d.answer bs).weevil = d.weevil := rfl
@[simp] theorem Dev.answer_col (d : Dev) (bs : List Byte) : (d.answer bs).col = d.col := rfl
@[simp] theorem Dev.answer_scarab (d : Dev) (bs : List Byte) : (d.answer bs).scarab = d.scarab := rfl
@[simp] theorem Dev.answer_talus (d : Dev) (bs : List Byte) : (d.answer bs).talus = d.talus := rfl
@[simp] theorem Dev.answer_stag (d : Dev) (bs : List Byte) : (d.answer bs).stag = d.stag := rfl
@[simp] theorem Dev.answer_hive (d : Dev) (bs : List Byte) : (d.answer bs).hive = d.hive := rfl
@[simp] theorem Dev.answer_forager (d : Dev) (bs : List Byte) : (d.answer bs).forager = d.forager := rfl
@[simp] theorem Dev.answer_link (d : Dev) (bs : List Byte) : (d.answer bs).link = d.link := rfl
@[simp] theorem Dev.answer_power (d : Dev) (bs : List Byte) : (d.answer bs).power = d.power := rfl
@[simp] theorem Dev.answer_firefly (d : Dev) (bs : List Byte) : (d.answer bs).firefly = d.firefly := rfl
@[simp] theorem Dev.answer_enPend (d : Dev) (bs : List Byte) : (d.answer bs).enPend = d.enPend := rfl
@[simp] theorem Dev.answer_freeCtr (d : Dev) (bs : List Byte) : (d.answer bs).freeCtr = d.freeCtr := rfl

@[simp] theorem Dev.weevilPop_regs (d : Dev) : d.weevilPop.regs = d.regs := rfl
@[simp] theorem Dev.weevilPop_bus (d : Dev) : d.weevilPop.bus = d.bus := rfl
@[simp] theorem Dev.weevilPop_module (d : Dev) : d.weevilPop.module = d.module := rfl
@[simp] theorem Dev.weevilPop_apex (d : Dev) : d.weevilPop.apex = d.apex := rfl
@[simp] theorem Dev.weevilPop_ascent (d : Dev) : d.weevilPop.ascent = d.ascent := rfl
@[simp] theorem Dev.weevilPop_trust (d : Dev) : d.weevilPop.trust = d.trust := rfl
@[simp] theorem Dev.weevilPop_host (d : Dev) : d.weevilPop.host = d.host := rfl
@[simp] theorem Dev.weevilPop_mem (d : Dev) : d.weevilPop.mem = d.mem := rfl
@[simp] theorem Dev.weevilPop_cricket (d : Dev) : d.weevilPop.cricket = d.cricket := rfl
@[simp] theorem Dev.weevilPop_massif (d : Dev) : d.weevilPop.massif = d.massif := rfl
@[simp] theorem Dev.weevilPop_col (d : Dev) : d.weevilPop.col = d.col := rfl
@[simp] theorem Dev.weevilPop_scarab (d : Dev) : d.weevilPop.scarab = d.scarab := rfl
@[simp] theorem Dev.weevilPop_talus (d : Dev) : d.weevilPop.talus = d.talus := rfl
@[simp] theorem Dev.weevilPop_stag (d : Dev) : d.weevilPop.stag = d.stag := rfl
@[simp] theorem Dev.weevilPop_hive (d : Dev) : d.weevilPop.hive = d.hive := rfl
@[simp] theorem Dev.weevilPop_forager (d : Dev) : d.weevilPop.forager = d.forager := rfl
@[simp] theorem Dev.weevilPop_link (d : Dev) : d.weevilPop.link = d.link := rfl
@[simp] theorem Dev.weevilPop_power (d : Dev) : d.weevilPop.power = d.power := rfl
@[simp] theorem Dev.weevilPop_firefly (d : Dev) : d.weevilPop.firefly = d.firefly := rfl
@[simp] theorem Dev.weevilPop_enPend (d : Dev) : d.weevilPop.enPend = d.enPend := rfl
@[simp] theorem Dev.weevilPop_freeCtr (d : Dev) : d.weevilPop.freeCtr = d.freeCtr := rfl

/-! ### The state around the device -/

@[simp] theorem State.dev_mk (p : List Instr) (d : Dev) : (State.mk p d).dev = d := rfl
@[simp] theorem State.pending_mk (p : List Instr) (d : Dev) : (State.mk p d).pending = p := rfl

/-! ### Reading back -/

@[simp] theorem Dev.wvl_setWvl (d : Dev) (k : Nat) (v : Wvl) : (d.setWvl k v).wvl k = v := by
  simp [Dev.wvl, Dev.setWvl, SMap.get_set]
theorem Dev.wvl_setWvl_ne (d : Dev) {k n : Nat} (v : Wvl) (h : n ≠ k) : (d.setWvl k v).wvl n = d.wvl n := by
  simp [Dev.wvl, Dev.setWvl, SMap.get_set, h]

@[simp] theorem Dev.scb_setScb (d : Dev) (k : Nat) (v : Scb) : (d.setScb k v).scb k = v := by
  simp [Dev.scb, Dev.setScb, SMap.get_set]
theorem Dev.scb_setScb_ne (d : Dev) {k n : Nat} (v : Scb) (h : n ≠ k) : (d.setScb k v).scb n = d.scb n := by
  simp [Dev.scb, Dev.setScb, SMap.get_set, h]

@[simp] theorem Dev.tls_setTls (d : Dev) (k : Nat) (v : Tls) : (d.setTls k v).tls k = v := by
  simp [Dev.tls, Dev.setTls, SMap.get_set]
theorem Dev.tls_setTls_ne (d : Dev) {k n : Nat} (v : Tls) (h : n ≠ k) : (d.setTls k v).tls n = d.tls n := by
  simp [Dev.tls, Dev.setTls, SMap.get_set, h]

@[simp] theorem Dev.slot_setSlot (d : Dev) (k : Nat) (v : StagSlot) : (d.setSlot k v).slot k = v := by
  simp [Dev.slot, Dev.setSlot, SMap.get_set]
theorem Dev.slot_setSlot_ne (d : Dev) {k n : Nat} (v : StagSlot) (h : n ≠ k) : (d.setSlot k v).slot n = d.slot n := by
  simp [Dev.slot, Dev.setSlot, SMap.get_set, h]

@[simp] theorem Dev.feed_setFeed (d : Dev) (k : Nat) (v : Feed) : (d.setFeed k v).feed k = v := by
  simp [Dev.feed, Dev.setFeed, SMap.get_set]
theorem Dev.feed_setFeed_ne (d : Dev) {k n : Nat} (v : Feed) (h : n ≠ k) : (d.setFeed k v).feed n = d.feed n := by
  simp [Dev.feed, Dev.setFeed, SMap.get_set, h]

@[simp] theorem Dev.stream_setStream (d : Dev) (k : Nat) (v : Stream) : (d.setStream k v).stream k = v := by
  simp [Dev.stream, Dev.setStream, SMap.get_set]
theorem Dev.stream_setStream_ne (d : Dev) {k n : Nat} (v : Stream) (h : n ≠ k) : (d.setStream k v).stream n = d.stream n := by
  simp [Dev.stream, Dev.setStream, SMap.get_set, h]

@[simp] theorem Dev.port_setPort (d : Dev) (k : Nat) (v : Port) : (d.setPort k v).port k = v := by
  simp [Dev.port, Dev.setPort, SMap.get_set]
theorem Dev.port_setPort_ne (d : Dev) {k n : Nat} (v : Port) (h : n ≠ k) : (d.setPort k v).port n = d.port n := by
  simp [Dev.port, Dev.setPort, SMap.get_set, h]

@[simp] theorem Dev.irqState_setIrqState (d : Dev) (k : Nat) (v : IrqState) : (d.setIrqState k v).irqState k = v := by
  simp [Dev.irqState, Dev.setIrqState, SMap.get_set]
theorem Dev.irqState_setIrqState_ne (d : Dev) {k n : Nat} (v : IrqState) (h : n ≠ k) : (d.setIrqState k v).irqState n = d.irqState n := by
  simp [Dev.irqState, Dev.setIrqState, SMap.get_set, h]

@[simp] theorem Dev.bank_setBank (d : Dev) (c b : Nat) (v : Bank) : (d.setBank c b v).bank c b = v := by
  simp [Dev.bank, Dev.setBank, SMap.get_set]
theorem Dev.bank_setBank_ne (d : Dev) {c b x y : Nat} (v : Bank) (h : 2 * x + y ≠ 2 * c + b) :
    (d.setBank c b v).bank x y = d.bank x y := by
  simp [Dev.bank, Dev.setBank, SMap.get_set, h]

end Sys2Proof.Machine
end

