-- ==== Sys2Proof/Laws/Step.lean ====
section
/-!
SUPPORT. Every meaning is a function of the device: what holds of the function holds of the command.
-/
namespace Sys2Proof.Machine

theorem onDev_next {f : Dev → Dev} {s t : State} (h : onDev f s = .next t) : t = ⟨s.pending, f s.dev⟩ :=
  (Host.Outcome.next.inj h).symm

theorem onBeat_next {f : Dev → Dev} {s t : State} (h : onBeat f s = .next t) : t = ⟨s.pending, (f s.dev).noteDone⟩ :=
  (Host.Outcome.next.inj h).symm

theorem onDev_canon {f : Dev → Dev} {s t : State} (hf : s.dev.Canonical → (f s.dev).Canonical) (h : onDev f s = .next t)
    (hs : s.dev.Canonical) : t.dev.Canonical := by
  rw [onDev_next h]
  exact hf hs

theorem onBeat_canon {f : Dev → Dev} {s t : State} (hf : s.dev.Canonical → (f s.dev).Canonical) (h : onBeat f s = .next t)
    (hs : s.dev.Canonical) : t.dev.Canonical := by
  rw [onBeat_next h]
  exact Dev.noteDone_canon (hf hs)

theorem onDev_keeps {f : Dev → Dev} {s t : State} {ps qs : List Part} (hf : s.dev.KeepsBut qs (f s.dev))
    (h : onDev f s = .next t) (hs : (qs.all fun p => ps.contains p) = true) : s.dev.KeepsBut ps t.dev := by
  rw [onDev_next h]
  exact hf.mono hs

theorem onBeat_keeps {f : Dev → Dev} {s t : State} {ps qs rs : List Part} (hf : s.dev.KeepsBut qs (f s.dev))
    (hn : (f s.dev).KeepsBut rs (f s.dev).noteDone) (h : onBeat f s = .next t)
    (hs : (qs.all fun p => ps.contains p) = true) (hr : (rs.all fun p => ps.contains p) = true) :
    s.dev.KeepsBut ps t.dev := by
  rw [onBeat_next h]
  exact Dev.KeepsBut.then hn hr (hf.mono hs)

end Sys2Proof.Machine
end

