-- ==== Sys2Proof/WellFormed.lean ====
section
/-!
DEFINITION. What a sender can put into a command: the bounds of the operands that their types do not already keep (offsets
inside a BAR, tables of the right length, functions that exist). The meanings are total; a command that is not well formed is one
that no sender forms.
-/
namespace Sys2Proof

/-- Slots of BAR0's 64 MiB (R32). -/
def slotOk (slot : Nat) : Bool := decide (slot < 0x4000)

/-- The page of a reset's scope is a slot (R394, R396). -/
def ResetScope.wf : ResetScope → Bool
  | .page slot => slotOk slot
  | _ => true

/-- A BAR0 offset of a requester: 64 MiB for the PF and the control processors, 1 MiB for a VF, which is 1 to 15 (R365). -/
def Requester.addrOk (r : Requester) (a : Nat) : Bool :=
  match r with
  | .vf v => decide (v ≠ 0 ∧ a < 0x100000)
  | _ => decide (a < 0x4000000)

/-- A list of arrivals names physical cells, 0 to 4,607 (R387). -/
def arrivedOk (l : List (Nat × DWord)) : Bool := l.all (fun e => decide (e.1 < 4608))

/-- What a ring fetch brings: at most 64 descriptors of 64 bytes (R368). -/
def RingReply.wf : RingReply → Bool
  | .error => true
  | .fetched _ _ ds => decide (ds.length ≤ 64) && ds.all (fun b => b.length == 64)

/-- A transaction's payload fills the slots of LEN, at most 8 slots of 32 bytes (R312). -/
def Txn.wf (t : Txn) : Bool := t.payload.length == 32 * (t.lenTen.toNat % 16) && decide (t.lenTen.toNat % 16 ≤ 8)

/-- A telemetry sample has eight rails and three dies (R330). -/
def Telemetry.wf (t : Telemetry) : Bool := t.rails.length == 8 && t.dies.length == 3

/-- A well-formed command. -/
def Instr.wf : Instr → Bool
  | .vfFlr v => v != 0
  | .swarmPassEnd l | .unicastRepairEnd l => arrivedOk l
  | .ctrlReset _ slot _ _ | .ctrlEnable _ slot _ | .ctrlAbort _ slot _ => slotOk slot
  | .resetDrainEnd sc | .drainlimitExpiry sc | .resetRelease sc => sc.wf
  | .registerWrite r a _ _ | .readClear r a _ | .lowHalfRead r a | .unalignedRead r a _ => r.addrOk a
  | .bar2Read _ off len => decide (0 < len ∧ off + len ≤ 2 ^ 36)
  | .bar2Write _ off bs => decide (0 < bs.length ∧ off + bs.length ≤ 2 ^ 36)
  | .msixTableWrite fn e _ _ => decide (e < if fn = 0 then 2048 else 64)
  | .ringFetchReturn _ rsp => rsp.wf
  | .marginDone _ data => decide (data.length ≤ 2048)
  | .tgDone _ errs firsts => errs.length == 32 && firsts.length == 32
  | .flitData _ _ _ body => body.length == 256
  | .rwrite _ t | .rread _ t | .racc _ t | .linkSync _ t | .cpl _ t => t.wf
  | .beatmark _ t | .timeSync _ t _ _ | .timeDelayreq _ t _ | .timeDelayresp _ t => t.wf
  | .powerSample t => t.wf
  | .fcGateEnd counts => counts.length == 61
  | .vfeoi vf _ => vf != 0
  | .stackTempReading _ e => decide (-32768 ≤ e ∧ e < 32768)
  | .pwrenRise | .pwrenFall | .inputLimitCross _ | .inputMonitorStart _ | .bulkChargeDone | .pwrgdRise | .thermalTrip _
  | .tripLatchClear _ | .perstAssert | .perstDeassert _ _ | .pcieHotReset | .pcieLinkDown | .pfFlr | .clkinOk
  | .vcoCalibrationDone | .apexLock _ | .apexLockRetry | .dividerRelease | .blockResetRelease | .apexLockLoss | .fuseRead
  | .fuseReadDone | .firmwareVerifyDone | .recoveryGo _ _ | .pushVerifyDone | .flashProgramDone _ | .svncommit _ _
  | .fuseBlown | .swarmctrlGo _ _ | .swarmGatherEnd | .stage7Start | .stackTrainingStepEnd _ _ _ | .stage8Start
  | .surveyStart | .surveyEnd | .surveyctrlGo _ _ | .svcstateWrite _ _ | .cellresetGo _ _ | .clresetGo _ _
  | .cpctrlRun _ _ _ | .cpreset _ _ _ | .cpResetEnd _ | .mboxinWrite _ _ _ | .mboxoutWrite _ _ _ | .beatStart | .issueClose
  | .beatMarker | .admission | .foragerVote | .completionPost | .descriptorDispatch | .run _ | .cancel _ | .imgreg _
  | .imageRegistrationDone | .imgdereg _ | .matmul | .flankmm | .sync | .conv | .pool | .cropresize | .windowFetchEnd
  | .attn | .kvappend | .waveBegin _ | .waveFoldEnd _ | .exitAccept _ | .exitWriteEnd _ | .ringTileDeliver _
  | .massifOpComplete | .sigportWrite _ _ _ | .syncObjectWrite _ _ _ | .csdataRead _ _ _ | .csdataWrite _ _ _ | .weevilRun
  | .pwlload | .weevilDescComplete | .wvlNop _ | .wvlAdd _ | .wvlSub _ | .wvlMul _ | .wvlFma _ | .wvlMin _ | .wvlMax _
  | .wvlAbs _ | .wvlNeg _ | .wvlRcp _ | .wvlRsqrt _ | .wvlSqrt _ | .wvlExp _ | .wvlLog _ | .wvlAct _ | .wvlCmp _ | .wvlSel _
  | .wvlMov _ | .wvlTrn _ | .wvlRred _ | .wvlCred _ | .wvlRint _ | .wvlCvtw _ | .wvlCvtn _ | .wvlLd _ | .wvlSt _ | .wvlStn _
  | .wvlTwait _ | .wvlTrel _ | .wvlSeta _ | .wvlAdda _ | .wvlLoop _ | .wvlEndl _ | .wvlEnd _ | .pwldataAccess _ _ _
  | .trdataAccess _ _ _ | .place | .dual | .colDescComplete | .lnfwd _ | .rmsfwd _ | .smfwd _ | .lnbwd _ | .rmsbwd _
  | .smbwd _ | .bandsum _ | .statsave _ | .statload _ | .scarabDescComplete | .statdataAccess _ _ _ | .talusOpen _
  | .talusClose _ | .talusRelease _ | .spillEnd _ | .talusDescComplete | .copy | .copyComplete | .iadd32 _ | .iadd64 _
  | .iadd64s32 _ | .imax32 _ | .umax32 _ | .swap64 _ | .cas64 _ | .fadd32 _ | .pinCommit _ _ | .pinFetchDone _
  | .patrolScrubRead _ _ _ | .scrubGo _ _ _ | .scrubDone _ _ | .marginGo _ _ _ | .tgGo _ _ _ | .arm | .reduce | .update
  | .agreedWordsSend _ | .valueLinesSend _ | .shardConvert _ | .shardUpdate _ | .floatTreeAdd _ | .stagDescComplete
  | .microAdd | .microSub | .microMul | .microFma | .microDiv | .microSqrt | .microRsqrt | .microMin | .microMax
  | .microSign | .microAbs | .microNeg | .microSel | .microExp | .microLog | .microEnd | .hiveAdd _ | .hiveRetire _
  | .hivePause _ | .hiveResume _ | .hiveFork _ | .preemptGo _ _ | .tencfgEnabled _ _ _ | .contextSaveDone _
  | .contextLoadDone _ | .forcmdOpen _ | .forcmdList _ | .forcmdClose _ | .forcmdEncode _ | .feedCloseApply _
  | .warmupDone _ | .sampleDecodeStart _ _ | .sampleDecodeDone _ _ | .assemble | .assembleComplete | .streamEntryRead _
  | .streamLost _ | .strmctrlReopen _ _ _ | .encodeDone | .linkSignalDetect _ _ | .trainStepPass _ _ _ | .trainStepLimit _
  | .linkEnergyLoss _ | .identExchange _ _ _ _ _ | .codewordLockLoss _ | .recoveryLockRegained _ _ | .recoveryTimeout _
  | .replayBufferUe _ | .flitIdle _ _ _ | .flitNak _ _ _ | .ackTimeout _ | .requestTimeout _ _ | .timeSyncSend _ _
  | .routedataWrite _ _ | .clkoutctrlWrite _ _ | .fcGo _ _ | .irqSourceAssert _ | .irqSourceDeassert _ | .swset _ _
  | .swclr _ _ | .srccfgWrite _ _ _ | .claim _ _ | .eoi _ _ _ | .hosteoi _ _ | .getVersion _ _ | .getCapabilities _ _
  | .negotiateAlgorithms _ _ | .getDigests _ _ | .getCertificate _ _ | .challenge _ _ | .getMeasurements _ _ | .replayEnd _
  | .msixFunctionMask _ _ => true

end Sys2Proof
end

