-- ==== Sys2Proof/Tests/Slice0.lean ====
section
/-!
SUPPORT. The model's own tests: for every obligation with hypotheses a state and operands that meet them all together, path by path
(`test_hyps_...`), examples that the spec works out, and ill-formed commands that `Instr.wf` refuses.
-/
namespace Sys2Proof.Tests

open Sys2Proof.Machine
set_option maxRecDepth 100000
set_option Elab.async false

/-- A state with no command waiting. -/
def tS (d : Dev) : State := ⟨[], d⟩
def tM (m : ModuleSt) : State := tS { Dev.reset with module := m }
def tA (p : LockPhase) : Dev := { Dev.reset with apex := { ApexSt.reset with phase := p } }
def tStage (n : Nat) : Dev := Dev.reset.setNum ASC.STAGE n
def tAsc (a : AscentSt) (d : Dev := Dev.reset) : State := tS { d with ascent := a }
def tTrust (t : TrustSt) (d : Dev := Dev.reset) : State := tS { d with trust := t }
def tStk (o : StkOp) (k n : Nat) : State :=
  tS ({ Dev.reset with mem := { MemSt.reset with longOp := [(k, some o)] } }.setNum (STK.TRAINSTAT k) n)

theorem verify_no_magic (d : Dev) (h body : List Byte) (hm : fwMagicOk h = false) : d.verifyImage h body = .error 0xA0 := by
  unfold Dev.verifyImage
  rw [hm]
  rfl

/-- A header of no body for the tests: the magic number and the digest of nothing; a public key and a signature of zeros. -/
def tHdr : List Byte :=
  [0x57#8, 0x46#8, 0x37#8, 0x5A#8, 1#8] ++ List.replicate 0xA33 0#8 ++ sha3_384 [] ++ List.replicate 0x3598 0#8
def tFw (b : BootPhase) : TrustSt := { TrustSt.reset with boot := b, keySlots := [sha3_384 (fwPubkey tHdr)] }

theorem verify_ok (d : Dev) (h : List Byte) (h1 : fwMagicOk h = true) (h2 : d.trust.keySlots = [sha3_384 (fwPubkey h)])
    (h3 : d.trust.revoked = 0#4) (h4 : fwDigest h = sha3_384 []) (h5 : d.trust.fuseCtr ≤ fwSvn h)
    (h6 : Config.mldsaVerify (fwPubkey h) (sha3_384 (fwSigned h)) (fwSignature h) = true) : d.verifyImage h [] = .ok 0 := by
  have hk : d.keySlotOf h = some 0 := by
    unfold Dev.keySlotOf
    rw [h2, h3]
    rw [show List.range 4 = [0, 1, 2, 3] from rfl, List.find?_cons_of_pos]
    simp
  have hs : ¬fwSvn h < d.trust.fuseCtr := by omega
  unfold Dev.verifyImage
  simp [h1, hk, h4, h6, hs]

theorem getRange_setRange_all {α : Type} [DecidableEq α] (f : Nat → α) (vs : List α) :
    SMap.getRange f (SMap.setRange f [] 0 vs) 0 vs.length = vs := by
  unfold SMap.getRange
  apply List.ext_getElem
  · simp
  · intro i h1 h2
    simp only [List.length_map, List.length_range] at h1
    simp [SMap.get_setRange, h1]

theorem tHdr_length : tHdr.length = hdrSize := by decide +kernel
theorem tHdr_magic : fwMagicOk tHdr = true := by decide +kernel
theorem tHdr_digest : fwDigest tHdr = sha3_384 [] := by decide +kernel
theorem tHdr_body : fwBodyLen tHdr = 0 := by decide +kernel
theorem tHdr_svn : fwSvn tHdr = 0 := by decide +kernel
theorem tHdr_range (f : Nat → Byte) : bytesOf f (SMap.setRange f [] 0 tHdr) 0 hdrSize = tHdr := by
  have := getRange_setRange_all f tHdr
  rw [tHdr_length] at this
  exact this
theorem tHdr_none (f : Nat → Byte) (m : SMap Byte) (a : Nat) : bytesOf f m a 0 = [] := rfl

theorem test_hyps_ModulePower :
    (∃ (s : State), s.dev.module.monitorOn = true ∧ s.dev.module.inRange = true ∧ s.dev.module.trip = false ∧ s.dev.module.conv = false ∧ s.dev.module.bulk = .opened) ∧
    (∃ (s : State) (mv : Nat), 58000 ≤ mv ∧ mv ≤ 82000 ∧ s.dev.module.pwren = true ∧ s.dev.module.trip = false ∧ s.dev.module.conv = false ∧ s.dev.module.bulk = .opened) ∧
    (∃ (s : State), s.dev.module.bulk = .charging) ∧
    (∃ (s : State), s.dev.module.conv = true ∧ s.dev.module.pwrgd = false) ∧
    (∃ (s : State), s.dev.module.conv = true) ∧
    (∃ (s : State), s.dev.module.monitorOn = true ∧ s.dev.module.conv = true) ∧
    (∃ (s : State), s.dev.module.pwren = false) ∧
    (∃ (s : State), s.dev.module.inputMv < 40000) ∧
    (∃ (s : State), s.dev.module.pwrgd = true) := by
  refine ⟨?_, ?_, ?_, ?_, ?_, ?_, ?_, ?_, ?_⟩
  · exact ⟨tM { ModuleSt.reset with monitorOn := true, uvOk := true, ovOk := true, inputMv := 72000 }, by decide⟩
  · exact ⟨tM { ModuleSt.reset with pwren := true }, 58000, by decide⟩
  · exact ⟨tM { ModuleSt.reset with bulk := .charging }, by decide⟩
  · exact ⟨tM { ModuleSt.reset with conv := true }, by decide⟩
  · exact ⟨tM { ModuleSt.reset with conv := true, pwrgd := true }, by decide⟩
  · exact ⟨tM { ModuleSt.reset with conv := true, monitorOn := true }, by decide⟩
  · exact ⟨tS Dev.reset, by decide⟩
  · exact ⟨tM { ModuleSt.reset with inputMv := 39999 }, by decide⟩
  · exact ⟨tM { ModuleSt.reset with pwrgd := true }, by decide⟩

theorem test_hyps_StrapsLatch :
    (∃ (s : State), s.dev.module.pwrgd = true ∧ s.dev.module.perst = false ∧ s.dev.apex.phase ≠ .running) ∧
    (∃ (s : State), s.dev.module.pwrgd = false) := by
  refine ⟨?_, ?_⟩
  · exact ⟨tM { ModuleSt.reset with pwrgd := true }, by decide⟩
  · exact ⟨tS Dev.reset, by decide⟩

theorem test_hyps_ApexLock :
    (∃ (s : State), s.dev.apex.phase = .measuring) ∧
    (∃ (s : State), s.dev.apex.phase = .calibrating) ∧
    (∃ (s : State) (n : Nat), s.dev.apex.phase = .locking ∧ n < 2 ^ 32 ∧ s.dev.isFault APX.page = false) ∧
    (∃ (s : State), s.dev.apex.phase = .locking ∧ s.dev.module.pwrgd = true) ∧
    (∃ (s : State), s.dev.apex.phase = .locked) ∧
    (∃ (s : State), s.dev.apex.phase = .released ∧ s.dev.module.perst = true) ∧
    (∃ (s : State), (s.dev.apex.phase = .running ∨ s.dev.apex.phase = .released ∨ s.dev.apex.phase = .locked)) := by
  refine ⟨?_, ?_, ?_, ?_, ?_, ?_, ?_⟩
  · exact ⟨tS (tA .measuring), by decide⟩
  · exact ⟨tS (tA .calibrating), by decide⟩
  · exact ⟨tS (tA .locking), 4294967295, by decide⟩
  · exact ⟨tS { tA .locking with module := { ModuleSt.reset with pwrgd := true } }, by decide⟩
  · exact ⟨tS (tA .locked), by decide⟩
  · exact ⟨tS { tA .released with module := { ModuleSt.reset with perst := true } }, by decide⟩
  · exact ⟨tS (tA .locked), by decide⟩

theorem test_hyps_ClkoutAndCounters :
    (∃ (r : Requester) (v : Word), requesterIsPf r = true ∧ field v.toNat 5 0 ≤ 59 ∧ 72 ≤ divisor (field v.toNat 5 0) * (field v.toNat 31 16 + 1)) ∧
    (∃ (r : Requester) (v : Word), requesterIsPf r = true ∧ (59 < field v.toNat 5 0 ∨ divisor (field v.toNat 5 0) * (field v.toNat 31 16 + 1) < 72)) ∧
    (∃ (s : State) (r : Requester) (v : Word), requesterIsPf r = true ∧ s.dev.flag APX.FCCTRL 16 = false ∧ field v.toNat 15 0 ≠ 0) ∧
    (∃ (s : State), s.dev.flag APX.FCCTRL 16 = true) := by
  refine ⟨?_, ?_, ?_, ?_⟩
  · exact ⟨.host, 0x0047003B#32, by decide⟩
  · exact ⟨.cp 0, 0x0000003C#32, by decide⟩
  · exact ⟨tS Dev.reset, .host, 1#32, by decide⟩
  · exact ⟨tS (Dev.reset.setNum APX.FCCTRL 0x10001), by decide⟩

theorem test_hyps_FusesLoadTheMap :
    (∃ (s : State), s.dev.stage = 3 ∧ s.dev.findReset .device = none) ∧
    (∃ (s : State), s.dev.findReset .device ≠ none) ∧
    (∃ (s : State), s.dev.stage = 4) := by
  refine ⟨?_, ?_, ?_⟩
  · exact ⟨tS (tStage 3), by decide⟩
  · exact ⟨tAsc { AscentSt.reset with resets := [⟨.device, .drain, false, false⟩] }, by decide⟩
  · exact ⟨tS (tStage 4), by decide⟩

theorem test_hyps_SwarmPasses :
    (∃ (s : State) (r : Requester) (v : Word), requesterIsPf r = true ∧ s.dev.ascWritable = true ∧ s.dev.ascent.goUsed = false ∧ s.dev.stage = 5 ∧ s.dev.trust.boot = .running ∧ 1 ≤ field v.toNat 22 16 ∧ field v.toNat 22 16 ≤ 64 ∧ field v.toNat 15 12 ≠ 0 ∧ s.dev.num64 ASC.UCADDR % 4096 = 0) ∧
    (∃ (s : State) (n : Nat), s.dev.ascent.swarm = .pass n) ∧
    (∃ (s : State) (n : Nat), s.dev.ascent.swarm = .gather n ∧ s.dev.incomplete = []) ∧
    (∃ (s : State) (n : Nat), s.dev.ascent.swarm = .gather n ∧ s.dev.incomplete ≠ [] ∧ n < s.dev.fld ASC.SWARMCTRL 9 8) ∧
    (∃ (s : State) (n : Nat), s.dev.ascent.swarm = .gather n ∧ s.dev.incomplete ≠ [] ∧ s.dev.fld ASC.SWARMCTRL 9 8 ≤ n) ∧
    (∃ (s : State), s.dev.ascent.swarm = .repair) ∧
    (∃ (x : Nat) (f : Nat), x < 512 ∧ f < 9) ∧
    (∃ (x : Nat) (f : Nat) (y : _), x < 512 ∧ f < 9 ∧ y ≠ x) ∧
    (∃ (d : Dev) (x : Nat) (f : Nat), x < 512 ∧ f < 9 ∧ f = d.bypass x) ∧
    (∃ (d : Dev) (x : Nat) (f : Nat), x < 512 ∧ f < 9 ∧ f ≠ d.bypass x ∧ d.healthy x (d.bypass x) = true ∧ ¬(f = 8 ∧ x % 8 < 7 ∧ d.bypass (x + 1) = 0) ∧ ¬(f = 0 ∧ 0 < x % 8 ∧ d.bypass (x - 1) = 8)) ∧
    (∃ (d : Dev) (x : Nat) (f : Nat), x < 512 ∧ f < 9 ∧ f ≠ d.bypass x ∧ (d.healthy x (d.bypass x) = false ∨ (f = 8 ∧ x % 8 < 7 ∧ d.bypass (x + 1) = 0) ∨ (f = 0 ∧ 0 < x % 8 ∧ d.bypass (x - 1) = 8))) := by
  and_intros
  · exact ⟨tTrust { TrustSt.reset with boot := .running } (tStage 5), .host, 0x00401000#32, by decide⟩
  · exact ⟨tAsc { AscentSt.reset with swarm := .pass 1 }, 1, by decide⟩
  · exact ⟨tAsc { AscentSt.reset with swarm := .gather 1 }, 1, by decide⟩
  · exact ⟨tAsc { AscentSt.reset with swarm := .gather 1 } (Dev.reset.setNum ASC.SWARMCTRL 0x00010200), 1, by decide⟩
  · exact ⟨tAsc { AscentSt.reset with swarm := .gather 2 } (Dev.reset.setNum ASC.SWARMCTRL 0x00010200), 2, by decide⟩
  · exact ⟨tAsc { AscentSt.reset with swarm := .repair }, by decide⟩
  · exact ⟨511, 8, by decide⟩
  · exact ⟨511, 0, 510, by decide⟩
  · exact ⟨Dev.reset, 511, Dev.reset.bypass 511, by decide⟩
  · exact ⟨Dev.reset, 9, 3, by decide⟩
  · exact ⟨{ Dev.reset with ascent := { AscentSt.reset with swarmFaults := [(9, 1#9 <<< Dev.reset.bypass 9)] } }, 9, 3, by decide⟩

theorem test_hyps_StackTraining :
    (∃ (s : State), s.dev.stage = 6 ∧ s.dev.ascent.stage7 = false) ∧
    (∃ (s : State) (k : Fin 12) (o : StkOp), s.dev.stkOp k = some o ∧ (o = .train ∨ o = .retrain) ∧ s.dev.fld (STK.TRAINSTAT k) 3 0 < 9) ∧
    (∃ (s : State) (k : Fin 12) (o : StkOp), s.dev.stkOp k = some o ∧ (o = .train ∨ o = .retrain) ∧ s.dev.fld (STK.TRAINSTAT k) 3 0 = 9 ∧ s.dev.isFault (STK.page k) = false) ∧
    (∃ (s : State) (k : Fin 12) (o : StkOp), s.dev.stkOp k = some o ∧ (o = .train ∨ o = .retrain) ∧ s.dev.fld (STK.TRAINSTAT k) 5 4 < 3) ∧
    (∃ (s : State) (k : Fin 12) (o : StkOp), s.dev.stkOp k = some o ∧ (o = .train ∨ o = .retrain) ∧ s.dev.fld (STK.TRAINSTAT k) 5 4 = 3) := by
  refine ⟨?_, ?_, ?_, ?_, ?_⟩
  · exact ⟨tS (tStage 6), by decide⟩
  · exact ⟨tStk .train 11 8, 11, .train, by decide⟩
  · exact ⟨tStk .retrain 0 9, 0, .retrain, by decide⟩
  · exact ⟨tStk .train 3 0x21, 3, .train, by decide⟩
  · exact ⟨tStk .train 3 0x35, 3, .train, by decide⟩

theorem test_hyps_LinksAndSurvey :
    (∃ (s : State), s.dev.ascent.stage7 = true ∧ s.dev.ascent.stage8 = false ∧ s.dev.rankValid = true) ∧
    (∃ (s : State), s.dev.ascent.stage8 = true ∧ s.dev.stage = 8 ∧ s.dev.ascent.surveying = false) ∧
    (∃ (s : State) (r : Requester), requesterIsPf r = true ∧ s.dev.ascent.stage8 = true ∧ s.dev.ascent.surveying = false) ∧
    (∃ (s : State), s.dev.ascent.surveying = true ∧ s.dev.policy ≠ 2 ∧ (∀ p, p < 24 → s.dev.portClass p = 0)) ∧
    (∃ (s : State), s.dev.ascent.surveying = true ∧ s.dev.policy = 2) ∧
    (∃ (s : State), s.dev.ascent.surveying = true ∧ s.dev.policy = 0 ∧ (∃ p, p < 24 ∧ s.dev.portClass p ≠ 0)) := by
  refine ⟨?_, ?_, ?_, ?_, ?_, ?_⟩
  · exact ⟨tAsc { AscentSt.reset with stage7 := true } (Dev.reset.setNum (LNK.RANKCFG 0) 0x8000), by decide⟩
  · exact ⟨tAsc { AscentSt.reset with stage8 := true } (tStage 8), by decide⟩
  · exact ⟨tAsc { AscentSt.reset with stage8 := true }, .host, by decide⟩
  · exact ⟨tAsc { AscentSt.reset with surveying := true }, by decide⟩
  · exact ⟨tAsc { AscentSt.reset with surveying := true } (Dev.reset.setNum ASC.POLICY 2), by decide⟩
  · exact ⟨tAsc { AscentSt.reset with surveying := true } (Dev.reset.setNum (ASC.EXPECT 23) 0x80000000), by decide⟩

theorem test_hyps_ServiceState :
    (∃ (s : State) (r : Requester) (v : Word), requesterIsPf r = true ∧ s.dev.enableInEffect CKT.page = false ∧ (s.dev.num ASC.SVCSTATE = 1 ∨ s.dev.num ASC.SVCSTATE = 2) ∧ (field v.toNat 1 0 = 1 ∨ field v.toNat 1 0 = 2)) ∧
    (∃ (s : State) (r : Requester) (v : Word), requesterIsPf r = true ∧ (s.dev.enableInEffect CKT.page = true ∨ s.dev.num ASC.SVCSTATE = 0 ∨ s.dev.num ASC.SVCSTATE = 3 ∨ field v.toNat 1 0 = 0 ∨ field v.toNat 1 0 = 3)) := by
  refine ⟨?_, ?_⟩
  · exact ⟨tS (Dev.reset.setNum ASC.SVCSTATE 1), .host, 2#32, by decide⟩
  · exact ⟨tS (Dev.reset.setNum ASC.SVCSTATE 3), .host, 1#32, by decide⟩

theorem test_hyps_FirmwareVerified :
    (∃ (s : State) (c : Nat), s.dev.trust.boot = .verifyFlash ∧ s.dev.module.bootsel = 0#2 ∧ s.dev.verifyImage (bytesOf ffByte s.dev.trust.flash 0 hdrSize) (bytesOf ffByte s.dev.trust.flash hdrSize (fwBodyLen (bytesOf ffByte s.dev.trust.flash 0 hdrSize))) = .error c) ∧
    (∃ (s : State), s.dev.trust.boot = .verifyFlash ∧ 1 ≤ s.dev.module.bootsel.toNat) ∧
    (∃ (s : State) (r : Requester) (v : Word), requesterIsPf r = true ∧ s.dev.trust.boot = .recovery ∧ s.dev.flag HST.RECOVERY 1 = false ∧ bit v.toNat 1 = true) ∧
    (∃ (s : State), s.dev.trust.boot = .verifyPush) ∧
    (∃ (s : State), s.dev.trust.boot = .programming) := by
  refine ⟨?_, ?_, ?_, ?_, ?_⟩
  · exact ⟨tTrust { TrustSt.reset with boot := .verifyFlash }, 0xA0, ⟨rfl, rfl, verify_no_magic _ _ _ (by decide +kernel)⟩⟩
  · exact ⟨tS { Dev.reset with trust := { TrustSt.reset with boot := .verifyFlash }, module := { ModuleSt.reset with bootsel := 1#2 } }, by decide⟩
  · exact ⟨tTrust { TrustSt.reset with boot := .recovery }, .host, 2#32, by decide⟩
  · exact ⟨tTrust { TrustSt.reset with boot := .verifyPush }, by decide⟩
  · exact ⟨tTrust { TrustSt.reset with boot := .programming }, by decide⟩

theorem test_hyps_PushedImage :
    (∃ (s : State) (r : Requester), requesterIsPf r = true ∧ s.dev.trust.boot = .recovery ∧ s.dev.flag HST.RECOVERY 1 = false) ∧
    (∃ (s : State) (r : Requester), requesterIsPf r = true ∧ s.dev.flag HST.RECOVERY 1 = true) ∧
    (∃ (s : State) (c : Nat), s.dev.trust.boot = .verifyPush ∧ s.dev.verifyImage (bytesOf zeroB s.dev.trust.hdrBuf 0 hdrSize) (bytesOf zeroB s.dev.trust.fwMem 0 (fwBodyLen (bytesOf zeroB s.dev.trust.hdrBuf 0 hdrSize))) = .error c) ∧
    (∃ (s : State), s.dev.trust.boot = .programming) := by
  refine ⟨?_, ?_, ?_, ?_⟩
  · exact ⟨tTrust { TrustSt.reset with boot := .recovery }, .host, by decide⟩
  · exact ⟨tS (Dev.reset.setNum HST.RECOVERY 2), .cp 1, by decide⟩
  · exact ⟨tTrust { TrustSt.reset with boot := .verifyPush }, 0xA0, ⟨rfl, verify_no_magic _ _ _ (by decide +kernel)⟩⟩
  · exact ⟨tTrust { TrustSt.reset with boot := .programming }, by decide⟩

theorem test_hyps_SecurityVersion :
    (∃ (s : State) (r : Requester) (v : Word), (r = .host ∨ r = .cp 0) ∧ s.dev.trust.fuseCtr < field v.toNat 7 0 ∧ field v.toNat 7 0 ≤ s.dev.fld TRU.SVN 7 0 ∧ field v.toNat 7 0 ≤ 64) ∧
    (∃ (s : State) (r : Requester) (v : Word), (r = .host ∨ r = .cp 0) ∧ (field v.toNat 7 0 ≤ s.dev.trust.fuseCtr ∨ s.dev.fld TRU.SVN 7 0 < field v.toNat 7 0)) ∧
    (∃ (s : State), s.dev.trust.fuseCtr < s.dev.trust.svnTarget ∧ s.dev.trust.fuseCtr < 64) := by
  refine ⟨?_, ?_, ?_⟩
  · exact ⟨tS (Dev.reset.setNum TRU.SVN 64), .host, 64#32, by decide⟩
  · exact ⟨tS Dev.reset, .cp 0, 0#32, by decide⟩
  · exact ⟨tTrust { TrustSt.reset with svnTarget := 64, fuseCtr := 63 }, by decide⟩

/-- The statement's first case: the header passes every check of the model and the signature algorithm (ML-DSA-87, an outside
standard, open in Config) accepts it. -/
theorem test_hyps_FirmwareVerified_ok (hv : Config.mldsaVerify (fwPubkey tHdr) (sha3_384 (fwSigned tHdr)) (fwSignature tHdr) = true) :
    ∃ (s : State) (k : Nat), s.dev.trust.boot = .verifyFlash ∧ s.dev.module.bootsel = 0#2 ∧ s.dev.verifyImage (bytesOf ffByte s.dev.trust.flash 0 hdrSize) (bytesOf ffByte s.dev.trust.flash hdrSize (fwBodyLen (bytesOf ffByte s.dev.trust.flash 0 hdrSize))) = .ok k := by
  refine ⟨tTrust { tFw .verifyFlash with flash := SMap.setRange ffByte [] 0 tHdr }, 0, rfl, rfl, ?_⟩
  show Dev.verifyImage _ (bytesOf ffByte (SMap.setRange ffByte [] 0 tHdr) 0 hdrSize) (bytesOf ffByte _ hdrSize
    (fwBodyLen (bytesOf ffByte (SMap.setRange ffByte [] 0 tHdr) 0 hdrSize))) = _
  rw [tHdr_range, tHdr_body, tHdr_none]
  exact verify_ok _ _ tHdr_magic rfl rfl tHdr_digest (Nat.zero_le _) hv

/-- The statement's first case: the header passes every check of the model and the signature algorithm (ML-DSA-87, an outside
standard, open in Config) accepts it. -/
theorem test_hyps_PushedImage_ok (hv : Config.mldsaVerify (fwPubkey tHdr) (sha3_384 (fwSigned tHdr)) (fwSignature tHdr) = true) :
    ∃ (s : State) (k : Nat), s.dev.trust.boot = .verifyPush ∧ s.dev.verifyImage (bytesOf zeroB s.dev.trust.hdrBuf 0 hdrSize) (bytesOf zeroB s.dev.trust.fwMem 0 (fwBodyLen (bytesOf zeroB s.dev.trust.hdrBuf 0 hdrSize))) = .ok k := by
  refine ⟨tTrust { tFw .verifyPush with hdrBuf := SMap.setRange zeroB [] 0 tHdr }, 0, rfl, ?_⟩
  show Dev.verifyImage _ (bytesOf zeroB (SMap.setRange zeroB [] 0 tHdr) 0 hdrSize) (bytesOf zeroB _ 0
    (fwBodyLen (bytesOf zeroB (SMap.setRange zeroB [] 0 tHdr) 0 hdrSize))) = _
  rw [tHdr_range, tHdr_body, tHdr_none]
  exact verify_ok _ _ tHdr_magic rfl rfl tHdr_digest (Nat.zero_le _) hv

/-- The page of a slot, and the register at an offset, of the page tables. -/
def tPage (slot : Nat) : Page := (pageAt slot).getD ⟨.hst, 0⟩
def tReg (a : Nat) : RegInfo := (regAt a).getD ⟨0, false, 0, 0, 0, 0, 0⟩
def tReset (sc : ResetScope) (p : ResetPhase) : Dev :=
  { Dev.reset with ascent := { AscentSt.reset with resets := [⟨sc, p, false, false⟩] } }
/-- A device reset waits for a request of the device that is outstanding. -/
def tWaits : Dev := { tReset .device .drain with link := { LinkSt.reset with ports := [(23, { port0 23 with table := [⟨0, 0, txnOf [], 0, 0⟩] })] } }
/-- A device at stage 3 with its PCIe link up and a connection of a level on the DOE transport. -/
def tSpdm (n : Nat) : State :=
  tS { (tStage 3) with
    module := { ModuleSt.reset with pcieUp := true }
    trust := { TrustSt.reset with spdmDoe := ⟨n, [], []⟩, spdmMctp := ⟨n, [], []⟩ } }

theorem test_hyps_ResetsBegin :
    (∃ (s : State) (r : Requester) (v : Word), requesterIsPf r = true ∧ s.dev.flag ASC.CELLRESET 13 = false ∧ s.dev.swarming = false ∧ (bit v.toNat 12 = true → s.dev.msfOff = true) ∧ (∀ x ∈ s.dev.ascent.resets, scopeInside (.cell (Fin.ofNat 64 (field v.toNat 11 6)) (Fin.ofNat 64 (field v.toNat 5 0))) x.scope = false)) ∧
    (∃ (s : State) (r : Requester) (v : Word), requesterIsPf r = true ∧ s.dev.flag ASC.CELLRESET 13 = false ∧ bit v.toNat 12 = true ∧ s.dev.msfOff = false) ∧
    (∃ (s : State) (r : Requester) (v : Word), requesterIsPf r = true ∧ s.dev.flag ASC.CLRESET 6 = false ∧ s.dev.swarming = false ∧ (∀ x ∈ s.dev.ascent.resets, scopeInside (.cluster (Fin.ofNat 64 (field v.toNat 5 0))) x.scope = false)) ∧
    (∃ (s : State) (r : Requester) (slot : Nat) (p : Page), pageAt slot = some p ∧ s.dev.pageReach r p = true ∧ s.dev.flag (oCtrl p.base) 1 = false ∧ ¬(p.blk = .msf ∧ s.dev.swarming = true) ∧ (∀ x ∈ s.dev.ascent.resets, scopeInside (resetScopeOf slot p) x.scope = false)) ∧
    (∃ (s : State) (r : Requester) (slot : Nat) (p : Page), pageAt slot = some p ∧ s.dev.pageReach r p = true ∧ ¬(p.blk = .msf ∧ s.dev.swarming = true) ∧ (s.dev.ascent.resets.any (fun x => scopeInside (resetScopeOf slot p) x.scope) = true ∨ s.dev.flag (oCtrl p.base) 1 = true)) ∧
    (∃ (s : State) (sc : ResetScope) (x : ResetRun), s.dev.findReset sc = some x ∧ x.phase = .drain ∧ s.dev.outstanding sc = []) ∧
    (∃ (s : State) (sc : ResetScope) (x : ResetRun), s.dev.findReset sc = some x ∧ x.phase = .drain) ∧
    (∃ (s : State) (sc : ResetScope) (x : ResetRun), s.dev.findReset sc = some x ∧ x.phase = .clear) := by
  refine ⟨?_, ?_, ?_, ?_, ?_, ?_, ?_, ?_⟩
  · exact ⟨tS Dev.reset, .host, 0x0FFF#32, by decide⟩
  · exact ⟨tS (Dev.reset.setNum (oCtrl (MSF.page 3)) 1), .host, 0x1000#32, by decide⟩
  · exact ⟨tS (tReset (.cluster 62) .drain), .cp 3, 63#32, by decide⟩
  · exact ⟨tS Dev.reset, .host, 0x2FF, tPage 0x2FF, by decide⟩
  · exact ⟨tS (tReset .device .drain), .host, 2, tPage 2, by decide⟩
  · exact ⟨tS (tReset .device .drain), .device, ⟨.device, .drain, false, false⟩, by decide⟩
  · exact ⟨tS tWaits, .device, ⟨.device, .drain, false, false⟩, by decide⟩
  · exact ⟨tS (tReset (.cluster 63) .clear), .cluster 63, ⟨.cluster 63, .clear, false, false⟩, by decide⟩

theorem test_hyps_ResetsEnd :
    (∃ (s : State) (sc : ResetScope) (x : ResetRun), s.dev.findReset sc = some x ∧ x.phase = .drain ∧ s.dev.outstanding sc = []) ∧
    (∃ (s : State) (sc : ResetScope) (x : ResetRun), s.dev.findReset sc = some x ∧ x.phase = .drain ∧ s.dev.outstanding sc ≠ []) ∧
    (∃ (s : State) (sc : ResetScope) (x : ResetRun), s.dev.findReset sc = some x ∧ x.phase = .drain) ∧
    (∃ (s : State) (row : Fin 64) (col : Fin 64) (x : ResetRun), s.dev.findReset (.cell row col) = some x ∧ x.phase = .drain ∧ x.remap = false) ∧
    (∃ (s : State) (x : ResetRun), s.dev.findReset .device = some x ∧ x.phase = .drain ∧ s.dev.outstanding .device = []) ∧
    (∃ (s : State) (sc : ResetScope) (x : ResetRun), s.dev.findReset sc = some x ∧ x.phase = .clear) := by
  refine ⟨?_, ?_, ?_, ?_, ?_, ?_⟩
  · exact ⟨tS (tReset .device .drain), .device, ⟨.device, .drain, false, false⟩, by decide⟩
  · exact ⟨tS tWaits, .device, ⟨.device, .drain, false, false⟩, by decide⟩
  · exact ⟨tS (tReset (.cluster 0) .drain), .cluster 0, ⟨.cluster 0, .drain, false, false⟩, by decide⟩
  · exact ⟨tS (tReset (.cell 63 63) .drain), 63, 63, ⟨.cell 63 63, .drain, false, false⟩, by decide⟩
  · exact ⟨tS (tReset .device .drain), ⟨.device, .drain, false, false⟩, by decide⟩
  · exact ⟨tS (tReset (.page 0x71) .clear), .page 0x71, ⟨.page 0x71, .clear, false, false⟩, by decide⟩

theorem test_hyps_FunctionResets :
    (∃ (s : State) (c : Instr), (c = .pcieHotReset ∨ c = .pcieLinkDown ∨ c = .pfFlr) ∧ s.dev.module.pcieUp = true ∧ (∀ x ∈ s.dev.ascent.resets, scopeInside .device x.scope = false)) ∧
    (∃ (s : State), s.dev.module.pcieUp = false) ∧
    (∃ (v : Fin 16), v.val ≠ 0) := by
  refine ⟨?_, ?_, ?_⟩
  · exact ⟨tS { tReset (.page 0x71) .drain with module := { ModuleSt.reset with pcieUp := true } }, .pfFlr, by decide⟩
  · exact ⟨tS Dev.reset, by decide⟩
  · exact ⟨15, by decide⟩

theorem test_hyps_EnableTakesEffect :
    (∃ (s : State) (r : Requester) (slot : Nat) (p : Page), pageAt slot = some p ∧ s.dev.pageReach r p = true ∧ p.blk ≠ .lnk ∧ p.blk ≠ .ckt ∧ s.dev.enable p.base = false ∧ s.dev.underReset p.base = false) ∧
    (∃ (s : State) (r : Requester) (slot : Nat) (p : Page), pageAt slot = some p ∧ s.dev.pageReach r p = true ∧ s.dev.enable p.base = false ∧ s.dev.underReset p.base = true) ∧
    (∃ (s : State) (r : Requester) (slot : Nat) (p : Page), pageAt slot = some p ∧ s.dev.pageReach r p = true ∧ p.blk ≠ .lnk ∧ s.dev.enable p.base = true ∧ (∀ e ∈ s.dev.enPend, e.1 ≠ p.base)) ∧
    (∃ (s : State) (r : Requester), requesterIsPf r = true ∧ s.dev.enable CKT.page = false ∧ s.dev.flag CKT.CTRL 1 = false ∧ s.dev.inReset CKT.page = false ∧ s.dev.cricket.phase = .off ∧ 0 < s.dev.period ∧ s.dev.now + 300 < 2 ^ 64) ∧
    (∃ (s : State) (r : Requester) (p : Fin 24), requesterIsPf r = true ∧ s.dev.enable (LNK.page p) = false ∧ s.dev.flag (oCtrl (LNK.page p)) 1 = false ∧ s.dev.inReset (LNK.page p) = false ∧ s.dev.portState p = 0 ∧ s.dev.isFault (LNK.page p) = false) ∧
    (∃ (slot : Nat), pageAt slot = none) := by
  refine ⟨?_, ?_, ?_, ?_, ?_, ?_⟩
  · exact ⟨tS Dev.reset, .host, 0x93, tPage 0x93, by decide⟩
  · exact ⟨tS (tReset (.page 0x93) .clear), .cp 2, 0x93, tPage 0x93, by decide⟩
  · exact ⟨tS (Dev.reset.setNum (oCtrl (MSF.page 0)) 1), .host, 0x90, tPage 0x90, by decide⟩
  · exact ⟨tS Dev.reset, .host, by decide⟩
  · exact ⟨tS Dev.reset, .cp 0, 23, by decide⟩
  · exact ⟨0x6C, by decide⟩

theorem test_hyps_AbortStopsLongOperation :
    (∃ (s : State) (r : Requester) (slot : Nat) (p : Page), pageAt slot = some p ∧ s.dev.pageReach r p = true ∧ s.dev.flag (oCtrl p.base) 1 = false ∧ s.dev.inReset p.base = false ∧ s.dev.busy p.base = true ∧ p.blk ≠ .lnk) ∧
    (∃ (s : State) (r : Requester) (p : Fin 24), requesterIsPf r = true ∧ s.dev.flag (oCtrl (LNK.page p)) 1 = false ∧ s.dev.inReset (LNK.page p) = false ∧ s.dev.busy (LNK.page p) = true) ∧
    (∃ (s : State) (slot : Nat) (p : Page), pageAt slot = some p ∧ s.dev.busy p.base = false) := by
  refine ⟨?_, ?_, ?_⟩
  · exact ⟨tS (Dev.reset.setNum (oStatus (STK.page 11)) 2), .host, 0x6B, tPage 0x6B, by decide⟩
  · exact ⟨tS (Dev.reset.setNum (oStatus (LNK.page 23)) 2), .host, 23, by decide⟩
  · exact ⟨tS Dev.reset, 0x6B, tPage 0x6B, by decide⟩

theorem test_hyps_AccessRules :
    (∃ (a : Nat) (sz : AccessSize), (Machine.sizeOf sz < 4 ∨ a % Machine.sizeOf sz ≠ 0)) ∧
    (∃ (a : Nat) (sz : AccessSize), a % Machine.sizeOf sz ≠ 0) ∧
    (∃ (s : State) (r : Requester) (a : Nat), a % 4 = 0 ∧ a < bar4Base ∧ (s.dev.mapAddr r a).bind regAt = none) := by
  refine ⟨?_, ?_, ?_⟩
  · exact ⟨0x3FFFFFE, .b4, by decide⟩
  · exact ⟨0x44, .b8, by decide⟩
  · exact ⟨tS Dev.reset, .vf 1, 0x70, by decide⟩

theorem test_hyps_RegisterWrites :
    (∃ (r : Requester) (a : Nat) (g : RegInfo) (p : Page), requesterIsPf r = true ∧ a % 4 = 0 ∧ a < 0x4000000 ∧ pageAt (a / 0x1000) = some p ∧ regAt a = some g ∧ g.off = a ∧ g.wide = false ∧ a % 0x1000 ≠ 0x10 ∧ (a % 0x1000 < 0x40 ∨ p.blk = .stg ∨ p.blk = .msf ∨ p.blk = .col ∨ p.blk = .wvl ∨ p.blk = .scb ∨ p.blk = .tls)) ∧
    (∃ (s : State) (r : Requester) (a : Nat) (v : DWord) (g : RegInfo) (p : Page), requesterIsPf r = true ∧ a % 8 = 0 ∧ a < 0x4000000 ∧ pageAt (a / 0x1000) = some p ∧ regAt a = some g ∧ g.off = a ∧ g.wide = true ∧ g.rw ≠ 0 ∧ windowAt a = none ∧ p.blk ≠ .cpu ∧ s.dev.wideOk p (a % 0x1000) v.toNat = false) ∧
    (∃ (s : State) (r : Requester) (a : Nat) (v : DWord) (g : RegInfo) (p : Page), requesterIsPf r = true ∧ a % 8 = 0 ∧ a < 0x4000000 ∧ pageAt (a / 0x1000) = some p ∧ regAt a = some g ∧ g.off = a ∧ g.wide = true ∧ g.rw ≠ 0 ∧ windowAt a = none ∧ p.blk ≠ .cpu ∧ s.dev.wideOk p (a % 0x1000) v.toNat = true) ∧
    (∃ (r : Requester) (a : Nat) (g : RegInfo), requesterIsPf r = true ∧ a % 8 = 0 ∧ a < 0x4000000 ∧ regAt a = some g ∧ regAt (a + 4) = some g ∧ g.off = a ∧ g.wide = true ∧ windowAt a = none) := by
  refine ⟨?_, ?_, ?_, ?_⟩
  · exact ⟨.host, 0x90030, tReg 0x90030, tPage 0x90, by decide⟩
  · exact ⟨tS (Dev.reset.setNum (oCtrl CKT.page) 1), .host, 0x5048, 5#64, tReg 0x5048, tPage 5, by decide⟩
  · exact ⟨tS Dev.reset, .host, 0x5048, 0xFFFFFFFFFFFFFFFF#64, tReg 0x5048, tPage 5, by decide⟩
  · exact ⟨.cp 2, 0x5048, tReg 0x5048, by decide⟩

theorem test_hyps_RegisterReads :
    (∃ (s : State) (r : Requester) (a : Nat) (k : Nat) (g : RegInfo), a % 4 = 0 ∧ s.dev.mapAddr r a = some k ∧ regAt k = some g ∧ g.wide = false ∧ g.rc ≠ 0 ∧ claimAt k = none ∧ k ≠ PWR.THROTTLE) ∧
    (∃ (s : State) (r : Requester) (a : Nat) (k : Nat) (g : RegInfo), a % 4 = 0 ∧ s.dev.mapAddr r a = some k ∧ regAt k = some g ∧ g.wide = true ∧ g.off = k ∧ windowAt k = none) ∧
    (∃ (s : State) (r : Requester) (a : Nat) (k : Nat) (g : RegInfo), a % 4 = 0 ∧ s.dev.mapAddr r a = some k ∧ regAt k = some g ∧ g.wide = true ∧ g.off ≠ k ∧ windowAt g.off = none) := by
  refine ⟨?_, ?_, ?_⟩
  · exact ⟨tS Dev.reset, .host, 0x70, 0x70, tReg 0x70, by decide⟩
  · exact ⟨tS Dev.reset, .cp 3, 0x40, 0x40, tReg 0x40, by decide⟩
  · exact ⟨tS Dev.reset, .host, 0x44, 0x44, tReg 0x44, by decide⟩

theorem test_hyps_ControlProcessors :
    (∃ (s : State) (r : Requester) (c : Fin 4), requesterIsPf r = true ∧ s.dev.flag (CPU.CPCTRL c) 1 = false ∧ s.dev.inReset (CPU.page c) = false) ∧
    (∃ (s : State) (r : Requester) (c : Fin 4), requesterIsPf r = true ∧ s.dev.flag (CPU.CPCTRL c) 1 = false ∧ s.dev.inReset (CPU.page c) = false ∧ (s.dev.cpState c = 1 ∨ s.dev.cpState c = 3)) ∧
    (∃ (r : Requester), requesterIsPf r = true) ∧
    (∃ (s : State) (c : Fin 4), s.dev.flag (CPU.CPCTRL c) 1 = true) ∧
    (∃ (s : State) (r : Requester) (c : Fin 4), requesterIsPf r = true ∧ s.dev.inReset (CPU.page c) = false) := by
  refine ⟨?_, ?_, ?_, ?_, ?_⟩
  · exact ⟨tS Dev.reset, .host, 3, by decide⟩
  · exact ⟨tS (Dev.reset.setNum (CPU.CPSTATE 3) 3), .host, 3, by decide⟩
  · exact ⟨.host, by decide⟩
  · exact ⟨tS (Dev.reset.setNum (CPU.CPCTRL 0) 3), 0, by decide⟩
  · exact ⟨tS Dev.reset, .cp 1, 3, by decide⟩

theorem test_hyps_HostWindow :
    (∃ (s : State) (fn : Fin 16) (off : Nat) (n : Nat), off + n ≤ bar2Span ∧ s.dev.deviceInReset = false ∧ s.dev.pushOpen fn = false ∧ s.dev.bar2Inside fn off n = true ∧ (∀ b ∈ blocksOf (s.dev.bar2Addr fn off) n, s.dev.blockReady b = true ∧ s.dev.blockAbsorbed b = false ∧ s.dev.blockBad b = false ∧ ¬(s.dev.pinned (256 * b) = true ∧ b ∈ s.dev.mem.pinUE))) ∧
    (∃ (s : State) (fn : Fin 16) (off : Nat) (bs : List Byte), off + bs.length ≤ bar2Span ∧ s.dev.deviceInReset = false ∧ s.dev.pushOpen fn = false ∧ s.dev.bar2Inside fn off bs.length = true ∧ (∀ b ∈ blocksOf (s.dev.bar2Addr fn off) bs.length, s.dev.blockReady b = true ∧ s.dev.blockAbsorbed b = false)) ∧
    (∃ (s : State) (fn : Fin 16) (off : Nat) (n : Nat) (bs : List Byte), off + n ≤ bar2Span ∧ bs.length = n ∧ s.dev.deviceInReset = false ∧ s.dev.pushOpen fn = false ∧ s.dev.bar2Inside fn off n = false) ∧
    (∃ (s : State) (off : Nat) (bs : List Byte), off + bs.length ≤ hdrSize + maxBody ∧ s.dev.deviceInReset = false ∧ s.dev.flag HST.RECOVERY 0 = true) := by
  refine ⟨?_, ?_, ?_, ?_⟩
  · exact ⟨tS (Dev.reset.setReady (STK.page 3) true), 0, 68719476735, 1, by decide⟩
  · exact ⟨tS (Dev.reset.setReady (STK.page 0) true), 0, 0, [1#8, 2#8], by decide⟩
  · exact ⟨tS Dev.reset, 15, 0, 1, [0#8], by decide⟩
  · exact ⟨tS (Dev.reset.setNum HST.RECOVERY 1), 0, [1#8], by decide⟩

theorem test_hyps_SpdmServes :
    (∃ (s : State) (t : Transport) (p : List Byte) (c : Instr) (code : Nat) (level : Nat) (next : Nat), ((c = .getVersion t p ∧ code = 0x84 ∧ level = 0 ∧ next = 1) ∨ (c = .getCapabilities t p ∧ code = 0xE1 ∧ level = 1 ∧ next = 2) ∨ (c = .negotiateAlgorithms t p ∧ code = 0xE3 ∧ level = 2 ∧ next = 3) ∨ (c = .getDigests t p ∧ code = 0x81 ∧ level = 3 ∧ next = 3) ∨ (c = .getCertificate t p ∧ code = 0x82 ∧ level = 3 ∧ next = 3 ∧ field (byteAt p 2) 3 0 = 0 ∧ fieldAt p 4 2 < s.dev.certs.length)) ∧ s.dev.spdmUp t = true ∧ byteAt p 1 = code ∧ 4 ≤ p.length ∧ byteAt p 0 = (if code = 0x84 then 0x10 else 0x13) ∧ level ≤ (s.dev.spdm t).level) ∧
    (∃ (s : State) (t : Transport) (p : List Byte), s.dev.spdmUp t = true ∧ byteAt p 1 = 0x83 ∧ 4 ≤ p.length ∧ byteAt p 0 = 0x13 ∧ 3 ≤ (s.dev.spdm t).level ∧ byteAt p 2 = 0) ∧
    (∃ (s : State) (t : Transport) (p : List Byte), s.dev.spdmUp t = true ∧ byteAt p 1 = 0xE0 ∧ 4 ≤ p.length ∧ byteAt p 0 = 0x13 ∧ 3 ≤ (s.dev.spdm t).level ∧ (byteAt p 3 = 0xFF ∨ byteAt p 3 ≤ 6)) ∧
    (∃ (s : State) (t : Transport) (p : List Byte) (c : Instr) (code : Nat) (level : Nat), ((c = .getCapabilities t p ∧ code = 0xE1 ∧ level = 1) ∨ (c = .negotiateAlgorithms t p ∧ code = 0xE3 ∧ level = 2) ∨ (c = .getDigests t p ∧ code = 0x81 ∧ level = 3) ∨ (c = .getCertificate t p ∧ code = 0x82 ∧ level = 3) ∨ (c = .challenge t p ∧ code = 0x83 ∧ level = 3) ∨ (c = .getMeasurements t p ∧ code = 0xE0 ∧ level = 3)) ∧ s.dev.spdmUp t = true ∧ byteAt p 1 = code ∧ 4 ≤ p.length ∧ byteAt p 0 = 0x13 ∧ (s.dev.spdm t).level < level) := by
  refine ⟨?_, ?_, ?_, ?_⟩
  · exact ⟨tSpdm 0, .doe, [0x10#8, 0x84#8, 0#8, 0#8], .getVersion .doe [0x10#8, 0x84#8, 0#8, 0#8], 0x84, 0, 1, by decide⟩
  · exact ⟨tSpdm 3, .mctp, [0x13#8, 0x83#8, 0#8, 0#8], by decide⟩
  · exact ⟨tSpdm 3, .doe, [0x13#8, 0xE0#8, 0#8, 0xFF#8], by decide⟩
  · exact ⟨tSpdm 2, .mctp, [0x13#8, 0x83#8, 0#8, 0#8], .challenge .mctp [0x13#8, 0x83#8, 0#8, 0#8], 0x83, 3, by decide⟩

/-- A block of `n` zero bytes with little-endian fields: offset, bytes, value. -/
def tBlock (n : Nat) (fs : List (Nat × Nat × Nat)) : List Byte :=
  fs.foldl (fun l f => l.take f.1 ++ leBytes f.2.1 f.2.2 ++ l.drop (f.1 + f.2.1)) (List.replicate n 0#8)
/-- An image of a pass kind: both mode flags, partitions 0 to 3, one descriptor of 64 bytes at 0x100, the write window
[0x10000, 0x20000). -/
def tImage (kind : Nat) : Image :=
  ⟨0, 0x1000, tBlock 256 [(0x08, 1, kind), (0x09, 1, 3), (0x0B, 1, 15), (0x10, 4, 1), (0x14, 4, 1), (0x1A, 2, 1), (0x28, 8, 0x100),
    (0x30, 4, 64), (0x34, 4, 1), (0x40, 8, 0x10000), (0x48, 8, 0x10000)], 0, false, [0x0F], false, none, [], 0⟩
def tBeat (kind : Nat := 0) : Beat :=
  ⟨7, some (tImage kind), 5#32, 0, false, false, 0, 0, 0, none, 0, 0, 0, [], none, 0, 0⟩
/-- A device in the run window of a beat. -/
def tRun (kind : Nat := 0) : Dev :=
  { Dev.reset with cricket := { CricketSt.reset with phase := .run, images := [tImage kind], cur := some (tBeat kind) } }
def tPhase (p : BeatPhase) (h : HostSt := HostSt.reset) : Dev :=
  { Dev.reset with cricket := { CricketSt.reset with phase := p }, host := h }
/-- Source `n` in a state, with a SRCCFG. -/
def tIrq (n : Nat) (st : IrqState) (cfg : Nat) : Dev :=
  { (Dev.reset.setNum (FFY.SRCCFG n) cfg) with firefly := { FireflySt.reset with src := if st = .idle then [] else [(n, st)] } }
/-- Source 6, that of the CKT page, is asserted. -/
def tAssert (d : Dev) : Dev := (d.setNum (oIrqsum CKT.page) 2).setNum (oIrqen CKT.page) 2
def tOpen (fn e : Nat) (d : Dev) : Dev :=
  { d with host := { d.host with msixTab := [(2048 * fn + e, ⟨0#32, 0#32, 0#32, 0#32⟩)] } }
def tJob : Job := ⟨0, 0, false, 5#32, [⟨0, 2⟩], 0, 1, 0, false⟩
/-- A job descriptor at the head of the PF's fetched ones. -/
def tFetched (b : List Byte) : Dev := (tPhase .marked { HostSt.reset with fetched := [(0, b)] }).setReady HST.page true
def tCpl : Completion := ⟨5#32, 0, 1, 0, 0, 0⟩

theorem tIrq_other {n m cfg : Nat} {st : IrqState} (h : m ≠ n) : (tIrq n st cfg).irqState m = .idle := by
  unfold Dev.irqState tIrq
  dsimp only
  split <;> simp [SMap.get, irq0, Ne.symm h]

theorem reset_idle (m : Nat) : Dev.reset.irqState m = .idle := rfl

/-- Source 9 alone is pending. -/
theorem claims_one : ∀ m, (tS (tIrq 9 .pending 0x0302)).dev.eligible 3 m = true →
    (tS (tIrq 9 .pending 0x0302)).dev.prio m < (tS (tIrq 9 .pending 0x0302)).dev.prio 9 ∨
      ((tS (tIrq 9 .pending 0x0302)).dev.prio m = (tS (tIrq 9 .pending 0x0302)).dev.prio 9 ∧ 9 ≤ m) := by
  intro m h
  by_cases hm : m = 9
  · subst hm; exact .inr ⟨rfl, Nat.le_refl _⟩
  · unfold Dev.eligible at h
    rw [show (tS (tIrq 9 .pending 0x0302)).dev.irqState m = .idle from tIrq_other hm] at h
    simp at h
theorem messages_one : ∀ m, (tS (tIrq 9 .pending 0x00030401)).dev.irqState m = .pending →
    (tS (tIrq 9 .pending 0x00030401)).dev.target m = 4 → m = 9 := by
  intro m h _
  by_cases hm : m = 9
  · exact hm
  · rw [show (tS (tIrq 9 .pending 0x00030401)).dev.irqState m = .idle from tIrq_other hm] at h
    cases h
/-- A device at admission with one job whose image passes the seven checks. -/
def tAdmit : Dev :=
  { (Dev.reset.setNum CKT.PERIOD 5000) with
    cricket := { CricketSt.reset with phase := .marked, images := [tImage 0],
                                      sample := ⟨true, [], [true, true, true, true], [], 1000, 0⟩ }
    host := { HostSt.reset with jobs := [tJob] } }

theorem test_hyps_SourcesRise :
    (∃ (s : State) (r : Requester) (n : BitVec 10) (v : Word) (c : Instr), ((c = .irqSourceAssert n ∧ s.dev.asserted n.toNat = true) ∨ (c = .swset r v ∧ requesterIsPf r = true ∧ field v.toNat 9 0 = n.toNat ∧ isSoftSource n.toNat = true)) ∧ s.dev.prio n.toNat ≠ 0 ∧ s.dev.irqState n.toNat = .idle ∧ s.dev.target n.toNat ≠ 4) ∧
    (∃ (s : State) (r : Requester) (n : BitVec 10) (v : Word) (c : Instr), ((c = .irqSourceAssert n ∧ s.dev.asserted n.toNat = true) ∨ (c = .swset r v ∧ requesterIsPf r = true ∧ field v.toNat 9 0 = n.toNat ∧ isSoftSource n.toNat = true)) ∧ s.dev.prio n.toNat ≠ 0 ∧ s.dev.irqState n.toNat = .idle ∧ s.dev.target n.toNat = 4 ∧ s.dev.vectorOk n.toNat = true ∧ s.dev.msixMasked (s.dev.func n.toNat) (s.dev.vector n.toNat) = false) ∧
    (∃ (s : State) (r : Requester) (n : BitVec 10) (v : Word) (c : Instr), ((c = .irqSourceAssert n ∧ s.dev.asserted n.toNat = true) ∨ (c = .swset r v ∧ requesterIsPf r = true ∧ field v.toNat 9 0 = n.toNat ∧ isSoftSource n.toNat = true)) ∧ s.dev.prio n.toNat ≠ 0 ∧ s.dev.irqState n.toNat = .idle ∧ s.dev.target n.toNat = 4 ∧ s.dev.vectorOk n.toNat = true ∧ s.dev.msixMasked (s.dev.func n.toNat) (s.dev.vector n.toNat) = true) ∧
    (∃ (s : State) (r : Requester) (n : BitVec 10) (v : Word) (c : Instr), ((c = .irqSourceAssert n ∧ s.dev.asserted n.toNat = true) ∨ (c = .swset r v ∧ requesterIsPf r = true ∧ field v.toNat 9 0 = n.toNat ∧ isSoftSource n.toNat = true)) ∧ s.dev.prio n.toNat ≠ 0 ∧ s.dev.irqState n.toNat = .idle ∧ s.dev.target n.toNat = 4 ∧ s.dev.vectorOk n.toNat = false) ∧
    (∃ (s : State) (r : Requester) (n : BitVec 10) (v : Word) (c : Instr), ((c = .irqSourceAssert n ∧ s.dev.asserted n.toNat = true) ∨ (c = .swset r v ∧ requesterIsPf r = true ∧ field v.toNat 9 0 = n.toNat ∧ isSoftSource n.toNat = true)) ∧ s.dev.prio n.toNat ≠ 0 ∧ s.dev.irqState n.toNat ≠ .idle) ∧
    (∃ (s : State) (r : Requester) (n : BitVec 10) (v : Word) (c : Instr), ((c = .irqSourceDeassert n ∧ (pageOfSource n.toNat).isSome = true ∧ s.dev.asserted n.toNat = false) ∨ (c = .swclr r v ∧ requesterIsPf r = true ∧ field v.toNat 9 0 = n.toNat ∧ isSoftSource n.toNat = true)) ∧ s.dev.irqState n.toNat = .pending) ∧
    (∃ (s : State) (r : Requester) (n : BitVec 10) (v : Word) (c : Instr), ((c = .irqSourceDeassert n ∧ (pageOfSource n.toNat).isSome = true ∧ s.dev.asserted n.toNat = false) ∨ (c = .swclr r v ∧ requesterIsPf r = true ∧ field v.toNat 9 0 = n.toNat ∧ isSoftSource n.toNat = true)) ∧ s.dev.irqState n.toNat ≠ .pending) ∧
    (∃ (s : State) (r : Requester) (n : BitVec 10) (v : Word), requesterIsPf r = true ∧ isSource n.toNat = true ∧ field v.toNat 10 8 ≤ 4 ∧ (field v.toNat 10 8 ≠ 4 ∨ field v.toNat 5 0 = 0 ∨ s.dev.irqState n.toNat ≠ .pending)) ∧
    (∃ (s : State) (r : Requester) (n : BitVec 10) (v : Word), requesterIsPf r = true ∧ isSource n.toNat = true ∧ field v.toNat 10 8 = 4 ∧ field v.toNat 5 0 ≠ 0 ∧ s.dev.irqState n.toNat = .pending ∧ 0 < field v.toNat 26 16 ∧ field v.toNat 26 16 < tableSize (field v.toNat 30 27) ∧ s.dev.msixMasked (field v.toNat 30 27) (field v.toNat 26 16) = false) ∧
    (∃ (n : BitVec 10) (v : Word), (isSource n.toNat = false ∨ 5 ≤ field v.toNat 10 8)) := by
  and_intros
  · exact ⟨tS (tAssert (tIrq 6 .idle 0x0301)), .host, 6#10, 0#32, .irqSourceAssert 6#10, by decide⟩
  · exact ⟨tS (tOpen 0 3 (tIrq 1022 .idle 0x00030401)), .host, 1022#10, 1022#32, .swset .host 1022#32, by decide⟩
  · exact ⟨tS (tIrq 512 .idle 0x00030401), .host, 512#10, 512#32, .swset .host 512#32, by decide⟩
  · exact ⟨tS (tIrq 512 .idle 0x00000401), .host, 512#10, 512#32, .swset .host 512#32, by decide⟩
  · exact ⟨tS (tAssert (tIrq 6 .active 0x003F)), .host, 6#10, 0#32, .irqSourceAssert 6#10, by decide⟩
  · exact ⟨tS (tIrq 6 .pending 0x0001), .host, 6#10, 0#32, .irqSourceDeassert 6#10, by decide⟩
  · exact ⟨tS (tIrq 513 .active 0x0001), .cp 0, 513#10, 513#32, .swclr (.cp 0) 513#32, by decide⟩
  · exact ⟨tS (tIrq 285 .pending 0x0001), .host, 285#10, 0x0300#32, by decide⟩
  · exact ⟨tS (tOpen 15 63 (tIrq 512 .pending 0x0001)), .host, 512#10, 0x783F0401#32, by decide⟩
  · exact ⟨286#10, 0#32, by decide⟩

theorem test_hyps_ClaimsNest :
    (∃ (s : State) (r : Requester) (c : Fin 4) (n : Nat), requesterIsPf r = true ∧ n < 1024 ∧ s.dev.eligible c n = true ∧ (∀ m, s.dev.eligible c m = true → s.dev.prio m < s.dev.prio n ∨ (s.dev.prio m = s.dev.prio n ∧ n ≤ m))) ∧
    (∃ (s : State) (r : Requester) (c : Fin 4), requesterIsPf r = true ∧ (∀ m, s.dev.eligible c m = false)) := by
  refine ⟨?_, ?_⟩
  · exact ⟨tS (tIrq 9 .pending 0x0302), .cp 3, 3, 9, ⟨rfl, by decide, by decide, claims_one⟩⟩
  · exact ⟨tS Dev.reset, .host, 0, ⟨rfl, fun _ => rfl⟩⟩

theorem test_hyps_EndsOfInterrupt :
    (∃ (s : State) (r : Requester) (c : Fin 4) (v : Word) (p : Nat) (m : Nat) (rest : List (Nat × Nat)), requesterIsPf r = true ∧ s.dev.irqStack c = (p, m) :: rest ∧ field v.toNat 9 0 = m ∧ m ≠ 1023) ∧
    (∃ (v : Word), field v.toNat 9 0 = 1023) ∧
    (∃ (s : State) (r : Requester) (c : Fin 4) (v : Word), requesterIsPf r = true ∧ field v.toNat 9 0 ≠ 1023 ∧ (s.dev.irqStack c).head?.map (fun e => e.2) ≠ some (field v.toNat 9 0)) ∧
    (∃ (s : State) (r : Requester) (vf : Fin 16) (v : Word) (c : Instr), ((c = .hosteoi r v ∧ requesterIsPf r = true) ∨ (c = .vfeoi vf v ∧ vf.val ≠ 0)) ∧ (s.dev.irqState (field v.toNat 9 0) = .active ∧ s.dev.firefly.owner.get zeroNat (field v.toNat 9 0) = 4 ∧ s.dev.asserted (field v.toNat 9 0) = false)) ∧
    (∃ (s : State) (r : Requester) (vf : Fin 16) (v : Word) (c : Instr), ((c = .hosteoi r v ∧ requesterIsPf r = true) ∨ (c = .vfeoi vf v ∧ vf.val ≠ 0)) ∧ (s.dev.irqState (field v.toNat 9 0) = .active ∧ s.dev.firefly.owner.get zeroNat (field v.toNat 9 0) = 4 ∧ s.dev.asserted (field v.toNat 9 0) = true ∧ s.dev.prio (field v.toNat 9 0) ≠ 0 ∧ s.dev.target (field v.toNat 9 0) = 4 ∧ s.dev.vectorOk (field v.toNat 9 0) = true ∧ s.dev.msixMasked (s.dev.func (field v.toNat 9 0)) (s.dev.vector (field v.toNat 9 0)) = false)) ∧
    (∃ (s : State) (r : Requester) (vf : Fin 16) (v : Word) (c : Instr), ((c = .hosteoi r v ∧ requesterIsPf r = true) ∨ (c = .vfeoi vf v ∧ vf.val ≠ 0)) ∧ ¬(s.dev.irqState (field v.toNat 9 0) = .active ∧ s.dev.firefly.owner.get zeroNat (field v.toNat 9 0) = 4)) := by
  refine ⟨?_, ?_, ?_, ?_, ?_, ?_⟩
  · exact ⟨tS { Dev.reset with firefly := { FireflySt.reset with nest := [(3, [(2, 9)])] } }, .cp 3, 3, 9#32, 2, 9, [], by decide⟩
  · exact ⟨1023#32, by decide⟩
  · exact ⟨tS Dev.reset, .host, 0, 5#32, by decide⟩
  · exact ⟨tS { tIrq 6 .active 0x0401 with firefly := { FireflySt.reset with src := [(6, .active)], owner := [(6, 4)] } }, .host, 15, 6#32, .vfeoi 15 6#32, by decide⟩
  · exact ⟨tS (tAssert (tOpen 0 3 { tIrq 6 .active 0x00030401 with firefly := { FireflySt.reset with src := [(6, .active)], owner := [(6, 4)] } })), .host, 0, 6#32, .hosteoi .host 6#32, by decide⟩
  · exact ⟨tS Dev.reset, .host, 0, 6#32, .hosteoi .host 6#32, by decide⟩

theorem test_hyps_HostMessages :
    (∃ (fn : Fin 16) (e : Nat), e < tableSize fn) ∧
    (∃ (s : State) (fn : Fin 16) (v : Word) (n : Nat) (c : Instr), s.dev.irqState n = .pending ∧ s.dev.target n = 4 ∧ s.dev.func n = fn.val ∧ s.dev.vectorOk n = true ∧ (∀ m, s.dev.irqState m = .pending → s.dev.target m = 4 → m = n) ∧ ((c = .msixTableWrite fn (s.dev.vector n) 3 v ∧ v.getLsbD 0 = false ∧ s.dev.host.fnMask.getLsbD fn = false) ∨ (c = .msixFunctionMask fn false ∧ (s.dev.msixEntry fn (s.dev.vector n)).ctrl.getLsbD 0 = false ∧ (fn.val, 0) ∉ s.dev.host.msixPend))) ∧
    (∃ (s : State), (∀ m, s.dev.irqState m = .pending → s.dev.target m ≠ 4)) := by
  refine ⟨?_, ?_, ?_⟩
  · exact ⟨15, 63, by decide⟩
  · exact ⟨tS (tIrq 9 .pending 0x00030401), 0, 0#32, 9, .msixTableWrite 0 3 3 0#32, ⟨rfl, by decide, by decide, by decide, messages_one, by decide⟩⟩
  · exact ⟨tS Dev.reset, by intro m h; rw [show (tS Dev.reset).dev.irqState m = .idle from rfl] at h; cases h⟩

theorem test_hyps_BeatCloses :
    (∃ (s : State), s.dev.cricket.phase = .run) ∧
    (∃ (s : State) (b : Beat) (i : Image), s.dev.cricket.phase = .run ∧ s.dev.cricket.cur = some b ∧ b.switchBeat = false ∧ b.image = some i ∧ b.code = none ∧ s.dev.cricket.stops = []) ∧
    (∃ (s : State) (b : Beat) (i : Image) (j : Job), s.dev.cricket.phase = .run ∧ s.dev.cricket.cur = some b ∧ b.switchBeat = false ∧ b.image = some i ∧ b.code = none ∧ b.complete.isSome = true ∧ (∀ c ∈ b.successes, c < 0x10) ∧ s.dev.cricket.stops = [] ∧ s.dev.host.jobs.find? (fun x => x.fn == b.fn && x.job == b.job) = some j) := by
  refine ⟨?_, ?_, ?_⟩
  · exact ⟨tS (tRun), by decide⟩
  · exact ⟨tS (tRun), tBeat, tImage 0, by decide⟩
  · exact ⟨tS { (tRun) with cricket := { (tRun).cricket with cur := some { tBeat with complete := some 9, successes := [0x0F] } }, host := { HostSt.reset with jobs := [tJob] } }, { tBeat with complete := some 9, successes := [0x0F] }, tImage 0, tJob, by decide⟩

theorem test_hyps_BeatIsRecorded :
    (∃ (s : State) (b : Beat), s.dev.cricket.phase = .closed ∧ s.dev.cricket.cur = some b ∧ s.dev.hive.rows = [] ∧ 0 < s.dev.num CKT.STATSIZE ∧ s.dev.num64 CKT.STATRING + 64 * s.dev.num CKT.STATSIZE + 4 ≤ memTop) := by
  exact ⟨tS { (tRun).setNum CKT.STATSIZE 1 with cricket := { (tRun).cricket with phase := .closed } }, tBeat, by decide⟩

theorem test_hyps_HostRings :
    (∃ (s : State) (fn : Fin 16) (ds : List (List Byte)), fn.val ∈ s.dev.host.fetching ∧ s.dev.cricket.phase = .marked ∧ (∀ h ∈ s.dev.host.held, h.1 ≠ fn.val) ∧ (∀ e ∈ s.dev.host.fetched, jobInvalid e.2 = false) ∧ (∀ x ∈ ds, jobInvalid (padTo 64 0#8 x) = false)) ∧
    (∃ (s : State) (fn : Fin 16), fn.val ∈ s.dev.host.fetching ∧ (∃ h ∈ s.dev.host.held, h.1 = fn.val)) ∧
    (∃ (s : State) (fn : Fin 16), fn.val ∈ s.dev.host.fetching) ∧
    (∃ (s : State) (fn : Fin 16) (c : Completion), s.dev.cricket.phase = .voted ∧ s.dev.host.done = [(fn.val, c)] ∧ s.dev.host.held = [] ∧ s.dev.ringOn fn = true ∧ (s.dev.host.cqTail.get zeroWord fn - s.dev.host.cqHead.get zeroWord fn).toNat < s.dev.cqSize fn ∧ s.dev.msixMasked fn 0 = false) ∧
    (∃ (s : State) (fn : Fin 16) (c : Completion), s.dev.cricket.phase = .voted ∧ s.dev.host.done = [(fn.val, c)] ∧ s.dev.host.held = [] ∧ (s.dev.ringOn fn = false ∨ s.dev.cqSize fn ≤ (s.dev.host.cqTail.get zeroWord fn - s.dev.host.cqHead.get zeroWord fn).toNat)) := by
  refine ⟨?_, ?_, ?_, ?_, ?_⟩
  · exact ⟨tS (tPhase .marked { HostSt.reset with fetching := [15] }), 15, [tBlock 64 [(0, 1, 1)]], by decide⟩
  · exact ⟨tS (tPhase .marked { HostSt.reset with fetching := [15], held := [(15, tCpl)] }), 15, by decide⟩
  · exact ⟨tS (tPhase .marked { HostSt.reset with fetching := [0] }), 0, by decide⟩
  · exact ⟨tS (tOpen 0 0 (((tPhase .voted { HostSt.reset with done := [(0, tCpl)] }).setNum (ringReg 0 0x58) 1).setNum (ringReg 0 0x4C) 1)), 0, tCpl, by decide⟩
  · exact ⟨tS (tPhase .voted { HostSt.reset with done := [(0, tCpl)] }), 0, tCpl, by decide⟩

theorem test_hyps_AdmissionDecides :
    (∃ (s : State) (j : Job) (x : _), s.dev.cricket.phase = .marked ∧ s.dev.host.fetched = [] ∧ s.dev.host.waiting = [] ∧ s.dev.hive.switching = none ∧ s.dev.hive.request = none ∧ s.dev.hive.badLoad = [] ∧ s.dev.flag HIV.SCHEDCTRL 0 = false ∧ s.dev.gridStops = false ∧ s.dev.host.jobs = [j] ∧ j.fn = s.dev.resident ∧ s.dev.heldBack j ((s.dev.beatNum + 1) % 2 ^ 64) = false ∧ s.dev.judgeJob j ((s.dev.beatNum + 1) % 2 ^ 64) = .ok x ∧ x.image.passKind ≠ 3) ∧
    (∃ (s : State) (j : Job) (c : _), s.dev.cricket.phase = .marked ∧ s.dev.host.fetched = [] ∧ s.dev.host.waiting = [] ∧ s.dev.hive.switching = none ∧ s.dev.hive.request = none ∧ s.dev.hive.badLoad = [] ∧ s.dev.flag HIV.SCHEDCTRL 0 = false ∧ s.dev.gridStops = false ∧ s.dev.host.jobs = [j] ∧ j.fn = s.dev.resident ∧ s.dev.heldBack j ((s.dev.beatNum + 1) % 2 ^ 64) = false ∧ s.dev.judgeJob j ((s.dev.beatNum + 1) % 2 ^ 64) = .error c) := by
  refine ⟨?_, ?_⟩
  · exact ⟨tS tAdmit, tJob, ⟨tImage 0, 5#32, 0, false, 1, 0, false⟩, ⟨rfl, rfl, rfl, rfl, rfl, rfl, by decide, by decide, rfl, by decide, by decide +kernel, rfl, by decide⟩⟩
  · exact ⟨tS (tPhase .marked { HostSt.reset with jobs := [tJob] }), tJob, 0x19, ⟨rfl, rfl, rfl, rfl, rfl, rfl, by decide, by decide, rfl, by decide, by decide +kernel, rfl⟩⟩

theorem test_hyps_BeatBegins :
    (∃ (s : State), s.dev.cricket.phase = .posted ∧ s.dev.gridStops = false ∧ s.dev.hive.switching = none ∧ s.dev.hive.switchTo = none) ∧
    (∃ (s : State), s.dev.cricket.phase = .posted ∧ (CKT.page, false) ∈ s.dev.enPend ∧ s.dev.inReset CKT.page = false) := by
  refine ⟨?_, ?_⟩
  · exact ⟨tS (tPhase .posted), by decide⟩
  · exact ⟨tS { tPhase .posted with enPend := [(CKT.page, false)] }, by decide⟩

theorem test_hyps_DispatchEnqueues :
    (∃ (s : State) (b : Beat) (bs : List Byte) (a : Nat), s.dev.issuing = true ∧ s.dev.cricket.cur = some b ∧ s.dev.nextDesc = some (bs, a) ∧ s.dev.roomFor bs = true ∧ (∀ k ∈ blocksOf a bs.length, s.dev.blockBad k = false ∧ ¬(s.dev.pinned (256 * k) = true ∧ k ∈ s.dev.mem.pinUE))) ∧
    (∃ (s : State) (bs : List Byte) (a : Nat), s.dev.nextDesc = some (bs, a) ∧ s.dev.roomFor bs = false) := by
  refine ⟨?_, ?_⟩
  · exact ⟨tS (tRun), tBeat, List.replicate 64 0#8, 0x100, by decide +kernel⟩
  · exact ⟨tS { (tRun) with forager := { ForagerSt.reset with queue := List.replicate 64 ⟨[], 0⟩ } }, List.replicate 64 0#8, 0x100, by decide +kernel⟩

theorem test_hyps_JobsAndImages :
    (∃ (s : State) (fn : Fin 16) (b : List Byte), s.dev.headJob fn (fun x => jType x == 1) = some b ∧ s.dev.jobGate b = none ∧ jobReservedBad fn b = false ∧ s.dev.jobNamed (BitVec.ofNat 32 (jJob b)) = false ∧ jAddr b % 64 = 0 ∧ s.dev.inRegion fn (jAddr b) (8 * jArg b) = true ∧ (s.dev.quietRead (jAddr b) (8 * jArg b)).1 = false ∧ scriptBad (s.dev.mem.dram.readN (jAddr b) (8 * jArg b)) (jArg b) = false ∧ s.dev.scriptMode (bit (jdFlags b) 0) (scriptSteps (s.dev.mem.dram.readN (jAddr b) (8 * jArg b)) (jArg b)) = false) ∧
    (∃ (s : State) (fn : Fin 16) (b : List Byte), s.dev.headJob fn (fun x => jType x == 1) = some b ∧ s.dev.jobGate b = none ∧ (jobReservedBad fn b = true ∨ s.dev.jobNamed (BitVec.ofNat 32 (jJob b)) = true)) ∧
    (∃ (s : State) (fn : Fin 16) (b : List Byte) (j : Job), s.dev.headJob fn (fun x => jType x == 2) = some b ∧ s.dev.jobGate b = none ∧ jobReservedBad fn b = false ∧ (s.dev.host.jobs ++ s.dev.host.waiting).find? (fun x => x.fn == fn.val && x.job == BitVec.ofNat 32 (jArg b)) = some j) ∧
    (∃ (s : State) (fn : Fin 16) (b : List Byte), s.dev.headJob fn (fun x => jType x == 3) = some b ∧ s.dev.jobGate b = none ∧ jobReservedBad fn b = false ∧ s.dev.indexUsed (jImage b) = false ∧ jAddr b % 64 = 0 ∧ s.dev.inRegion fn (jAddr b) 256 = true) ∧
    (∃ (s : State) (fn : Fin 16) (b : List Byte) (i : Image), s.dev.headJob fn (fun x => jType x == 4) = some b ∧ s.dev.jobGate b = none ∧ jobReservedBad fn b = false ∧ s.dev.imageAt (jImage b) = some i ∧ i.owner = fn.val) ∧
    (∃ (s : State) (r : ImgReg) (rest : List ImgReg), s.dev.host.regs = r :: rest) := by
  refine ⟨?_, ?_, ?_, ?_, ?_, ?_⟩
  · exact ⟨tS { (tFetched (tBlock 64 [(0, 1, 1), (0x10, 4, 1)])) with mem := { MemSt.reset with dram := ⟨[(4, 1#8)], []⟩ } }, 0, tBlock 64 [(0, 1, 1), (0x10, 4, 1)], by decide +kernel⟩
  · exact ⟨tS (tFetched (tBlock 64 [(0, 1, 1)])), 0, tBlock 64 [(0, 1, 1)], by decide +kernel⟩
  · exact ⟨tS { (tFetched (tBlock 64 [(0, 1, 2), (0x10, 4, 5)])) with host := { (tFetched (tBlock 64 [(0, 1, 2), (0x10, 4, 5)])).host with jobs := [tJob] } }, 0, tBlock 64 [(0, 1, 2), (0x10, 4, 5)], tJob, by decide +kernel⟩
  · exact ⟨tS (tFetched (tBlock 64 [(0, 1, 3), (2, 2, 255)])), 0, tBlock 64 [(0, 1, 3), (2, 2, 255)], by decide +kernel⟩
  · exact ⟨tS { (tFetched (tBlock 64 [(0, 1, 4)])) with cricket := { (tFetched (tBlock 64 [(0, 1, 4)])).cricket with images := [tImage 0] } }, 0, tBlock 64 [(0, 1, 4)], tImage 0, by decide +kernel⟩
  · exact ⟨tS { Dev.reset with host := { HostSt.reset with regs := [⟨0, 1, false, 5#32, 0⟩] } }, ⟨0, 1, false, 5#32, 0⟩, [], by decide⟩

/-- A MATMUL in FP32 of one tile on partition 0 to DEST `dest`, with more fields. -/
def tMatmul (dest : Nat) (more : List (Nat × Nat × Nat)) : List Byte :=
  tBlock 128 ([(0, 1, 0x0F), (1, 1, 1), (3, 1, 0x20), (4, 1, 0x20), (5, 1, 5), (8, 4, 1), (0xC, 4, 1), (0x10, 4, 64), (0x14, 2, 64),
    (0x2C, 4, 0x4000), (0x40, 1, 0x20), (0x41, 1, dest), (0x60, 8, if dest = 2 then 0 else 0x10000), (0x68, 4, if dest = 2 then 0 else 64),
    (0x6C, 1, if dest = 2 then 1 else 0)] ++ more)
def tCrop : List Byte :=
  tBlock 192 [(0, 1, 0x0F), (1, 1, 0x12), (3, 1, 1), (5, 1, 5), (8, 4, 1), (0xC, 2, 1), (0xE, 2, 1), (0x10, 4, 1), (0x30, 4, 64),
    (0x34, 4, 64), (0x38, 8, 64), (0x46, 2, 1), (0x60, 4, 1), (0x64, 2, 1), (0x66, 2, 1), (0x80, 1, 0x20), (0xA0, 8, 0x10000), (0xA8, 4, 64)]
def tAppend : List Byte :=
  tBlock 128 [(0, 1, 0x0F), (1, 1, 0x21), (3, 1, 0x20), (4, 1, 8), (5, 1, 5), (8, 4, 1), (0xC, 2, 32), (0xE, 2, 1), (0x44, 4, 0x8000),
    (0x50, 4, 1)]
def tQ (b : List Byte) : QDesc := ⟨b, 0⟩
/-- A descriptor at the head of the Massif's queue in a running beat with the partitions enabled. -/
def tMsf (b : List Byte) (cells : List Host.Cell := []) : Dev :=
  let d := (List.range 4).foldl (fun d p => d.setNum (oCtrl (MSF.page p)) 1) (tRun 0)
  { d with massif := { MassifSt.reset with queue := [tQ b] }, mem := { MemSt.reset with dram := ⟨cells, []⟩ } }
def tOp (b : List Byte) (waves : List Nat) (folding : List (Option Nat)) : MassifOp := ⟨tQ b, 1, waves, folding, 1, 0, 0, false⟩
def tOpRun (o : MassifOp) : Dev := { tRun 0 with massif := { MassifSt.reset with op := some o } }
def tBank (st : BankState) : Bank := ⟨st, List.replicate 1024 0#64, 0, 0, 0, 1, 0⟩
def tBankRun (o : MassifOp) (st : BankState) : Dev :=
  { tRun 0 with massif := { MassifSt.reset with unwritten := [o], banks := [(0, tBank st)] } }

theorem test_hyps_MassifRuns :
    (∃ (s : State) (c : Instr) (q : QDesc) (op : Nat) (own : Option Nat) (fence : Bool), s.dev.issuing = true ∧ s.dev.massifHead op = some q ∧ ((c = .matmul ∧ op = 1 ∧ own = s.dev.mmCheck q.bytes 0 ∧ fence = mFence q.bytes) ∨ (c = .flankmm ∧ op = 2 ∧ own = s.dev.flankCheck q.bytes ∧ fence = (mFence (half q.bytes 0) || mFence (half q.bytes 1))) ∨ (c = .conv ∧ op = 0x10 ∧ own = s.dev.swCheck q.bytes (convBad1 q.bytes) ∧ fence = mFence q.bytes) ∨ (c = .pool ∧ op = 0x11 ∧ own = s.dev.swCheck q.bytes (poolBad1 q.bytes) ∧ fence = mFence q.bytes)) ∧ s.dev.headCode q.bytes own = none ∧ s.dev.waitOk q.bytes = true ∧ s.dev.mayStart fence = true) ∧
    (∃ (s : State) (c : Instr) (q : QDesc) (op : Nat) (own : Option Nat) (fence : Bool), s.dev.issuing = true ∧ s.dev.massifHead op = some q ∧ ((c = .matmul ∧ op = 1 ∧ own = s.dev.mmCheck q.bytes 0 ∧ fence = mFence q.bytes) ∨ (c = .flankmm ∧ op = 2 ∧ own = s.dev.flankCheck q.bytes ∧ fence = (mFence (half q.bytes 0) || mFence (half q.bytes 1))) ∨ (c = .conv ∧ op = 0x10 ∧ own = s.dev.swCheck q.bytes (convBad1 q.bytes) ∧ fence = mFence q.bytes) ∨ (c = .pool ∧ op = 0x11 ∧ own = s.dev.swCheck q.bytes (poolBad1 q.bytes) ∧ fence = mFence q.bytes)) ∧ s.dev.headCode q.bytes own = none ∧ s.dev.waitOk q.bytes = false) ∧
    (∃ (s : State) (c : Instr) (q : QDesc) (op : Nat) (own : Option Nat) (fence : Bool) (x : Nat) (ps : List Nat), s.dev.issuing = true ∧ s.dev.massifHead op = some q ∧ ((c = .matmul ∧ op = 1 ∧ own = s.dev.mmCheck q.bytes 0 ∧ fence = mFence q.bytes) ∨ (c = .flankmm ∧ op = 2 ∧ own = s.dev.flankCheck q.bytes ∧ fence = (mFence (half q.bytes 0) || mFence (half q.bytes 1))) ∨ (c = .conv ∧ op = 0x10 ∧ own = s.dev.swCheck q.bytes (convBad1 q.bytes) ∧ fence = mFence q.bytes) ∨ (c = .pool ∧ op = 0x11 ∧ own = s.dev.swCheck q.bytes (poolBad1 q.bytes) ∧ fence = mFence q.bytes)) ∧ s.dev.headCode q.bytes own = some x ∧ (ps = (if op = 2 ∨ 8 < mGrid q.bytes then [0, 1, 2, 3] else (regionOf (mGrid q.bytes)).parts))) ∧
    (∃ (s : State) (q : QDesc), s.dev.issuing = true ∧ s.dev.massifHead 4 = some q ∧ s.dev.headCode q.bytes (if syncBad q.bytes then some 0x10 else none) = none ∧ s.dev.waitOk q.bytes = true ∧ s.dev.massif.unwritten = []) ∧
    (∃ (s : State) (q : QDesc), s.dev.issuing = true ∧ s.dev.massifHead 0x12 = some q ∧ s.dev.headCode q.bytes (s.dev.swCheck q.bytes (cropBad1 q.bytes)) = none ∧ s.dev.waitOk q.bytes = true ∧ s.dev.mayStart (mFence q.bytes) = true ∧ s.dev.Clean (swWaddr q.bytes) (32 * cNbox q.bytes) ∧ firstBadBox (cNimg q.bytes) (cNbox q.bytes) (s.dev.mem.dram.readN (swWaddr q.bytes) (32 * cNbox q.bytes)) = none) ∧
    (∃ (s : State) (q : QDesc) (i : _), s.dev.issuing = true ∧ s.dev.massifHead 0x12 = some q ∧ s.dev.headCode q.bytes (s.dev.swCheck q.bytes (cropBad1 q.bytes)) = none ∧ s.dev.waitOk q.bytes = true ∧ s.dev.mayStart (mFence q.bytes) = true ∧ s.dev.Clean (swWaddr q.bytes) (32 * cNbox q.bytes) ∧ firstBadBox (cNimg q.bytes) (cNbox q.bytes) (s.dev.mem.dram.readN (swWaddr q.bytes) (32 * cNbox q.bytes)) = some i) ∧
    (∃ (s : State) (c : Instr) (q : QDesc) (op : Nat) (l : List Byte), s.dev.issuing = true ∧ ((c = .attn ∧ op = 0x20) ∨ (c = .kvappend ∧ op = 0x21)) ∧ s.dev.massifHead op = some q ∧ s.dev.headCode q.bytes (s.dev.kvCheck q.bytes) = none ∧ s.dev.waitOk q.bytes = true ∧ s.dev.mayStart (mFence q.bytes) = true ∧ (op = 0x20 → s.dev.col.run = none) ∧ s.dev.Clean (aList q.bytes) (32 * aNseq q.bytes) ∧ l = s.dev.mem.dram.readN (aList q.bytes) (32 * aNseq q.bytes) ∧ s.dev.listCheck q.bytes l (aNseq q.bytes) 0 0 = none ∧ s.dev.badFrame q.bytes ((List.range (aNseq q.bytes)).map (attEntry l)) = none) ∧
    (∃ (s : State) (c : Instr) (q : QDesc) (op : Nat) (l : List Byte) (f : _), s.dev.issuing = true ∧ ((c = .attn ∧ op = 0x20) ∨ (c = .kvappend ∧ op = 0x21)) ∧ s.dev.massifHead op = some q ∧ s.dev.headCode q.bytes (s.dev.kvCheck q.bytes) = none ∧ s.dev.waitOk q.bytes = true ∧ s.dev.mayStart (mFence q.bytes) = true ∧ (op = 0x20 → s.dev.col.run = none) ∧ s.dev.Clean (aList q.bytes) (32 * aNseq q.bytes) ∧ l = s.dev.mem.dram.readN (aList q.bytes) (32 * aNseq q.bytes) ∧ s.dev.listCheck q.bytes l (aNseq q.bytes) 0 0 = some f) ∧
    (∃ (s : State) (c : Instr) (q : QDesc) (op : Nat) (l : List Byte) (a : _), s.dev.issuing = true ∧ ((c = .attn ∧ op = 0x20) ∨ (c = .kvappend ∧ op = 0x21)) ∧ s.dev.massifHead op = some q ∧ s.dev.headCode q.bytes (s.dev.kvCheck q.bytes) = none ∧ s.dev.waitOk q.bytes = true ∧ s.dev.mayStart (mFence q.bytes) = true ∧ (op = 0x20 → s.dev.col.run = none) ∧ s.dev.Clean (aList q.bytes) (32 * aNseq q.bytes) ∧ l = s.dev.mem.dram.readN (aList q.bytes) (32 * aNseq q.bytes) ∧ s.dev.listCheck q.bytes l (aNseq q.bytes) 0 0 = none ∧ s.dev.badFrame q.bytes ((List.range (aNseq q.bytes)).map (attEntry l)) = some a) ∧
    (∃ (s : State) (f : Fin 2) (o : MassifOp) (g : Geo) (w : Nat), s.dev.running = true ∧ s.dev.massif.op = some o ∧ g = geoOf o.desc.bytes f ∧ w = o.waves.getD f 0 ∧ f.val < o.waves.length ∧ w < g.w ∧ o.folding.getD f none = none ∧ (opcodeOf o.desc.bytes = 0x10 → o.group < o.fetched) ∧ (∀ t ∈ g.tiles w, ∀ k, k < g.s → s.dev.chooseBank (g.cellOf k t.1 t.2) t.1 t.2 (startOf o.desc.bytes f == 2 && !isWindow o.desc.bytes) (isFp64 o.desc.bytes f) ≠ none)) ∧
    (∃ (s : State) (o : MassifOp), s.dev.running = true ∧ s.dev.massif.op = some o ∧ opcodeOf o.desc.bytes = 0x10 ∧ o.fetched ≤ o.group ∧ s.dev.col.run = none) ∧
    (∃ (s : State) (f : Fin 2) (o : MassifOp) (g : Geo) (w : Nat) (win : Bool), s.dev.running = true ∧ s.dev.massif.op = some o ∧ g = geoOf o.desc.bytes f ∧ o.folding.getD f none = some w ∧ (win = decide (opcodeOf o.desc.bytes = 0x11 ∨ opcodeOf o.desc.bytes = 0x12)) ∧ (win = true → s.dev.col.run = none)) ∧
    (∃ (s : State) (f : Fin 2) (o : MassifOp), s.dev.massif.op = some o ∧ o.folding.getD f none ≠ none ∧ (opcodeOf o.desc.bytes = 0x11 ∨ opcodeOf o.desc.bytes = 0x12) ∧ s.dev.col.run ≠ none) ∧
    (∃ (s : State) (x : Fin 4096) (b : Nat) (o : MassifOp) (ex : List Byte), s.dev.running = true ∧ s.dev.bankIn x .exiting = none ∧ s.dev.bankIn x .full = some b ∧ s.dev.opOf (s.dev.bank x b).op = some o ∧ ex = exitOf o.desc.bytes (s.dev.bank x b).flank ∧ isFp64 o.desc.bytes (s.dev.bank x b).flank = false ∧ xDest ex ≠ 2) ∧
    (∃ (s : State) (x : Fin 4096) (b : Nat) (o : MassifOp) (ex : List Byte) (w : _), s.dev.running = true ∧ s.dev.bankIn x .exiting = none ∧ s.dev.bankIn x .full = some b ∧ s.dev.opOf (s.dev.bank x b).op = some o ∧ ex = exitOf o.desc.bytes (s.dev.bank x b).flank ∧ isFp64 o.desc.bytes (s.dev.bank x b).flank = false ∧ xDest ex = 2 ∧ s.dev.ringAccepts o (s.dev.bank x b) (clusterOfCell x) = some w) ∧
    (∃ (s : State) (x : Fin 4096) (b : Nat) (o : MassifOp) (ex : List Byte), s.dev.running = true ∧ s.dev.bankIn x .exiting = none ∧ s.dev.bankIn x .full = some b ∧ s.dev.opOf (s.dev.bank x b).op = some o ∧ ex = exitOf o.desc.bytes (s.dev.bank x b).flank ∧ isFp64 o.desc.bytes (s.dev.bank x b).flank = false ∧ xDest ex = 2 ∧ s.dev.ringAccepts o (s.dev.bank x b) (clusterOfCell x) = none) ∧
    (∃ (s : State) (x : Fin 4096) (b : Nat) (k : Bank) (o : MassifOp) (ex : List Byte) (g : Geo), s.dev.running = true ∧ s.dev.bankIn x .exiting = some b ∧ k = s.dev.bank x b ∧ s.dev.opOf k.op = some o ∧ ex = exitOf o.desc.bytes k.flank ∧ g = geoOf o.desc.bytes k.flank ∧ xDest ex ≠ 2) ∧
    (∃ (s : State) (x : Fin 4096) (b : Nat) (k : Bank) (o : MassifOp) (ex : List Byte) (g : Geo), s.dev.running = true ∧ s.dev.bankIn x .exiting = some b ∧ k = s.dev.bank x b ∧ s.dev.opOf k.op = some o ∧ ex = exitOf o.desc.bytes k.flank ∧ g = geoOf o.desc.bytes k.flank ∧ xDest ex = 2) ∧
    (∃ (s : State) (o : MassifOp), s.dev.running = true ∧ s.dev.massif.unwritten.find? (fun u => u.exits == 0) = some o) := by
  and_intros
  · exact ⟨tS (tMsf (tMatmul 0 [])), .matmul, tQ (tMatmul 0 []), 1, none, false, by decide +kernel⟩
  · exact ⟨tS (tMsf (tMatmul 0 [(0x18, 4, 0x80000000), (0x1C, 4, 1)])), .matmul, tQ (tMatmul 0 [(0x18, 4, 0x80000000), (0x1C, 4, 1)]), 1, none, false, by decide +kernel⟩
  · exact ⟨tS (tMsf (tMatmul 0 [(8, 4, 0)])), .matmul, tQ (tMatmul 0 [(8, 4, 0)]), 1, some 0x13, false, 0x13, [0], by decide +kernel⟩
  · exact ⟨tS (tMsf (tBlock 64 [(0, 1, 0x0F), (1, 1, 4)])), tQ (tBlock 64 [(0, 1, 0x0F), (1, 1, 4)]), by decide +kernel⟩
  · exact ⟨tS (tMsf tCrop), tQ tCrop, by unfold Dev.Clean; decide +kernel⟩
  · exact ⟨tS (tMsf tCrop [(0, 1#8)]), tQ tCrop, 0, by unfold Dev.Clean; decide +kernel⟩
  · exact ⟨tS (tMsf tAppend), .kvappend, tQ tAppend, 0x21, List.replicate 32 0#8, by unfold Dev.Clean; decide +kernel⟩
  · exact ⟨tS (tMsf tAppend [(0x18, 1#8)]), .kvappend, tQ tAppend, 0x21, (tMsf tAppend [(0x18, 1#8)]).mem.dram.readN 0 32, (0, 0x11), by unfold Dev.Clean; decide +kernel⟩
  · exact ⟨tS (tMsf tAppend [(0, 1#8), (0x19, 1#8), (0x100, 1#8)]), .kvappend, tQ tAppend, 0x21, (tMsf tAppend [(0, 1#8), (0x19, 1#8), (0x100, 1#8)]).mem.dram.readN 0 32, 0x100, by unfold Dev.Clean; decide +kernel⟩
  · exact ⟨tS (tOpRun (tOp (tMatmul 0 []) [0] [none])), 0, tOp (tMatmul 0 []) [0] [none], geoOf (tMatmul 0 []) 0, 0, by decide +kernel⟩
  · exact ⟨tS (tOpRun (tOp (tBlock 192 [(0, 1, 0x0F), (1, 1, 0x10), (3, 1, 0x20), (4, 1, 0x20), (5, 1, 5), (8, 4, 1), (0xC, 2, 1), (0xE, 2, 1), (0x10, 4, 1), (0x14, 4, 1), (0x40, 1, 1), (0x41, 1, 1), (0x42, 1, 1), (0x43, 1, 1), (0x44, 1, 1), (0x45, 1, 1), (0x46, 2, 1), (0x54, 2, 64)]) [0] [none])), tOp (tBlock 192 [(0, 1, 0x0F), (1, 1, 0x10), (3, 1, 0x20), (4, 1, 0x20), (5, 1, 5), (8, 4, 1), (0xC, 2, 1), (0xE, 2, 1), (0x10, 4, 1), (0x14, 4, 1), (0x40, 1, 1), (0x41, 1, 1), (0x42, 1, 1), (0x43, 1, 1), (0x44, 1, 1), (0x45, 1, 1), (0x46, 2, 1), (0x54, 2, 64)]) [0] [none], by decide +kernel⟩
  · exact ⟨tS (tOpRun (tOp (tMatmul 0 []) [1] [some 0])), 0, tOp (tMatmul 0 []) [1] [some 0], geoOf (tMatmul 0 []) 0, 0, false, by decide +kernel⟩
  · exact ⟨tS { tOpRun (tOp (tBlock 192 [(1, 1, 0x11)]) [1] [some 0]) with col := { ColSt.reset with run := some (tQ []) } }, 0, tOp (tBlock 192 [(1, 1, 0x11)]) [1] [some 0], by decide +kernel⟩
  · exact ⟨tS (tBankRun (tOp (tMatmul 0 []) [1] [none]) .full), 0, 0, tOp (tMatmul 0 []) [1] [none], exitOf (tMatmul 0 []) 0, by decide +kernel⟩
  · exact ⟨tS (tBankRun (tOp (tMatmul 2 []) [1] [none]) .full), 0, 0, tOp (tMatmul 2 []) [1] [none], exitOf (tMatmul 2 []) 0, freshRing (Dev.reset.wvl 0) 2 0 1, by decide +kernel⟩
  · exact ⟨tS { tBankRun (tOp (tMatmul 2 []) [1] [none]) .full with weevil := { WeevilSt.reset with cl := [(0, freshRing (Dev.reset.wvl 0) (scarabRing + 1) 0 1)] } }, 0, 0, tOp (tMatmul 2 []) [1] [none], exitOf (tMatmul 2 []) 0, by decide +kernel⟩
  · exact ⟨tS (tBankRun (tOp (tMatmul 0 []) [1] [none]) .exiting), 0, 0, tBank .exiting, tOp (tMatmul 0 []) [1] [none], exitOf (tMatmul 0 []) 0, geoOf (tMatmul 0 []) 0, by decide +kernel⟩
  · exact ⟨tS (tBankRun (tOp (tMatmul 2 []) [1] [none]) .exiting), 0, 0, tBank .exiting, tOp (tMatmul 2 []) [1] [none], exitOf (tMatmul 2 []) 0, geoOf (tMatmul 2 []) 0, by decide +kernel⟩
  · exact ⟨tS { tRun 0 with massif := { MassifSt.reset with unwritten := [{ tOp (tMatmul 0 []) [1] [none] with exits := 0 }] } }, { tOp (tMatmul 0 []) [1] [none] with exits := 0 }, by decide +kernel⟩

theorem test_hyps_RegisterWindows :
    (∃ (s : State) (r : Requester) (g : Fin 256), requesterIsPf r = true ∧ s.dev.inReset (SYN.page g) = false) ∧
    (∃ (r : Requester), requesterIsPf r = true) ∧
    (∃ (s : State) (vf : Fin 16) (o : Fin 131072) (lo : Nat) (n : Nat), lo = s.dev.fld (HST.SYNGRANT vf) 7 0 ∧ n = s.dev.fld (HST.SYNGRANT vf) 15 8 ∧ 1 ≤ vf.val ∧ lo ≤ o.val / 512 ∧ o.val / 512 < lo + n) ∧
    (∃ (s : State) (vf : Fin 16) (o : Fin 131072) (lo : Nat) (n : Nat), lo = s.dev.fld (HST.SYNGRANT vf) 7 0 ∧ n = s.dev.fld (HST.SYNGRANT vf) 15 8 ∧ 1 ≤ vf.val ∧ ¬(lo ≤ o.val / 512 ∧ o.val / 512 < lo + n)) ∧
    (∃ (s : State) (vf : Fin 16) (g : Fin 256) (lo : Nat) (n : Nat), lo = s.dev.fld (HST.SYNGRANT vf) 7 0 ∧ n = s.dev.fld (HST.SYNGRANT vf) 15 8 ∧ 1 ≤ vf.val ∧ ¬(lo ≤ g.val ∧ g.val < lo + n)) ∧
    (∃ (s : State) (r : Requester) (p : Fin 4) (x : Nat) (o : Nat), requesterIsPf r = true ∧ x = s.dev.csWinCell p ∧ o = s.dev.csWinOff p ∧ s.dev.enableInEffect (MSF.page p) = false ∧ o < storeSize ∧ s.dev.badWords x o 8 = []) ∧
    (∃ (s : State) (r : Requester) (p : Fin 4) (x : Nat) (o : Nat), requesterIsPf r = true ∧ x = s.dev.csWinCell p ∧ o = s.dev.csWinOff p ∧ s.dev.enableInEffect (MSF.page p) = false ∧ o < storeSize ∧ s.dev.badWords x o 8 ≠ []) ∧
    (∃ (s : State) (r : Requester) (p : Fin 4) (x : Nat) (o : Nat), requesterIsPf r = true ∧ x = s.dev.csWinCell p ∧ o = s.dev.csWinOff p ∧ s.dev.enableInEffect (MSF.page p) = false ∧ o < storeSize) ∧
    (∃ (s : State) (r : Requester) (p : Fin 4), requesterIsPf r = true ∧ (s.dev.enableInEffect (MSF.page p) = true ∨ storeSize ≤ s.dev.csWinOff p)) ∧
    (∃ (r : Requester), requesterIsPf r = true) ∧
    (∃ (s : State) (r : Requester) (p : Fin 4) (lo : Word), requesterIsPf r = true ∧ s.dev.bufferOf r (MSF.CSDATA p) = some lo ∧ s.dev.enableInEffect (MSF.page p) = false ∧ s.dev.csWinOff p < storeSize) ∧
    (∃ (s : State) (r : Requester) (k : Fin 64) (i : Nat), requesterIsPf r = true ∧ i = s.dev.fld (WVL.PWLINDEX k) 7 0 ∧ s.dev.enableInEffect (WVL.page k) = false) ∧
    (∃ (s : State) (r : Requester) (k : Fin 64) (i : Nat), requesterIsPf r = true ∧ i = s.dev.fld (WVL.PWLINDEX k) 7 0 ∧ s.dev.enableInEffect (WVL.page k) = false) ∧
    (∃ (s : State) (r : Requester) (k : Fin 64) (n : Nat), requesterIsPf r = true ∧ n = s.dev.trWord k ∧ s.dev.enableInEffect (WVL.page k) = false ∧ (s.dev.wvl k).tregUE.contains (2 * n) = false) ∧
    (∃ (s : State) (r : Requester) (k : Fin 64) (n : Nat), requesterIsPf r = true ∧ n = s.dev.trWord k ∧ s.dev.enableInEffect (WVL.page k) = false) ∧
    (∃ (s : State) (r : Requester) (k : Fin 64) (e : Nat), requesterIsPf r = true ∧ e = s.dev.fld (SCB.STATINDEX k) 14 0 ∧ s.dev.enableInEffect (SCB.page k) = false ∧ (s.dev.scb k).statUE.contains e = false) ∧
    (∃ (s : State) (r : Requester) (k : Fin 64) (e : Nat), requesterIsPf r = true ∧ e = s.dev.fld (SCB.STATINDEX k) 14 0 ∧ s.dev.enableInEffect (SCB.page k) = false) := by
  and_intros
  · exact ⟨tS Dev.reset, .host, 255, by decide⟩
  · exact ⟨.cp 0, by decide⟩
  · exact ⟨tS (Dev.reset.setNum (HST.SYNGRANT 15) 0x01FF), 15, 131071, 255, 1, by decide⟩
  · exact ⟨tS (Dev.reset.setNum (HST.SYNGRANT 15) 0x01FF), 15, 130559, 255, 1, by decide⟩
  · exact ⟨tS Dev.reset, 1, 0, 0, 0, by decide⟩
  · exact ⟨tS Dev.reset, .host, 3, Dev.reset.csWinCell 3, 0, by decide⟩
  · exact ⟨tS { Dev.reset with massif := { MassifSt.reset with storeUE := [163840 * Dev.reset.csWinCell 0] } }, .host, 0, Dev.reset.csWinCell 0, 0, by decide⟩
  · exact ⟨tS Dev.reset, .host, 3, Dev.reset.csWinCell 3, 0, by decide⟩
  · exact ⟨tS (Dev.reset.setNum (oCtrl (MSF.page 2)) 1), .host, 2, by decide⟩
  · exact ⟨.host, by decide⟩
  · exact ⟨tS { Dev.reset with bus := { BusSt.reset with wbufs := [(.host, MSF.CSDATA 1, 7#32)] } }, .host, 1, 7#32, by decide⟩
  · exact ⟨tS (Dev.reset.setNum (WVL.PWLINDEX 63) 255), .host, 63, 255, by decide⟩
  · exact ⟨tS (Dev.reset.setNum (WVL.PWLINDEX 63) 255), .host, 63, 255, by decide⟩
  · exact ⟨tS (Dev.reset.setNum (WVL.TRADDR 0) 0x1FFF8), .host, 0, 16383, by decide⟩
  · exact ⟨tS (Dev.reset.setNum (WVL.TRADDR 0) 0x1FFF8), .host, 0, 16383, by decide⟩
  · exact ⟨tS (Dev.reset.setNum (SCB.STATINDEX 1) 0x7FFF), .host, 1, 0x7FFF, by decide⟩
  · exact ⟨tS (Dev.reset.setNum (SCB.STATINDEX 1) 0x7FFF), .host, 1, 0x7FFF, by decide⟩

/-- Cluster `k` runs a program whose next word is `w`. -/
def tWvl (k w : Nat) (more : Wvl → Wvl := id) : Dev :=
  { tRun 0 with weevil := { WeevilSt.reset with cl := [(k, more { wvl0 0 with run := .running, imem := if w = 0 then [] else [(0, BitVec.ofNat 64 w)] })] } }
/-- A Weevil descriptor: 1 loads 2 instructions, 2 loads the table. -/
def tWd (op : Nat) : List Byte := tBlock 64 [(0, 1, 0x11), (1, 1, op), (4, 2, if op = 1 then 2 else 0), (8, 8, 2 ^ 63), (0x10, 8, 0x4000)]
/-- A descriptor at the head of a queue in the run window. -/
def tWq (b : List Byte) : Dev := { tRun 0 with weevil := { WeevilSt.reset with queue := [tQ b] } }
/-- A placement of a 64 x 64 FP32 matrix on partition 0, and one whose source is misaligned. -/
def tPlace (op src : Nat) : List Byte :=
  if op = 1 then
    tBlock 128 [(0, 1, 0x10), (1, 1, 1), (3, 1, 0x20), (4, 1, 0x20), (8, 8, src), (0x10, 4, 256), (0x41, 1, 5), (0x44, 2, 64), (0x48, 4, 64), (0x4C, 4, 64)]
  else
    tBlock 128 [(0, 1, 0x10), (1, 1, 2), (3, 1, 0x20), (4, 1, 0x20), (8, 8, src), (0x10, 4, 256), (0x41, 1, 1), (0x44, 2, 64), (0x48, 4, 64), (0x4C, 4, 64),
      (0x61, 1, 2), (0x64, 2, 64), (0x68, 4, 64), (0x6C, 4, 64)]
def tCol (b : List Byte) : Dev := { (List.range 4).foldl (fun (d : Dev) p => d.setNum (oCtrl (MSF.page p)) 1) (tRun 0) with col := { ColSt.reset with queue := [tQ b] } }
/-- A copy of `n` bytes of FP32 from 0x4000 to `dst`. -/
def tCopy (dst n : Nat) : List Byte := tBlock 64 [(0, 1, 0x0C), (1, 1, 1), (3, 1, 0x20), (4, 1, 0x20), (8, 8, 0x4000), (0x10, 4, n / 4), (0x28, 8, dst)]
def tCopyQ (b : List Byte) : Dev := { tRun 0 with mem := { MemSt.reset with copyQ := [tQ b] } }
/-- A row operation of one row of 16 FP32 values in cluster 3. -/
def tScarab (op dest : Nat) (more : List (Nat × Nat × Nat) := []) : List Byte :=
  tBlock 128 ([(0, 1, 0x12), (1, 1, op), (3, 1, 0x20), (5, 1, dest), (7, 1, if dest = 2 then 2 else 0), (8, 8, 8), (0x10, 4, 1), (0x14, 4, 16),
    (0x28, 8, 0x4000), (0x30, 4, 64), (0x58, 8, 0x10000), (0x60, 4, 64)] ++ more)
def tScb (b : List Byte) : Dev :=
  { tRun 0 with scarab := ⟨[(3, { scb0 0 with queue := [tQ b] })], [(tQ b, 1)], []⟩ }
/-- A Talus descriptor for entry 5 of cluster 3. -/
def tTal (op size : Nat) : List Byte :=
  tBlock 64 ([(0, 1, 0x13), (1, 1, op), (4, 2, 5), (8, 8, 8)] ++ if op = 1 then [(2, 1, 1), (3, 1, 8), (0x10, 4, size)] else [])
def tTls (b : List Byte) (ents : List (Nat × TlsEnt)) (more : Tls → Tls := id) : Dev :=
  { tRun 0 with talus := ⟨[(3, more { tls0 0 with queue := [tQ b], ents := ents })], [(tQ b, 1)]⟩ }
def tEnt (st : EntState) (pages : Nat) : TlsEnt := ⟨st, true, false, 8, 4096 * pages, pages, 0, 0⟩
/-- A device in the run window with one pinned granule at 0. -/
def tPin : Dev := { tRun 0 with mem := { MemSt.reset with pins := [(0, 1)] } }
theorem one_entry {v : TlsEnt} (h : v.state ≠ .spilling) : ∀ x ∈ [(9, v)], x.2.state ≠ .spilling := by
  intro x hx
  simp only [List.mem_cons, List.not_mem_nil, or_false] at hx
  rw [hx]
  exact h

theorem test_hyps_WeevilArithmetic :
    (∃ (s : State) (k : Fin 64) (c : Instr) (op : Nat) (i : Nat) (w : Wvl) (A : Nat → Nat → FVal) (B : Nat → Nat → FVal) (C : Nat → Nat → FVal) (g : Nat → Nat → FVal × Nat), s.dev.WvlReady k op i ∧ w = s.dev.wvl k ∧ A = opnd w i 0 ∧ B = opnd w i 1 ∧ C = opnd w i 2 ∧ ((c = .wvlAdd k ∧ op = 0x01 ∧ g = fun x y => judged (fAdd grid32 (A x y) (B x y))) ∨ (c = .wvlSub k ∧ op = 0x02 ∧ g = fun x y => judged (fAdd grid32 (A x y) (B x y).negate)) ∨ (c = .wvlMul k ∧ op = 0x03 ∧ g = fun x y => judged (fMul grid32 (A x y) (B x y))) ∨ (c = .wvlFma k ∧ op = 0x04 ∧ g = fun x y => judged (fFma grid32 (A x y) (B x y) (C x y))) ∨ (c = .wvlMin k ∧ op = 0x05 ∧ g = fun x y => judged (fMin (A x y) (B x y), false)) ∨ (c = .wvlMax k ∧ op = 0x06 ∧ g = fun x y => judged (fMax (A x y) (B x y), false)) ∨ (c = .wvlAbs k ∧ op = 0x07 ∧ g = fun x y => judged ((A x y).abs, false)) ∨ (c = .wvlNeg k ∧ op = 0x08 ∧ g = fun x y => judged ((A x y).negate, false)) ∨ (c = .wvlRcp k ∧ op = 0x09 ∧ g = fun x y => judged (crRcp (A x y))) ∨ (c = .wvlRsqrt k ∧ op = 0x0A ∧ g = fun x y => judged (crRsqrt (A x y))) ∨ (c = .wvlSqrt k ∧ op = 0x0B ∧ g = fun x y => judged (crSqrt (A x y))) ∨ (c = .wvlExp k ∧ op = 0x0C ∧ g = fun x y => judged (crExp (A x y))) ∨ (c = .wvlLog k ∧ op = 0x0D ∧ g = fun x y => judged (crLog (A x y))) ∨ (c = .wvlAct k ∧ op = 0x0E ∧ g = fun x y => judged (activation (s.dev.pwlOf k) (iImm8 i) (val32 (w.word (iB i) 0 (iBidx i))) (val32 (w.word (iC i) 0 (iCidx i))) (A x y), false)) ∨ (c = .wvlTrn k ∧ op = 0x13 ∧ g = fun x y => judged (val32 (w.word (iA i) y x), false)) ∨ (c = .wvlRred k ∧ op = 0x14 ∧ g = fun x _ => reduce32 (iSub i) (tabulate 32 (fun y => A x y))) ∨ (c = .wvlCred k ∧ op = 0x15 ∧ g = fun _ y => reduce32 (iSub i) (tabulate 32 (fun x => A x y))) ∨ (c = .wvlRint k ∧ op = 0x16 ∧ g = fun x y => judged (roundInt (iSub i) (A x y), false)) ∨ (c = .wvlCvtw k ∧ op = 0x18 ∧ g = fun x y => judged ((imageVal (iImm8 i) (w.regBytes (iA i)) x y).round grid32)))) := by
  exact ⟨tS (tWvl 63 0x00005001CF7C6304), 63, .wvlFma 63, 4, 0x00005001CF7C6304, _, _, _, _, _, ⟨by unfold Dev.WvlReady; decide +kernel, rfl, rfl, rfl, rfl, .inr (.inr (.inr (.inl ⟨rfl, rfl, rfl⟩)))⟩⟩

theorem test_hyps_WeevilMoves :
    (∃ (s : State) (k : Fin 64) (i : Nat) (w : Wvl), w = s.dev.wvl k ∧ s.dev.WvlReady k 0x12 i) ∧
    (∃ (s : State) (k : Fin 64) (i : Nat) (w : Wvl), w = s.dev.wvl k ∧ s.dev.WvlReady k 0x11 i) ∧
    (∃ (s : State) (k : Fin 64) (i : Nat) (w : Wvl), w = s.dev.wvl k ∧ s.dev.WvlReady k 0x10 i) ∧
    (∃ (s : State) (k : Fin 64) (i : Nat) (w : Wvl), w = s.dev.wvl k ∧ s.dev.WvlReady k 0x19 i) ∧
    (∃ (s : State) (k : Fin 64) (i : Nat) (w : Wvl), w = s.dev.wvl k ∧ s.dev.memBad k i = none ∧ s.dev.WvlReady k 0x20 i) ∧
    (∃ (s : State) (k : Fin 64) (i : Nat) (w : Wvl), w = s.dev.wvl k ∧ s.dev.memBad k i = none ∧ s.dev.WvlReady k 0x21 i) ∧
    (∃ (s : State) (k : Fin 64) (i : Nat) (w : Wvl), w = s.dev.wvl k ∧ s.dev.memBad k i = none ∧ s.dev.WvlReady k 0x22 i) ∧
    (∃ (s : State) (k : Fin 64) (i : Nat) (x : Nat × Nat) (c : Instr) (op : Nat), s.dev.WvlReady k op i ∧ ((c = .wvlLd k ∧ op = 0x20) ∨ (c = .wvlSt k ∧ op = 0x21) ∨ (c = .wvlStn k ∧ op = 0x22)) ∧ s.dev.memBad k i = some x) := by
  refine ⟨?_, ?_, ?_, ?_, ?_, ?_, ?_, ?_⟩
  · exact ⟨tS (tWvl 0 0x1F12), 0, 0x1F12, _, ⟨rfl, by unfold Dev.WvlReady; decide +kernel⟩⟩
  · exact ⟨tS (tWvl 0 0x1F11), 0, 0x1F11, _, ⟨rfl, by unfold Dev.WvlReady; decide +kernel⟩⟩
  · exact ⟨tS (tWvl 0 0x0310), 0, 0x0310, _, ⟨rfl, by unfold Dev.WvlReady; decide +kernel⟩⟩
  · exact ⟨tS (tWvl 0 0x0400000000001F19), 0, 0x0400000000001F19, _, ⟨rfl, by unfold Dev.WvlReady; decide +kernel⟩⟩
  · exact ⟨tS (tWvl 0 0x20001F20), 0, 0x20001F20, _, ⟨rfl, by decide +kernel, by unfold Dev.WvlReady; decide +kernel⟩⟩
  · exact ⟨tS (tWvl 0 0x0001000020001F21), 0, 0x0001000020001F21, _, ⟨rfl, by decide +kernel, by unfold Dev.WvlReady; decide +kernel⟩⟩
  · exact ⟨tS (tWvl 0 0x0001000010001F22), 0, 0x0001000010001F22, _, ⟨rfl, by decide +kernel, by unfold Dev.WvlReady; decide +kernel⟩⟩
  · exact ⟨tS (tWvl 0 0x0000000420001F20), 0, 0x0000000420001F20, (0x11, 4), .wvlLd 0, 0x20, ⟨by unfold Dev.WvlReady; decide +kernel, .inl ⟨rfl, rfl⟩, by decide +kernel⟩⟩

theorem test_hyps_WeevilControl :
    (∃ (s : State) (k : Fin 64) (i : Nat) (w : Wvl), w = s.dev.wvl k ∧ s.dev.WvlReady k 0x00 i) ∧
    (∃ (s : State) (k : Fin 64) (i : Nat) (w : Wvl) (j : _) (rest : _), w = s.dev.wvl k ∧ s.dev.WvlReady k 0x28 i ∧ w.ringFill = j :: rest) ∧
    (∃ (s : State) (k : Fin 64) (i : Nat) (w : Wvl), w = s.dev.wvl k ∧ s.dev.WvlReady k 0x28 i ∧ w.ringFill = []) ∧
    (∃ (s : State) (k : Fin 64) (i : Nat) (w : Wvl) (j : _) (rest : _), w = s.dev.wvl k ∧ s.dev.WvlReady k 0x29 i ∧ w.ringHeld = j :: rest) ∧
    (∃ (s : State) (k : Fin 64) (i : Nat) (w : Wvl), w = s.dev.wvl k ∧ s.dev.WvlReady k 0x29 i ∧ w.ringHeld = []) ∧
    (∃ (s : State) (k : Fin 64) (i : Nat) (w : Wvl), w = s.dev.wvl k ∧ s.dev.WvlReady k 0x30 i) ∧
    (∃ (s : State) (k : Fin 64) (i : Nat) (w : Wvl), w = s.dev.wvl k ∧ s.dev.WvlReady k 0x31 i) ∧
    (∃ (s : State) (k : Fin 64) (i : Nat) (w : Wvl), w = s.dev.wvl k ∧ s.dev.WvlReady k 0x38 i ∧ w.loops.length < 4) ∧
    (∃ (s : State) (k : Fin 64) (i : Nat) (w : Wvl) (l : _) (rest : _), w = s.dev.wvl k ∧ s.dev.WvlReady k 0x39 i ∧ w.loops = l :: rest ∧ l.left = 0) ∧
    (∃ (s : State) (k : Fin 64) (i : Nat) (w : Wvl) (l : _) (rest : _), w = s.dev.wvl k ∧ s.dev.WvlReady k 0x39 i ∧ w.loops = l :: rest ∧ l.left ≠ 0) ∧
    (∃ (s : State) (k : Fin 64) (i : Nat) (w : Wvl), w = s.dev.wvl k ∧ s.dev.WvlReady k 0x3F i ∧ w.loops = []) ∧
    (∃ (s : State) (k : Fin 64) (i : Nat) (w : Wvl) (c : Instr) (op : Nat), w = s.dev.wvl k ∧ s.dev.WvlReady k op i ∧ ((c = .wvlLoop k ∧ op = 0x38 ∧ 4 ≤ w.loops.length) ∨ (c = .wvlEndl k ∧ op = 0x39 ∧ w.loops = []) ∨ (c = .wvlEnd k ∧ op = 0x3F ∧ w.loops ≠ []))) := by
  and_intros
  · exact ⟨tS (tWvl 63 0), 63, 0, _, ⟨rfl, by unfold Dev.WvlReady; decide +kernel⟩⟩
  · exact ⟨tS (tWvl 0 0x28 (fun w => { w with ring := [⟨.filled, 7#64⟩], ringFill := [0] })), 0, 0x28, _, 0, [], ⟨rfl, by unfold Dev.WvlReady; decide +kernel, rfl⟩⟩
  · exact ⟨tS (tWvl 0 0x28), 0, 0x28, _, ⟨rfl, by unfold Dev.WvlReady; decide +kernel, rfl⟩⟩
  · exact ⟨tS (tWvl 0 0x29 (fun w => { w with ring := [⟨.held, 7#64⟩], ringHeld := [0] })), 0, 0x29, _, 0, [], ⟨rfl, by unfold Dev.WvlReady; decide +kernel, rfl⟩⟩
  · exact ⟨tS (tWvl 0 0x29), 0, 0x29, _, ⟨rfl, by unfold Dev.WvlReady; decide +kernel, rfl⟩⟩
  · exact ⟨tS (tWvl 0 0xFFFFFFFF00000630), 0, 0xFFFFFFFF00000630, _, ⟨rfl, by unfold Dev.WvlReady; decide +kernel⟩⟩
  · exact ⟨tS (tWvl 0 0xFFFFFFFF00000731), 0, 0xFFFFFFFF00000731, _, ⟨rfl, by unfold Dev.WvlReady; decide +kernel⟩⟩
  · exact ⟨tS (tWvl 0 0xFFFF0038), 0, 0xFFFF0038, _, ⟨rfl, by unfold Dev.WvlReady; decide +kernel, by decide⟩⟩
  · exact ⟨tS (tWvl 0 0x39 (fun w => { w with loops := [⟨2047, 0⟩] })), 0, 0x39, _, _, _, ⟨rfl, by unfold Dev.WvlReady; decide +kernel, rfl, by decide⟩⟩
  · exact ⟨tS (tWvl 0 0x39 (fun w => { w with loops := [⟨2047, 1⟩] })), 0, 0x39, _, _, _, ⟨rfl, by unfold Dev.WvlReady; decide +kernel, rfl, by decide⟩⟩
  · exact ⟨tS (tWvl 0 0x3F), 0, 0x3F, _, ⟨rfl, by unfold Dev.WvlReady; decide +kernel, rfl⟩⟩
  · exact ⟨tS (tWvl 0 0x39), 0, 0x39, _, .wvlEndl 0, 0x39, ⟨rfl, by unfold Dev.WvlReady; decide +kernel, .inr (.inl ⟨rfl, rfl, rfl⟩)⟩⟩

theorem test_hyps_DescriptorsRun :
    (∃ (s : State) (q : QDesc) (bs : List Byte), s.dev.issuing = true ∧ s.dev.waitOk q.bytes = true ∧ s.dev.clustersIdle (dClmask q.bytes) = true ∧ s.dev.weevilHead 1 = some q ∧ s.dev.headCode q.bytes (s.dev.weevilBad q.bytes (8 * wNinstr q.bytes)) = none ∧ s.dev.Clean (wPaddr q.bytes) (8 * wNinstr q.bytes) ∧ bs = s.dev.mem.dram.readN (wPaddr q.bytes) (8 * wNinstr q.bytes)) ∧
    (∃ (s : State) (q : QDesc) (bs : List Byte), s.dev.issuing = true ∧ s.dev.waitOk q.bytes = true ∧ s.dev.clustersIdle (dClmask q.bytes) = true ∧ s.dev.weevilHead 2 = some q ∧ s.dev.headCode q.bytes (s.dev.weevilBad q.bytes 2048) = none ∧ s.dev.Clean (wPaddr q.bytes) 2048 ∧ bs = s.dev.mem.dram.readN (wPaddr q.bytes) 2048) ∧
    (∃ (s : State) (e : QDesc × Nat), s.dev.running = true ∧ s.dev.weevil.run.find? (fun x => x.2 == 0) = some e) ∧
    (∃ (s : State) (c : Instr) (op : Nat) (q : QDesc), s.dev.issuing = true ∧ ((c = .place ∧ op = 1) ∨ (c = .dual ∧ op = 2)) ∧ s.dev.colHead op = some q ∧ s.dev.headCode q.bytes (s.dev.placeCheck q.bytes) = none ∧ s.dev.waitOk q.bytes = true ∧ s.dev.col.run = none ∧ s.dev.fetching = false) ∧
    (∃ (s : State) (c : Instr) (op : Nat) (q : QDesc) (x : _), s.dev.issuing = true ∧ ((c = .place ∧ op = 1) ∨ (c = .dual ∧ op = 2)) ∧ s.dev.colHead op = some q ∧ s.dev.headCode q.bytes (s.dev.placeCheck q.bytes) = some x) ∧
    (∃ (s : State) (q : QDesc), s.dev.running = true ∧ s.dev.col.run = some q) ∧
    (∃ (s : State) (q : QDesc) (rest : List QDesc), s.dev.issuing = true ∧ s.dev.mem.copyQ = q :: rest ∧ s.dev.headCode q.bytes (s.dev.copyCheck q.bytes) = none ∧ s.dev.waitOk q.bytes = true ∧ s.dev.mem.copyRun = none) ∧
    (∃ (s : State) (q : QDesc) (rest : List QDesc) (x : _), s.dev.issuing = true ∧ s.dev.mem.copyQ = q :: rest ∧ s.dev.headCode q.bytes (s.dev.copyCheck q.bytes) = some x) ∧
    (∃ (s : State) (q : QDesc) (v : List Byte × List Byte × Bool), s.dev.running = true ∧ s.dev.mem.copyRun = some q ∧ v = s.dev.copied q.bytes ∧ s.dev.windowed (cpDst q.bytes) v.1.length = true ∧ (fmtIsMx (cpDfmt q.bytes) = true → s.dev.windowed (cpDscale q.bytes) v.2.1.length = true ∧ rangesMeet (cpDst q.bytes) v.1.length (cpDscale q.bytes) v.2.1.length = false) ∧ (∀ r ∈ cpReads q.bytes, s.dev.Clean r.1 r.2)) := by
  refine ⟨?_, ?_, ?_, ?_, ?_, ?_, ?_, ?_, ?_⟩
  · exact ⟨tS (tWq (tWd 1)), tQ (tWd 1), List.replicate 16 0#8, by unfold Dev.Clean; decide +kernel⟩
  · exact ⟨tS (tWq (tWd 2)), tQ (tWd 2), (tWq (tWd 2)).mem.dram.readN 0x4000 2048, ⟨by decide, by decide +kernel, by decide +kernel, by decide +kernel, by decide +kernel, by unfold Dev.Clean; decide +kernel, rfl⟩⟩
  · exact ⟨tS { tRun 0 with weevil := { WeevilSt.reset with run := [(tQ (tWd 1), 0)] } }, (tQ (tWd 1), 0), by decide +kernel⟩
  · exact ⟨tS (tCol (tPlace 2 0x4000)), .dual, 2, tQ (tPlace 2 0x4000), by decide +kernel⟩
  · exact ⟨tS (tCol (tPlace 1 0x4001)), .place, 1, tQ (tPlace 1 0x4001), 0x11, by decide +kernel⟩
  · exact ⟨tS { tRun 0 with col := { ColSt.reset with run := some (tQ (tPlace 1 0x4000)) } }, tQ (tPlace 1 0x4000), by decide +kernel⟩
  · exact ⟨tS (tCopyQ (tCopy 0x1FFC0 64)), tQ (tCopy 0x1FFC0 64), [], by decide +kernel⟩
  · exact ⟨tS (tCopyQ (tCopy 0x20000 64)), tQ (tCopy 0x20000 64), [], 0x12, by decide +kernel⟩
  · exact ⟨tS { tRun 0 with mem := { MemSt.reset with copyRun := some (tQ (tCopy 0x10000 64)) } }, tQ (tCopy 0x10000 64), (tRun 0).copied (tCopy 0x10000 64), by unfold Dev.Clean; decide +kernel⟩

theorem test_hyps_ScarabOperations :
    (∃ (s : State) (k : Fin 64) (c : Instr) (op : Nat) (q : QDesc), s.dev.issuing = true ∧ s.dev.scbHead k op = some q ∧ ((c = .lnfwd k ∧ op = 0x01) ∨ (c = .rmsfwd k ∧ op = 0x02) ∨ (c = .smfwd k ∧ op = 0x03) ∨ (c = .lnbwd k ∧ op = 0x11) ∨ (c = .rmsbwd k ∧ op = 0x12) ∨ (c = .smbwd k ∧ op = 0x13) ∨ (c = .bandsum k ∧ op = 0x20) ∨ (c = .statsave k ∧ op = 0x21) ∨ (c = .statload k ∧ op = 0x22)) ∧ s.dev.headCode q.bytes (s.dev.scbCheck q.bytes) = none ∧ s.dev.waitOk q.bytes = true ∧ (sDest q.bytes ≠ 2 ∨ 0x20 ≤ op)) ∧
    (∃ (s : State) (k : Fin 64) (c : Instr) (op : Nat) (q : QDesc), s.dev.issuing = true ∧ s.dev.scbHead k op = some q ∧ ((c = .lnfwd k ∧ op = 0x01) ∨ (c = .rmsfwd k ∧ op = 0x02) ∨ (c = .smfwd k ∧ op = 0x03) ∨ (c = .lnbwd k ∧ op = 0x11) ∨ (c = .rmsbwd k ∧ op = 0x12) ∨ (c = .smbwd k ∧ op = 0x13) ∨ (c = .bandsum k ∧ op = 0x20) ∨ (c = .statsave k ∧ op = 0x21) ∨ (c = .statload k ∧ op = 0x22)) ∧ s.dev.headCode q.bytes (s.dev.scbCheck q.bytes) = none ∧ s.dev.waitOk q.bytes = false ∧ s.dev.scbFilling k = false) ∧
    (∃ (s : State) (k : Fin 64) (c : Instr) (op : Nat) (q : QDesc) (x : _), s.dev.issuing = true ∧ s.dev.scbHead k op = some q ∧ ((c = .lnfwd k ∧ op = 0x01) ∨ (c = .rmsfwd k ∧ op = 0x02) ∨ (c = .smfwd k ∧ op = 0x03) ∨ (c = .lnbwd k ∧ op = 0x11) ∨ (c = .rmsbwd k ∧ op = 0x12) ∨ (c = .smbwd k ∧ op = 0x13) ∨ (c = .bandsum k ∧ op = 0x20) ∨ (c = .statsave k ∧ op = 0x21) ∨ (c = .statload k ∧ op = 0x22)) ∧ s.dev.headCode q.bytes (s.dev.scbCheck q.bytes) = some x ∧ s.dev.scbFilling k = false) ∧
    (∃ (s : State) (k : Fin 64) (c : Instr) (op : Nat) (q : QDesc), s.dev.issuing = true ∧ s.dev.scbHead k op = some q ∧ ((c = .lnfwd k ∧ op = 0x01) ∨ (c = .rmsfwd k ∧ op = 0x02) ∨ (c = .smfwd k ∧ op = 0x03) ∨ (c = .lnbwd k ∧ op = 0x11) ∨ (c = .rmsbwd k ∧ op = 0x12) ∨ (c = .smbwd k ∧ op = 0x13) ∨ (c = .bandsum k ∧ op = 0x20) ∨ (c = .statsave k ∧ op = 0x21) ∨ (c = .statload k ∧ op = 0x22)) ∧ s.dev.headCode q.bytes (s.dev.scbCheck q.bytes) = none ∧ s.dev.waitOk q.bytes = true ∧ sDest q.bytes = 2 ∧ op < 0x20 ∧ s.dev.scbRing q.bytes k = none) ∧
    (∃ (s : State) (k : Fin 64) (c : Instr) (op : Nat) (q : QDesc) (w : _) (t : _), s.dev.issuing = true ∧ s.dev.scbHead k op = some q ∧ ((c = .lnfwd k ∧ op = 0x01) ∨ (c = .rmsfwd k ∧ op = 0x02) ∨ (c = .smfwd k ∧ op = 0x03) ∨ (c = .lnbwd k ∧ op = 0x11) ∨ (c = .rmsbwd k ∧ op = 0x12) ∨ (c = .smbwd k ∧ op = 0x13) ∨ (c = .bandsum k ∧ op = 0x20) ∨ (c = .statsave k ∧ op = 0x21) ∨ (c = .statload k ∧ op = 0x22)) ∧ s.dev.headCode q.bytes (s.dev.scbCheck q.bytes) = none ∧ s.dev.waitOk q.bytes = true ∧ sDest q.bytes = 2 ∧ op < 0x20 ∧ s.dev.scbRing q.bytes k = some w ∧ (scbTiles q.bytes k)[w.ringNext]? = some t ∧ slotReady w = true) ∧
    (∃ (s : State) (k : Fin 64) (c : Instr) (op : Nat) (q : QDesc) (b : List Byte) (x : Nat → List JVal) (g : List JVal) (be : List JVal) (y : Nat → List JVal × JVal × JVal), s.dev.issuing = true ∧ s.dev.scbHead k op = some q ∧ b = q.bytes ∧ s.dev.headCode b (s.dev.scbCheck b) = none ∧ s.dev.waitOk b = true ∧ (s.dev.scb k).bufUE = false ∧ sDest b = 0 ∧ sTalus b = false ∧ sRows b ≤ 32 ∧ sPos b k = 0 ∧ 4 * sD b ≤ sOpitch b ∧ (∀ r, r < sRows b → s.dev.Clean (sXaddr b + r * sXpitch b) (sE b * sD b) ∧ s.dev.windowed (sOaddr b + r * sOpitch b) (4 * sD b) = true) ∧ (sAffine b = true → s.dev.Clean (sGaddr b) (sE b * sD b) ∧ s.dev.Clean (sBaddr b) (sE b * sD b)) ∧ x = (fun r => widen (sXfmt b) (sD b) (s.dev.mem.dram.readN (sXaddr b + r * sXpitch b) (sE b * sD b))) ∧ g = (if sAffine b then widen (sXfmt b) (sD b) (s.dev.mem.dram.readN (sGaddr b) (sE b * sD b)) else List.replicate (sD b) jOne) ∧ be = widen (sXfmt b) (sD b) (s.dev.mem.dram.readN (sBaddr b) (sE b * sD b)) ∧ ((c = .lnfwd k ∧ op = 0x01 ∧ y = fun r => lnfwd false (sEps b) (x r) g (if sAffine b then some be else none)) ∨ (c = .rmsfwd k ∧ op = 0x02 ∧ y = fun r => lnfwd true (sEps b) (x r) g (if sAffine b then some be else none)) ∨ (c = .smfwd k ∧ op = 0x03 ∧ y = fun r => smfwd b r (x r)))) ∧
    (∃ (s : State) (k : Fin 64) (q : QDesc) (b : List Byte), s.dev.issuing = true ∧ b = q.bytes ∧ s.dev.headCode b (s.dev.scbCheck b) = none ∧ s.dev.waitOk b = true ∧ s.dev.scbHead k 0x21 = some q ∧ s.dev.windowed (sXaddr b + k * sXpitch b) (8 * sCount b) = true) ∧
    (∃ (s : State) (k : Fin 64) (q : QDesc) (b : List Byte), s.dev.issuing = true ∧ b = q.bytes ∧ s.dev.headCode b (s.dev.scbCheck b) = none ∧ s.dev.waitOk b = true ∧ s.dev.scbHead k 0x22 = some q ∧ s.dev.Clean (sXaddr b + k * sXpitch b) (8 * sCount b)) ∧
    (∃ (s : State) (e : QDesc × Nat), s.dev.running = true ∧ s.dev.scarab.fin.find? (fun x => x.2 == 0) = some e) := by
  refine ⟨?_, ?_, ?_, ?_, ?_, ?_, ?_, ?_, ?_⟩
  · exact ⟨tS (tScb (tScarab 0x2 0 [])), 3, .rmsfwd 3, 2, tQ (tScarab 0x2 0 []), by decide +kernel⟩
  · exact ⟨tS (tScb (tScarab 0x12 0 [(4, 1, 0x20), (0x18, 4, 2 ^ 31), (0x1C, 4, 1)])), 3, .rmsbwd 3, 0x12, tQ (tScarab 0x12 0 [(4, 1, 0x20), (0x18, 4, 2 ^ 31), (0x1C, 4, 1)]), by decide +kernel⟩
  · exact ⟨tS (tScb (tScarab 0x3 1 [])), 3, .smfwd 3, 3, tQ (tScarab 0x3 1 []), 0x10, by decide +kernel⟩
  · exact ⟨tS { tScb (tScarab 0x1 2 []) with weevil := { WeevilSt.reset with cl := [(3, { wvl0 0 with ring := [⟨.filled, 7#64⟩], ringFill := [0] })] } }, 3, .lnfwd 3, 1, tQ (tScarab 0x1 2 []), by decide +kernel⟩
  · exact ⟨tS (tScb (tScarab 0x3 2 [])), 3, .smfwd 3, 3, tQ (tScarab 0x3 2 []), freshRing (wvl0 0) scarabRing 0 2, (0, 0), by decide +kernel⟩
  · exact ⟨tS (tScb (tScarab 0x1 0 [])), 3, .lnfwd 3, 1, tQ (tScarab 0x1 0 []), tScarab 0x1 0 [], _, _, _, _, ⟨rfl, rfl, by decide +kernel, by decide +kernel, by decide +kernel, by decide +kernel, (by decide +kernel), by decide +kernel, by decide +kernel, by decide +kernel, by decide +kernel, by unfold Dev.Clean; decide +kernel, by unfold Dev.Clean; decide +kernel, rfl, rfl, rfl, .inl ⟨rfl, rfl, rfl⟩⟩⟩
  · exact ⟨tS (tScb (tScarab 0x21 0 [(4, 1, 0x20), (0x28, 8, 0x10000), (0x74, 4, 2)])), 3, tQ (tScarab 0x21 0 [(4, 1, 0x20), (0x28, 8, 0x10000), (0x74, 4, 2)]), tScarab 0x21 0 [(4, 1, 0x20), (0x28, 8, 0x10000), (0x74, 4, 2)], ⟨rfl, rfl, by and_intros <;> decide +kernel⟩⟩
  · exact ⟨tS (tScb (tScarab 0x22 0 [(4, 1, 0x20), (0x74, 4, 2)])), 3, tQ (tScarab 0x22 0 [(4, 1, 0x20), (0x74, 4, 2)]), tScarab 0x22 0 [(4, 1, 0x20), (0x74, 4, 2)], ⟨rfl, rfl, by decide +kernel, by decide +kernel, by decide +kernel, by unfold Dev.Clean; decide +kernel⟩⟩
  · exact ⟨tS { tRun 0 with scarab := ⟨[], [(tQ (tScarab 0x1 0 []), 0)], []⟩ }, (tQ (tScarab 0x1 0 []), 0), by decide +kernel⟩

theorem test_hyps_TalusEntries :
    (∃ (s : State) (k : Fin 64) (q : QDesc) (e : Nat) (p : Nat), s.dev.issuing = true ∧ e = tEntry q.bytes ∧ p = pagesFor (tSize q.bytes) ∧ s.dev.talusHead k 1 = some q ∧ talusBad q.bytes = false ∧ s.dev.grantsOk q.bytes = true ∧ s.dev.waitOk q.bytes = true ∧ ((s.dev.tls k).ent e).state = .free ∧ (s.dev.tls k).firmPages + p ≤ 1024 ∧ (s.dev.tls k).usedPages + p ≤ 1024) ∧
    (∃ (s : State) (k : Fin 64) (q : QDesc) (e : Nat) (p : Nat) (v : _) (n : _), s.dev.issuing = true ∧ e = tEntry q.bytes ∧ p = pagesFor (tSize q.bytes) ∧ s.dev.talusHead k 1 = some q ∧ talusBad q.bytes = false ∧ s.dev.grantsOk q.bytes = true ∧ s.dev.waitOk q.bytes = true ∧ ((s.dev.tls k).ent e).state = .free ∧ (s.dev.tls k).firmPages + p ≤ 1024 ∧ 1024 < (s.dev.tls k).usedPages + p ∧ (s.dev.tls k).oldest = some v ∧ (s.dev.tls k).spilling = [] ∧ (∀ x ∈ (s.dev.tls k).ents, x.2.state ≠ .spilling) ∧ n = 4096 * pagesFor (spillBytes ((s.dev.tls k).ent v).fmt ((s.dev.tls k).ent v).size) ∧ s.dev.num64 (TLS.STASHTOP k) + n ≤ s.dev.num64 (TLS.STASHSIZE k)) ∧
    (∃ (s : State) (k : Fin 64) (q : QDesc) (e : Nat) (p : Nat) (v : _) (n : _), s.dev.issuing = true ∧ e = tEntry q.bytes ∧ p = pagesFor (tSize q.bytes) ∧ s.dev.talusHead k 1 = some q ∧ talusBad q.bytes = false ∧ s.dev.grantsOk q.bytes = true ∧ s.dev.waitOk q.bytes = true ∧ ((s.dev.tls k).ent e).state = .free ∧ (s.dev.tls k).firmPages + p ≤ 1024 ∧ 1024 < (s.dev.tls k).usedPages + p ∧ (s.dev.tls k).oldest = some v ∧ (s.dev.tls k).spilling = [] ∧ (∀ x ∈ (s.dev.tls k).ents, x.2.state ≠ .spilling) ∧ n = 4096 * pagesFor (spillBytes ((s.dev.tls k).ent v).fmt ((s.dev.tls k).ent v).size) ∧ s.dev.num64 (TLS.STASHSIZE k) < s.dev.num64 (TLS.STASHTOP k) + n) ∧
    (∃ (s : State) (k : Fin 64) (q : QDesc) (v : TlsEnt), s.dev.issuing = true ∧ v = (s.dev.tls k).ent (tEntry q.bytes) ∧ s.dev.talusHead k 2 = some q ∧ talusBad q.bytes = false ∧ s.dev.grantsOk q.bytes = true ∧ s.dev.waitOk q.bytes = true ∧ v.state = .opened) ∧
    (∃ (s : State) (k : Fin 64) (q : QDesc) (v : TlsEnt), s.dev.issuing = true ∧ v = (s.dev.tls k).ent (tEntry q.bytes) ∧ s.dev.talusHead k 3 = some q ∧ talusBad q.bytes = false ∧ s.dev.grantsOk q.bytes = true ∧ s.dev.waitOk q.bytes = true ∧ (v.state = .opened ∨ v.state = .resident)) ∧
    (∃ (s : State) (k : Fin 64) (q : QDesc) (v : TlsEnt), s.dev.issuing = true ∧ v = (s.dev.tls k).ent (tEntry q.bytes) ∧ s.dev.talusHead k 3 = some q ∧ talusBad q.bytes = false ∧ s.dev.grantsOk q.bytes = true ∧ s.dev.waitOk q.bytes = true ∧ v.state = .spilled) ∧
    (∃ (s : State) (k : Fin 64) (q : QDesc) (v : TlsEnt), s.dev.issuing = true ∧ v = (s.dev.tls k).ent (tEntry q.bytes) ∧ s.dev.talusHead k 3 = some q ∧ talusBad q.bytes = false ∧ s.dev.grantsOk q.bytes = true ∧ s.dev.waitOk q.bytes = true ∧ v.state = .spilling) ∧
    (∃ (s : State) (k : Fin 64) (c : Instr) (op : Nat) (q : QDesc) (bad : Bool), s.dev.issuing = true ∧ s.dev.talusHead k op = some q ∧ talusBad q.bytes = false ∧ s.dev.grantsOk q.bytes = true ∧ s.dev.waitOk q.bytes = true ∧ ((c = .talusOpen k ∧ op = 1 ∧ bad = (decide (((s.dev.tls k).ent (tEntry q.bytes)).state ≠ .free) || decide (1024 < (s.dev.tls k).firmPages + pagesFor (tSize q.bytes)))) ∨ (c = .talusClose k ∧ op = 2 ∧ bad = decide (((s.dev.tls k).ent (tEntry q.bytes)).state ≠ .opened)) ∨ (c = .talusRelease k ∧ op = 3 ∧ bad = decide (((s.dev.tls k).ent (tEntry q.bytes)).state = .free))) ∧ bad = true) ∧
    (∃ (s : State) (k : Fin 64) (e : Nat) (rest : List Nat) (v : TlsEnt) (base : Nat) (im : List Byte), s.dev.running = true ∧ (s.dev.tls k).spilling = e :: rest ∧ e ∉ (s.dev.tls k).ue ∧ v = (s.dev.tls k).ent e ∧ base = s.dev.num64 (TLS.STASHBASE k) + v.stash ∧ im = (s.dev.tls k).image e ∧ s.dev.windowed base im.length = true) ∧
    (∃ (s : State) (e : QDesc × Nat), s.dev.running = true ∧ s.dev.talus.fin.find? (fun x => x.2 == 0) = some e) := by
  and_intros
  · exact ⟨tS (tTls (tTal 1 4194304) []), 3, tQ (tTal 1 4194304), 5, 1024, by decide +kernel⟩
  · exact ⟨tS ((tTls (tTal 1 4194304) [(9, tEnt .resident 1)]).setNum64 (TLS.STASHSIZE 3) 4096), 3, tQ (tTal 1 4194304), 5, 1024, 9, 4096, ⟨by decide, rfl, rfl, by decide +kernel, by decide +kernel, by decide +kernel, by decide +kernel, (by decide +kernel), by decide +kernel, by decide +kernel, by decide +kernel, by decide +kernel, one_entry (by decide), rfl, by decide +kernel⟩⟩
  · exact ⟨tS (tTls (tTal 1 4194304) [(9, tEnt .resident 1)]), 3, tQ (tTal 1 4194304), 5, 1024, 9, 4096, ⟨by decide, rfl, rfl, by decide +kernel, by decide +kernel, by decide +kernel, by decide +kernel, (by decide +kernel), by decide +kernel, by decide +kernel, by decide +kernel, by decide +kernel, one_entry (by decide), rfl, by decide +kernel⟩⟩
  · exact ⟨tS (tTls (tTal 2 0) [(5, tEnt .opened 1)]), 3, tQ (tTal 2 0), tEnt .opened 1, by decide +kernel⟩
  · exact ⟨tS (tTls (tTal 3 0) [(5, tEnt .resident 1)]), 3, tQ (tTal 3 0), tEnt .resident 1, by decide +kernel⟩
  · exact ⟨tS (tTls (tTal 3 0) [(5, tEnt .spilled 1)]), 3, tQ (tTal 3 0), tEnt .spilled 1, by decide +kernel⟩
  · exact ⟨tS (tTls (tTal 3 0) [(5, tEnt .spilling 1)]), 3, tQ (tTal 3 0), tEnt .spilling 1, by decide +kernel⟩
  · exact ⟨tS (tTls (tTal 2 0) [(5, tEnt .resident 1)]), 3, .talusClose 3, 2, tQ (tTal 2 0), true, by decide +kernel⟩
  · exact ⟨tS ((tTls (tTal 3 0) [(5, tEnt .spilling 1)] (fun t => { t with spilling := [5] })).setNum64 (TLS.STASHBASE 3) 0x10000), 3, 5, [], tEnt .spilling 1, 0x10000, _, ⟨rfl, rfl, by decide +kernel, rfl, by decide +kernel, rfl, by decide +kernel⟩⟩
  · exact ⟨tS { tRun 0 with talus := ⟨[], [(tQ (tTal 2 0), 0)]⟩ }, (tQ (tTal 2 0), 0), by decide +kernel⟩

theorem test_hyps_AtomicsUpdate :
    (∃ (s : State) (q : AtomicReq) (c : Instr) (code : Nat) (n : Nat) (f : Nat → Nat → Nat → Nat), ((c = .iadd32 q ∧ code = 0x01 ∧ n = 4 ∧ f = fun o a _ => (o + a) % 2 ^ 32) ∨ (c = .iadd64 q ∧ code = 0x02 ∧ n = 8 ∧ f = fun o a _ => (o + a) % 2 ^ 64) ∨ (c = .iadd64s32 q ∧ code = 0x03 ∧ n = 8 ∧ f = fun (o a _ : Nat) => ofSigned 64 ((o : Int) + toSigned 32 a)) ∨ (c = .imax32 q ∧ code = 0x04 ∧ n = 4 ∧ f = fun o a _ => ofSigned 32 (max (toSigned 32 o) (toSigned 32 a))) ∨ (c = .umax32 q ∧ code = 0x05 ∧ n = 4 ∧ f = fun o a _ => max o (a % 2 ^ 32)) ∨ (c = .swap64 q ∧ code = 0x08 ∧ n = 8 ∧ f = fun _ a _ => a) ∨ (c = .cas64 q ∧ code = 0x09 ∧ n = 8 ∧ f = fun o a b => if o = a then b else o) ∨ (c = .fadd32 q ∧ code = 0x10 ∧ n = 4 ∧ f = fun o a _ => enc32 (fAdd grid32 (val32 o) (val32 a)).1)) ∧ s.dev.atomBad code q = none ∧ (∀ i, i < 256 / n → q.mask.getLsbD i = true → s.dev.Clean (q.addr + n * i) n)) ∧
    (∃ (s : State) (q : AtomicReq) (c : Instr) (code : Nat) (n : Nat) (f : Nat → Nat → Nat → Nat) (x : _), ((c = .iadd32 q ∧ code = 0x01 ∧ n = 4 ∧ f = fun o a _ => (o + a) % 2 ^ 32) ∨ (c = .iadd64 q ∧ code = 0x02 ∧ n = 8 ∧ f = fun o a _ => (o + a) % 2 ^ 64) ∨ (c = .iadd64s32 q ∧ code = 0x03 ∧ n = 8 ∧ f = fun (o a _ : Nat) => ofSigned 64 ((o : Int) + toSigned 32 a)) ∨ (c = .imax32 q ∧ code = 0x04 ∧ n = 4 ∧ f = fun o a _ => ofSigned 32 (max (toSigned 32 o) (toSigned 32 a))) ∨ (c = .umax32 q ∧ code = 0x05 ∧ n = 4 ∧ f = fun o a _ => max o (a % 2 ^ 32)) ∨ (c = .swap64 q ∧ code = 0x08 ∧ n = 8 ∧ f = fun _ a _ => a) ∨ (c = .cas64 q ∧ code = 0x09 ∧ n = 8 ∧ f = fun o a b => if o = a then b else o) ∨ (c = .fadd32 q ∧ code = 0x10 ∧ n = 4 ∧ f = fun o a _ => enc32 (fAdd grid32 (val32 o) (val32 a)).1)) ∧ s.dev.atomBad code q = some x ∧ s.dev.running = true) := by
  refine ⟨?_, ?_⟩
  · exact ⟨tS tPin, ⟨0x100, 3#64, [5#64, 7#64], false⟩, .cas64 ⟨0x100, 3#64, [5#64, 7#64], false⟩, 9, 8, _, ⟨.inr (.inr (.inr (.inr (.inr (.inr (.inl ⟨rfl, rfl, rfl, rfl⟩)))))), by decide +kernel, by unfold Dev.Clean; decide +kernel⟩⟩
  · exact ⟨tS tPin, ⟨0x300000, 1#64, [5#64], false⟩, .swap64 ⟨0x300000, 1#64, [5#64], false⟩, 8, 8, _, (0x42, 9), ⟨.inr (.inr (.inr (.inr (.inr (.inl ⟨rfl, rfl, rfl, rfl⟩))))), by decide +kernel, by decide +kernel⟩⟩

/-- Stack `k` trained, with a register at a value. -/
def tTrained (k : Nat) (a v : Nat) : Dev := (Dev.reset.setNum (STK.TRAINSTAT k) 9).setNum a v
/-- A group of one device, which owns the bucket and is its one source, at 0xC000. -/
def tGroup : List (Nat × Byte) := [(0xC000, 1#8), (0xC004, 1#8)]
/-- An ARM in EXACT of a bucket of 64 values: the accumulators at 0x10000, the exponents at 0x18000. -/
def tArm : List Byte :=
  tBlock 64 [(0, 1, 0x0E), (1, 1, 1), (3, 1, 15), (4, 2, 9), (8, 4, 64), (0x10, 8, 0xC000), (0x28, 8, 0x10000), (0x30, 8, 0x18000)]
/-- The REDUCE that goes with it. -/
def tReduce (more : List (Nat × Nat × Nat) := []) : List Byte :=
  tBlock 128 ([(0, 1, 0x0E), (1, 1, 2), (3, 1, 15), (4, 2, 9), (8, 4, 64), (0x0C, 4, 256), (0x10, 8, 0xC000), (0x28, 8, 0x4000), (0x30, 8, 0x5000),
    (0x40, 8, 0x10000), (0x48, 8, 0x18000), (0x50, 8, 0x18100)] ++ more)
/-- An UPDATE of the shard at 0x18100 by the block at 0xD000. -/
def tUpdate : List Byte :=
  tBlock 128 [(0, 1, 0x0E), (1, 1, 3), (2, 1, 4), (8, 4, 64), (0x10, 8, 0xC000), (0x50, 8, 0x18100), (0x58, 8, 0xD000)]
/-- The optimiser `opt` with weights at 0x19000, state at 0x1A000, a program at 0xD100. -/
def tUpd (opt : Nat) : List (Nat × Byte) :=
  [(0xD000, BitVec.ofNat 8 opt)] ++ (if opt = 6 then [(0xD003, 1#8)] else []) ++ [(0xD041, 0x90#8), (0xD042, 1#8), (0xD049, 0xA0#8), (0xD04A, 1#8)] ++
  (if opt = 6 then [(0xD069, 0xD1#8), (0xD100, 0x3F#8)] else [])
def tStag (q : List (List Byte)) (cells : List (Nat × Byte)) (more : StagSt → StagSt := id) : Dev :=
  { (List.range 12).foldl (fun d u => d.setNum (STG.BITMAPFREE u) 4096) (tRun 0) with
    mem := { MemSt.reset with dram := ⟨cells, []⟩, pins := [(0, 1)] }, stag := more { StagSt.reset with queue := q.map tQ } }
/-- A slot armed by `arm` with the group table of `tGroup`. -/
def tSlot (arm : List Byte) (g : List Byte) (words : Option (List Nat)) (st : StagState) (arrived : List (Nat × Nat) := []) : StagSlot :=
  ⟨some (tQ arm), g, List.replicate 12 st, arrived, words, false, none⟩
def tG : List Byte := tBlock 130 [(0, 4, 1), (4, 2, 1)]
/-- A FLOAT group of two devices, this one the first. -/
def tG2 : List Byte := tBlock 132 [(0, 4, 2), (4, 2, 2), (0x42, 2, 1), (0x82, 2, 1)]
def tAct (b g : List Byte) (more : StagAct → StagAct := id) : StagAct := more ⟨tQ b, g, sgSlot b, [], [0], [], false, false, false, false⟩
/-- The microprogram of an UPDATE runs the instruction word `w`. -/
def tMicro (w : Nat) (count : Nat := 1) : Dev :=
  tStag [] ((tUpd 6).dropLast ++ [(0xD100, BitVec.ofNat 8 w), (0xD101, BitVec.ofNat 8 (w / 256)), (0xD102, BitVec.ofNat 8 (w / 65536)), (0xD103, BitVec.ofNat 8 (w / 2 ^ 24))])
    (fun g => { g with act := [tAct tUpdate tG (fun a => { a with slot := 16, agreed := true, sentVal := true, converted := true })], micro := ⟨[(1, 0x3F800000#32)], 0, 0, count, true, 0⟩ })

theorem test_hyps_StackOperations :
    (∃ (s : State) (r : Requester) (v : Word), requesterIsPf r = true ∧ v.getLsbD 0 = true ∧ s.dev.flag (MSC.PINCTRL 0) 0 = false) ∧
    (∃ (s : State) (r : Requester) (v : Word), requesterIsPf r = true ∧ (v.getLsbD 0 = false ∨ s.dev.flag (MSC.PINCTRL 0) 0 = true)) ∧
    (∃ (s : State) (i : Fin 12), s.dev.mem.pinWork.get zeroNat i ≠ 0) ∧
    (∃ (s : State) (i : Fin 12) (t : Int) (n : Nat), n = s.dev.thermalNext i (s.dev.fld (STK.TEMP i) 18 16) t) ∧
    (∃ (s : State) (i : Fin 12) (lb : BitVec 28) (blk : Nat), blk = 12 * lb.toNat + i ∧ (s.dev.flag (STK.SCRUBCTRL i) 0 = false ∨ s.dev.fld (STK.TRAINSTAT i) 3 0 ≠ 9)) ∧
    (∃ (s : State) (i : Fin 12) (lb : BitVec 28) (o : ScrubOutcome) (blk : Nat), blk = 12 * lb.toNat + i ∧ s.dev.flag (STK.SCRUBCTRL i) 0 = true ∧ s.dev.fld (STK.TRAINSTAT i) 3 0 = 9 ∧ (o = .uncorrectable ∨ s.dev.mem.stackUE.contains blk = true)) ∧
    (∃ (s : State) (i : Fin 12) (lb : BitVec 28) (o : ScrubOutcome) (blk : Nat), blk = 12 * lb.toNat + i ∧ s.dev.flag (STK.SCRUBCTRL i) 0 = true ∧ s.dev.fld (STK.TRAINSTAT i) 3 0 = 9 ∧ o = .corrected ∧ s.dev.mem.stackUE.contains blk = false) ∧
    (∃ (s : State) (r : Requester) (i : Fin 12) (v : Word), requesterIsPf r = true ∧ v.getLsbD 1 = true ∧ s.dev.busy (STK.page i) = false) ∧
    (∃ (s : State) (r : Requester) (i : Fin 12) (v : Word), requesterIsPf r = true ∧ v.getLsbD 1 = true ∧ s.dev.busy (STK.page i) = true) ∧
    (∃ (s : State) (r : Requester) (i : Fin 12) (v : Word), requesterIsPf r = true ∧ v.getLsbD 8 = true ∧ s.dev.busy (STK.page i) = false ∧ s.dev.enableInEffect (STK.page i) = false ∧ s.dev.trained i = true) ∧
    (∃ (s : State) (r : Requester) (i : Fin 12) (v : Word), requesterIsPf r = true ∧ v.getLsbD 8 = true ∧ (s.dev.busy (STK.page i) = true ∨ s.dev.enableInEffect (STK.page i) = true ∨ s.dev.trained i = false)) ∧
    (∃ (s : State) (r : Requester) (i : Fin 12) (v : Word), requesterIsPf r = true ∧ v.getLsbD 0 = true ∧ s.dev.busy (STK.page i) = false ∧ s.dev.enableInEffect (STK.page i) = false ∧ s.dev.trained i = true ∧ field v.toNat 2 1 ≠ 3 ∧ field v.toNat 6 4 < 6 ∧ s.dev.num64 (STK.TGBLOCKS i) < 2 ^ 32) ∧
    (∃ (s : State) (r : Requester) (i : Fin 12) (v : Word), requesterIsPf r = true ∧ v.getLsbD 0 = true ∧ (s.dev.busy (STK.page i) = true ∨ s.dev.enableInEffect (STK.page i) = true ∨ s.dev.trained i = false ∨ field v.toNat 2 1 = 3 ∨ 6 ≤ field v.toNat 6 4)) ∧
    (∃ (s : State) (i : Fin 12), s.dev.stkOp i = some .scrub) ∧
    (∃ (s : State) (i : Fin 12), s.dev.stkOp i = some .margin) ∧
    (∃ (s : State) (i : Fin 12), s.dev.stkOp i = some .traffic) := by
  and_intros
  · exact ⟨tS Dev.reset, .host, 0xFFFFFFFF#32, by decide⟩
  · exact ⟨tS Dev.reset, .cp 0, 0xFFFFFFFE#32, by decide⟩
  · exact ⟨tS { Dev.reset with mem := { MemSt.reset with pinWork := [(11, 1)] } }, 11, by decide⟩
  · exact ⟨tS (Dev.reset.setNum (STK.TEMP 11) 0x10000), 11, -40, _, by rfl⟩
  · exact ⟨tS Dev.reset, 11, 0xFFFFFFF#28, _, ⟨rfl, by decide⟩⟩
  · exact ⟨tS (tTrained 11 (STK.SCRUBCTRL 11) 1), 11, 0xFFFFFFF#28, .uncorrectable, _, ⟨rfl, by decide, by decide, by decide⟩⟩
  · exact ⟨tS (tTrained 11 (STK.SCRUBCTRL 11) 1), 11, 0#28, .corrected, _, ⟨rfl, by decide, by decide, by decide, by decide⟩⟩
  · exact ⟨tS Dev.reset, .host, 11, 2#32, by decide⟩
  · exact ⟨tS (Dev.reset.setBusy (STK.page 11) true), .host, 11, 2#32, by decide⟩
  · exact ⟨tS (tTrained 11 (STK.SCRUBCTRL 11) 0), .host, 11, 0x100#32, by decide⟩
  · exact ⟨tS Dev.reset, .cp 0, 11, 0x100#32, by decide⟩
  · exact ⟨tS ((tTrained 11 (STK.SCRUBCTRL 11) 0).setNum64 (STK.TGBLOCKS 11) 0xFFFFFFFF), .host, 11, 0x55#32, by decide⟩
  · exact ⟨tS (tTrained 11 (STK.SCRUBCTRL 11) 0), .host, 11, 0x7#32, by decide⟩
  · exact ⟨tStk .scrub 11 9, 11, by decide⟩
  · exact ⟨tStk .margin 11 9, 11, by decide⟩
  · exact ⟨tStk .traffic 11 9, 11, by decide⟩

theorem test_hyps_StagDescriptors :
    (∃ (s : State) (q : QDesc) (rest : List QDesc) (g : List Byte) (t : Nat), s.dev.issuing = true ∧ s.dev.stag.queue = q :: rest ∧ s.dev.waitOk q.bytes = true ∧ t = sgSlot q.bytes ∧ g = s.dev.grpTable (sgGroup q.bytes) ∧ s.dev.Clean (sgGroup q.bytes) (grpExtent (s.dev.grpHead (sgGroup q.bytes))) ∧ opcodeOf q.bytes = 1 ∧ s.dev.headCode q.bytes (s.dev.armCheck q.bytes) = none) ∧
    (∃ (s : State) (q : QDesc) (rest : List QDesc) (g : List Byte) (t : Nat), s.dev.issuing = true ∧ s.dev.stag.queue = q :: rest ∧ s.dev.waitOk q.bytes = true ∧ t = sgSlot q.bytes ∧ g = s.dev.grpTable (sgGroup q.bytes) ∧ s.dev.Clean (sgGroup q.bytes) (grpExtent (s.dev.grpHead (sgGroup q.bytes))) ∧ opcodeOf q.bytes = 2 ∧ s.dev.headCode q.bytes (if s.dev.stagGrants q.bytes then s.dev.redCheck q.bytes else some (min 0x19 ((s.dev.redCheck q.bytes).getD 0x19))) = none) ∧
    (∃ (s : State) (q : QDesc) (rest : List QDesc) (g : List Byte) (t : Nat), s.dev.issuing = true ∧ s.dev.stag.queue = q :: rest ∧ s.dev.waitOk q.bytes = true ∧ t = sgSlot q.bytes ∧ g = s.dev.grpTable (sgGroup q.bytes) ∧ s.dev.Clean (sgGroup q.bytes) (grpExtent (s.dev.grpHead (sgGroup q.bytes))) ∧ opcodeOf q.bytes = 3 ∧ s.dev.headCode q.bytes (if s.dev.stagGrants q.bytes then s.dev.redCheck q.bytes else some (min 0x19 ((s.dev.redCheck q.bytes).getD 0x19))) = none ∧ s.dev.earlierConverted q.idx = true ∧ s.dev.stag.micro.running = false) ∧
    (∃ (s : State) (a : StagAct), s.dev.running = true ∧ s.dev.stag.act.find? s.dev.actDone = some a) := by
  refine ⟨?_, ?_, ?_, ?_⟩
  · exact ⟨tS (tStag [tArm] tGroup), tQ tArm, [], _, _, ⟨by decide, rfl, by decide +kernel, rfl, rfl, by unfold Dev.Clean; decide +kernel, by decide +kernel, by decide +kernel⟩⟩
  · exact ⟨tS (tStag [tReduce] tGroup (fun g => { g with slots := [(15, tSlot tArm tG none .armed)] })), tQ tReduce, [], _, _, ⟨by decide, rfl, by decide +kernel, rfl, rfl, by unfold Dev.Clean; decide +kernel, by decide +kernel, by decide +kernel⟩⟩
  · exact ⟨tS (tStag [tUpdate] (tGroup ++ tUpd 6)), tQ tUpdate, [], _, _, ⟨by decide, rfl, by decide +kernel, rfl, rfl, by unfold Dev.Clean; decide +kernel, by decide +kernel, by decide +kernel, by decide +kernel, by decide⟩⟩
  · exact ⟨tS (tStag [] [] (fun g => { g with act := [tAct tReduce tG (fun a => { a with agreed := true, sentVal := true, converted := true, updated := true })] })), tAct tReduce tG (fun a => { a with agreed := true, sentVal := true, converted := true, updated := true }), by decide +kernel⟩

theorem test_hyps_StagSteps :
    (∃ (s : State) (t : Fin 16) (a : StagAct) (b : List Byte) (g : List Byte) (ws : _), s.dev.running = true ∧ s.dev.actOf t = some a ∧ b = a.desc.bytes ∧ g = a.group ∧ (s.dev.slot t).words = some ws ∧ a.agreed = false) ∧
    (∃ (s : State) (t : Fin 16) (a : StagAct) (b : List Byte) (g : List Byte), s.dev.running = true ∧ s.dev.actOf t = some a ∧ b = a.desc.bytes ∧ g = a.group ∧ s.dev.stepThreeReady a = true ∧ a.sentVal = false) ∧
    (∃ (s : State) (t : Fin 16) (a : StagAct) (b : List Byte) (g : List Byte), s.dev.running = true ∧ s.dev.actOf t = some a ∧ b = a.desc.bytes ∧ g = a.group ∧ s.dev.sumReady a = true ∧ s.dev.earlierConverted a.desc.idx = true ∧ a.converted = false) ∧
    (∃ (s : State) (t : Fin 16) (a : StagAct) (b : List Byte) (g : List Byte) (u : _) (n : _), s.dev.running = true ∧ s.dev.actOf t = some a ∧ b = a.desc.bytes ∧ g = a.group ∧ u = s.dev.updBlock b ∧ n = myValues b g ∧ a.converted = true ∧ a.updated = false ∧ s.dev.stag.micro.running = false ∧ (∀ r ∈ (sgUpdaddr b, 128) :: (ubReads u ++ (sgGacc b, 4 * n) :: (ubWaddr u, 4 * n) :: ubStateRanges u n), s.dev.Clean r.1 r.2)) ∧
    (∃ (s : State) (t : Fin 16) (a : StagAct) (b : List Byte) (g : List Byte) (self : _) (j : _) (v : _), s.dev.running = true ∧ s.dev.actOf t = some a ∧ b = a.desc.bytes ∧ g = a.group ∧ ownerIdx g = some self ∧ sgFmt b ≠ 0 ∧ sgSlot b = t ∧ j < grpNown g ∧ j < a.levels.length ∧ v = a.levels.getD j 0 ∧ v < treeLevels (grpNown g) ∧ s.dev.childHere a self j v = true) := by
  refine ⟨?_, ?_, ?_, ?_, ?_⟩
  · exact ⟨tS (tStag [] tGroup (fun g => { g with slots := [(15, tSlot tArm tG (some [7]) .armed)], act := [tAct tReduce tG] })), 15, tAct tReduce tG, _, _, [7], ⟨by decide, by decide +kernel, rfl, rfl, by decide +kernel, by decide⟩⟩
  · exact ⟨tS (tStag [] tGroup (fun g => { g with slots := [(15, tSlot tArm tG (some [7]) .armed)], act := [tAct tReduce tG] })), 15, tAct tReduce tG, _, _, ⟨by decide, by decide +kernel, rfl, rfl, by decide +kernel, by decide⟩⟩
  · exact ⟨tS (tStag [] tGroup (fun g => { g with slots := [(15, tSlot tArm tG (some [7]) .complete)], act := [tAct tReduce tG] })), 15, tAct tReduce tG, _, _, ⟨by decide, by decide +kernel, rfl, rfl, by decide +kernel, by decide +kernel, by decide⟩⟩
  · exact ⟨tS (tStag [] (tGroup ++ tUpd 3) (fun g => { g with act := [tAct (tReduce [(2, 1, 4), (0x58, 8, 0xD000)]) tG (fun a => { a with converted := true })] })), 15, tAct (tReduce [(2, 1, 4), (0x58, 8, 0xD000)]) tG (fun a => { a with converted := true }), _, _, _, _, ⟨by decide, by decide +kernel, rfl, rfl, rfl, rfl, by decide, by decide, by decide, by unfold Dev.Clean; decide +kernel⟩⟩
  · exact ⟨tS (tStag [] [] (fun g => { g with slots := [(15, tSlot (tReduce [(2, 1, 1)]) tG2 none .armed [(1, 0)])], act := [tAct (tReduce [(2, 1, 1)]) tG2 (fun a => { a with levels := [1, 0] })] })), 15, tAct (tReduce [(2, 1, 1)]) tG2 (fun a => { a with levels := [1, 0] }), _, _, 0, 1, 0, ⟨by decide, by decide +kernel, rfl, rfl, by and_intros <;> decide +kernel⟩⟩

theorem test_hyps_MicroprogramRuns :
    (∃ (s : State) (a : StagAct) (c : Instr) (op : Nat) (w : Nat) (m : Micro) (u : List Byte) (A : FVal) (B : FVal) (C : FVal) (r : FVal × Nat), s.dev.running = true ∧ s.dev.microAct = some a ∧ m = s.dev.stag.micro ∧ u = s.dev.updBlock a.desc.bytes ∧ w = s.dev.microWord u m.pc ∧ field w 7 0 = op ∧ A = s.dev.microArg u (field w 17 13) ∧ B = s.dev.microArg u (field w 22 18) ∧ C = s.dev.microArg u (field w 27 23) ∧ ((c = .microAdd ∧ op = 0x01 ∧ r = judged (fAdd grid32 A B)) ∨ (c = .microSub ∧ op = 0x02 ∧ r = judged (fAdd grid32 A B.negate)) ∨ (c = .microMul ∧ op = 0x03 ∧ r = judged (fMul grid32 A B)) ∨ (c = .microFma ∧ op = 0x04 ∧ r = judged (fFma grid32 A B C)) ∨ (c = .microDiv ∧ op = 0x05 ∧ r = judged (divVal A B)) ∨ (c = .microSqrt ∧ op = 0x06 ∧ r = judged (crSqrt A)) ∨ (c = .microRsqrt ∧ op = 0x07 ∧ r = judged (crRsqrt A)) ∨ (c = .microMin ∧ op = 0x08 ∧ r = judged (fMin A B, false)) ∨ (c = .microMax ∧ op = 0x09 ∧ r = judged (fMax A B, false)) ∨ (c = .microSign ∧ op = 0x0A ∧ r = judged (signVal A, false)) ∨ (c = .microAbs ∧ op = 0x0B ∧ r = judged (A.abs, false)) ∨ (c = .microNeg ∧ op = 0x0C ∧ r = judged (A.negate, false)) ∨ (c = .microSel ∧ op = 0x0D ∧ r = judged (selVal A B C)) ∨ (c = .microExp ∧ op = 0x0E ∧ r = judged (crExp A)) ∨ (c = .microLog ∧ op = 0x0F ∧ r = judged (crLog A)))) ∧
    (∃ (s : State) (a : StagAct) (m : Micro) (u : List Byte), s.dev.running = true ∧ s.dev.microAct = some a ∧ m = s.dev.stag.micro ∧ u = s.dev.updBlock a.desc.bytes ∧ field (s.dev.microWord u m.pc) 7 0 = 0x3F) := by
  refine ⟨?_, ?_⟩
  · exact ⟨tS (tMicro 0x0C41370D), _, .microSel, 0x0D, _, _, _, _, _, _, _, ⟨by decide, rfl, rfl, rfl, rfl, by decide +kernel, rfl, rfl, rfl, .inr (.inr (.inr (.inr (.inr (.inr (.inr (.inr (.inr (.inr (.inr (.inr (.inl ⟨rfl, rfl, rfl⟩))))))))))))⟩⟩
  · exact ⟨tS (tMicro 0x3F), _, _, _, ⟨by decide, rfl, rfl, rfl, by decide +kernel⟩⟩

/-- A job descriptor of TYPE 5 or 6 with OP and more fields, at the head of function 0's. -/
def tCmd (ty op : Nat) (more : List (Nat × Nat × Nat) := []) : List Byte := tBlock 64 ([(0, 1, ty), (4, 4, 5), (0x20, 1, op)] ++ more)
def tCmdAt (b : List Byte) (more : Dev → Dev := id) : Dev := more (((tFetched b).setReady HIV.page true).setReady (FOR.page 0) true)
/-- The cells of bytes that stand at `a`. -/
def tCells (a : Nat) (bs : List Byte) : List (Nat × Byte) := (List.range bs.length).map (fun i => (a + i, bs.getD i 0#8))
/-- A record of one text field with the one byte 0x41, its sample record, a feed block of one batch of one slot. -/
def tRec : List Byte :=
  let r := tBlock 48 [(0, 4, 0x43455257), (4, 2, 1), (8, 8, 0x1122), (0x10, 4, 16), (0x20, 2, 4), (0x22, 2, 0x401), (0x24, 4, 1), (0x28, 1, 0x41)]
  r.take 0x1C ++ leBytes 4 (crc32c (r.take 0x1C ++ r.drop 32)) ++ r.drop 32
def tSample : List Byte := tBlock 64 [(0, 8, 0x1122), (8, 8, 0x4000)]
def tFeedBlock : List Byte := tBlock 128 [(2, 1, 0x20), (3, 1, 1), (4, 2, 1), (0x20, 4, 5), (0x24, 4, 64), (0x30, 8, 2 ^ 38)]
def tFeed (outs : List (Nat × Nat)) (dec : List (Nat × Nat)) : Feed := ⟨1, 0, tFeedBlock, [tSample], outs, [], [], dec, 0, 0, [], [], 0, 0, 0, [], [], false⟩
/-- The shard of one record at 0x4000: its index at 0x4040, the record at 0x4080. -/
def tShard : List (Nat × Byte) :=
  tCells 0x4000 (tBlock 0x80 [(0, 4, 0x53525A57), (4, 2, 1), (8, 4, 1), (0x10, 8, 0x40), (0x18, 8, 0xB0), (0x40, 8, 0x80), (0x48, 4, 48)] ++ tRec)
def tFor (f : Feed) (cells : List (Nat × Byte) := []) : Dev :=
  { tRun 0 with forager := { ForagerSt.reset with feeds := [(15, f)] }, mem := { MemSt.reset with dram := ⟨cells, []⟩ } }
def tAsm : List Byte := tBlock 64 [(0, 1, 0x0D), (1, 1, 1), (3, 1, 15), (8, 8, 0x10000), (0x10, 8, 0x18000)]
def tEntries : List Cached := (Dev.decodeSample (tFor (tFeed [] [(0, 0)]) tShard) (tFeed [] [(0, 0)]) tSample).2.2
/-- Stream 3 with `head` bytes written, an entry of 16 bytes at its start. -/
def tStream (head : Nat) : Dev :=
  { (((Dev.reset.setNum (FOR.STRMCTRL 0 3) 1).setNum (FOR.STRMHEAD 0 3) head).setNum64 (FOR.STRMBASE 0 3) 0x4000).setNum (FOR.STRMSIZE 0 3) 4096 with
    mem := { MemSt.reset with dram := ⟨[(0x4000, 7#8), (0x4008, 16#8)], []⟩ } }
def tEnc (codec rate : Nat) : List Byte := tBlock 64 [(0, 2, codec), (2, 1, 0x20), (3, 1, 16), (4, 2, 2), (8, 4, 3), (0x10, 8, 0x4000), (0x18, 4, rate)]
theorem feed_ready : ∀ b, b < fbLook tFeedBlock → (tFeed [(0, 0)] []).batchReady b = true := by
  intro b hb
  have h1 : fbLook tFeedBlock = 1 := by decide +kernel
  have h0 : b = 0 := by omega
  subst h0
  decide +kernel

theorem test_hyps_HiveCommands :
    (∃ (s : State) (fn : Fin 16) (op : Nat) (c : Instr) (b : List Byte) (code : _), ((op = 1 ∧ c = .hiveAdd fn) ∨ (op = 2 ∧ c = .hiveRetire fn) ∨ (op = 3 ∧ c = .hivePause fn) ∨ (op = 4 ∧ c = .hiveResume fn) ∨ (op = 5 ∧ c = .hiveFork fn)) ∧ s.dev.headJob fn (fun x => jType x == 5 && jOp x == op) = some b ∧ s.dev.jobGate b = none ∧ s.dev.hiveCheck fn b = some code) ∧
    (∃ (s : State) (fn : Fin 16) (op : Nat) (c : Instr) (b : List Byte) (e : _), ((op = 1 ∧ c = .hiveAdd fn) ∨ (op = 2 ∧ c = .hiveRetire fn) ∨ (op = 3 ∧ c = .hivePause fn) ∨ (op = 4 ∧ c = .hiveResume fn) ∨ (op = 5 ∧ c = .hiveFork fn)) ∧ s.dev.headJob fn (fun x => jType x == 5 && jOp x == op) = some b ∧ s.dev.jobGate b = none ∧ s.dev.hiveCheck fn b = none ∧ (if op = 1 ∨ op = 5 then s.dev.idleEnt fn = some e else e = hEntry b)) ∧
    (∃ (r : Requester), requesterIsPf r = true) ∧
    (∃ (s : State) (r : Requester) (t : Fin 16) (held : Bool), requesterIsPf r = true ∧ held = (s.dev.entRange t).any (fun e => s.dev.entState e != 0)) ∧
    (∃ (s : State) (ok : Bool) (w : Switch) (area : _) (parts : _) (inside : _) (good : _), s.dev.hive.switching = some w ∧ w.outgoing < 16 ∧ w.incoming < 16 ∧ w.outgoing ≠ w.incoming ∧ area = s.dev.num64 (TEN.SAVEADDR w.outgoing) ∧ parts = contextParts (s.dev.cshwm w.outgoing) s.dev.talus.cl ∧ inside = s.dev.inRegion w.outgoing area contextBytes ∧ good = (ok && s.dev.busy HIV.page && !s.dev.onDieBad w.outgoing && inside) ∧ w.stage = 0) ∧
    (∃ (s : State) (ok : Bool) (w : Switch) (area : _) (oc : _) (good : _), s.dev.hive.switching = some w ∧ w.outgoing < 16 ∧ w.incoming < 16 ∧ w.outgoing ≠ w.incoming ∧ area = s.dev.num64 (TEN.SAVEADDR w.incoming) ∧ oc = s.dev.context w.incoming ∧ good = (ok && s.dev.busy HIV.page && !(s.dev.moverRead area (contextParts (s.dev.cshwm w.incoming) ((oc.map (fun c => c.talus)).getD []))).1) ∧ w.stage = 1) := by
  refine ⟨?_, ?_, ?_, ?_, ?_, ?_⟩
  · exact ⟨tS (tCmdAt (tCmd 5 2)), 0, 2, .hiveRetire 0, tCmd 5 2, 0x10, ⟨.inr (.inl ⟨rfl, rfl⟩), by decide +kernel, by decide +kernel, by decide +kernel⟩⟩
  · exact ⟨tS (tCmdAt (tCmd 5 1 [(0x28, 4, 77), (0x30, 4, 1), (0x38, 8, 0x4000)]) (fun d => (d.setNum (TEN.ENTRY 0) 0x10FFF).setNum (TEN.MAXCTX 0) 256)), 0, 1, .hiveAdd 0, tCmd 5 1 [(0x28, 4, 77), (0x30, 4, 1), (0x38, 8, 0x4000)], 4095, ⟨.inl ⟨rfl, rfl⟩, by and_intros <;> decide +kernel⟩⟩
  · exact ⟨.host, by decide⟩
  · exact ⟨tS Dev.reset, .cp 0, 15, _, ⟨rfl, rfl⟩⟩
  · exact ⟨tS { Dev.reset with hive := { HiveSt.reset with switching := some ⟨0, 15, 0, 9, 1⟩ } }, true, ⟨0, 15, 0, 9, 1⟩, _, _, _, _, ⟨rfl, by decide, by decide, by decide, rfl, rfl, rfl, rfl, rfl⟩⟩
  · exact ⟨tS { Dev.reset with hive := { HiveSt.reset with switching := some ⟨1, 0, 15, 9, 1⟩ } }, false, ⟨1, 0, 15, 9, 1⟩, _, _, _, ⟨rfl, by decide, by decide, by decide, rfl, rfl, rfl, rfl⟩⟩

/-- A save that succeeds: BUSY, an area inside the region, no error in what is moved. -/
theorem test_hyps_HiveCommands_saved : ∃ (s : State) (w : Switch) (area : Nat), s.dev.hive.switching = some w ∧ w.outgoing < 16 ∧
    w.incoming < 16 ∧ w.outgoing ≠ w.incoming ∧ area = s.dev.num64 (TEN.SAVEADDR w.outgoing) ∧ w.stage = 0 ∧
    (true && s.dev.busy HIV.page && !s.dev.onDieBad w.outgoing && s.dev.inRegion w.outgoing area contextBytes) = true :=
  ⟨tS { Dev.reset.setBusy HIV.page true with hive := { HiveSt.reset with switching := some ⟨0, 0, 15, 9, 1⟩ } }, ⟨0, 0, 15, 9, 1⟩, 0,
    by decide +kernel⟩

theorem mscTouch_errs (d : Dev) (b : Nat) (w : Bool) (n : Nat) : (d.mscTouch b w n).mem.stackUE = d.mem.stackUE ∧
    (d.mscTouch b w n).mem.badList = d.mem.badList ∧ (d.mscTouch b w n).mem.pinUE = d.mem.pinUE := by
  unfold Dev.mscTouch
  dsimp only
  repeat' split
  all_goals exact ⟨rfl, rfl, rfl⟩

/-- No uncorrectable error is stored. -/
def tSound (d : Dev) : Prop := d.mem.stackUE = [] ∧ d.mem.badList = [] ∧ d.mem.pinUE = []

theorem sound_touches (l : List Nat) : ∀ d : Dev, tSound d → tSound (l.foldl (fun d b => d.mscTouch b false 0) d) := by
  induction l with
  | nil => exact fun _ h => h
  | cons b l ih =>
    intro d h
    obtain ⟨h1, h2, h3⟩ := mscTouch_errs d b false 0
    exact ih _ ⟨h1.trans h.1, h2.trans h.2.1, h3.trans h.2.2⟩

theorem sound_quiet (d : Dev) (h : tSound d) (a n : Nat) : (d.quietTouch a n).1 = false ∧ tSound (d.quietTouch a n).2 := by
  have hb : (blocksOf a n).filter (fun b => (d.pinned (256 * b) && d.mem.pinUE.contains b) || d.blockBad b) = [] := by
    rw [List.filter_eq_nil_iff]
    intro b _
    simp [Dev.blockBad, h.1, h.2.1, h.2.2]
  unfold Dev.quietTouch
  dsimp only
  rw [hb]
  exact ⟨rfl, sound_touches _ _ h⟩

theorem sound_mover (parts : List (Nat × Nat)) (area : Nat) : ∀ d : Dev, tSound d → (d.moverRead area parts).1 = false := by
  have go : ∀ r : Bool × Dev, r.1 = false → tSound r.2 → (parts.foldl (fun (r : Bool × Dev) p =>
      let q := r.2.quietTouch (area + p.1) p.2; (r.1 || q.1, q.2)) r).1 = false := by
    induction parts with
    | nil => exact fun r h _ => h
    | cons p l ih =>
      intro r h1 h2
      have hq := sound_quiet r.2 h2 (area + p.1) p.2
      exact ih _ (by simp [h1, hq.1]) hq.2
  exact fun d h => go (false, d) rfl h

/-- A load that succeeds: BUSY, an image, no error in what is moved. -/
theorem test_hyps_HiveCommands_loaded : ∃ (s : State) (w : Switch) (c : Context) (area : Nat), s.dev.hive.switching = some w ∧
    w.outgoing < 16 ∧ w.incoming < 16 ∧ w.outgoing ≠ w.incoming ∧ area = s.dev.num64 (TEN.SAVEADDR w.incoming) ∧ w.stage = 1 ∧
    s.dev.context w.incoming = some c ∧ (true && s.dev.busy HIV.page && !(s.dev.moverRead area
      (contextParts (s.dev.cshwm w.incoming) ((some c).map (fun c => c.talus) |>.getD []))).1) = true := by
  refine ⟨tS { (Dev.reset.setBusy HIV.page true).setFlag (TEN.TENSTAT 0) 0 true with
    hive := { HiveSt.reset with switching := some ⟨1, 15, 0, 9, 1⟩, saved := [(0, some ⟨[], [], [], [], 0, 0⟩)] } }, ⟨1, 15, 0, 9, 1⟩,
    Context.read ⟨[], [], [], [], 0, 0⟩ ⟨[], []⟩ 0, _, rfl, by decide, by decide, by decide, rfl, rfl, ?_, ?_⟩
  · unfold Dev.context
    rw [if_pos (by decide +kernel)]
    rfl
  · rw [sound_mover _ _ _ ⟨rfl, rfl, rfl⟩]
    decide +kernel

theorem test_hyps_ForagerWorks :
    (∃ (s : State) (fn : Fin 16) (op : Nat) (c : Instr) (b : List Byte) (act : Nat → Dev → List Byte → Option Nat × Dev) (code : _), ((op = 1 ∧ c = .forcmdOpen fn ∧ act = Dev.forOpen) ∨ (op = 2 ∧ c = .forcmdList fn ∧ act = Dev.forList) ∨ (op = 3 ∧ c = .forcmdClose fn ∧ act = Dev.forClose) ∨ (op = 4 ∧ c = .forcmdEncode fn ∧ act = Dev.forEncode)) ∧ s.dev.headJob fn (fun x => jType x == 6 && jOp x == op) = some b ∧ s.dev.jobGate b = none ∧ (act fn (s.dev.popFetched fn) b).1 = some code) ∧
    (∃ (s : State) (fn : Fin 16) (op : Nat) (c : Instr) (b : List Byte) (act : Nat → Dev → List Byte → Option Nat × Dev), ((op = 1 ∧ c = .forcmdOpen fn ∧ act = Dev.forOpen) ∨ (op = 2 ∧ c = .forcmdList fn ∧ act = Dev.forList) ∨ (op = 3 ∧ c = .forcmdClose fn ∧ act = Dev.forClose) ∨ (op = 4 ∧ c = .forcmdEncode fn ∧ act = Dev.forEncode)) ∧ s.dev.headJob fn (fun x => jType x == 6 && jOp x == op) = some b ∧ s.dev.jobGate b = none ∧ (act fn (s.dev.popFetched fn) b).1 = none) ∧
    (∃ (s : State) (k : Fin 16) (f : Feed), f = s.dev.feed k ∧ f.closing = true ∧ s.dev.inClose = true ∧ (∀ x, s.dev.cricket.next = some x → x.image.feeds.contains k.val = false)) ∧
    (∃ (s : State) (k : Fin 16) (f : Feed), f = s.dev.feed k ∧ s.dev.forager.warm = some k.val ∧ (∀ b, b < fbLook f.block → f.batchReady b = true)) ∧
    (∃ (s : State) (k : Fin 16) (f : Feed) (pos : _), f = s.dev.feed k ∧ f.mayDecode pos = true ∧ s.dev.inReset (FOR.page 0) = false) ∧
    (∃ (s : State) (k : Fin 16) (f : Feed) (pos : _) (w : _) (code : _), f = s.dev.feed k ∧ f.decoding.find? (fun x => x.1 == pos) = some w ∧ f.outcome pos = none ∧ s.dev.inReset (FOR.page 0) = false ∧ s.dev.forager.engUE = [] ∧ (s.dev.decodeSample f (f.sample pos)).2.1 = code ∧ code ≠ 0) ∧
    (∃ (s : State) (q : QDesc) (rest : List QDesc) (f : Feed), s.dev.issuing = true ∧ s.dev.forager.queue = q :: rest ∧ s.dev.forager.run = none ∧ s.dev.headCode q.bytes (s.dev.asmCheck q.bytes) = none ∧ s.dev.waitOk q.bytes = true ∧ f = s.dev.feed (asmFeed q.bytes) ∧ f.batchReady f.next = true) ∧
    (∃ (s : State) (q : QDesc) (b : Nat), s.dev.running = true ∧ s.dev.forager.run = some (q, b)) ∧
    (∃ (s : State) (k : Fin 4) (p : Nat) (a : Nat) (len : Nat) (cap : Nat), s.dev.flag (FOR.STRMCTRL 0 k) 0 = true ∧ s.dev.inReset (FOR.page 0) = false ∧ s.dev.num (FOR.STRMTAIL 0 k) < s.dev.num (FOR.STRMHEAD 0 k) ∧ p = s.dev.entryStart k ∧ a = s.dev.num64 (FOR.STRMBASE 0 k) + p ∧ len = fieldAt (s.dev.mem.dram.readN a 64) 8 4 ∧ cap = fieldAt (s.dev.mem.dram.readN a 64) 0 8 ∧ 0 < len ∧ s.dev.num (FOR.STRMTAIL 0 k) ≤ p ∧ p + 64 + len ≤ s.dev.num (FOR.STRMHEAD 0 k) ∧ s.dev.inRegion (s.dev.fld (FOR.STRMCTRL 0 k) 11 8) a 64 = true ∧ s.dev.inRegion (s.dev.fld (FOR.STRMCTRL 0 k) 11 8) (a + 64) len = true ∧ s.dev.Clean a 64 ∧ s.dev.Clean (a + 64) len ∧ s.dev.forager.engUE = []) ∧
    (∃ (s : State) (k : Fin 4), s.dev.flag (FOR.STRMCTRL 0 k) 0 = true ∧ s.dev.flag (FOR.STRMCTRL 0 k) 1 = false ∧ s.dev.num (FOR.LOSTTICKS 0 k) ≤ s.dev.now - (s.dev.stream k).last) ∧
    (∃ (s : State) (k : Fin 4), s.dev.now - (s.dev.stream k).last < s.dev.num (FOR.LOSTTICKS 0 k)) ∧
    (∃ (r : Requester), requesterIsPf r = true) ∧
    (∃ (s : State) (e : Enc) (rest : List Enc), s.dev.forager.enc = e :: rest ∧ s.dev.inReset (FOR.page 0) = false ∧ encUnsupported e.block = true) ∧
    (∃ (s : State) (e : Enc) (rest : List Enc) (src : _) (rec_ : _), s.dev.forager.enc = e :: rest ∧ s.dev.inReset (FOR.page 0) = false ∧ encUnsupported e.block = false ∧ src = fmtBytes (ebSfmt e.block) (ebCount e.block) ∧ s.dev.Clean (ebSrc e.block) src ∧ s.dev.forager.engUE = [] ∧ rec_ = encRecord e.block (Config.encode (ebCodec e.block) (encForm e.block) ((List.range (ebCount e.block)).map (fun i => encCode (ebFlac e.block) (ebDepth e.block) (decodeElem (ebSfmt e.block) (unpackElem (ebSfmt e.block) (s.dev.mem.dram.readN (ebSrc e.block) src) i)))))) ∧
    (∃ (s : State), s.dev.cricket.phase = .admitted) := by
  and_intros
  · exact ⟨tS (tCmdAt (tCmd 6 2)), 0, 2, .forcmdList 0, tCmd 6 2, _, 0x10, ⟨.inr (.inl ⟨rfl, rfl, rfl⟩), by decide +kernel, by decide +kernel, by decide +kernel⟩⟩
  · exact ⟨tS (tCmdAt (tCmd 6 3 [(0x21, 1, 15)]) (fun d => d.setFeed 15 (tFeed [] []))), 0, 3, .forcmdClose 0, tCmd 6 3 [(0x21, 1, 15)], _, ⟨.inr (.inr (.inl ⟨rfl, rfl, rfl⟩)), by decide +kernel, by decide +kernel, by decide +kernel⟩⟩
  · exact ⟨tS (({ Dev.reset with cricket := { CricketSt.reset with phase := .posted } }).setFeed 15 { tFeed [] [] with closing := true }), 15, _, ⟨rfl, rfl, rfl, fun x h => by cases h⟩⟩
  · exact ⟨tS { tFor (tFeed [(0, 0)] []) with forager := { ForagerSt.reset with feeds := [(15, tFeed [(0, 0)] [])], warm := some 15 } }, 15, tFeed [(0, 0)] [], ⟨rfl, rfl, feed_ready⟩⟩
  · exact ⟨tS (tFor (tFeed [] [])), 15, tFeed [] [], 0, by decide +kernel⟩
  · exact ⟨tS (tFor (tFeed [] [(0, 0)])), 15, tFeed [] [(0, 0)], 0, (0, 0), 0x70, by decide +kernel⟩
  · exact ⟨tS { tFor (tFeed [(0, 0)] []) with forager := { ForagerSt.reset with feeds := [(15, tFeed [(0, 0)] [])], queue := [tQ tAsm] } }, tQ tAsm, [], tFeed [(0, 0)] [], by decide +kernel⟩
  · exact ⟨tS { tRun 0 with forager := { ForagerSt.reset with run := some (tQ tAsm, 0) } }, tQ tAsm, 0, by decide +kernel⟩
  · exact ⟨tS (tStream 80), 3, 0, 0x4000, 16, 7, by unfold Dev.Clean; decide +kernel⟩
  · exact ⟨tS ((tStream 80).setNum (FOR.LOSTTICKS 0 3) 0), 3, by decide +kernel⟩
  · exact ⟨tS (Dev.reset.setNum (FOR.LOSTTICKS 0 3) 1), 3, by decide +kernel⟩
  · exact ⟨.cp 0, by decide⟩
  · exact ⟨tS { Dev.reset with forager := { ForagerSt.reset with enc := [⟨0, 5#32, tEnc 0x301 192001⟩] } }, ⟨0, 5#32, tEnc 0x301 192001⟩, [], by decide⟩
  · exact ⟨tS { Dev.reset with forager := { ForagerSt.reset with enc := [⟨0, 5#32, tEnc 0x301 192000⟩] } }, ⟨0, 5#32, tEnc 0x301 192000⟩, [], _, _, ⟨rfl, by decide +kernel, by decide +kernel, rfl, by unfold Dev.Clean; decide +kernel, rfl, rfl⟩⟩
  · exact ⟨tS { Dev.reset with cricket := { CricketSt.reset with phase := .admitted } }, by decide⟩

/-- The second case of a decode that ends: the text of the record decodes to one token, and where its cache entry, whose size is the
device's own, fits the feed's cache there is room for it. -/
theorem test_hyps_ForagerWorks_decoded (hfit : cacheBytes tEntries ≤ 2 ^ 38) :
    ∃ (s : State) (k : Fin 16) (f : Feed) (pos : Nat) (w : Nat × Nat) (l es : List Cached), f = s.dev.feed k ∧
      f.decoding.find? (fun x => x.1 == pos) = some w ∧ f.outcome pos = none ∧
      s.dev.decodeSample f (f.sample pos) = ((s.dev.decodeSample f (f.sample pos)).1, 0, es) ∧
      f.roomFor (cacheBytes es) = some l := by
  refine ⟨tS (tFor (tFeed [] [(0, 0)]) tShard), 15, tFeed [] [(0, 0)], 0, (0, 0), [], tEntries, rfl, rfl, rfl, ?_, ?_⟩
  · rw [Prod.ext_iff, Prod.ext_iff]
    exact ⟨rfl, by decide +kernel, rfl⟩
  · unfold Feed.roomFor
    have h1 : fbCacheSize (tFeed [] [(0, 0)]).block = 2 ^ 38 := by decide +kernel
    have h2 : evict (tFeed [] [(0, 0)]).pinned (2 ^ 38) (cacheBytes tEntries) 0 [] = [] := rfl
    dsimp only
    rw [h1]
    show (if cacheBytes [] + cacheBytes tEntries ≤ 2 ^ 38 then some [] else none) = some []
    rw [if_pos (by show 0 + _ ≤ _; omega)]

/-- Port `p` in a state, with its own state `q`. -/
def tPort (p st : Nat) (q : Port := port0 0) (d : Dev := Dev.reset) : Dev :=
  { d.setFld (LNK.PORTSTAT p) 2 0 st with link := { LinkSt.reset with ports := [(p, q)] } }
def tTxn (kind lenTen : Byte) (arg0 : Word) (addr arg1 : DWord) (payload : List Byte := []) : Txn :=
  ⟨kind, 0#8, 0#16, 1#16, 0#8, lenTen, 0#32, arg0, addr, arg1, payload⟩
/-- A transaction waits at port 23 in the run window of a beat with one pinned granule. -/
def tGot (t : Txn) (more : StagSt → StagSt := id) : Dev :=
  tPort 23 4 { port0 0 with received := [t] } { tRun 0 with mem := { MemSt.reset with pins := [(0, 1)] }, stag := more StagSt.reset }
def tWrite (a : DWord) : Txn := tTxn 1#8 8#8 256#32 a 0#64 (List.replicate 256 0xFF#8)
def tRead : Txn := tTxn 2#8 0#8 256#32 0xFFFFFFF00#64 0#64
/-- The exponent line of `tArm`. -/
def tLine : Txn := tTxn 3#8 8#8 0#32 0x18000#64 (BitVec.ofNat 64 (5 + 15 * 2 ^ 22 + 9 * 2 ^ 32 + 63 * 2 ^ 48)) (List.replicate 256 1#8)
def tSyncT : Txn := tTxn 4#8 0#8 0xFFFF#32 131071#64 0#64
def tDone : Txn := { tTxn 5#8 0#8 0#32 0#64 0#64 with tid := BitVec.ofNat 32 (7 + 3 * 2 ^ 16 + 23 * 2 ^ 20) }
def tOut : Outst := ⟨7, 3, tRead, 100, 0⟩
def tMark : Txn := ⟨6#8, 0#8, 0#16, 1#16, 0#8, 0#8, 0#32, 5#32, 9#64, 0x201#64, []⟩
def tTime (more : Dev → Dev := id) : Dev := more ((tPort 23 4).setFlag (LNK.PORTCFG 23) 4 true)
def tTel : Telemetry := ⟨48000, 1000, 48000, List.replicate 8 (800, 10), [400, 400, 400]⟩

theorem test_hyps_PortsTrainAndReplay :
    (∃ (s : State) (p : Fin 24) (q : Port), q = s.dev.port p ∧ s.dev.portState p = 1) ∧
    (∃ (s : State) (p : Fin 24) (q : Port), q = s.dev.port p ∧ s.dev.portState p ≠ 1) ∧
    (∃ (s : State) (p : Fin 24) (q : Port) (lanes : _) (c : _), q = s.dev.port p ∧ s.dev.portState p = 2 ∧ (if q.step = 3 then widthCode lanes q.maxWidth else if q.step = 4 then widthCode lanes (s.dev.fld (LNK.PORTSTAT p) 4 3) else some (s.dev.fld (LNK.PORTSTAT p) 4 3)) = some c) ∧
    (∃ (s : State) (p : Fin 24) (q : Port) (lanes : _), q = s.dev.port p ∧ s.dev.portState p = 2 ∧ q.step = 3 ∧ widthCode lanes q.maxWidth = none) ∧
    (∃ (s : State) (p : Fin 24) (q : Port) (c : Instr), q = s.dev.port p ∧ ((c = .trainStepLimit p ∧ s.dev.portState p = 2) ∨ (c = .linkEnergyLoss p ∧ (s.dev.portState p = 2 ∨ s.dev.portState p = 3)) ∨ (c = .codewordLockLoss p ∧ s.dev.portState p = 3))) ∧
    (∃ (s : State) (p : Fin 24) (q : Port), q = s.dev.port p ∧ s.dev.portState p = 3) ∧
    (∃ (s : State) (p : Fin 24) (q : Port), q = s.dev.port p ∧ s.dev.portState p = 4) ∧
    (∃ (s : State) (p : Fin 24) (q : Port) (e : BitVec 12) (buf : _), q = s.dev.port p ∧ s.dev.portState p = 5 ∧ buf = ackThrough ((e.toNat + 4095) % 4096) q.replayBuf) ∧
    (∃ (s : State) (p : Fin 24) (q : Port), q = s.dev.port p ∧ s.dev.portState p = 5) ∧
    (∃ (s : State) (p : Fin 24) (q : Port), q = s.dev.port p ∧ s.dev.portState p ≠ 0) ∧
    (∃ (s : State) (p : Fin 24) (q : Port) (h : FlitHdr) (body : List Byte) (c : Instr), q = s.dev.port p ∧ s.dev.flitsFlow p = true ∧ (c = .flitData p h false body ∨ c = .flitIdle p h false ∨ c = .flitNak p h false)) ∧
    (∃ (s : State) (p : Fin 24) (q : Port) (h : FlitHdr) (body : List Byte) (l : _), q = s.dev.port p ∧ s.dev.flitsFlow p = true ∧ h.fseq.toNat = q.expected ∧ l = (parseSlots 9 (q.partialRx ++ body)).1) ∧
    (∃ (s : State) (p : Fin 24) (q : Port) (h : FlitHdr), q = s.dev.port p ∧ s.dev.flitsFlow p = true ∧ h.fseq.toNat ≠ q.expected) ∧
    (∃ (s : State) (p : Fin 24) (q : Port), q = s.dev.port p ∧ s.dev.flitsFlow p = true) ∧
    (∃ (s : State) (p : Fin 24) (q : Port) (h : FlitHdr) (n : _) (buf : _), q = s.dev.port p ∧ s.dev.flitsFlow p = true ∧ n = (if q.nakSeq = h.ackseq.toNat then q.naks + 1 else 1) ∧ buf = ackThrough ((h.ackseq.toNat + 4095) % 4096) q.replayBuf) ∧
    (∃ (s : State) (p : Fin 24) (q : Port), q = s.dev.port p ∧ s.dev.portState p = 4 ∧ q.replaying = 0 ∧ q.replayBuf ≠ []) ∧
    (∃ (s : State) (p : Fin 24) (q : Port), q = s.dev.port p ∧ q.replaying ≠ 0) := by
  and_intros
  · exact ⟨tS (tPort 23 1 (port0 0)), 23, _, ⟨rfl, by decide +kernel⟩⟩
  · exact ⟨tS (tPort 23 0 (port0 0)), 23, _, ⟨rfl, by decide +kernel⟩⟩
  · exact ⟨tS (tPort 23 2 ({ port0 0 with step := 3 })), 23, _, 0x0F#8, 1, ⟨rfl, by decide +kernel, by decide +kernel⟩⟩
  · exact ⟨tS (tPort 23 2 ({ port0 0 with step := 3 })), 23, _, 0#8, ⟨rfl, by decide +kernel, rfl, by decide +kernel⟩⟩
  · exact ⟨tS (tPort 23 3 (port0 0)), 23, _, .codewordLockLoss 23, ⟨rfl, by decide +kernel⟩⟩
  · exact ⟨tS (tPort 23 3 (port0 0)), 23, _, ⟨rfl, by decide +kernel⟩⟩
  · exact ⟨tS (tPort 23 4 (port0 0)), 23, _, ⟨rfl, by decide +kernel⟩⟩
  · exact ⟨tS (tPort 23 5 ({ port0 0 with replayBuf := [⟨4095, [], false⟩, ⟨0, [], false⟩] })), 23, _, 0#12, _, ⟨rfl, by decide +kernel, rfl⟩⟩
  · exact ⟨tS (tPort 23 5 (port0 0)), 23, _, ⟨rfl, by decide +kernel⟩⟩
  · exact ⟨tS (tPort 23 6 (port0 0)), 23, _, ⟨rfl, by decide +kernel⟩⟩
  · exact ⟨tS (tPort 23 4 (port0 0)), 23, _, ⟨0#12, 4095#12, false, 0#5⟩, [], .flitIdle 23 ⟨0#12, 4095#12, false, 0#5⟩ false, ⟨rfl, by decide +kernel, .inr (.inl rfl)⟩⟩
  · exact ⟨tS (tPort 23 4 ({ port0 0 with expected := 4095 })), 23, _, ⟨4095#12, 4095#12, false, 0#5⟩, [], _, ⟨rfl, by decide +kernel, by decide +kernel, rfl⟩⟩
  · exact ⟨tS (tPort 23 4 ({ port0 0 with expected := 4095 })), 23, _, ⟨0#12, 4095#12, false, 0#5⟩, ⟨rfl, by decide +kernel, by decide⟩⟩
  · exact ⟨tS (tPort 23 4 (port0 0)), 23, _, ⟨rfl, by decide +kernel⟩⟩
  · exact ⟨tS (tPort 23 4 ({ port0 0 with replayBuf := [⟨4095, [], false⟩, ⟨0, [], false⟩], naks := 3 })), 23, _, ⟨0#12, 0#12, false, 0#5⟩, _, _, ⟨rfl, by decide +kernel, rfl, rfl⟩⟩
  · exact ⟨tS (tPort 23 4 ({ port0 0 with replayBuf := [⟨0, [], false⟩] })), 23, _, ⟨rfl, by decide +kernel, rfl, by decide⟩⟩
  · exact ⟨tS (tPort 23 4 ({ port0 0 with replaying := 1 })), 23, _, ⟨rfl, by decide +kernel⟩⟩

theorem test_hyps_TransactionsComplete :
    (∃ (s : State) (p : Option (Fin 24)) (t : Txn), s.dev.mayTake (p.map (fun q => q.val)) t = true ∧ t.dstRank = s.dev.rank ∧ t.wellFormed = true ∧ s.dev.judgeTag (p.map (fun q => q.val)) t = .deliver ∧ t.resent = false ∧ t.kindN = 1 ∧ s.dev.windowed t.addrN t.bytesN = true ∧ t.addrN + t.bytesN ≤ memTop ∧ s.dev.stackInReset t.addrN = false) ∧
    (∃ (s : State) (p : Option (Fin 24)) (t : Txn), s.dev.mayTake (p.map (fun q => q.val)) t = true ∧ t.dstRank = s.dev.rank ∧ t.wellFormed = true ∧ s.dev.judgeTag (p.map (fun q => q.val)) t = .deliver ∧ t.resent = false ∧ t.kindN = 1 ∧ s.dev.windowed t.addrN t.bytesN = false ∧ t.srcRank ≠ s.dev.rank) ∧
    (∃ (s : State) (p : Option (Fin 24)) (t : Txn), s.dev.mayTake (p.map (fun q => q.val)) t = true ∧ t.dstRank = s.dev.rank ∧ t.wellFormed = true ∧ s.dev.judgeTag (p.map (fun q => q.val)) t = .deliver ∧ t.resent = false ∧ t.kindN = 2 ∧ t.ten = s.dev.num HIV.RESIDENT % 16 ∧ (t.ten = 0 ∨ s.dev.inRegion t.ten t.addrN t.bytesN = true) ∧ t.addrN + t.bytesN ≤ memTop ∧ s.dev.stackInReset t.addrN = false ∧ s.dev.Clean t.addrN t.bytesN) ∧
    (∃ (s : State) (p : Option (Fin 24)) (t : Txn) (q : _) (a : _), s.dev.mayTake (p.map (fun q => q.val)) t = true ∧ t.dstRank = s.dev.rank ∧ t.wellFormed = true ∧ s.dev.judgeTag (p.map (fun q => q.val)) t = .deliver ∧ t.resent = false ∧ t.kindN = 3 ∧ s.dev.windowed t.addrN (raccTarget t) = true ∧ t.addrN + raccTarget t ≤ memTop ∧ s.dev.inReset (STG.page (stackOf t.addrN)) = false ∧ s.dev.stackInReset t.addrN = false ∧ (s.dev.slot t.raccSlot).arm = some q ∧ sgBtag q.bytes = t.btag ∧ (t.raccSrc, lineKeyOf q.bytes (s.dev.slot t.raccSlot).group t) ∉ (s.dev.slot t.raccSlot).arrived ∧ s.dev.lineExpected t.raccSlot t = true ∧ a = (⟨t.addrN, BitVec.ofNat 64 (2 ^ t.elems - 1), raccOperands t, s.dev.bedrock⟩ : AtomicReq) ∧ (t.op ≠ 0x20 → s.dev.atomBad t.op a = none)) ∧
    (∃ (s : State) (p : Option (Fin 24)) (t : Txn) (q : _), s.dev.mayTake (p.map (fun q => q.val)) t = true ∧ t.dstRank = s.dev.rank ∧ t.wellFormed = true ∧ s.dev.judgeTag (p.map (fun q => q.val)) t = .deliver ∧ t.resent = false ∧ t.kindN = 3 ∧ s.dev.windowed t.addrN (raccTarget t) = true ∧ t.addrN + raccTarget t ≤ memTop ∧ s.dev.inReset (STG.page (stackOf t.addrN)) = false ∧ s.dev.stackInReset t.addrN = false ∧ (s.dev.slot t.raccSlot).arm = some q ∧ sgBtag q.bytes = t.btag ∧ (t.raccSrc, lineKeyOf q.bytes (s.dev.slot t.raccSlot).group t) ∈ (s.dev.slot t.raccSlot).arrived ∧ (sgFmt q.bytes = 0 ∨ s.dev.lineExpected t.raccSlot t = true)) ∧
    (∃ (s : State) (p : Option (Fin 24)) (t : Txn), s.dev.mayTake (p.map (fun q => q.val)) t = true ∧ t.dstRank = s.dev.rank ∧ t.wellFormed = true ∧ s.dev.judgeTag (p.map (fun q => q.val)) t = .deliver ∧ t.resent = false ∧ t.kindN = 4 ∧ t.ten = s.dev.num HIV.RESIDENT % 16 ∧ s.dev.granted t.ten t.addrN = true ∧ s.dev.inReset (SYN.page (t.addrN / 512)) = false) ∧
    (∃ (s : State) (p : Option (Fin 24)) (t : Txn) (o : _), t.isCpl = true ∧ s.dev.mayTake (p.map (fun q => q.val)) t = true ∧ t.dstRank = s.dev.rank ∧ (t.iport < 24 ∨ t.iport = 31) ∧ (s.dev.table t.iport).find? (fun o => o.tag == t.tag && o.gen == t.gen) = some o) ∧
    (∃ (s : State) (p : Option (Fin 24)) (t : Txn) (pg : _), t.isCpl = true ∧ s.dev.mayTake (p.map (fun q => q.val)) t = true ∧ t.dstRank = s.dev.rank ∧ (t.iport < 24 ∨ t.iport = 31) ∧ (s.dev.table t.iport).find? (fun o => o.tag == t.tag && o.gen == t.gen) = none ∧ pg = t.iport % 31) ∧
    (∃ (s : State) (p : Option (Fin 24)) (tag : BitVec 16) (ip : Nat) (pg : Nat) (o : Outst), ip = (p.map (fun q => q.val)).getD 31 ∧ pg = (p.map (fun q => q.val)).getD 0 ∧ (s.dev.table ip).find? (fun o => o.tag == tag.toNat) = some o ∧ s.dev.cplWaits ip o = true) ∧
    (∃ (s : State) (p : Option (Fin 24)) (tag : BitVec 16) (ip : Nat) (pg : Nat) (o : Outst), ip = (p.map (fun q => q.val)).getD 31 ∧ pg = (p.map (fun q => q.val)).getD 0 ∧ (s.dev.table ip).find? (fun o => o.tag == tag.toNat) = some o ∧ s.dev.cplWaits ip o = false ∧ s.dev.num (LNK.TXLIMIT pg) ≤ o.age) ∧
    (∃ (s : State) (p : Option (Fin 24)) (tag : BitVec 16) (ip : Nat) (pg : Nat) (o : Outst), ip = (p.map (fun q => q.val)).getD 31 ∧ pg = (p.map (fun q => q.val)).getD 0 ∧ (s.dev.table ip).find? (fun o => o.tag == tag.toNat) = some o ∧ o.age < s.dev.num (LNK.TXLIMIT pg)) ∧
    (∃ (s : State) (p : Fin 24) (t : Txn), s.dev.portActive p = true ∧ markerOk t = true ∧ mkFwd t = true ∧ s.dev.cricket.seen.contains (mkKey t) = true) ∧
    (∃ (s : State) (p : Fin 24) (t : Txn), s.dev.portActive p = true ∧ markerOk t = true ∧ mkFwd t = true ∧ s.dev.cricket.seen.contains (mkKey t) = false) := by
  and_intros
  · exact ⟨tS (tGot (tWrite 0x10000#64)), some 23, tWrite 0x10000#64, by decide +kernel⟩
  · exact ⟨tS (tGot (tWrite 0xFF00#64)), some 23, tWrite 0xFF00#64, by decide +kernel⟩
  · exact ⟨tS (tGot tRead), some 23, tRead, by unfold Dev.Clean; decide +kernel⟩
  · exact ⟨tS (tGot tLine (fun g => { g with slots := [(15, tSlot tArm tG none .armed [])] })), some 23, tLine, tQ tArm, _, by refine ⟨?_, ?_, ?_, ?_, ?_, ?_, ?_, ?_, ?_, by decide +kernel, ?_, ?_, ?_, ?_, rfl, fun _ => ?_⟩ <;> decide +kernel⟩
  · exact ⟨tS (tGot tLine (fun g => { g with slots := [(15, tSlot tArm tG none .armed [(0, 0)])] })), some 23, tLine, tQ tArm, by decide +kernel⟩
  · exact ⟨tS (tGot tSyncT), some 23, tSyncT, by decide +kernel⟩
  · exact ⟨tS (tPort 23 4 { port0 0 with received := [tDone], table := [tOut] }), some 23, tDone, tOut, by decide +kernel⟩
  · exact ⟨tS (tPort 23 4 { port0 0 with received := [tDone] }), some 23, tDone, 23, by decide +kernel⟩
  · exact ⟨tS ((tPort 23 4 { port0 0 with table := [tOut], received := [tDone] }).setNum (LNK.TXLIMIT 23) 100), some 23, 7#16, 23, 23, tOut, by decide +kernel⟩
  · exact ⟨tS ((tPort 23 4 { port0 0 with table := [tOut] }).setNum (LNK.TXLIMIT 23) 100), some 23, 7#16, 23, 23, tOut, by decide +kernel⟩
  · exact ⟨tS ((tPort 23 4 { port0 0 with table := [tOut] }).setNum (LNK.TXLIMIT 23) 101), some 23, 7#16, 23, 23, tOut, by decide +kernel⟩
  · exact ⟨tS { tPort 23 4 with cricket := { CricketSt.reset with seen := [(5#32, 9, false)] } }, 23, tMark, by decide +kernel⟩
  · exact ⟨tS (tPort 23 4), 23, tMark, by decide +kernel⟩

theorem test_hyps_TimeAndRoutes :
    (∃ (s : State) (p : Fin 24), s.dev.portActive p = true ∧ s.dev.timeEn p = true ∧ s.dev.dist < 63) ∧
    (∃ (s : State) (p : Fin 24), s.dev.portActive p = true ∧ s.dev.timeEn p = true ∧ 63 ≤ s.dev.dist) ∧
    (∃ (s : State) (p : Fin 24), s.dev.portActive p = true ∧ s.dev.timeEn p = true ∧ s.dev.grandmaster = true) ∧
    (∃ (s : State) (p : Fin 24), s.dev.portActive p = true ∧ s.dev.timeEn p = true ∧ s.dev.grandmaster = false) ∧
    (∃ (s : State) (p : Fin 24) (t : Txn) (off : _), s.dev.portActive p = true ∧ s.dev.timeEn p = true ∧ s.dev.grandmaster = false ∧ s.dev.srcPort = p.val ∧ timeEcho t = s.dev.link.time.t3 ∧ off = timeOffset s.dev.link.time.t1 s.dev.link.time.t2 s.dev.link.time.t3 (timeTs t) (toSigned 32 (s.dev.num (LNK.ASYM p)))) ∧
    (∃ (r : Requester), requesterIsPf r = true) := by
  refine ⟨?_, ?_, ?_, ?_, ?_, ?_⟩
  · exact ⟨tS (tTime (fun d => d.setNum (LNK.TIMEDIST 0) 62)), 23, by decide +kernel⟩
  · exact ⟨tS (tTime (fun d => d.setNum (LNK.TIMEDIST 0) 63)), 23, by decide +kernel⟩
  · exact ⟨tS (tTime (fun d => d.setFlag CKT.TIMECTRL 0 true)), 23, by decide +kernel⟩
  · exact ⟨tS (tTime (fun d => d.setFlag CKT.TIMECTRL 0 false)), 23, by decide +kernel⟩
  · exact ⟨tS (tTime (fun d => (d.setFld CKT.TIMESTAT 12 8 23).setFlag CKT.TIMECTRL 0 false)), 23, ⟨0x40#8, 0#8, 0#16, 1#16, 0#8, 0#8, 0#32, 0#32, 0#64, 0#64, []⟩, _, ⟨by decide +kernel, by decide +kernel, by decide +kernel, by decide +kernel, by decide +kernel, rfl⟩⟩
  · exact ⟨.host, by decide⟩

theorem test_hyps_PowerIsSampled :
    (∃ (s : State) (t : Telemetry) (win : List Nat) (q : Nat) (q' : Nat) (thr : Int), win = (t.inputMw :: s.dev.power.samples).take 10 ∧ q = s.dev.fld PWR.THROTTLE 7 0 ∧ thr = 8 * (s.dev.fld PWR.DIETHR 7 0 : Int) ∧ q' = nextQ q (win.foldl (· + ·) 0) win.length (s.dev.fld PWR.LIMIT 11 0) (t.dies.any (fun x => decide (thr ≤ x))) (t.dies.all (fun x => decide (x < thr - 16))) ∧ s.dev.module.conv = false) ∧
    (∃ (s : State) (t : Telemetry) (win : List Nat) (q : Nat) (q' : Nat) (thr : Int), win = (t.inputMw :: s.dev.power.samples).take 10 ∧ q = s.dev.fld PWR.THROTTLE 7 0 ∧ thr = 8 * (s.dev.fld PWR.DIETHR 7 0 : Int) ∧ q' = nextQ q (win.foldl (· + ·) 0) win.length (s.dev.fld PWR.LIMIT 11 0) (t.dies.any (fun x => decide (thr ≤ x))) (t.dies.all (fun x => decide (x < thr - 16))) ∧ s.dev.module.conv = true) := by
  refine ⟨?_, ?_⟩
  · exact ⟨tS Dev.reset, tTel, _, _, _, _, ⟨rfl, rfl, rfl, rfl, rfl⟩⟩
  · exact ⟨tS { Dev.reset with module := { ModuleSt.reset with conv := true } }, tTel, _, _, _, _, ⟨rfl, rfl, rfl, rfl, rfl⟩⟩

theorem test_hyps_FloatGroupsMatch :
    (∃ (s : State) (q : QDesc) (rest : List QDesc) (g : List Byte), s.dev.issuing = true ∧ s.dev.stag.queue = q :: rest ∧ opcodeOf q.bytes = 2 ∧ sgFmt q.bytes = 1 ∧ s.dev.grpInside (sgGroup q.bytes) = true ∧ g = s.dev.grpTable (sgGroup q.bytes) ∧ (grpNsrc g ≠ grpNown g ∨ ∃ i, i < grpNsrc g ∧ (grpSrcdev g).getD i 0 ≠ (grpOwners g).getD i 0)) := by
  exact ⟨tS (tStag [tReduce [(2, 1, 1)]] [(0xC000, 2#8), (0xC004, 1#8)]), tQ (tReduce [(2, 1, 1)]), [], _, ⟨by decide, rfl, by decide +kernel, by decide +kernel, by decide +kernel, rfl, .inl (by decide +kernel)⟩⟩

theorem test_hyps_PreloadKeepsNothing :
    (∃ (s : State) (c : Instr) (q : QDesc) (b : List Byte), s.dev.issuing = true ∧ ((c = .matmul ∧ s.dev.massifHead 1 = some q ∧ b = q.bytes) ∨ (c = .flankmm ∧ s.dev.massifHead 2 = some q ∧ (b = half q.bytes 0 ∨ (b = half q.bytes 1 ∧ s.dev.mmCheck q.bytes 0 = none)))) ∧ mStart b = 1 ∧ mKeep b = true) := by
  exact ⟨tS (tMsf (tMatmul 0 [(2, 1, 0x0A)])), .matmul, tQ (tMatmul 0 [(2, 1, 0x0A)]), tMatmul 0 [(2, 1, 0x0A)], ⟨by decide, .inl ⟨rfl, by decide +kernel, rfl⟩, by decide +kernel, by decide +kernel⟩⟩

theorem test_hyps_StepKeepsCanonical : ∃ s t : State, s.dev.Canonical ∧ step s = .next t :=
  ⟨⟨[.pwrenRise], Dev.reset⟩, _, ⟨by decide +kernel, by decide +kernel⟩, rfl⟩

theorem test_hyps_EnginesWriteInWindows : ∃ (c : Instr) (s t : State) (a : Nat), engineCommand c = true ∧ exec c s = .next t ∧
    s.dev.Outside a ∧ a / 256 ∉ s.dev.mem.pinUE := by
  refine ⟨.copyComplete, tS { tRun 0 with mem := { MemSt.reset with copyRun := some (tQ (tCopy 0x10000 64)) } }, _, 0xFFFF, rfl, rfl, ?_, by decide⟩
  intro i h
  rw [show (tS { tRun 0 with mem := { MemSt.reset with copyRun := some (tQ (tCopy 0x10000 64)) } }).dev.curImage = some (tImage 0) from rfl] at h
  cases h
  decide +kernel

/-- An MX block's product, both under scale bytes. -/
def tMx (a sa b sb : Nat) : Option (FVal × FVal) := some (scaled (decodeElem 8 a) sa, scaled (decodeElem 8 b) sb)
def t8 (fmt a b : Nat) : Option (FVal × FVal) := some (decodeElem fmt a, decodeElem fmt b)
/-- Sources 38 (STK[0], PRIO 20), 100 (WVL[6], PRIO 40) and 62 (STG[0], PRIO 10) of the worked nesting, as they stand pending. -/
def tNest (src : List (Nat × IrqState)) : State :=
  tS { ((Dev.reset.setNum (FFY.SRCCFG 38) 0x0114).setNum (FFY.SRCCFG 100) 0x0128).setNum (FFY.SRCCFG 62) 0x010A with
    firefly := { FireflySt.reset with src := src } }
def tTwo : State := tNest [(38, .pending), (62, .pending), (100, .pending)]
def tClaimed (s : State) : State := match execClaim (.cp 1) 1 s with | .next t => t | _ => s

/-! ### The worked examples of the spec -/

/-- 05, "A mixed-scale MXFP4 group": 2^24 and a group of 45 fold to 0x4B80_0016. -/
theorem test_fold_mxfp4 : enc32 (foldElem 64 grid32 false
    ([tMx 7 0x81 5 0x7F, tMx 0xB 0x81 6 0x7F, tMx 3 0x81 9 0x7F] ++ List.replicate 61 (tMx 0 0x81 0 0x7F)) (val32 0x4B800000)).1 =
      0x4B800016 := by decide +kernel

/-- 05, "Bits lost below the window": the two groups leave -2^-9. -/
theorem test_fold_below_window : enc32 (foldElem 32 grid32 false
    ([t8 2 0xFE 0x7E] ++ List.replicate 31 (t8 2 0 0) ++ [t8 2 0x7E 0x7E, t8 2 0x81 0x30, t8 2 0x01 0x30] ++ List.replicate 29 (t8 2 0 0))
      (.zero false)).1 = 0xBB000000 := by decide +kernel

/-- 05, "Special values in one group": infinities of both signs give NaN. -/
theorem test_fold_infinities : enc32 (foldElem 32 grid32 false [t8 3 0x7C 0x3C, t8 3 0xFC 0x3C] (val32 0x3F800000)).1 = 0x7FC00000 := by
  decide +kernel

/-- 05, the last row of the same table: 28 products of 57,344 squared do not move MAXFLOAT32, and no flag is set. -/
theorem test_fold_max : foldElem 32 grid32 false (List.replicate 28 (t8 3 0x7B 0x7B)) (val32 0x7F7FFFFF) = (val32 0x7F7FFFFF, false) := by
  decide +kernel

/-- 05: two band partials of MAXFLOAT32 saturate and set OVF. -/
theorem test_band_sum_saturates : (fun r : FVal × Bool => (enc32 r.1, r.2)) (fAdd grid32 (val32 0x7F7FFFFF) (val32 0x7F7FFFFF)) =
    (0x7F7FFFFF, true) := by decide +kernel

/-- 05 R118: 464 rounds to 448 in E4M3; 465 overflows. -/
theorem test_convert_e4m3 : (convertTo 2 (.ofInt 464 0) false, convertTo 2 (.ofInt 465 0) true) = ((0x7E, false), (0x7E, true)) := by
  decide +kernel

/-- 05 R119: a block of MXFP8-E4M3 whose largest magnitude is 300. -/
theorem test_convert_mx : convertMx 4 ([.ofInt 300 0, .ofInt 5 (-9)] ++ List.replicate 30 (.zero false)) =
    (0x7F, [0x79, 5] ++ List.replicate 30 0, false) := by decide +kernel

/-- 04, "Worked placement": a[3,000][7,777] stands in cell (29, 40), slot 1, row 97 of the chunk; a cell's regions. -/
theorem test_place_a : ((⟨regionOf 0, 4096, 43008, 10752, 192, 1⟩ : Geo).placeA 93 7777,
    (⟨regionOf 0, 4096, 43008, 10752, 192, 1⟩ : Geo).aBytes 2, (⟨regionOf 0, 4096, 43008, 10752, 192, 1⟩ : Geo).bBytes 2) =
    ((64 * 29 + 40, 1, 97), 12288, 129024) := by decide +kernel

/-- 04 R74: with b = 6, logical cells (10, 45) and (10, 46) stand at positions 5 and 7 of their cluster row. -/
theorem test_positions : (Dev.positionOf { Dev.reset with ascent := { AscentSt.reset with bypass := [(85, 6)] } } 10 45,
    Dev.positionOf { Dev.reset with ascent := { AscentSt.reset with bypass := [(85, 6)] } } 10 46, physIndex 85 7) =
    (5, 7, 72 * 10 + 52) := by decide +kernel

/-- 02 R45: PROGRESS at 100,000 of 236,033. -/
theorem test_progress : progressOf 100000 236033 = 4236 := by decide

/-- 02 R36: STG[7].STATUS lies at 0x0008_700C. -/
theorem test_address : oStatus (STG.page 7) = 0x8700C := by decide

/-- 06, the encoding example of FMA: its fields. -/
theorem test_fma_fields : (iOp 0x00005001CF7C6304, iD 0x00005001CF7C6304, iA 0x00005001CF7C6304, iB 0x00005001CF7C6304,
    iC 0x00005001CF7C6304) = (4, 3, 3, 31, 30) ∧ (iAmode 0x00005001CF7C6304, iBmode 0x00005001CF7C6304, iBidx 0x00005001CF7C6304,
    iCmode 0x00005001CF7C6304, iCidx 0x00005001CF7C6304, illegalWord 0x00005001CF7C6304) = (0, 3, 0, 1, 5, false) := by decide

/-- 11, "Worked EXACT sum": the word, the three integers, the value. -/
theorem test_exact_sum : (expWord [.ofInt 3 0, .zero false], exactSource (.ofInt 3 0) 257, exactSource (.ofInt (-5) (-5)) 257,
    exactSource (.ofInt 3 (-29)) 257) = (257, 805306368, -41943040, 2) ∧
    (enc32 (exactOwner 763363330 257).1, enc32 (exactOwner 0 0).1, enc32 (exactOwner 7 0x7FFFFFFF).1) = (0x40360000, 0, 0x7FC00000) := by
  decide +kernel

/-- 17, "Worked nesting": of STK[0] (PRIO 20), WVL[6] (40) and STG[0] (10) CP[1] claims 100; nothing of a lower PRIO is claimed while it
is in service. -/
theorem test_nesting : ((tClaimed tTwo).dev.irqState 100, (tClaimed tTwo).dev.irqState 38, (tClaimed (tClaimed tTwo)).dev.irqState 38) =
    (.active, .pending, .pending) := by decide +kernel

/-- 04 R95: a write of 100, then signals of 3 and 1: the object reads 104. -/
theorem test_sync_object : (((Dev.reset.setNum (SYN.OBJ 7) 100).signal 7 3).signal 7 1).obj 7 = 104 := by decide +kernel

/-- The table gives no row bits: no word spells a command, and nothing is put at the front of the queue. -/
theorem test_no_word : decodeTableWord 32 0 = none ∧ State.reset.withFetchWord 32 0 = State.reset := ⟨rfl, rfl⟩

/-! ### Ill-formed commands are refused by `Instr.wf` -/

theorem test_wf_vf : Instr.wf (.vfFlr 0) = false := by decide
theorem test_wf_vfeoi : Instr.wf (.vfeoi 0 5#32) = false := by decide
theorem test_wf_arrived : Instr.wf (.swarmPassEnd [(4608, 0#64)]) = false := by decide
theorem test_wf_arrived_unicast : Instr.wf (.unicastRepairEnd [(4608, 0#64)]) = false := by decide
theorem test_wf_slots : (Instr.wf (.ctrlReset .host 0x4000 false false), Instr.wf (.ctrlEnable .host 0x4000 true),
    Instr.wf (.ctrlAbort .host 0x4000 false), Instr.wf (.resetRelease (.page 0x4000))) = (false, false, false, false) := by decide
theorem test_wf_addresses : (Instr.wf (.registerWrite .host 0x4000000 .b4 0#64), Instr.wf (.lowHalfRead (.vf 15) 0x100000),
    Instr.wf (.readClear (.vf 0) 0 .b4)) = (false, false, false) := by decide
theorem test_wf_bar2 : (Instr.wf (.bar2Read 0 0 0), Instr.wf (.bar2Write 0 (2 ^ 36) [1#8])) = (false, false) := by decide
theorem test_wf_msix : (Instr.wf (.msixTableWrite 0 2048 0 0#32), Instr.wf (.msixTableWrite 15 64 0 0#32)) = (false, false) := by decide
theorem test_wf_fetch : (Instr.wf (.ringFetchReturn 0 (.fetched 0 0 (List.replicate 65 (List.replicate 64 0#8)))),
    Instr.wf (.ringFetchReturn 0 (.fetched 0 0 [[]]))) = (false, false) := by decide
theorem test_wf_margin : Instr.wf (.marginDone 11 (List.replicate 2049 0#32)) = false := by decide
theorem test_wf_traffic : Instr.wf (.tgDone 11 [] []) = false := by decide
theorem test_wf_flit : Instr.wf (.flitData 23 ⟨0#12, 0#12, false, 0#5⟩ true []) = false := by decide
theorem test_wf_payload : (Instr.wf (.rread none (tTxn 2#8 1#8 1#32 0#64 0#64)), Instr.wf (.beatmark 23 (tTxn 6#8 1#8 1#32 0#64 0#64)),
    Instr.wf (.cpl none (tTxn 5#8 9#8 0#32 0#64 0#64 (List.replicate 288 0#8)))) = (false, false, false) := by decide
theorem test_wf_telemetry : Instr.wf (.powerSample ⟨0, 0, 0, [], [0, 0, 0]⟩) = false := by decide
theorem test_wf_clocks : Instr.wf (.fcGateEnd []) = false := by decide
theorem test_wf_temperature : (Instr.wf (.stackTempReading 11 32768), Instr.wf (.stackTempReading 11 (-32769)), Instr.wf (.stackTempReading 11 (-32768))) =
    (false, false, true) := by decide

end Sys2Proof.Tests
end

section
/-!
R123: a product that would preload its tiles and keep them fails check 1 of R85. The first group of lemmas says what the
checks of R85 answer for a half that fails check 1; the second what a command does with a head that fails a check; the third
how the beat fails.
-/
namespace Sys2Proof.Machine

/-! ### A half that fails check 1 of R85 -/

/-- R123: check 1 refuses START = preload with KEEP = 1. -/
theorem mmBad1_of_preload_keep {b : List Byte} (hs : mStart b = 1) (hk : mKeep b = true) (ra : Nat) : mmBad1 b ra = true := by
  simp [mmBad1, hs, hk]

theorem firstFail_cons_of_true {x : Bool} (h : x = true) (c : Nat) (l : List (Bool × Nat)) : firstFail ((x, c) :: l) = some c := by
  rw [firstFail, if_pos h]

theorem mmCheck14_of_mmBad1 {b : List Byte} {g : Geo} (h : mmBad1 b g.reg.ra = true) : mmCheck14 b g = some 0x10 :=
  firstFail_cons_of_true h _ _

theorem Dev.mmCheck_of_mmCheck14 (d : Dev) {bs : List Byte} {f c : Nat}
    (h : mmCheck14 (if isFlank bs then half bs f else bs) (geoOf bs f) = some c) : d.mmCheck bs f = some c := by
  unfold Dev.mmCheck
  dsimp only
  rw [h]

/-- R123 for the half of a descriptor that flank `f` names. -/
theorem Dev.mmCheck_of_preload_keep (d : Dev) {bs b : List Byte} {f : Nat} (hb : (if isFlank bs then half bs f else bs) = b)
    (hs : mStart b = 1) (hk : mKeep b = true) : d.mmCheck bs f = some 0x10 := by
  subst hb
  exact d.mmCheck_of_mmCheck14 (mmCheck14_of_mmBad1 (mmBad1_of_preload_keep hs hk _))

theorem Dev.flankCheck_of_west (d : Dev) {bs : List Byte} (h : d.mmCheck bs 0 = some 0x10) : d.flankCheck bs = some 0x10 := by
  simp [Dev.flankCheck, h]

/-- R91: where the west half passes R85, its own conditions and those of the east half fail with BAD_DESCRIPTOR too, so the
failing east half's code stands. -/
theorem Dev.flankCheck_of_east (d : Dev) {bs : List Byte} (hw : d.mmCheck bs 0 = none) (h : d.mmCheck bs 1 = some 0x10) :
    d.flankCheck bs = some 0x10 := by
  simp [Dev.flankCheck, hw, h]

/-- BAD_DESCRIPTOR stands before a sync object that is not granted. -/
theorem Dev.headCode_badDescriptor (d : Dev) (bs : List Byte) : d.headCode bs (some 0x10) = some 0x10 := by
  simp [Dev.headCode]

/-! ### The head of the Massif's queue -/

theorem Dev.massifHead_eq_some {d : Dev} {op : Nat} {q : QDesc} (h : d.massifHead op = some q) :
    d.massif.op = none ∧ opcodeOf q.bytes = op := by
  unfold Dev.massifHead at h
  split at h
  · cases h
  next hop =>
    split at h
    · obtain ⟨⟨-, hc⟩, hq⟩ := Option.ite_none_right_eq_some.mp h
      cases hq
      exact ⟨by simpa using hop, hc⟩
    · cases h

theorem isFlank_of_massifHead {d : Dev} {op : Nat} {q : QDesc} (h : d.massifHead op = some q) :
    isFlank q.bytes = (op == 2) := by
  rw [isFlank, (Dev.massifHead_eq_some h).2]

theorem Dev.matmul_of_headCode {d : Dev} {q : QDesc} {c : Nat} (hi : d.issuing = true) (hq : d.massifHead 1 = some q)
    (hc : d.headCode q.bytes (d.mmCheck q.bytes 0) = some c) : d.matmul = d.massifFail q c 0 := by
  simp [Dev.matmul, hi, hq, hc]

theorem Dev.flankmm_of_headCode {d : Dev} {q : QDesc} {c : Nat} (hi : d.issuing = true) (hq : d.massifHead 2 = some q)
    (hc : d.headCode q.bytes (d.flankCheck q.bytes) = some c) : d.flankmm = d.massifFail q c 0 := by
  simp [Dev.flankmm, hi, hq, hc]

/-! ### How the beat fails -/

/-- What `FailedWith` says of the device before speaks of its beat alone. -/
theorem Dev.FailedWith.of_cricket_eq {d d' e : Dev} {code blk addr : Nat} (hc : d'.cricket = d.cricket)
    (h : d'.FailedWith e code blk addr) : d.FailedWith e code blk addr := by
  rwa [Dev.FailedWith, hc] at h

theorem Dev.issuing_congr {d d' : Dev} (hc : d'.cricket = d.cricket) : d'.issuing = d.issuing := by
  simp only [Dev.issuing, hc]

theorem Dev.beatFail_failedWith {d : Dev} (hi : d.issuing = true) (code blk addr : Nat) :
    d.FailedWith (d.beatFail code blk addr) code blk addr := by
  intro b hb hcode
  simp only [Dev.issuing, hb, Bool.and_eq_true, Option.isSome_iff_exists] at hi
  obtain ⟨hrun, ⟨⟨i, himg⟩, -⟩, -⟩ := hi
  exact ⟨{ b with code := some code, faultBlock := blk, faultAddr := addr },
    by simp [Dev.beatFail, hb, himg, Dev.beatOpen, hrun, hcode], rfl, rfl, rfl⟩

/-- Noting that the program has come to its end leaves the beat's failure as it stands. -/
theorem Dev.FailedWith.noteDone {d e : Dev} {code blk addr : Nat} (h : d.FailedWith e code blk addr) :
    d.FailedWith e.noteDone code blk addr := by
  intro b hb hcode
  obtain ⟨b', hb', hfail⟩ := h b hb hcode
  simp only [Dev.noteDone, hb']
  split
  · exact ⟨_, rfl, hfail⟩
  · exact ⟨b', hb', hfail⟩

/-- A descriptor that fails its checks leaves the queue, its partitions' registers show the failure, and the beat fails. -/
theorem Dev.massifFail_eq_beatFail (d : Dev) (q : QDesc) (code addr : Nat) :
    ∃ e p, d.massifPop.KeepsBut [.regs] e ∧ d.massifFail q code addr = e.beatFail code (blockName .msf p) addr := by
  refine ⟨_, _, Dev.KeepsBut.foldl (fun d p => ?_) (Dev.KeepsBut.refl _ _), rfl⟩
  exact ((Dev.err_keeps _ _ _).trans (Dev.setNum_keeps _ _ _)).trans (Dev.lastCode_keeps _ _ _)

theorem Dev.massifFail_massif (d : Dev) (q : QDesc) (code addr : Nat) :
    (d.massifFail q code addr).massif = d.massifPop.massif := by
  obtain ⟨e, p, he, heq⟩ := d.massifFail_eq_beatFail q code addr
  rw [heq]
  exact (Dev.beatFail_keeps e _ _ _ .massif rfl).trans (he .massif rfl)

theorem Dev.massifFail_failedWith {d : Dev} (hi : d.issuing = true) (q : QDesc) (code addr : Nat) :
    ∃ p, d.FailedWith (d.massifFail q code addr) code (blockName .msf p) addr := by
  obtain ⟨e, p, he, heq⟩ := d.massifFail_eq_beatFail q code addr
  have hc : e.cricket = d.cricket := he .cricket rfl
  rw [heq]
  exact ⟨p, (Dev.beatFail_failedWith (by rwa [Dev.issuing_congr hc]) _ _ _).of_cricket_eq hc⟩

/-- What the Massif and the beat look like after a command whose head has failed its checks. -/
theorem onBeat_massifFail {f : Dev → Dev} {s : State} {q : QDesc} {op code addr : Nat} (hi : s.dev.issuing = true)
    (hq : s.dev.massifHead op = some q) (hf : f s.dev = s.dev.massifFail q code addr) :
    ∃ d, onBeat f s = .next ⟨s.pending, d⟩ ∧ d.massif.queue = s.dev.massif.queue.drop 1 ∧ d.massif.op = none ∧
      d.massif.banks = s.dev.massif.banks ∧ (∃ p, s.dev.FailedWith d code (blockName .msf p) addr) := by
  have hm : (s.dev.massifFail q code addr).noteDone.massif = s.dev.massifPop.massif :=
    (Dev.noteDone_keeps _ .massif rfl).trans (s.dev.massifFail_massif q code addr)
  obtain ⟨p, hp⟩ := Dev.massifFail_failedWith hi q code addr
  refine ⟨(s.dev.massifFail q code addr).noteDone, by rw [← hf]; rfl, ?_, ?_, ?_, p, hp.noteDone⟩ <;> rw [hm]
  · rfl
  · exact (Dev.massifHead_eq_some hq).1
  · rfl

/-- Settles O55: the judged half fails check 1 of R85, so the command's check answers 0x10 and the head fails. -/
theorem preloadKeepsNothing : Obligations.PreloadKeepsNothing := by
  intro s c q b hi hc hs hk
  rcases hc with ⟨rfl, hq, rfl⟩ | ⟨rfl, hq, hb⟩
  · have hbad : s.dev.mmCheck q.bytes 0 = some 0x10 :=
      s.dev.mmCheck_of_preload_keep (by simp [isFlank_of_massifHead hq]) hs hk
    exact onBeat_massifFail hi hq (Dev.matmul_of_headCode hi hq (by rw [hbad, Dev.headCode_badDescriptor]))
  · have hflank : isFlank q.bytes = true := isFlank_of_massifHead hq
    have hbad : s.dev.flankCheck q.bytes = some 0x10 := by
      rcases hb with rfl | ⟨rfl, hwest⟩
      · exact s.dev.flankCheck_of_west (s.dev.mmCheck_of_preload_keep (by simp [hflank]) hs hk)
      · exact s.dev.flankCheck_of_east hwest (s.dev.mmCheck_of_preload_keep (by simp [hflank]) hs hk)
    exact onBeat_massifFail hi hq (Dev.flankmm_of_headCode hi hq (by rw [hbad, Dev.headCode_badDescriptor]))

end Sys2Proof.Machine
end

section
/-!
R229: a REDUCE in FLOAT format whose sources are not its owners fails its checks. The first group of lemmas says what a valid
group of the FLOAT format is and what check 1 of R240 answers for another; the second what a REDUCE that fails its checks does
to the Stag and to the beat.
-/
namespace Sys2Proof.Machine

/-! ### A FLOAT group that check 1 of R240 refuses -/

/-- The format bit of a descriptor selects R229's rule in the validity of its group. -/
theorem bit_format_of_sgFmt {b : List Byte} (h : sgFmt b = 1) : bit (byteAt b 2) 0 = true := by
  simpa [sgFmt, field, bit, Nat.testBit_zero] using h

/-- R229: a valid group of the FLOAT format has one source for each owner, on the same device. -/
theorem grpOk_float_sources {g : List Byte} {rank : Nat} (h : grpOk g rank true = true) :
    grpNsrc g = grpNown g ∧ grpSrcdev g = grpOwners g := by
  unfold grpOk at h
  dsimp only at h
  split at h
  · cases h
  · obtain ⟨-, hfloat⟩ := Bool.and_eq_true_iff.mp h
    simpa using hfloat

theorem Dev.grpValid_float_eq_false {d : Dev} {b g : List Byte} (hf : sgFmt b = 1) (hg : g = d.grpTable (sgGroup b))
    (hbad : grpNsrc g ≠ grpNown g ∨ ∃ i, i < grpNsrc g ∧ (grpSrcdev g).getD i 0 ≠ (grpOwners g).getD i 0) :
    d.grpValid b = false := by
  subst hg
  refine Bool.eq_false_iff.mpr fun hvalid => ?_
  obtain ⟨-, hok⟩ := Bool.and_eq_true_iff.mp hvalid
  rw [bit_format_of_sgFmt hf] at hok
  obtain ⟨hn, hsrc⟩ := grpOk_float_sources hok
  rcases hbad with hcount | ⟨i, -, hi⟩
  · exact hcount hn
  · exact hi (congrArg (·.getD i 0) hsrc)

/-- R240, check 1: a group table that lies within the region and is not valid. -/
theorem Dev.redCheck_of_invalid_group {d : Dev} {b : List Byte} (hin : d.grpInside (sgGroup b) = true)
    (hv : d.grpValid b = false) : d.redCheck b = some 0x10 :=
  firstFail_cons_of_true (by simp [hin, hv]) _ _

/-! ### A REDUCE that fails its checks -/

/-- The code of a REDUCE at the head of the queue: its checks (R240) and the grants of every object it names (R366). -/
def Dev.reduceCode (d : Dev) (b : List Byte) : Option Nat :=
  d.headCode b (if d.stagGrants b then d.redCheck b else some (min 0x19 ((d.redCheck b).getD 0x19)))

/-- BAD_DESCRIPTOR stands before ESYNC or DSYNC that is not granted, and before a WAIT or SIGNAL that is not. -/
theorem Dev.reduceCode_of_badDescriptor {d : Dev} {b : List Byte} (h : d.redCheck b = some 0x10) :
    d.reduceCode b = some 0x10 := by
  have hown : (if d.stagGrants b then d.redCheck b else some (min 0x19 ((d.redCheck b).getD 0x19))) = some 0x10 := by
    simp [h]
  rw [Dev.reduceCode, hown, Dev.headCode_badDescriptor]

/-- The head leaves the queue, the twelve units show the code, and the beat fails. -/
theorem Dev.stagReduce_of_reduceCode {d : Dev} {q : QDesc} {rest : List QDesc} {c : Nat} (hi : d.issuing = true)
    (hq : d.stag.queue = q :: rest) (hop : opcodeOf q.bytes = 2) (hc : d.reduceCode q.bytes = some c) :
    d.stagReduce = ((d.popStag rest).stagCode c).beatFail c (blockName .stg 0) 0 := by
  unfold Dev.reduceCode at hc
  simp [Dev.stagReduce, hi, hq, hop, hc]

/-- Before the beat fails only the Stag and its units' registers have changed. -/
theorem Dev.popStag_stagCode_keeps (d : Dev) (rest : List QDesc) (code : Nat) :
    d.KeepsBut [.regs, .stag] ((d.popStag rest).stagCode code) :=
  Dev.KeepsBut.then (Dev.stagCode_keeps _ code) (by decide) ((d.popStag_keeps rest).mono (by decide))

theorem Dev.stagFail_stag (d : Dev) (rest : List QDesc) (code blk addr : Nat) :
    (((d.popStag rest).stagCode code).beatFail code blk addr).stag = { d.stag with queue := rest } :=
  (Dev.beatFail_keeps _ _ _ _ .stag rfl).trans (Dev.stagCode_keeps (d.popStag rest) code .stag rfl)

theorem Dev.stagFail_failedWith {d : Dev} (hi : d.issuing = true) (rest : List QDesc) (code blk addr : Nat) :
    d.FailedWith (((d.popStag rest).stagCode code).beatFail code blk addr) code blk addr := by
  have hc : ((d.popStag rest).stagCode code).cricket = d.cricket := d.popStag_stagCode_keeps rest code .cricket rfl
  exact (Dev.beatFail_failedWith (by rwa [Dev.issuing_congr hc]) _ _ _).of_cricket_eq hc

/-- What the Stag and the beat look like after a REDUCE that has failed its checks: its slot's ARM and the descriptors in
progress stand. -/
theorem execReduce_of_reduceCode {s : State} {q : QDesc} {rest : List QDesc} {c : Nat} (hi : s.dev.issuing = true)
    (hq : s.dev.stag.queue = q :: rest) (hop : opcodeOf q.bytes = 2) (hc : s.dev.reduceCode q.bytes = some c) :
    ∃ d, exec .reduce s = .next ⟨s.pending, d⟩ ∧ d.stag = { s.dev.stag with queue := rest } ∧
      s.dev.FailedWith d c (blockName .stg 0) 0 := by
  have hexec : exec .reduce s = .next ⟨s.pending, s.dev.stagReduce.noteDone⟩ := rfl
  rw [Dev.stagReduce_of_reduceCode hi hq hop hc] at hexec
  exact ⟨_, hexec, (Dev.noteDone_keeps _ .stag rfl).trans (s.dev.stagFail_stag rest _ _ _),
    (Dev.stagFail_failedWith hi rest _ _ _).noteDone⟩

/-- Settles O54: the group is not valid under R229, so check 1 of R240 answers 0x10 and the head of the queue fails. -/
theorem floatGroupsMatch : Obligations.FloatGroupsMatch := by
  intro s q rest g hi hq hop hf hin hg hbad
  have hcode : s.dev.reduceCode q.bytes = some 0x10 :=
    Dev.reduceCode_of_badDescriptor (Dev.redCheck_of_invalid_group hin (Dev.grpValid_float_eq_false hf hg hbad))
  obtain ⟨d, hexec, hstag, hfail⟩ := execReduce_of_reduceCode hi hq hop hcode
  exact ⟨d, hexec, by rw [hstag], by rw [hstag], hfail⟩

end Sys2Proof.Machine
end

section
/-!
R355, R356: a claim. The first group of lemmas says which source the search of a claim finds; the second what entering a source on
a target's stack does; the third what a claim does that finds none.
-/
namespace Sys2Proof.Machine

/-! ### The source that a claim takes -/

/-- The eligibility of R355, condition by condition. -/
theorem Dev.eligible_iff (d : Dev) (c n : Nat) : d.eligible c n = true ↔
    d.irqState n = .pending ∧ d.target n = c ∧ d.runPrio c < d.prio n ∧ (d.irqStack c).length < 16 := by
  simp [Dev.eligible, and_assoc]

/-- Source `n` goes before source `m`, or is `m`: a higher PRIO, or the same PRIO and no higher number (R356). -/
def Dev.GoesFirst (d : Dev) (n m : Nat) : Prop := d.prio m < d.prio n ∨ (d.prio m = d.prio n ∧ n ≤ m)

/-- The better of the best source so far and source `n`. -/
def Dev.better (d : Dev) (best : Option Nat) (n : Nat) : Option Nat :=
  match best with
  | none => some n
  | some b => if d.prio b < d.prio n ∨ (d.prio b = d.prio n ∧ n < b) then some n else some b

/-- The listed sources that are eligible for target `c`. -/
def Dev.eligibleSources (d : Dev) (c : Nat) : List Nat := (d.firefly.src.map (fun p => p.1)).filter (d.eligible c)

theorem Dev.choose_eq_foldl (d : Dev) (c : Nat) : d.choose c = (d.eligibleSources c).foldl d.better none := rfl

theorem Dev.better_eq_or (d : Dev) (best : Option Nat) (m : Nat) : d.better best m = best ∨ d.better best m = some m := by
  cases best with
  | none => exact .inr rfl
  | some b =>
    unfold Dev.better
    dsimp only
    split
    · exact .inr rfl
    · exact .inl rfl

theorem Dev.better_some_of_goesFirst {d : Dev} {n m : Nat} (h : d.GoesFirst n m) : d.better (some n) m = some n := by
  unfold Dev.GoesFirst at h
  exact if_neg (by omega)

theorem Dev.better_eq_some_of_goesFirst {d : Dev} {n : Nat} {best : Option Nat} (h : ∀ b ∈ best, d.GoesFirst n b) :
    d.better best n = some n := by
  cases best with
  | none => rfl
  | some b =>
    have hb : d.GoesFirst n b := h b rfl
    by_cases hn : n = b
    · subst hn
      exact Dev.better_some_of_goesFirst hb
    · unfold Dev.GoesFirst at hb
      exact if_pos (by omega)

theorem Dev.foldl_better_some {d : Dev} {n : Nat} {l : List Nat} (h : ∀ m ∈ l, d.GoesFirst n m) :
    l.foldl d.better (some n) = some n := by
  induction l with
  | nil => rfl
  | cons m l ih =>
    rw [List.foldl_cons, Dev.better_some_of_goesFirst (h m List.mem_cons_self)]
    exact ih fun k hk => h k (List.mem_cons_of_mem m hk)

/-- The search finds the listed source that goes before every other, wherever in the list it stands. -/
theorem Dev.foldl_better_of_mem {d : Dev} {n : Nat} {l : List Nat} {best : Option Nat} (hn : n ∈ l)
    (hl : ∀ m ∈ l, d.GoesFirst n m) (hb : ∀ b ∈ best, d.GoesFirst n b) : l.foldl d.better best = some n := by
  induction l generalizing best with
  | nil => cases hn
  | cons m l ih =>
    have htail : ∀ k ∈ l, d.GoesFirst n k := fun k hk => hl k (List.mem_cons_of_mem m hk)
    rw [List.foldl_cons]
    rcases List.mem_cons.mp hn with rfl | hmem
    · rw [Dev.better_eq_some_of_goesFirst hb]
      exact Dev.foldl_better_some htail
    · refine ih hmem htail fun b hbest => ?_
      rcases d.better_eq_or best m with heq | heq <;> rw [heq] at hbest
      · exact hb b hbest
      · cases hbest
        exact hl m List.mem_cons_self

/-- A key that reads as something else than an unlisted one is listed. -/
theorem SMap.mem_keys_of_get_ne {α : Type} {f : Nat → α} {m : SMap α} {k : Nat} (h : m.get f k ≠ f k) :
    k ∈ m.map (fun p => p.1) := by
  by_contra hk
  exact h (SMap.get_of_notMem fun p hp hpk => hk (hpk ▸ List.mem_map_of_mem hp))

/-- A source that is not listed is IDLE, so every eligible source is among them. -/
theorem Dev.mem_eligibleSources_iff {d : Dev} {c n : Nat} : n ∈ d.eligibleSources c ↔ d.eligible c n = true := by
  refine ⟨fun h => (List.mem_filter.mp h).2, fun h => List.mem_filter.mpr ⟨?_, h⟩⟩
  obtain ⟨hpending, -⟩ := (d.eligible_iff c n).mp h
  refine SMap.mem_keys_of_get_ne (f := irq0) fun hidle => ?_
  rw [show d.irqState n = .idle from hidle] at hpending
  cases hpending

theorem Dev.choose_eq_some {d : Dev} {c n : Nat} (hn : d.eligible c n = true)
    (hfirst : ∀ m, d.eligible c m = true → d.GoesFirst n m) : d.choose c = some n := by
  rw [Dev.choose_eq_foldl]
  exact Dev.foldl_better_of_mem (Dev.mem_eligibleSources_iff.mpr hn) (fun m hm => hfirst m (Dev.mem_eligibleSources_iff.mp hm)) nofun

theorem Dev.choose_eq_none {d : Dev} {c : Nat} (h : ∀ m, d.eligible c m = false) : d.choose c = none := by
  have hnil : d.eligibleSources c = [] := List.filter_eq_nil_iff.mpr fun m _ => by simp [h m]
  rw [Dev.choose_eq_foldl, hnil]
  rfl

/-! ### What a read command brings, and what it leaves -/

@[simp] theorem Dev.readData_returns (d : Dev) (bs : List Byte) : (d.returns bs).bus.readData = bs := rfl
@[simp] theorem Dev.num_returns (d : Dev) (bs : List Byte) (a : Nat) : (d.returns bs).num a = d.num a := rfl
@[simp] theorem Dev.irqState_returns (d : Dev) (bs : List Byte) (n : Nat) : (d.returns bs).irqState n = d.irqState n := rfl
@[simp] theorem Dev.irqStack_returns (d : Dev) (bs : List Byte) (c : Nat) : (d.returns bs).irqStack c = d.irqStack c := rfl
@[simp] theorem Dev.runPrio_returns (d : Dev) (bs : List Byte) (c : Nat) : (d.returns bs).runPrio c = d.runPrio c := rfl

/-! ### A source enters service -/

/-- Target `c` begins to serve source `n` (R356): the source is ACTIVE for `c`, the running priority and the number go on the
stack, and the running priority becomes the source's PRIO. -/
def Dev.enter (d : Dev) (c n : Nat) : Dev :=
  { d with firefly :=
    { src := d.firefly.src.set irq0 n .active
      nest := d.firefly.nest.set noStack c ((d.runPrio c, n) :: d.irqStack c)
      run := d.firefly.run.set (fun _ => none) c (some (d.prio n))
      owner := d.firefly.owner.set zeroNat n c } }

@[simp] theorem Dev.irqState_enter_same (d : Dev) (c n : Nat) : (d.enter c n).irqState n = .active :=
  SMap.get_set_eq _ _ _ _

theorem Dev.irqState_enter_ne (d : Dev) (c : Nat) {n m : Nat} (h : m ≠ n) : (d.enter c n).irqState m = d.irqState m :=
  SMap.get_set_ne _ _ _ h

@[simp] theorem Dev.irqStack_enter_same (d : Dev) (c n : Nat) :
    (d.enter c n).irqStack c = (d.runPrio c, n) :: d.irqStack c :=
  SMap.get_set_eq _ _ _ _

theorem Dev.irqStack_enter_ne (d : Dev) {c k : Nat} (n : Nat) (h : k ≠ c) : (d.enter c n).irqStack k = d.irqStack k :=
  SMap.get_set_ne _ _ _ h

theorem Dev.runPrio_of_irqStack_cons {d : Dev} {c : Nat} {e : Nat × Nat} {l : List (Nat × Nat)} (h : d.irqStack c = e :: l) :
    d.runPrio c = (d.firefly.run.get (fun _ => none) c).getD 0 := by
  simp [Dev.runPrio, h]

@[simp] theorem Dev.runPrio_enter_same (d : Dev) (c n : Nat) : (d.enter c n).runPrio c = d.prio n := by
  rw [Dev.runPrio_of_irqStack_cons (d.irqStack_enter_same c n)]
  simp [Dev.enter, SMap.get_set_eq]

theorem Dev.enter_keeps (d : Dev) (c n : Nat) : d.KeepsBut [.firefly] (d.enter c n) := by
  intro p hp
  cases p with
  | firefly => cases hp
  | _ => rfl

theorem Dev.claim_of_choose_some {d : Dev} {c n : Nat} (h : d.choose c = some n) :
    d.claim c = (d.enter c n).returns (leBytes 4 n) := by
  rw [Dev.claim, h]
  rfl

/-! ### A claim with no eligible source -/

/-- A saturating counter reads as the sum, at most 0xFFFF_FFFF. -/
@[simp] theorem Dev.num_countSat (d : Dev) (a n : Nat) : (d.countSat a n).num a = min (d.num a + n) 0xFFFFFFFF := by
  rw [Dev.countSat, Dev.num_setNum]
  exact Nat.mod_eq_of_lt (by omega)

/-- What R356 returns and counts where no source is eligible. -/
def Dev.spurious (d : Dev) : Dev := (d.countSat FFY2.SPURCNT 1).returns (leBytes 4 1023)

/-- STACKFULL marks an empty claim of a target whose stack is full. -/
theorem Dev.claim_of_choose_none {d : Dev} {c : Nat} (h : d.choose c = none) :
    d.claim c = if (d.irqStack c).length = 16 then d.spurious.err (FFY.page 2) 8 else d.spurious := by
  rw [Dev.claim, h]
  rfl

theorem Dev.num_spurious (d : Dev) : d.spurious.num FFY2.SPURCNT = min (d.num FFY2.SPURCNT + 1) 0xFFFFFFFF := by
  simp [Dev.spurious]

theorem Dev.spurious_firefly (d : Dev) : d.spurious.firefly = d.firefly :=
  d.countSat_keeps FFY2.SPURCNT 1 .firefly rfl

theorem Dev.spurious_regs (d : Dev) : d.RegsBut [FFY2.SPURCNT, oErrsum (FFY.page 2)] d.spurious :=
  (d.countSat_regs FFY2.SPURCNT 1).mono (by simp)

/-- An empty claim with the stack full differs from one with room in one bit of ERRSUM. -/
theorem Dev.claim_spurious {d : Dev} {c : Nat} (h : d.choose c = none) :
    (d.claim c).bus.readData = leBytes 4 1023 ∧ (d.claim c).firefly = d.firefly ∧
      (d.claim c).num FFY2.SPURCNT = min (d.num FFY2.SPURCNT + 1) 0xFFFFFFFF ∧
      d.RegsBut [FFY2.SPURCNT, oErrsum (FFY.page 2)] (d.claim c) := by
  rw [Dev.claim_of_choose_none h]
  split
  · have hkeeps : d.spurious.KeepsBut [.regs] (d.spurious.err (FFY.page 2) 8) := Dev.err_keeps _ _ _
    have hbus : (d.spurious.err (FFY.page 2) 8).bus = d.spurious.bus := hkeeps .bus rfl
    refine ⟨congrArg BusSt.readData hbus, (hkeeps .firefly rfl).trans d.spurious_firefly, ?_,
      Dev.RegsBut.then (Dev.err_regs _ _ _) (by simp) d.spurious_regs⟩
    rw [Dev.num_err_ne _ _ _ (by decide), d.num_spurious]
  · exact ⟨rfl, d.spurious_firefly, d.num_spurious, d.spurious_regs⟩

theorem Dev.flag_claim_stackFull {d : Dev} {c : Nat} (h : d.choose c = none) (hfull : (d.irqStack c).length = 16) :
    (d.claim c).flag (oErrsum (FFY.page 2)) 8 = true := by
  rw [Dev.claim_of_choose_none h, if_pos hfull]
  exact Dev.flag_err _ _ _

/-! ### The command -/

theorem exec_claim_of_pf {r : Requester} (hr : requesterIsPf r = true) (c : Fin 4) (s : State) :
    exec (.claim r c) s = .next ⟨s.pending, s.dev.claim c⟩ := by
  have hexec : exec (.claim r c) s = execClaim r c s := rfl
  simp [hexec, execClaim, onDev, hr]

/-- Settles O25: the search over the listed sources finds the one that goes first, and the claim enters it; with none
eligible the search finds nothing and the claim is spurious. -/
theorem claimsNest : Obligations.ClaimsNest := by
  refine ⟨Dev.eligible_iff, fun s r c n hr _ hn hfirst => ?_, fun s r c hr hnone => ?_⟩
  · have hclaim : s.dev.claim c = (s.dev.enter c n).returns (leBytes 4 n) :=
      Dev.claim_of_choose_some (Dev.choose_eq_some hn hfirst)
    have hkeeps : s.dev.KeepsBut [.bus, .firefly] (s.dev.claim c) := by
      rw [hclaim]
      exact Dev.KeepsBut.then (Dev.returns_keeps _ _) (by decide) ((s.dev.enter_keeps c n).mono (by decide))
    refine ⟨s.dev.claim c, exec_claim_of_pf hr c s, ?_, ?_, fun m hm => ?_, ?_, ?_, fun k hk => ?_, hkeeps⟩ <;> rw [hclaim]
    · simp
    · simp
    · simpa using s.dev.irqState_enter_ne c hm
    · simp
    · simp
    · simpa using s.dev.irqStack_enter_ne n hk
  · have hchoose : s.dev.choose c = none := Dev.choose_eq_none hnone
    obtain ⟨hdata, hfirefly, hcount, hregs⟩ := Dev.claim_spurious hchoose
    exact ⟨s.dev.claim c, exec_claim_of_pf hr c s, hdata, hfirefly, hcount,
      fun hfull _ => Dev.flag_claim_stackFull hchoose hfull, hregs⟩

end Sys2Proof.Machine
end
